-- ==== Sys2Proof/Word.lean ====
section
/-! DEFINITION. The word types of the UK-7800 (spec 01, 02): bytes, 32- and 64-bit words, lane masks, and the lanes of a warp. -/

namespace Sys2Proof

/-- One byte of memory (R7). -/
abbrev Byte := BitVec 8
/-- A 32-bit lane register element or latch value (R12). -/
abbrev W32 := BitVec 32
/-- A 64-bit scalar register (R12). -/
abbrev W64 := BitVec 64
/-- A mask of the 64 lanes of a warp; bit l belongs to logical lane l (R19). DESIGN CHOICE, log 98. -/
abbrev Mask := BitVec 64
/-- A virtual address as an instruction forms it (R119, R167). -/
abbrev VA := BitVec 64
/-- One value for each of the 64 lanes (`IC_WARP_WIDTH` is 64 on the part, R6). -/
abbrev Lanes (α : Type) := Vector α 64

end Sys2Proof
end

