-- ==== Sys2Proof/Config.lean ====
section
/-! DEFINITION. What the part fixes (R6), and the free values: constants without a body, of which nothing can be proved. -/

namespace Sys2Proof.Config

/-! ## Implementation constants (R6) -/

/-- `IC_WARP_WIDTH`. DESIGN CHOICE, log 98. -/
def warpWidth : Nat := 64
/-- `IC_WARP_SLOTS`. -/
def warpSlots : Nat := 16
/-- `IC_RESIDENT_VREGS`. -/
def residentVregs : Nat := 64
/-- `IC_DEQUE_ENTRIES`. -/
def dequeEntries : Nat := 512
/-- `IC_SLIP_ENTRIES`. -/
def slipEntries : Nat := 32
/-- `IC_CARREL_LINES`. -/
def carrelLines : Nat := 2048
/-- `IC_LVQ_ENTRIES`. -/
def lvqEntries : Nat := 256
/-- Words of the compare buffer of a `SHADOW` pair (R199). -/
def compareWords : Nat := 32
/-- `IC_MBX_DEPTH`. -/
def mbxDepth : Nat := 16
/-- `IC_SPLIT_DEPTH`. -/
def splitDepth : Nat := 32
/-- Size of a typed buffer (R214). -/
def bufBytes : Nat := 524288
/-- Device memory, 576 GiB (R327). -/
def deviceBytes : Nat := 618475290624
/-- Size of a weight bank (R277). -/
def bankBytes : Nat := 8388608
/-- Operations a context holds that have not completed (R342). -/
def ctxDepth : Nat := 64
/-- Translation-fault entries per partition (R337). -/
def faultEntries : Nat := 256
/-- Messages of the fault-message buffer besides the overflow record (R193). -/
def faultMessages : Nat := 1023
/-- Moves in flight in the module (R340). -/
def movesInFlight : Nat := 8
/-- Started transfers that a link direction holds (R261). -/
def linkDepth : Nat := 16
/-- Entries of the event queue that every source may fill (R396). -/
def eqShared : Nat := 1678
/-- Entries of the event queue (R395). -/
def eqEntries : Nat := 2048
/-- Tenants of the replay-protected store (R403). -/
def tenants : Nat := 65536
/-- Identity signatures that can be made (R405). -/
def identitySigs : Nat := 2 ^ 40
/-- Physical ports (R385). -/
def ports : Nat := 96
/-- Flits of the replay buffer of a port (R422), and of a module of a die link (R283). -/
def replayFlits : Nat := 256
def dieReplayFlits : Nat := 64
/-- Deferred posts of a context (R379). -/
def deferredPosts : Nat := 16

/-! ## Free values

Each is applied to the counter `fresh` of the state, or to the data it depends on. -/

/-- The core-time of a function over the last 16 slices (R384): the model has no clock. DESIGN CHOICE, logs 8, 62. -/
opaque coreTimeOf : Nat → Nat
/-- Bytes of a crew's save area besides its registers and buffers (R219, R329), in the part's own layout, for a number of warps.
DESIGN CHOICE, log 61. -/
opaque saveAreaBytes : Nat → Nat
/-- The time in `nclk` that a record carries (R193, R284, R393, R400). DESIGN CHOICE, logs 3, 8. -/
opaque nclkAt : Nat → W64
/-- The physical cluster and the link of it at the far end of a neighbour link (R258): the spec gives no topology. DESIGN CHOICE, log 47. -/
opaque linkFar : Nat → Nat → Nat × Nat
/-- The module at the far end of a port shelfmark of a group's tree (R428), and whether a physical port reaches a module (R423): the spec gives no
topology. DESIGN CHOICE, log 47. -/
opaque portModule : Nat → Nat
opaque portReaches : Nat → Nat → Bool
/-- The hash of a module and a line that spreads traffic over the ports that reach the module (R423): the spec gives none. DESIGN CHOICE, log 47. -/
opaque portHash : Nat → Nat → Nat
/-- The CRC-64 of flits (R282, R421): the spec gives no polynomial. DESIGN CHOICE, log 94. -/
opaque crc64 : List Byte → W64
/-- Receive credits that the other end of a link grants at the start, by link (R282, R421). DESIGN CHOICE, log 94. -/
opaque linkCredits : Nat → Nat
/-- The module of a die link that carries a line (R283), the line that a slot accesses, and the slots that answer a slot: the spec gives neither the
spread nor the fields of a slot's control. DESIGN CHOICE, log 95. -/
opaque dieModule : Nat → Nat → Nat
opaque slotLine : List Byte → Nat
opaque slotAnswer : List Byte → List (List Byte)
/-- GiB that the HDM decoder maps beyond the first (R417). DESIGN CHOICE, log 96. -/
opaque hdmGib : Nat
/-- The lines that a failed slice held dirty or under an atomic (R398), and those that a second channel failure of a pair loses (R399).
DESIGN CHOICE, log 71. -/
opaque dirtyLines : Nat → List Nat
opaque channelLines : Nat → List Nat
/-- The bank group of a frame, and the repair rows that a bank group is made with (R399). DESIGN CHOICE, log 71. -/
opaque bankGroup : Nat → Nat
opaque repairRows : Nat → Nat
/-- The set of a cluster data cache that a line goes to (R264): the spec does not give it. DESIGN CHOICE, log 12. -/
opaque cdcSet : Nat → Nat
/-- A fault token (R337): the spec says only that it names an entry. -/
opaque faultToken : Nat → W64
/-- The bits of a special function within the bounds of R147: function number and input. DESIGN CHOICE, logs 3, 27. -/
opaque specialBits : Nat → W32 → W32
/-- A byte of a memory key, 64 bytes long, by the key's number (R330, R402). DESIGN CHOICE, log 25. -/
opaque memoryKey : Nat → Nat → Byte
/-- The firmware image that the part comes with (R404). DESIGN CHOICE, log 88. -/
opaque firmware : List Byte
/-- The pages of the binding service, by page number, with whether they hold code or data, and their bytes (R441). DESIGN CHOICE, log 58. -/
opaque servicePages : List (Nat × Bool)
opaque serviceByte : Nat → Nat → Byte
/-- Bytes of the seeds of the identity key: for its one-time keys, for its randomiser, and its public seed, 32 bytes each; the same of the
Damcor root, with the index of its signature over the identity key (R402, R404). DESIGN CHOICE, log 88. -/
opaque identitySeed : Nat → Byte
opaque rootSeed : Nat → Byte
opaque certIndex : Nat
/-- Bytes of the seeds d and z of a transport epoch's key (R402). DESIGN CHOICE, log 88. -/
opaque transportSeed : Nat → Nat → Byte
/-- A random byte of the security block (R410). DESIGN CHOICE, log 88. -/
opaque randomByte : Nat → Nat → Byte
/-- The bytes that a host read returns of a poisoned granule (R417): the spec gives only the poison indication. DESIGN CHOICE, log 83. -/
opaque poisonedRead : Nat → Byte
/-- The detail of an uncorrectable error that the spec does not fix. DESIGN CHOICE, log 3. -/
opaque freeWord : Nat → W64

end Sys2Proof.Config
end

