-- ==== Sys2Proof/Syntax.lean ====
section
/-! DEFINITION. The syntax of the machine's steps: every row of the opcode table is one constructor of `Instr`. Scalar words and
lane words carry their decoded fields; the rows without an encoding (the machine's events) carry the data of the event. -/

namespace Sys2Proof

/-- A scalar register number, `s0` to `s63` (R12). -/
abbrev SReg := BitVec 6
/-- A predicate number, `c0` to `c7` (R12). -/
abbrev PReg := BitVec 3
/-- A lane mask number, `m0` to `m15` (R12). -/
abbrev MReg := BitVec 4
/-- An accumulator handle number (R23). -/
abbrev AReg := BitVec 4

/-- How the 32-bit immediate of an X pair becomes 64 bits (R70). -/
inductive Ext where
  | sx | zx | hi
  deriving DecidableEq, Repr

/-- The conditions of `scmp` (R73). -/
inductive Cond where
  | eq | ne | lt | ge | le | gt | ltn | gen
  deriving DecidableEq, Repr

/-- The rounding modes (R45). -/
inductive RMode where
  | rne | rtz | rdn | rup | sto
  deriving DecidableEq, Repr

/-- The scopes (R166, R285). -/
inductive Scope where
  | warp | crew | team | grid | domain | sys
  deriving DecidableEq, Repr

/-- The directions of the neighbour links (R246). -/
inductive Dir where
  | n | e | s | w
  deriving DecidableEq, Repr

/-- Integer lane types (R84). -/
inductive ITy where
  | i32 | n32 | i64 | n64
  deriving DecidableEq, Repr

/-- Signed integer lane types, those of `iabs` (R84). -/
inductive SgTy where
  | i32 | i64
  deriving DecidableEq, Repr

/-- Bit-pattern lane types (R84). -/
inductive BTy where
  | b32 | n64
  deriving DecidableEq, Repr

/-- The two arithmetic float types of lane words (R84). -/
inductive FTy where
  | f32 | f64
  deriving DecidableEq, Repr

/-- Every floating-point format (R36). -/
inductive Fmt where
  | f32 | f64 | f16 | bf16 | e4m3 | e5m2 | e2m1
  deriving DecidableEq, Repr

/-- The element types of `pkfma` (R149). -/
inductive PTy where
  | f16 | bf16
  deriving DecidableEq, Repr

/-- The element types of `dp4` (R150). -/
inductive D4Ty where
  | i8 | n8 | e4m3 | e5m2
  deriving DecidableEq, Repr

/-- The types of `xred` and `xscan` (R152). -/
inductive XTy where
  | i32 | n32 | f32
  deriving DecidableEq, Repr

/-- The types of the lane memory words (R166). -/
inductive MTy where
  | i8 | n8 | i16 | n16 | b32 | n64
  deriving DecidableEq, Repr

/-- The types of the atomics (R171). -/
inductive ATy where
  | b32 | n64 | f32
  deriving DecidableEq, Repr

/-- The conditions of `iset` (R135). -/
inductive ICond where
  | eq | ne | lt | ge | le | gt
  deriving DecidableEq, Repr

/-- How `iset` combines with the old bit (R135). -/
inductive Comb where
  | set | conj | disj
  deriving DecidableEq, Repr

/-- The conditions of `fset` (R139). -/
inductive FCond where
  | eq | lt | le | neu
  deriving DecidableEq, Repr

/-- The modes of `shfl` (R152). -/
inductive ShMode where
  | idx | up | down | xor
  deriving DecidableEq, Repr

/-- The operations of `xred` and `xscan` (R154). -/
inductive ROp where
  | add | min | max | conj | disj | xor
  deriving DecidableEq, Repr

/-- The modes of `vote` (R155). -/
inductive VMode where
  | ballot | any | all | eq
  deriving DecidableEq, Repr

/-- The selectors of `laneid` (R157). -/
inductive LSel where
  | id | orig | rank | cnt
  deriving DecidableEq, Repr

/-- The typed buffers (R159). -/
inductive Buf where
  | w | a | c
  deriving DecidableEq, Repr

/-- The element counts of `ldb` and `stb` (R168). -/
inductive Cnt where
  | x1 | x2 | x4
  deriving DecidableEq, Repr

/-- The index widths of `ldx` and `stx` (R166). -/
inductive IdxW where
  | w8 | w16 | w32 | w64
  deriving DecidableEq, Repr

/-- The index scales of `ldx` and `stx` (R166). -/
inductive Scale where
  | x1 | x2 | x4 | x8 | x16
  deriving DecidableEq, Repr

/-- The atomic operations (R172). -/
inductive AOp where
  | add | min | max | minn | maxn | conj | disj | xor | exch | cas | inc | dec
  deriving DecidableEq, Repr

/-- The orders of an atomic (R171). -/
inductive AOrd where
  | rlx | acq | rel | acqrel
  deriving DecidableEq, Repr

/-- The declared uses of an atomic (R171). -/
inductive AUse where
  | unp | com | nor | qtm | spc
  deriving DecidableEq, Repr

/-- The immediate-slot numbers (R77). -/
inductive Slot where
  | sx | zx | f32 | f64 | pk
  deriving DecidableEq, Repr

/-- A source of a lane word (R76). -/
inductive Src where
  | v (n : BitVec 8)
  | b (n : BitVec 2)
  | s (n : SReg)
  | imm (n : Slot)
  deriving DecidableEq, Repr

/-- The guard pair of a lane word (R75, R80). -/
structure Guard where
  g0 : MReg
  g1 : MReg
  disj : Bool
  inv0 : Bool
  inv1 : Bool
  deriving DecidableEq, Repr

/-- The fields that every lane word has (R75). -/
structure LaneHdr where
  wbs : Bool
  dest : BitVec 8
  a : Src
  b : Src
  c : Src
  guard : Guard
  latch : Option (BitVec 2)
  hint : BitVec 3
  stall : BitVec 4
  yld : Bool
  imm : BitVec 17
  deriving DecidableEq, Repr

/-- The source or destination of `cvt` (R142). -/
inductive CvtTy where
  | flt (f : Fmt)
  | int (t : ITy)
  deriving DecidableEq, Repr

/-- The fields of `cvt` besides its header (R142). -/
structure CvtArgs where
  dst : CvtTy
  src : CvtTy
  rm : RMode
  insert : Bool
  sat : Bool
  se : BitVec 3
  de : BitVec 3
  deriving DecidableEq, Repr

/-- The fields of `ldx` and `stx` besides their header (R166). -/
structure IdxArgs where
  width : IdxW
  signed : Bool
  scale : Scale
  off : BitVec 14
  deriving DecidableEq, Repr

/-- The fields of `atom` and `ared` besides their header (R171). -/
structure AtomArgs where
  op : AOp
  spad : Bool
  scope : Scope
  ord : AOrd
  use : AUse
  off : BitVec 9
  deriving DecidableEq, Repr

/-- A packet of the fabric link (R421): what the model keeps of its header units and its data. -/
structure Packet where
  kind : BitVec 8
  dst : BitVec 14
  src : BitVec 14
  spart : BitVec 5
  atomOp : BitVec 4
  atomTy : BitVec 2
  eseq : BitVec 16
  poison : BitVec 16
  index : BitVec 10
  offset : BitVec 40
  opnd : W64
  bytes : List Byte
  byteMask : BitVec 128
  deriving DecidableEq, Repr

/-- The causes of a warp-fatal event (R180, R181). -/
inductive Fatal where
  | poison | sdc | drain
  deriving DecidableEq, Repr

/-- A ticket (R195): launch, crew, warp, address and lane word index (none for a scalar word). -/
structure Ticket where
  part : Nat
  launch : Nat
  crew : Nat
  warp : Nat
  pc : W64
  word : Option Nat
  deriving DecidableEq, Repr

/-- What the message of a warp-fatal event says (R192): DETAIL, the lanes and the address of the access. -/
structure FatalInfo where
  detail : W32
  mask : Mask
  va : VA
  deriving DecidableEq, Repr

/-- A team of a grid, by their numbers. -/
structure TeamRef where
  grid : Nat
  num : Nat
  deriving DecidableEq, Repr

/-- A compute die's physical core: die, physical cluster on it, core of it (R385, TABLE 3). -/
structure CoreId where
  die : Nat
  pcl : Nat
  core : Nat
  deriving DecidableEq, Repr

/-- A die link: type (weight die or compute die), die number and UCIe module (R281). -/
structure DieLink where
  weight : Bool
  die : Nat
  module : Nat
  deriving DecidableEq, Repr

/-- One step of the machine: a scalar word (04, 07, 09, 10, 13, 14, 15, 16), a lane word (05, 06) or an event of a unit or of
the outside world (95). One constructor per row of the opcode table, in the table's order. -/
inductive Instr where
  | sadd (d a b : SReg)
  | saddImm (d a : SReg) (i : BitVec 14)
  | saddX (d a : SReg) (e : Ext) (x : W32)
  | ssub (d a b : SReg)
  | smul (d a b : SReg)
  | smulh (d a b : SReg)
  | sand (d a b : SReg)
  | sandImm (d a : SReg) (i : BitVec 14)
  | sandX (d a : SReg) (e : Ext) (x : W32)
  | sor (d a b : SReg)
  | sorImm (d a : SReg) (i : BitVec 14)
  | sorX (d a : SReg) (e : Ext) (x : W32)
  | sxor (d a b : SReg)
  | sxorImm (d a : SReg) (i : BitVec 14)
  | sxorX (d a : SReg) (e : Ext) (x : W32)
  | sandn (d a b : SReg)
  | sshl (d a b : SReg)
  | sshlImm (d a : SReg) (n : BitVec 6)
  | sshr (d a b : SReg)
  | sshrImm (d a : SReg) (n : BitVec 6)
  | ssar (d a b : SReg)
  | ssarImm (d a : SReg) (n : BitVec 6)
  | smin (d a b : SReg)
  | smax (d a b : SReg)
  | sminn (d a b : SReg)
  | smaxn (d a b : SReg)
  | smov (d a : SReg)
  | scmp (cc : Cond) (c : PReg) (a b : SReg)
  | scmpImm (cc : Cond) (c : PReg) (a : SReg) (i : BitVec 14)
  | scmpX (cc : Cond) (c : PReg) (a : SReg) (e : Ext) (x : W32)
  | ssel (d : SReg) (p : PReg) (a b : SReg)
  | sli (d : SReg) (i : BitVec 14)
  | sliX (d : SReg) (e : Ext) (x : W32)
  | sldN8 (d a : SReg) (i : BitVec 14)
  | sldN16 (d a : SReg) (i : BitVec 14)
  | sldN32 (d a : SReg) (i : BitVec 14)
  | sldN64 (d a : SReg) (i : BitVec 14)
  | sldI8 (d a : SReg) (i : BitVec 14)
  | sldI16 (d a : SReg) (i : BitVec 14)
  | sldI32 (d a : SReg) (i : BitVec 14)
  | sldc (d a : SReg) (i : BitVec 14)
  | sldN8X (d a : SReg) (x : W32)
  | sldN16X (d a : SReg) (x : W32)
  | sldN32X (d a : SReg) (x : W32)
  | sldN64X (d a : SReg) (x : W32)
  | sldI8X (d a : SReg) (x : W32)
  | sldI16X (d a : SReg) (x : W32)
  | sldI32X (d a : SReg) (x : W32)
  | sldcX (d a : SReg) (x : W32)
  | sstN8 (d a : SReg) (i : BitVec 14)
  | sstN16 (d a : SReg) (i : BitVec 14)
  | sstN32 (d a : SReg) (i : BitVec 14)
  | sstN64 (d a : SReg) (i : BitVec 14)
  | sstN8X (d a : SReg) (x : W32)
  | sstN16X (d a : SReg) (x : W32)
  | sstN32X (d a : SReg) (x : W32)
  | sstN64X (d a : SReg) (x : W32)
  | bc (p : PReg) (neg : Bool) (disp : BitVec 22)
  | call (p : PReg) (neg : Bool) (disp : BitVec 22)
  | loop (d : SReg) (i : BitVec 14)
  | ret
  | jr (a : SReg)
  | exit
  | yield
  | join
  | rett
  | rettSkip
  | split (m : MReg) (els jn : BitVec 16)
  | lx (k : BitVec 6) (d : BitVec 20)
  | srd (d : SReg) (n : BitVec 9)
  | swr (n : BitVec 9) (a : SReg)
  | regroup (m : MReg) (a : SReg)
  | loc (d a : SReg)
  | mma (h : AReg) (a b : SReg) (lr z : Bool)
  | mmg (h : AReg) (a b : SReg) (z : Bool)
  | mmt (h : AReg) (a b : SReg) (lr fold z : Bool)
  | mmtSolo (h : AReg) (a b : SReg) (lr z : Bool)
  | mmw (h : AReg) (a b : SReg) (z : Bool)
  | tskip
  | accZero (h : AReg) (a : SReg)
  | accLd (h : AReg) (a b : SReg)
  | accSt (h : AReg) (b : SReg)
  | accCvt (h : AReg) (b : SReg) (sat : Bool) (rm : RMode)
  | nnPush (d a b : SReg) (dir : Dir)
  | nnPull (d a b : SReg) (dir : Dir)
  | cpy (d a b : SReg) (yld : Bool)
  | gath (d a b : SReg) (yld : Bool)
  | mig (d a b : SReg)
  | prefS (d a b : SReg) (cdc : Bool)
  | fence (sc : Scope)
  | arv (d a : SReg) (drop : Bool)
  | wait (d a : SReg) (test : Bool)
  | barInit (a b : SReg)
  | tlw (d a b : SReg)
  | tlr (d a : SReg) (acq : Bool)
  | qend
  | tspec (a : SReg)
  | tabort
  | seal (a b : SReg)
  | unseal (a b : SReg)
  | mbxPost (d a b : SReg)
  | mbxPostWait (d a b : SReg)
  | mbxPostTl (d a b : SReg)
  | dqPush (c : PReg) (a : SReg)
  | dqPop (d : SReg) (c : PReg)
  | dqTake (d : SReg) (c : PReg) (wt grid : Bool)
  | tcommit (disp : BitVec 22)
  | partNew (d a b : SReg)
  | partSet (d a b : SReg)
  | partBindRun (d a b : SReg)
  | partBindSuspend (d a b : SReg)
  | partBindFree (d a b : SReg)
  | vfBind (d a b : SReg)
  | catSet (d a b : SReg)
  | mbxBind (d a b : SReg)
  | mbxUnbind (d a b : SReg)
  | halt (d a : SReg)
  | stop (d a : SReg)
  | clr (d a b : SReg)
  | ckpt (d a b : SReg)
  | rest (d a b : SReg)
  | keyldMeasure (d a b : SReg)
  | keyldReport (d a b : SReg)
  | keyldUnbind (d a b : SReg)
  | trap (code : BitVec 14)
  | brk (code : BitVec 14)
  | iadd (h : LaneHdr) (t : ITy) (sat : Bool)
  | isub (h : LaneHdr) (t : ITy) (sat : Bool)
  | imul (h : LaneHdr) (t : ITy)
  | imulh (h : LaneHdr) (t : ITy)
  | imad (h : LaneHdr) (t : ITy) (sat : Bool)
  | imin (h : LaneHdr) (t : ITy)
  | imax (h : LaneHdr) (t : ITy)
  | iabs (h : LaneHdr) (t : SgTy) (sat : Bool)
  | and (h : LaneHdr) (t : BTy)
  | or (h : LaneHdr) (t : BTy)
  | xor (h : LaneHdr) (t : BTy)
  | not (h : LaneHdr) (t : BTy)
  | shl (h : LaneHdr) (t : BTy) (clamp : Bool)
  | shr (h : LaneHdr) (t : BTy) (clamp : Bool)
  | sar (h : LaneHdr) (t : BTy) (clamp : Bool)
  | bfe (h : LaneHdr) (signed : Bool)
  | bfi (h : LaneHdr)
  | popc (h : LaneHdr) (t : BTy)
  | clz (h : LaneHdr) (t : BTy)
  | brev (h : LaneHdr) (t : BTy)
  | iset (h : LaneHdr) (t : ITy) (cc : ICond) (comb : Comb)
  | sel (h : LaneHdr) (t : BTy) (inv : Bool) (k : MReg)
  | mov (h : LaneHdr) (t : BTy)
  | fadd (h : LaneHdr) (t : FTy) (rm : RMode) (nega negb : Bool)
  | fsub (h : LaneHdr) (t : FTy) (rm : RMode) (nega negb : Bool)
  | fmul (h : LaneHdr) (t : FTy) (rm : RMode) (nega negb : Bool)
  | ffma (h : LaneHdr) (t : FTy) (rm : RMode) (nega negc : Bool)
  | fmin (h : LaneHdr) (t : FTy) (nan : Bool)
  | fmax (h : LaneHdr) (t : FTy) (nan : Bool)
  | fset (h : LaneHdr) (t : FTy) (cc : FCond)
  | frnd (h : LaneHdr) (t : FTy) (rm : RMode) (exact : Bool)
  | fclass (h : LaneHdr) (t : FTy)
  | cvt (h : LaneHdr) (k : CvtArgs)
  | rcp (h : LaneHdr)
  | rsq (h : LaneHdr)
  | sqrt (h : LaneHdr)
  | exp2 (h : LaneHdr)
  | log2 (h : LaneHdr)
  | sin (h : LaneHdr)
  | cos (h : LaneHdr)
  | tanh (h : LaneHdr)
  | pkfma (h : LaneHdr) (t : PTy) (rm : RMode) (nega negc : Bool)
  | dp4 (h : LaneHdr) (t : D4Ty) (rm : RMode) (mix sat : Bool)
  | dp8 (h : LaneHdr) (signed mix sat : Bool)
  | shfl (h : LaneHdr) (t : BTy) (mode : ShMode) (wrel : Bool)
  | xred (h : LaneHdr) (t : XTy) (op : ROp) (nan : Bool)
  | xscan (h : LaneHdr) (t : XTy) (op : ROp) (excl nan : Bool)
  | vote (h : LaneHdr) (mode : VMode)
  | matchLanes (h : LaneHdr) (t : BTy)
  | laneid (h : LaneHdr) (sel : LSel)
  | ld (h : LaneHdr) (t : MTy) (acq : Option Scope)
  | st (h : LaneHdr) (t : MTy) (rel : Option Scope)
  | ldx (h : LaneHdr) (t : MTy) (x : IdxArgs)
  | stx (h : LaneHdr) (t : MTy) (x : IdxArgs)
  | lds (h : LaneHdr) (t : MTy)
  | sts (h : LaneHdr) (t : MTy)
  | ldb (h : LaneHdr) (t : MTy) (buf : Buf) (cnt : Cnt)
  | stb (h : LaneHdr) (t : MTy) (buf : Buf) (cnt : Cnt)
  | atom (h : LaneHdr) (t : ATy) (k : AtomArgs)
  | ared (h : LaneHdr) (t : ATy) (k : AtomArgs)
  | pref (h : LaneHdr)
  | hostSlotWrite (vf : Nat) (off : Nat) (bytes : List Byte)
  | serviceSlotWrite (vf : Nat) (bytes : List Byte)
  | gridLaunch (p m : Nat)
  | gridCompletion (g : Nat)
  | trapEntry (w : Nat)
  | warpHalt (w : Nat) (cause : Fatal) (info : FatalInfo)
  | faultMessageDelivery (p : Nat)
  | faultRecordRetry (p : Nat)
  | pagerReply (p : Nat)
  | regfileFill (w : Nat) (poisoned : Bool)
  | lateError (t : Ticket) (code : Byte) (detail : W32) (mask : Mask) (va : VA)
  | slipStart (cluster : Nat)
  | slipAging (slip : Nat)
  | slipComplete (slip : Nat) (residueFails : Bool)
  | twinMatch (w : Nat)
  | linkTransferComplete (team : TeamRef) (dir : Dir)
  | linkLost (die pcl plink : Nat)
  | engineOpStart (p ctx : Nat)
  | copyComplete (p ctx n : Nat)
  | gatherComplete (p ctx n : Nat)
  | prefetchComplete (p ctx n : Nat)
  | clearComplete (p ctx n : Nat) (bad : List Nat)
  | ckptComplete (p ctx n : Nat)
  | restComplete (p ctx n : Nat) (writeError : Bool)
  | yieldResume (w : Nat)
  | deferredPost (p ctx : Nat)
  | migrationThreshold (p : Nat) (va : VA) (die : Nat)
  | migrationCounterHalving
  | moveStart
  | moveComplete (id : Nat)
  | quantumCommit (g : Nat)
  | qlenQuantumEnd (w : Nat)
  | warpEviction (w : Nat)
  | crewEviction (k : Nat)
  | teamPlacement (p : Nat)
  | warpWake (w : Nat)
  | blockedCrewDrain (p : Nat)
  | sliceEnd (p : Nat)
  | drainLimitExpiry (k : Nat)
  | frameStart
  | cdcFill (cluster : Nat) (line : Nat)
  | laneDefect (core : CoreId) (group phys : Nat)
  | coreParityError (core : CoreId)
  | dieFence (die : Nat)
  | dieReset (die : Nat)
  | dieBistComplete (die : Nat) (pass : Bool) (failed : List Nat)
  | dieDrop (die : Nat)
  | dieLost (die : Nat)
  | dieFlitReceive (link : DieLink) (flit : List Byte)
  | ucieModuleRepair (link : DieLink) (degraded : Bool)
  | bankFailure (wdie pbank : Nat)
  | stopPoint (p : Nat) (source : BitVec 16)
  | sliceSpare (slice : Nat)
  | sliceFailure (slice : Nat) (tagsLost : Bool)
  | hbmRowRepair (frame : Nat) (pass : Bool)
  | hbmChannelFailure (stack chan : Nat)
  | moduleReset
  | bringUp
  | thermalWarning (sensor : Nat)
  | thermalLimit (sensor : Nat)
  | supplyLimit (sensor : Nat)
  | thermalRecovery (sensor : Nat)
  | firmwareActivation
  | firmwareFloorUpdate (version : W32) (signed : Bool)
  | partRunWrite (v : W64)
  | eqTailWrite (v : W64)
  | hostMemAccess (hpa : Nat) (bytes : Option (List Byte)) (len : Nat)
  | hostOwnerTableWrite (g : Nat) (v : W64)
  | moduleRegisterWrite (v : W64)
  | groupEntryWrite (p g : Nat) (v : BitVec 512)
  | registerWrite (bar off : Nat) (v : W64)
  | remoteRequest (k : Packet)
  | remoteResponse (k : Packet)
  | uflFlitReceive (port : Nat) (flit : List Byte)
  | portLaneFailure (port lane : Nat)
  | portLost (port : Nat)
  | groupPartial (p g port step : Nat) (values : List (W32 × Bool))
  | groupData (p g step : Nat) (bytes : List (Byte × Bool)) (failed : Bool)
  | groupStep (p g : Nat)
  | multicastReserveRetry (p g : Nat) (space : Bool)
  | weightDieFence (wdie : Nat)
  | weightDieReset (wdie : Nat)
  | baseDieUncorrectableError
  | firmwareActivationDone
  | hostCacheSnoop (line : Nat) (bytes : Option (List Byte))
  | hostLinkDegrade (width : Nat)
  | powerLoss
  | managementWindowWrite (kind : Nat) (bytes : List Byte) (signed : Bool)
  deriving DecidableEq, Repr

end Sys2Proof
end

