-- ==== Sys2Proof/WellFormed.lean ====
section
/-! DEFINITION. Which instruction terms an encoding of the spec can hold (R15, R67, R76 to R82, R85, R126, R130 to R176). Scalar words
and events are well-formed by their types; a lane word must fit its shape. -/

namespace Sys2Proof

/-- What an instruction asks of one source field (R76, R77, R126, R166, R168). -/
inductive SrcSpec where
  /-- The field is all zero. -/
  | unused
  /-- A 32-bit operand that may name the immediate slot. -/
  | w32
  /-- A 64-bit operand that may name the immediate slot. -/
  | w64
  /-- A packed operand of `pkfma`: its immediate is slot 4 (R149). -/
  | packed
  /-- A 32-bit operand that may not name the immediate slot. -/
  | m32
  /-- A 64-bit operand that may not name the immediate slot. -/
  | m64
  /-- A run of `r` lane registers whose first number is a multiple of `r` (R168). -/
  | run (r : Nat)
  deriving DecidableEq, Repr

/-- What an instruction's destination field names (R79, R81, R168). -/
inductive DestSpec where
  | none
  | mask
  | v32
  | v64
  | run (r : Nat)
  deriving DecidableEq, Repr

/-- What the instruction's own description puts into imm17 (R76). -/
inductive ImmUse where
  /-- Nothing: imm17 is zero unless a source names the slot. -/
  | slotOnly
  /-- Nothing, even where a source names the slot (`vote`, `match`, R152, with `WIDTH` 64). -/
  | zero
  /-- A shift in [2:0] (`shfl` with wrel, R152). -/
  | low3
  /-- The whole field is an offset (R166, R168, R176). -/
  | free
  deriving DecidableEq, Repr

/-- The shape of a lane word: what its type and modifiers ask of the common fields. -/
structure LaneShape where
  a : SrcSpec
  b : SrcSpec
  c : SrcSpec
  dest : DestSpec
  hints : Bool
  imm : ImmUse
  deriving DecidableEq, Repr

/-- An immediate-slot source against an operand width (R77). -/
def slotOk (imm : BitVec 17) (wide : Bool) : Slot → Bool
  | .sx => true
  | .zx => true
  | .f32 => !wide
  | .f64 => wide
  | .pk => !wide && !imm.getLsbD 16

/-- A source field against what the instruction asks of it. -/
def srcOk (imm : BitVec 17) : SrcSpec → Src → Bool
  | .unused, x => x == .v 0
  | .w32, .imm n => slotOk imm false n
  | .w32, _ => true
  | .w64, .v n => n.toNat % 2 == 0
  | .w64, .b _ => false
  | .w64, .s _ => true
  | .w64, .imm n => slotOk imm true n
  | .packed, .imm n => n == .pk && slotOk imm false n
  | .packed, _ => true
  | .m32, .imm _ => false
  | .m32, _ => true
  | .m64, .v n => n.toNat % 2 == 0
  | .m64, .s _ => true
  | .m64, _ => false
  | .run r, .v n => n.toNat % r == 0
  | .run _, _ => false

/-- Whether a source names the immediate slot. -/
def Src.isImm : Src → Bool
  | .imm _ => true
  | _ => false

/-- imm17 against the instruction's own use of it (R76, R152). -/
def immOk (h : LaneHdr) : ImmUse → Bool
  | .slotOnly => h.imm == 0 || h.a.isImm || h.b.isImm || h.c.isImm
  | .zero => h.imm == 0
  | .low3 => h.imm.toNat < 8
  | .free => true

/-- The destination, write-back suppress and latch-write fields (R79, R81, R135, R168). -/
def destOk (h : LaneHdr) : DestSpec → Bool
  | .none => h.dest == 0 && !h.wbs && h.latch.isNone
  | .mask => h.dest.toNat < 16 && !h.wbs && h.latch.isNone
  | .v32 => !h.wbs || h.dest == 0
  | .v64 => h.latch.isNone && (if h.wbs then h.dest == 0 else h.dest.toNat % 2 == 0)
  | .run r => h.latch.isNone && (if h.wbs then h.dest == 0 else h.dest.toNat % r == 0)

/-- The cache hint (R82): 0 to 5 on a memory word, 0 elsewhere. -/
def hintOk (h : LaneHdr) (hints : Bool) : Bool :=
  if hints then h.hint.toNat ≤ 5 else h.hint == 0

/-- A lane word's common fields fit its shape. -/
def LaneShape.fits (s : LaneShape) (h : LaneHdr) : Bool :=
  srcOk h.imm s.a h.a && srcOk h.imm s.b h.b && srcOk h.imm s.c h.c && destOk h s.dest && hintOk h s.hints && immOk h s.imm

/-- The operand asked for by a width of 32 or 64 bits (R126). -/
def SrcSpec.ofWide (wide : Bool) : SrcSpec := if wide then .w64 else .w32
/-- The memory operand of a width of 32 or 64 bits (R166). -/
def SrcSpec.memWide (wide : Bool) : SrcSpec := if wide then .m64 else .m32
/-- The destination of a width of 32 or 64 bits (R79). -/
def DestSpec.ofWide (wide : Bool) : DestSpec := if wide then .v64 else .v32

/-- Types of 64 bits (R84). -/
def ITy.wide : ITy → Bool
  | .i64 => true
  | .n64 => true
  | _ => false
def SgTy.wide : SgTy → Bool
  | .i64 => true
  | .i32 => false
def BTy.wide : BTy → Bool
  | .n64 => true
  | .b32 => false
def FTy.wide : FTy → Bool
  | .f64 => true
  | .f32 => false
def MTy.wide : MTy → Bool
  | .n64 => true
  | _ => false
def ATy.wide : ATy → Bool
  | .n64 => true
  | _ => false

/-- The width of a float format in bits (R36). -/
def Fmt.bits : Fmt → Nat
  | .f32 => 32
  | .f64 => 64
  | .f16 => 16
  | .bf16 => 16
  | .e4m3 => 8
  | .e5m2 => 8
  | .e2m1 => 4

/-- The width of a `cvt` type in bits (R143). -/
def CvtTy.bits : CvtTy → Nat
  | .flt f => f.bits
  | .int t => if t.wide then 64 else 32

/-- Whether a `cvt` type is of integer kind (R142). -/
def CvtTy.isInt : CvtTy → Bool
  | .int _ => true
  | .flt _ => false

/-- The targets that take a saturation choice (R52, R144). -/
def CvtTy.narrow : CvtTy → Bool
  | .flt .e4m3 => true
  | .flt .e5m2 => true
  | .flt .e2m1 => true
  | _ => false

/-- The element count of a 32-bit word for a width, at least 1 (R144). -/
def elemCount (bits : Nat) : Nat := if bits ≤ 16 then 32 / bits else 1

/-- The refusals of R144. -/
def CvtArgs.ok (k : CvtArgs) : Bool :=
  !(k.dst.isInt && k.src.isInt) && !(k.dst == k.src) && (!k.sat || k.dst.narrow) &&
  k.se.toNat < elemCount k.src.bits && k.de.toNat < elemCount k.dst.bits && !(k.insert && k.dst.bits == 64)

/-- The atomic operations that `f32` refuses (R174). -/
def AOp.intOnly : AOp → Bool
  | .minn => true
  | .maxn => true
  | .conj => true
  | .disj => true
  | .xor => true
  | .inc => true
  | .dec => true
  | _ => false

/-- The scopes a scratchpad atomic refuses (R174). -/
def Scope.beyondTeam : Scope → Bool
  | .grid => true
  | .domain => true
  | .sys => true
  | _ => false

/-- The combinations of R174 refused at decode, for `atom` and `ared` alike. -/
def AtomArgs.ok (k : AtomArgs) (t : ATy) (hint : BitVec 3) : Bool :=
  !(t == .f32 && k.op.intOnly) && (k.ord == .rlx || k.use == .unp) &&
  !(k.use == .com && (k.op == .exch || k.op == .cas || k.op == .inc || k.op == .dec)) &&
  (!k.spad || (!k.scope.beyondTeam && k.use != .qtm && k.use != .spc && hint == 0))

/-- The combinations of R174 that `ared` refuses besides. -/
def AtomArgs.aredOk (k : AtomArgs) : Bool :=
  k.op != .exch && k.op != .cas && (k.ord == .rlx || k.ord == .rel) && k.use != .nor

/-- The operations of `xred` and `xscan` on `f32`, and the place of the NaN rule (R154). -/
def xopOk (t : XTy) (op : ROp) (nan : Bool) : Bool :=
  match t, op with
  | .f32, .add => !nan
  | .f32, .min => true
  | .f32, .max => true
  | .f32, _ => false
  | _, _ => !nan

/-- The registers that an `ldb` or `stb` moves, or none where the count is illegal (R168). -/
def bufRun (t : MTy) (c : Cnt) : Option Nat :=
  match c, t with
  | .x1, .n64 => some 2
  | .x1, _ => some 1
  | .x2, .b32 => some 2
  | .x2, .n64 => some 4
  | .x4, .b32 => some 4
  | _, _ => none

/-- A two-source shape. -/
def shape2 (s : SrcSpec) (d : DestSpec) : LaneShape := ⟨s, s, .unused, d, false, .slotOnly⟩
/-- A one-source shape. -/
def shape1 (s : SrcSpec) (d : DestSpec) : LaneShape := ⟨s, .unused, .unused, d, false, .slotOnly⟩
/-- A three-source shape. -/
def shape3 (s : SrcSpec) (d : DestSpec) : LaneShape := ⟨s, s, s, d, false, .slotOnly⟩

/-- The shape of each lane word, its header, and the checks that do not concern the header (R130, R137 to R176). -/
def Instr.laneShape : Instr → Option (LaneHdr × LaneShape × Bool)
  | .iadd h t _ | .isub h t _ | .imul h t | .imulh h t | .imin h t | .imax h t =>
    some (h, shape2 (.ofWide t.wide) (.ofWide t.wide), true)
  | .imad h t _ => some (h, shape3 (.ofWide t.wide) (.ofWide t.wide), true)
  | .iabs h t _ => some (h, shape1 (.ofWide t.wide) (.ofWide t.wide), true)
  | .and h t | .or h t | .xor h t => some (h, shape2 (.ofWide t.wide) (.ofWide t.wide), true)
  | .not h t | .popc h t | .clz h t | .brev h t | .mov h t => some (h, shape1 (.ofWide t.wide) (.ofWide t.wide), true)
  | .shl h t _ | .shr h t _ | .sar h t _ => some (h, ⟨.ofWide t.wide, .w32, .unused, .ofWide t.wide, false, .slotOnly⟩, true)
  | .bfe h _ | .bfi h => some (h, shape3 .w32 .v32, true)
  | .iset h t _ _ => some (h, shape2 (.ofWide t.wide) .mask, true)
  | .sel h t _ _ => some (h, shape2 (.ofWide t.wide) (.ofWide t.wide), true)
  | .fadd h t _ _ _ | .fsub h t _ _ _ | .fmul h t _ _ _ => some (h, shape2 (.ofWide t.wide) (.ofWide t.wide), true)
  | .ffma h t _ _ _ => some (h, shape3 (.ofWide t.wide) (.ofWide t.wide), true)
  | .fmin h t _ | .fmax h t _ => some (h, shape2 (.ofWide t.wide) (.ofWide t.wide), true)
  | .fset h t _ => some (h, shape2 (.ofWide t.wide) .mask, true)
  | .frnd h t _ _ => some (h, shape1 (.ofWide t.wide) (.ofWide t.wide), true)
  | .fclass h t => some (h, shape1 (.ofWide t.wide) .v32, true)
  | .cvt h k =>
    some (h, ⟨.memWide (k.src.bits == 64), if k.insert then .m32 else .unused, .unused, .ofWide (k.dst.bits == 64), false, .zero⟩,
      k.ok)
  | .rcp h | .rsq h | .sqrt h | .exp2 h | .log2 h | .sin h | .cos h | .tanh h => some (h, shape1 .w32 .v32, true)
  | .pkfma h _ _ _ _ => some (h, shape3 .packed .v32, true)
  | .dp4 h t rm _ sat =>
    some (h, shape3 .w32 .v32, match t with
      | .i8 | .n8 => rm == .rne
      | .e4m3 | .e5m2 => !sat)
  | .dp8 h _ _ _ => some (h, shape3 .w32 .v32, true)
  | .shfl h t _ wrel =>
    some (h, ⟨.ofWide t.wide, if wrel then .unused else .w32, .unused, .ofWide t.wide, false, if wrel then .low3 else .slotOnly⟩, true)
  | .xred h t op nan | .xscan h t op _ nan => some (h, shape1 .w32 .v32, xopOk t op nan)
  | .vote h mode => some (h, ⟨.w32, .unused, .unused, if mode = .ballot then .v64 else .v32, false, .zero⟩, true)
  | .matchLanes h t => some (h, ⟨.ofWide t.wide, .unused, .unused, .v64, false, .zero⟩, true)
  | .laneid h _ => some (h, ⟨.unused, .unused, .unused, .v32, false, .zero⟩, true)
  | .ld h t _ => some (h, ⟨.m64, .unused, .unused, .ofWide t.wide, true, .free⟩, true)
  | .st h t _ => some (h, ⟨.m64, .memWide t.wide, .unused, .none, true, .free⟩, true)
  | .ldx h t x => some (h, ⟨.m64, .memWide (x.width == .w64), .unused, .ofWide t.wide, true, .zero⟩, true)
  | .stx h t x => some (h, ⟨.m64, .memWide (x.width == .w64), .memWide t.wide, .none, true, .zero⟩, true)
  | .lds h t => some (h, ⟨.m32, .unused, .unused, .ofWide t.wide, false, .free⟩, true)
  | .sts h t => some (h, ⟨.m32, .memWide t.wide, .unused, .none, false, .free⟩, true)
  | .ldb h t _ c =>
    some (h, ⟨.m32, .unused, .unused,
      match bufRun t c with
      | some 1 => .v32
      | some r => .run r
      | none => .v32, false, .free⟩, (bufRun t c).isSome)
  | .stb h t _ c =>
    some (h, ⟨.m32,
      match c, bufRun t c with
      | .x1, _ => .memWide t.wide
      | _, some r => .run r
      | _, none => .unused, .unused, .none, false, .free⟩, (bufRun t c).isSome)
  | .atom h t k =>
    some (h, ⟨if k.spad then .m32 else .m64, .memWide t.wide, if k.op = .cas then .memWide t.wide else .unused,
      .ofWide t.wide, !k.spad, .zero⟩, k.ok t h.hint)
  | .ared h t k =>
    some (h, ⟨if k.spad then .m32 else .m64, .memWide t.wide, .unused, .none, !k.spad, .zero⟩,
      k.ok t h.hint && k.aredOk)
  | .pref h => some (h, ⟨.m64, .unused, .unused, .none, true, .free⟩, true)
  | _ => none

/-- A register that begins a descriptor pair (R240, R246): even, not 0 (63 is odd). -/
def pairOk (r : SReg) : Bool := r.toNat % 2 == 0 && r != 0
/-- A register that begins a descriptor triple (R246): even, not 0, at most 60. -/
def tripleOk (r : SReg) : Bool := pairOk r && r.toNat ≤ 60

/-- The descriptor registers of a matrix word are encodable (R246). -/
def Instr.pairsOk : Instr → Bool
  | .mma _ a b lr _ => (lr || pairOk a) && pairOk b
  | .mmg _ a b _ => pairOk a && tripleOk b
  | .mmt _ a b lr _ _ => (lr || pairOk a) && pairOk b
  | .mmtSolo _ a b lr _ => (lr || pairOk a) && pairOk b
  | .mmw _ a _ _ => pairOk a
  | .accLd _ _ b => pairOk b
  | .accSt _ b => pairOk b
  | .accCvt _ b _ _ => pairOk b
  | _ => true

/-- A term that some encoding holds: a lane word fits its shape and passes its own checks, a matrix word names legal descriptor
registers; every other term has typed fields only. -/
def Instr.wf (i : Instr) : Bool :=
  match i.laneShape with
  | some (h, s, own) => s.fits h && own
  | none => i.pairsOk

end Sys2Proof
end

