-- ==== Sys2Proof/Decode.lean ====
section
/-! DEFINITION. The decoder, total on any bits and rejecting by name, and after it the encoder, both from the encoding tables of spec 03
(R62 to R85) and of the instructions' own descriptions. Every rejection is the `ILLEGAL` of R67. -/

namespace Sys2Proof

/-- Why an encoding is refused (R67, R70 to R72, R75 to R85). -/
inductive Reject where
  /-- An unassigned major opcode (R71). -/
  | major
  /-- A func value or qualifier that the group does not list (R72). -/
  | func
  /-- A reserved field or bit that is not zero (R67). -/
  | reserved
  /-- An X prefix whose xop is not legal (R70). -/
  | xop
  /-- An X prefix whose ext is not legal for its major (R70). -/
  | ext
  /-- An unassigned lane opcode (R84). -/
  | opcode
  /-- A type code the lane opcode does not accept (R84). -/
  | typeCode
  /-- A modifier or imm17 value that the instruction does not list (R85). -/
  | modifier
  /-- A source field whose number is beyond its kind (R76, R77). -/
  | source
  /-- A lane word that does not fit its shape (R79 to R82, R126, R144, R168, R174), or descriptor registers that R246 refuses. -/
  | illFormed
  /-- Fewer bytes than the instruction needs. -/
  | truncated
  deriving DecidableEq, Repr

/-- The words of one instruction: a scalar word, an X pair or a lane word (R62, R70). -/
inductive Words where
  | scalar (w : W32)
  | pair (w imm : W32)
  | lane (w : BitVec 96)
  deriving DecidableEq, Repr

/-! ## Codes of the enumerated fields -/

/-- The ext field of an X prefix (R70). -/
def Ext.code : Ext → BitVec 2
  | .sx => 0
  | .zx => 1
  | .hi => 2
def Ext.ofCode (c : BitVec 2) : Option Ext :=
  match c.toNat with
  | 0 => some .sx
  | 1 => some .zx
  | 2 => some .hi
  | _ => none

/-- The condition codes of R73. -/
def Cond.code : Cond → BitVec 3
  | .eq => 0
  | .ne => 1
  | .lt => 2
  | .ge => 3
  | .le => 4
  | .gt => 5
  | .ltn => 6
  | .gen => 7
def Cond.ofCode (c : BitVec 3) : Cond :=
  match c.toNat with
  | 0 => .eq
  | 1 => .ne
  | 2 => .lt
  | 3 => .ge
  | 4 => .le
  | 5 => .gt
  | 6 => .ltn
  | _ => .gen

/-- The rounding codes of R45. -/
def RMode.code : RMode → BitVec 3
  | .rne => 0
  | .rtz => 1
  | .rdn => 2
  | .rup => 3
  | .sto => 4
def RMode.ofCode (c : BitVec 3) : Option RMode :=
  match c.toNat with
  | 0 => some .rne
  | 1 => some .rtz
  | 2 => some .rdn
  | 3 => some .rup
  | 4 => some .sto
  | _ => none

/-- The scope codes of R166. -/
def Scope.code : Scope → BitVec 3
  | .warp => 0
  | .crew => 1
  | .team => 2
  | .grid => 3
  | .domain => 4
  | .sys => 5
def Scope.ofCode (c : BitVec 3) : Option Scope :=
  match c.toNat with
  | 0 => some .warp
  | 1 => some .crew
  | 2 => some .team
  | 3 => some .grid
  | 4 => some .domain
  | 5 => some .sys
  | _ => none

/-- The direction codes of the neighbour links (R246). -/
def Dir.code : Dir → BitVec 2
  | .n => 0
  | .e => 1
  | .s => 2
  | .w => 3
def Dir.ofCode (c : BitVec 2) : Dir :=
  match c.toNat with
  | 0 => .n
  | 1 => .e
  | 2 => .s
  | _ => .w

/-- The type codes of R84, class by class. -/
def ITy.code : ITy → BitVec 3
  | .i32 => 0
  | .n32 => 1
  | .i64 => 2
  | .n64 => 3
def ITy.ofCode (c : BitVec 3) : Option ITy :=
  match c.toNat with
  | 0 => some .i32
  | 1 => some .n32
  | 2 => some .i64
  | 3 => some .n64
  | _ => none
def SgTy.code : SgTy → BitVec 3
  | .i32 => 0
  | .i64 => 2
def SgTy.ofCode (c : BitVec 3) : Option SgTy :=
  match c.toNat with
  | 0 => some .i32
  | 2 => some .i64
  | _ => none
def BTy.code : BTy → BitVec 3
  | .b32 => 4
  | .n64 => 3
def BTy.ofCode (c : BitVec 3) : Option BTy :=
  match c.toNat with
  | 3 => some .n64
  | 4 => some .b32
  | _ => none
def FTy.code : FTy → BitVec 3
  | .f32 => 0
  | .f64 => 1
def FTy.ofCode (c : BitVec 3) : Option FTy :=
  match c.toNat with
  | 0 => some .f32
  | 1 => some .f64
  | _ => none
def Fmt.code : Fmt → BitVec 3
  | .f32 => 0
  | .f64 => 1
  | .f16 => 2
  | .bf16 => 3
  | .e4m3 => 4
  | .e5m2 => 5
  | .e2m1 => 6
def Fmt.ofCode (c : BitVec 3) : Option Fmt :=
  match c.toNat with
  | 0 => some .f32
  | 1 => some .f64
  | 2 => some .f16
  | 3 => some .bf16
  | 4 => some .e4m3
  | 5 => some .e5m2
  | 6 => some .e2m1
  | _ => none
def PTy.code : PTy → BitVec 3
  | .f16 => 2
  | .bf16 => 3
def PTy.ofCode (c : BitVec 3) : Option PTy :=
  match c.toNat with
  | 2 => some .f16
  | 3 => some .bf16
  | _ => none
def D4Ty.code : D4Ty → BitVec 3
  | .i8 => 0
  | .n8 => 1
  | .e4m3 => 4
  | .e5m2 => 5
def D4Ty.ofCode (c : BitVec 3) : Option D4Ty :=
  match c.toNat with
  | 0 => some .i8
  | 1 => some .n8
  | 4 => some .e4m3
  | 5 => some .e5m2
  | _ => none
/-- `dp8` takes code 110 (signed INT4) or 111 (unsigned INT4). -/
def dp8Code (signed : Bool) : BitVec 3 := if signed then 6 else 7
def dp8OfCode (c : BitVec 3) : Option Bool :=
  match c.toNat with
  | 6 => some true
  | 7 => some false
  | _ => none
def XTy.code : XTy → BitVec 3
  | .i32 => 0
  | .n32 => 1
  | .f32 => 5
def XTy.ofCode (c : BitVec 3) : Option XTy :=
  match c.toNat with
  | 0 => some .i32
  | 1 => some .n32
  | 5 => some .f32
  | _ => none
def MTy.code : MTy → BitVec 3
  | .i8 => 0
  | .n8 => 1
  | .i16 => 2
  | .n16 => 3
  | .b32 => 4
  | .n64 => 5
def MTy.ofCode (c : BitVec 3) : Option MTy :=
  match c.toNat with
  | 0 => some .i8
  | 1 => some .n8
  | 2 => some .i16
  | 3 => some .n16
  | 4 => some .b32
  | 5 => some .n64
  | _ => none
def ATy.code : ATy → BitVec 3
  | .b32 => 4
  | .n64 => 5
  | .f32 => 6
def ATy.ofCode (c : BitVec 3) : Option ATy :=
  match c.toNat with
  | 4 => some .b32
  | 5 => some .n64
  | 6 => some .f32
  | _ => none
/-- `bfe` takes `i32` (000) or `n32` (001). -/
def bfeCode (signed : Bool) : BitVec 3 := if signed then 0 else 1
def bfeOfCode (c : BitVec 3) : Option Bool :=
  match c.toNat with
  | 0 => some true
  | 1 => some false
  | _ => none

/-- The condition codes of `iset` (R135). -/
def ICond.code : ICond → BitVec 3
  | .eq => 0
  | .ne => 1
  | .lt => 2
  | .ge => 3
  | .le => 4
  | .gt => 5
def ICond.ofCode (c : BitVec 3) : Option ICond :=
  match c.toNat with
  | 0 => some .eq
  | 1 => some .ne
  | 2 => some .lt
  | 3 => some .ge
  | 4 => some .le
  | 5 => some .gt
  | _ => none
/-- The combine codes of `iset` (R135). -/
def Comb.code : Comb → BitVec 2
  | .set => 0
  | .conj => 1
  | .disj => 2
def Comb.ofCode (c : BitVec 2) : Option Comb :=
  match c.toNat with
  | 0 => some .set
  | 1 => some .conj
  | 2 => some .disj
  | _ => none
/-- The condition codes of `fset` (R139). -/
def FCond.code : FCond → BitVec 2
  | .eq => 0
  | .lt => 1
  | .le => 2
  | .neu => 3
def FCond.ofCode (c : BitVec 2) : FCond :=
  match c.toNat with
  | 0 => .eq
  | 1 => .lt
  | 2 => .le
  | _ => .neu
/-- The modes of `shfl` (R152). -/
def ShMode.code : ShMode → BitVec 2
  | .idx => 0
  | .up => 1
  | .down => 2
  | .xor => 3
def ShMode.ofCode (c : BitVec 2) : ShMode :=
  match c.toNat with
  | 0 => .idx
  | 1 => .up
  | 2 => .down
  | _ => .xor
/-- The operations of `xred` and `xscan` (R154). -/
def ROp.code : ROp → BitVec 3
  | .add => 0
  | .min => 1
  | .max => 2
  | .conj => 3
  | .disj => 4
  | .xor => 5
def ROp.ofCode (c : BitVec 3) : Option ROp :=
  match c.toNat with
  | 0 => some .add
  | 1 => some .min
  | 2 => some .max
  | 3 => some .conj
  | 4 => some .disj
  | 5 => some .xor
  | _ => none
/-- The modes of `vote` (R152). -/
def VMode.code : VMode → BitVec 2
  | .ballot => 0
  | .any => 1
  | .all => 2
  | .eq => 3
def VMode.ofCode (c : BitVec 2) : VMode :=
  match c.toNat with
  | 0 => .ballot
  | 1 => .any
  | 2 => .all
  | _ => .eq
/-- The selectors of `laneid` (R152). -/
def LSel.code : LSel → BitVec 3
  | .id => 0
  | .orig => 1
  | .rank => 2
  | .cnt => 3
def LSel.ofCode (c : BitVec 3) : Option LSel :=
  match c.toNat with
  | 0 => some .id
  | 1 => some .orig
  | 2 => some .rank
  | 3 => some .cnt
  | _ => none
/-- The buffers of `ldb` and `stb` (R168). -/
def Buf.code : Buf → BitVec 2
  | .w => 0
  | .a => 1
  | .c => 2
def Buf.ofCode (c : BitVec 2) : Option Buf :=
  match c.toNat with
  | 0 => some .w
  | 1 => some .a
  | 2 => some .c
  | _ => none
/-- The counts of `ldb` and `stb` (R168). -/
def Cnt.code : Cnt → BitVec 2
  | .x1 => 0
  | .x2 => 1
  | .x4 => 2
def Cnt.ofCode (c : BitVec 2) : Option Cnt :=
  match c.toNat with
  | 0 => some .x1
  | 1 => some .x2
  | 2 => some .x4
  | _ => none
/-- The index widths of `ldx` and `stx` (R166). -/
def IdxW.code : IdxW → BitVec 2
  | .w8 => 0
  | .w16 => 1
  | .w32 => 2
  | .w64 => 3
def IdxW.ofCode (c : BitVec 2) : IdxW :=
  match c.toNat with
  | 0 => .w8
  | 1 => .w16
  | 2 => .w32
  | _ => .w64
/-- The scale codes of `ldx` and `stx` (R166). -/
def Scale.code : Scale → BitVec 3
  | .x1 => 0
  | .x2 => 1
  | .x4 => 2
  | .x8 => 3
  | .x16 => 4
def Scale.ofCode (c : BitVec 3) : Option Scale :=
  match c.toNat with
  | 0 => some .x1
  | 1 => some .x2
  | 2 => some .x4
  | 3 => some .x8
  | 4 => some .x16
  | _ => none
/-- The operation codes of the atomics (R172). -/
def AOp.code : AOp → BitVec 4
  | .add => 0
  | .min => 1
  | .max => 2
  | .minn => 3
  | .maxn => 4
  | .conj => 5
  | .disj => 6
  | .xor => 7
  | .exch => 8
  | .cas => 9
  | .inc => 10
  | .dec => 11
def AOp.ofCode (c : BitVec 4) : Option AOp :=
  match c.toNat with
  | 0 => some .add
  | 1 => some .min
  | 2 => some .max
  | 3 => some .minn
  | 4 => some .maxn
  | 5 => some .conj
  | 6 => some .disj
  | 7 => some .xor
  | 8 => some .exch
  | 9 => some .cas
  | 10 => some .inc
  | 11 => some .dec
  | _ => none
/-- The order codes of the atomics (R171). -/
def AOrd.code : AOrd → BitVec 2
  | .rlx => 0
  | .acq => 1
  | .rel => 2
  | .acqrel => 3
def AOrd.ofCode (c : BitVec 2) : AOrd :=
  match c.toNat with
  | 0 => .rlx
  | 1 => .acq
  | 2 => .rel
  | _ => .acqrel
/-- The use codes of the atomics (R171). -/
def AUse.code : AUse → BitVec 3
  | .unp => 0
  | .com => 1
  | .nor => 2
  | .qtm => 3
  | .spc => 4
def AUse.ofCode (c : BitVec 3) : Option AUse :=
  match c.toNat with
  | 0 => some .unp
  | 1 => some .com
  | 2 => some .nor
  | 3 => some .qtm
  | 4 => some .spc
  | _ => none

/-- A source field: kind [9:8], number [7:0] (R76, R77). -/
def Src.code : Src → BitVec 10
  | .v n => 0#2 ++ n
  | .b n => 1#2 ++ (0#6 ++ n)
  | .s n => 2#2 ++ (0#2 ++ n)
  | .imm n => 3#2 ++ (match n with
    | .sx => 0#8
    | .zx => 1#8
    | .f32 => 2#8
    | .f64 => 3#8
    | .pk => 4#8)
def Slot.ofCode (c : BitVec 8) : Option Slot :=
  match c.toNat with
  | 0 => some .sx
  | 1 => some .zx
  | 2 => some .f32
  | 3 => some .f64
  | 4 => some .pk
  | _ => none
def Src.ofCode (c : BitVec 10) : Option Src :=
  let n := c.extractLsb' 0 8
  match (c.extractLsb' 8 2).toNat with
  | 0 => some (.v n)
  | 1 => if n.extractLsb' 2 6 = 0 then some (.b (n.extractLsb' 0 2)) else none
  | 2 => if n.extractLsb' 6 2 = 0 then some (.s (n.extractLsb' 0 6)) else none
  | _ => (Slot.ofCode n).map .imm

/-! ## Scalar words -/

/-- A scalar word cut into the fields common to its formats (R68): major, sd, sa and the low 14 bits. -/
structure SWord where
  maj : BitVec 6
  sd : BitVec 6
  sa : BitVec 6
  lo : BitVec 14
  deriving DecidableEq, Repr

/-- Cuts a scalar word (R68). -/
def SWord.ofBits (w : W32) : SWord := ⟨w.extractLsb' 26 6, w.extractLsb' 20 6, w.extractLsb' 14 6, w.extractLsb' 0 14⟩
/-- Joins a scalar word (R68). -/
def SWord.toBits (x : SWord) : W32 := x.maj ++ (x.sd ++ (x.sa ++ x.lo))
/-- The sb field of the R format. -/
def SWord.sb (x : SWord) : BitVec 6 := x.lo.extractLsb' 8 6
/-- The func field of the R format. -/
def SWord.func (x : SWord) : BitVec 8 := x.lo.extractLsb' 0 8
/-- The qualifier nibble func [3:0] (R72). -/
def SWord.q (x : SWord) : BitVec 4 := x.lo.extractLsb' 0 4
/-- The selecting nibble func [7:4] (R72). -/
def SWord.hiq (x : SWord) : BitVec 4 := x.lo.extractLsb' 4 4
/-- The predicate of the B format (R68). -/
def SWord.bp (x : SWord) : PReg := x.sd.extractLsb' 3 3
/-- The negate bit of the B format. -/
def SWord.bneg (x : SWord) : Bool := x.sd.getLsbD 2
/-- disp22 of the B format. -/
def SWord.disp (x : SWord) : BitVec 22 := x.sd.extractLsb' 0 2 ++ (x.sa ++ x.lo)

/-- An R-format word. -/
def SWord.r (maj : BitVec 6) (sd sa sb : BitVec 6) (func : BitVec 8) : SWord := ⟨maj, sd, sa, sb ++ func⟩
/-- An R-format word of a group whose func [7:4] selects and [3:0] qualifies (R72). -/
def SWord.rq (maj : BitVec 6) (sd sa sb : BitVec 6) (hi q : BitVec 4) : SWord := ⟨maj, sd, sa, sb ++ (hi ++ q)⟩
/-- A B-format word. -/
def SWord.b (maj : BitVec 6) (p : PReg) (neg : Bool) (disp : BitVec 22) : SWord :=
  ⟨maj, p ++ (BitVec.ofBool neg ++ disp.extractLsb' 20 2), disp.extractLsb' 14 6, disp.extractLsb' 0 14⟩

/-- Accept the instruction if the word's unused fields are zero. -/
def okIf (c : Bool) (e : Reject) (i : Instr) : Except Reject Instr := if c then .ok i else .error e
/-- Accept if the field holds a listed value. -/
def okSome {α : Type} (o : Option α) (e : Reject) (k : α → Except Reject Instr) : Except Reject Instr :=
  match o with
  | some a => k a
  | none => .error e

/-- The ALU group (R72). -/
def decodeAlu (x : SWord) : Except Reject Instr :=
  match x.func.toNat with
  | 0x00 => .ok (.sadd x.sd x.sa x.sb)
  | 0x01 => .ok (.ssub x.sd x.sa x.sb)
  | 0x02 => .ok (.smul x.sd x.sa x.sb)
  | 0x03 => .ok (.smulh x.sd x.sa x.sb)
  | 0x08 => .ok (.sand x.sd x.sa x.sb)
  | 0x09 => .ok (.sor x.sd x.sa x.sb)
  | 0x0A => .ok (.sxor x.sd x.sa x.sb)
  | 0x0B => .ok (.sandn x.sd x.sa x.sb)
  | 0x10 => .ok (.sshl x.sd x.sa x.sb)
  | 0x11 => .ok (.sshr x.sd x.sa x.sb)
  | 0x12 => .ok (.ssar x.sd x.sa x.sb)
  | 0x18 => .ok (.smin x.sd x.sa x.sb)
  | 0x19 => .ok (.smax x.sd x.sa x.sb)
  | 0x1A => .ok (.sminn x.sd x.sa x.sb)
  | 0x1B => .ok (.smaxn x.sd x.sa x.sb)
  | 0x20 => okIf (x.sb == 0) .reserved (.smov x.sd x.sa)
  | _ =>
    if x.func.extractLsb' 3 5 = 5 then
      okIf (x.sd.extractLsb' 3 3 == 0) .reserved
        (.scmp (Cond.ofCode (x.func.extractLsb' 0 3)) (x.sd.extractLsb' 0 3) x.sa x.sb)
    else if x.func.extractLsb' 3 5 = 6 then .ok (.ssel x.sd (x.func.extractLsb' 0 3) x.sa x.sb)
    else .error .func

/-- The control group (R72). -/
def decodeControl (x : SWord) : Except Reject Instr :=
  match x.func.toNat with
  | 0 => okIf (x.sd == 0 && x.sa == 0 && x.sb == 0) .reserved .ret
  | 1 => okIf (x.sd == 0 && x.sb == 0) .reserved (.jr x.sa)
  | 2 => okIf (x.sd == 0 && x.sa == 0 && x.sb == 0) .reserved .exit
  | 3 => okIf (x.sd == 0 && x.sa == 0 && x.sb == 0) .reserved .yield
  | 4 => okIf (x.sd == 0 && x.sa == 0 && x.sb == 0) .reserved .join
  | 5 =>
    if x.sd = 0 then okIf (x.sa == 0 && x.sb == 0) .reserved .rett
    else okIf (x.sd == 1 && x.sa == 0 && x.sb == 0) .reserved .rettSkip
  | _ => .error .func

/-- The warp group (R72, R202, R275). -/
def decodeWarp (x : SWord) : Except Reject Instr :=
  match x.func.toNat with
  | 0 => okIf (x.sd.extractLsb' 4 2 == 0 && x.sb == 0) .reserved (.regroup (x.sd.extractLsb' 0 4) x.sa)
  | 1 => okIf (x.sb == 0) .reserved (.loc x.sd x.sa)
  | _ => .error .func

/-- The handle in the sd field of the matrix group. -/
def SWord.h (x : SWord) : AReg := x.sd.extractLsb' 0 4
/-- The sd field of a handle word has bits [5:4] zero. -/
def SWord.hOk (x : SWord) : Bool := x.sd.extractLsb' 4 2 == 0

/-- The matrix group (R72, R246). -/
def decodeMatrix (x : SWord) : Except Reject Instr :=
  let q := x.q
  match x.hiq.toNat with
  | 0 =>
    if q.extractLsb' 1 2 = 0 then okIf x.hOk .reserved (.mma x.h x.sa x.sb (q.getLsbD 3) (q.getLsbD 0)) else .error .func
  | 1 => if q.extractLsb' 1 3 = 0 then okIf x.hOk .reserved (.mmg x.h x.sa x.sb (q.getLsbD 0)) else .error .func
  | 2 =>
    if q.getLsbD 2 then
      if q.getLsbD 1 then .error .func else okIf x.hOk .reserved (.mmtSolo x.h x.sa x.sb (q.getLsbD 3) (q.getLsbD 0))
    else okIf x.hOk .reserved (.mmt x.h x.sa x.sb (q.getLsbD 3) (q.getLsbD 1) (q.getLsbD 0))
  | 3 => if q.extractLsb' 1 3 = 0 then okIf x.hOk .reserved (.mmw x.h x.sa x.sb (q.getLsbD 0)) else .error .func
  | 4 => if q = 0 then okIf (x.sd == 0 && x.sa == 0 && x.sb == 0) .reserved .tskip else .error .func
  | 5 => if q = 0 then okIf (x.hOk && x.sb == 0) .reserved (.accZero x.h x.sa) else .error .func
  | 6 => if q = 0 then okIf x.hOk .reserved (.accLd x.h x.sa x.sb) else .error .func
  | 7 => if q = 0 then okIf (x.hOk && x.sa == 0) .reserved (.accSt x.h x.sb) else .error .func
  | 8 =>
    okSome (RMode.ofCode (q.extractLsb' 0 3)) .func fun rm =>
      okIf (x.hOk && x.sa == 0) .reserved (.accCvt x.h x.sb (q.getLsbD 3) rm)
  | 9 => if q.extractLsb' 2 2 = 0 then .ok (.nnPush x.sd x.sa x.sb (Dir.ofCode (q.extractLsb' 0 2))) else .error .func
  | 10 => if q.extractLsb' 2 2 = 0 then .ok (.nnPull x.sd x.sa x.sb (Dir.ofCode (q.extractLsb' 0 2))) else .error .func
  | _ => .error .func

/-- The engine group (R72, R343). -/
def decodeEngine (x : SWord) : Except Reject Instr :=
  let q := x.q
  match x.hiq.toNat with
  | 0 => if q.extractLsb' 1 3 = 0 then .ok (.cpy x.sd x.sa x.sb (q.getLsbD 0)) else .error .func
  | 1 => if q.extractLsb' 1 3 = 0 then .ok (.gath x.sd x.sa x.sb (q.getLsbD 0)) else .error .func
  | 2 => if q = 0 then .ok (.mig x.sd x.sa x.sb) else .error .func
  | 3 => if q.extractLsb' 1 3 = 0 then .ok (.prefS x.sd x.sa x.sb (q.getLsbD 0)) else .error .func
  | _ => .error .func

/-- The synchronisation group (R72, R295). -/
def decodeSync (x : SWord) : Except Reject Instr :=
  let q := x.q
  match x.hiq.toNat with
  | 0 =>
    if q.getLsbD 3 then .error .func
    else okSome (Scope.ofCode (q.extractLsb' 0 3)) .func fun sc => okIf (x.sd == 0 && x.sa == 0 && x.sb == 0) .reserved (.fence sc)
  | 1 => if q.extractLsb' 1 3 = 0 then okIf (x.sb == 0) .reserved (.arv x.sd x.sa (q.getLsbD 0)) else .error .func
  | 2 => if q.extractLsb' 1 3 = 0 then okIf (x.sb == 0) .reserved (.wait x.sd x.sa (q.getLsbD 0)) else .error .func
  | 3 => if q = 0 then okIf (x.sd == 0) .reserved (.barInit x.sa x.sb) else .error .func
  | 4 => if q = 0 then .ok (.tlw x.sd x.sa x.sb) else .error .func
  | 5 => if q.extractLsb' 1 3 = 0 then okIf (x.sb == 0) .reserved (.tlr x.sd x.sa (q.getLsbD 0)) else .error .func
  | 6 => if q = 0 then okIf (x.sd == 0 && x.sa == 0 && x.sb == 0) .reserved .qend else .error .func
  | 7 => if q = 0 then okIf (x.sd == 0 && x.sb == 0) .reserved (.tspec x.sa) else .error .func
  | 8 => if q = 0 then okIf (x.sd == 0 && x.sa == 0 && x.sb == 0) .reserved .tabort else .error .func
  | 9 => if q = 0 then okIf (x.sd == 0) .reserved (.seal x.sa x.sb) else .error .func
  | 10 => if q = 0 then okIf (x.sd == 0) .reserved (.unseal x.sa x.sb) else .error .func
  | 11 =>
    match q.toNat with
    | 0 => .ok (.mbxPost x.sd x.sa x.sb)
    | 1 => .ok (.mbxPostWait x.sd x.sa x.sb)
    | 2 => .ok (.mbxPostTl x.sd x.sa x.sb)
    | _ => .error .func
  | _ => .error .func

/-- The deque group (R72, R222). -/
def decodeDeque (x : SWord) : Except Reject Instr :=
  match x.func.toNat with
  | 0 => okIf (x.sd.extractLsb' 3 3 == 0 && x.sb == 0) .reserved (.dqPush (x.sd.extractLsb' 0 3) x.sa)
  | 1 => okIf (x.sa == 0 && x.sb.extractLsb' 3 3 == 0) .reserved (.dqPop x.sd (x.sb.extractLsb' 0 3))
  | 2 =>
    okIf (x.sa == 0 && !x.sb.getLsbD 5) .reserved (.dqTake x.sd (x.sb.extractLsb' 0 3) (x.sb.getLsbD 3) (x.sb.getLsbD 4))
  | _ => .error .func

/-- The privileged group (R72). The words whose operation a register selects decode to the first of their rows (R368, R374, R409);
`rowOf` of the machine resolves them when the word issues. -/
def decodePriv (x : SWord) : Except Reject Instr :=
  match x.func.toNat with
  | 0 => .ok (.partNew x.sd x.sa x.sb)
  | 1 => .ok (.partSet x.sd x.sa x.sb)
  | 2 => .ok (.partBindRun x.sd x.sa x.sb)
  | 3 => .ok (.vfBind x.sd x.sa x.sb)
  | 4 => .ok (.catSet x.sd x.sa x.sb)
  | 5 => .ok (.mbxBind x.sd x.sa x.sb)
  | 6 => okIf (x.sb == 0) .reserved (.halt x.sd x.sa)
  | 7 => okIf (x.sb == 0) .reserved (.stop x.sd x.sa)
  | 8 => .ok (.clr x.sd x.sa x.sb)
  | 9 => .ok (.ckpt x.sd x.sa x.sb)
  | 10 => .ok (.rest x.sd x.sa x.sb)
  | 11 => .ok (.keyldMeasure x.sd x.sa x.sb)
  | _ => .error .func

/-- An X pair: the prefix and the immediate word (R70). -/
def decodeX (x : SWord) (imm : W32) : Except Reject Instr :=
  if x.lo.extractLsb' 2 6 ≠ 0 then .error .reserved
  else
    let ext := x.lo.extractLsb' 0 2
    let arith (k : Ext → Except Reject Instr) : Except Reject Instr := okSome (Ext.ofCode ext) .ext k
    let plain (i : Instr) : Except Reject Instr := okIf (ext == 0) .ext i
    match x.sb.toNat with
    | 0x01 => arith fun e => .ok (.saddX x.sd x.sa e imm)
    | 0x02 => arith fun e => .ok (.sandX x.sd x.sa e imm)
    | 0x03 => arith fun e => .ok (.sorX x.sd x.sa e imm)
    | 0x04 => arith fun e => .ok (.sxorX x.sd x.sa e imm)
    | 0x06 => arith fun e => .ok (.scmpX (Cond.ofCode (x.sd.extractLsb' 3 3)) (x.sd.extractLsb' 0 3) x.sa e imm)
    | 0x07 => arith fun e => okIf (x.sa == 0) .reserved (.sliX x.sd e imm)
    | 0x08 => plain (.sldN8X x.sd x.sa imm)
    | 0x09 => plain (.sldN16X x.sd x.sa imm)
    | 0x0A => plain (.sldN32X x.sd x.sa imm)
    | 0x0B => plain (.sldN64X x.sd x.sa imm)
    | 0x0C => plain (.sldI8X x.sd x.sa imm)
    | 0x0D => plain (.sldI16X x.sd x.sa imm)
    | 0x0E => plain (.sldI32X x.sd x.sa imm)
    | 0x0F => plain (.sldcX x.sd x.sa imm)
    | 0x14 =>
      if x.sd.extractLsb' 4 2 = 0 ∧ x.sa = 0 then
        plain (.split (x.sd.extractLsb' 0 4) (imm.extractLsb' 16 16) (imm.extractLsb' 0 16))
      else .error .reserved
    | 0x20 => plain (.sstN8X x.sd x.sa imm)
    | 0x21 => plain (.sstN16X x.sd x.sa imm)
    | 0x22 => plain (.sstN32X x.sd x.sa imm)
    | 0x23 => plain (.sstN64X x.sd x.sa imm)
    | _ => .error .xop

/-- Whether a scalar word is an X prefix, so that a second word belongs to it (R70). -/
def isPrefix (w : W32) : Bool := w.extractLsb' 26 6 == 0x3F

/-- A scalar word by its major opcode (R71); `imm` is the word after it, read only by an X prefix. -/
def decodeSWord (x : SWord) (imm : W32) : Except Reject Instr :=
  match x.maj.toNat with
  | 0x00 => decodeAlu x
  | 0x01 => .ok (.saddImm x.sd x.sa x.lo)
  | 0x02 => .ok (.sandImm x.sd x.sa x.lo)
  | 0x03 => .ok (.sorImm x.sd x.sa x.lo)
  | 0x04 => .ok (.sxorImm x.sd x.sa x.lo)
  | 0x05 =>
    match (x.lo.extractLsb' 6 8).toNat with
    | 0 => .ok (.sshlImm x.sd x.sa (x.lo.extractLsb' 0 6))
    | 1 => .ok (.sshrImm x.sd x.sa (x.lo.extractLsb' 0 6))
    | 2 => .ok (.ssarImm x.sd x.sa (x.lo.extractLsb' 0 6))
    | _ => .error .reserved
  | 0x06 => .ok (.scmpImm (Cond.ofCode (x.sd.extractLsb' 3 3)) (x.sd.extractLsb' 0 3) x.sa x.lo)
  | 0x07 => okIf (x.sa == 0) .reserved (.sli x.sd x.lo)
  | 0x08 => .ok (.sldN8 x.sd x.sa x.lo)
  | 0x09 => .ok (.sldN16 x.sd x.sa x.lo)
  | 0x0A => .ok (.sldN32 x.sd x.sa x.lo)
  | 0x0B => .ok (.sldN64 x.sd x.sa x.lo)
  | 0x0C => .ok (.sldI8 x.sd x.sa x.lo)
  | 0x0D => .ok (.sldI16 x.sd x.sa x.lo)
  | 0x0E => .ok (.sldI32 x.sd x.sa x.lo)
  | 0x0F => .ok (.sldc x.sd x.sa x.lo)
  | 0x10 => .ok (.bc x.bp x.bneg x.disp)
  | 0x11 => .ok (.call x.bp x.bneg x.disp)
  | 0x12 => okIf (x.sa == 0) .reserved (.loop x.sd x.lo)
  | 0x13 => decodeControl x
  | 0x18 => .ok (.lx x.sd (x.sa ++ x.lo))
  | 0x19 => okIf (x.sa == 0 && x.lo.extractLsb' 9 5 == 0) .reserved (.srd x.sd (x.lo.extractLsb' 0 9))
  | 0x1A => okIf (x.sd == 0 && x.lo.extractLsb' 9 5 == 0) .reserved (.swr (x.lo.extractLsb' 0 9) x.sa)
  | 0x20 => .ok (.sstN8 x.sd x.sa x.lo)
  | 0x21 => .ok (.sstN16 x.sd x.sa x.lo)
  | 0x22 => .ok (.sstN32 x.sd x.sa x.lo)
  | 0x23 => .ok (.sstN64 x.sd x.sa x.lo)
  | 0x24 => decodeWarp x
  | 0x25 => decodeMatrix x
  | 0x26 => decodeEngine x
  | 0x27 => decodeSync x
  | 0x28 => decodeDeque x
  | 0x2A => okIf (x.sd.extractLsb' 2 4 == 0) .reserved (.tcommit x.disp)
  | 0x2C => decodePriv x
  | 0x2E => okIf (x.sd == 0 && x.sa == 0) .reserved (.trap x.lo)
  | 0x2F => okIf (x.sd == 0 && x.sa == 0) .reserved (.brk x.lo)
  | 0x3F => decodeX x imm
  | _ => .error .major

/-- The scalar decoder: the word at the scalar PC and, for an X prefix, the word after it (R66 check 2, R67). -/
def decodeScalar (w imm : W32) : Except Reject Instr :=
  match decodeSWord (SWord.ofBits w) imm with
  | .error e => .error e
  | .ok i => if i.wf then .ok i else .error .illFormed

/-! ## Lane words -/

/-- A lane word cut into the fields of R75. -/
structure LRaw where
  op : BitVec 10
  ty : BitVec 3
  md : BitVec 5
  wbs : BitVec 1
  dest : BitVec 8
  a : BitVec 10
  b : BitVec 10
  c : BitVec 10
  g0 : BitVec 4
  g1 : BitVec 4
  comb : BitVec 3
  latch : BitVec 3
  hint : BitVec 3
  sched : BitVec 5
  imm : BitVec 17
  deriving DecidableEq, Repr

/-- Cuts a lane word (R75). -/
def LRaw.ofBits (w : BitVec 96) : LRaw :=
  { op := w.extractLsb' 86 10, ty := w.extractLsb' 83 3, md := w.extractLsb' 78 5, wbs := w.extractLsb' 77 1,
    dest := w.extractLsb' 69 8, a := w.extractLsb' 59 10, b := w.extractLsb' 49 10, c := w.extractLsb' 39 10,
    g0 := w.extractLsb' 35 4, g1 := w.extractLsb' 31 4, comb := w.extractLsb' 28 3, latch := w.extractLsb' 25 3,
    hint := w.extractLsb' 22 3, sched := w.extractLsb' 17 5, imm := w.extractLsb' 0 17 }
/-- Joins a lane word (R75). -/
def LRaw.toBits (r : LRaw) : BitVec 96 :=
  r.op ++ (r.ty ++ (r.md ++ (r.wbs ++ (r.dest ++ (r.a ++ (r.b ++ (r.c ++ (r.g0 ++ (r.g1 ++ (r.comb ++ (r.latch ++
    (r.hint ++ (r.sched ++ r.imm)))))))))))))

/-- The latch-write field (R81): disabled only as all zero. -/
def latchOfCode (c : BitVec 3) : Option (Option (BitVec 2)) :=
  if c.getLsbD 2 then some (some (c.extractLsb' 0 2)) else if c = 0 then some none else none
/-- The latch-write field's code. -/
def latchCode : Option (BitVec 2) → BitVec 3
  | some n => 1#1 ++ n
  | none => 0

/-- The guard fields (R75, R80): combine [2] OR, [1] invert g0, [0] invert g1. -/
def Guard.ofCodes (g0 g1 : BitVec 4) (comb : BitVec 3) : Guard :=
  ⟨g0, g1, comb.getLsbD 2, comb.getLsbD 1, comb.getLsbD 0⟩
/-- The combine field's code. -/
def Guard.comb (g : Guard) : BitVec 3 := BitVec.ofBool g.disj ++ (BitVec.ofBool g.inv0 ++ BitVec.ofBool g.inv1)

/-- The common fields of a lane word, with the imm17 that is left to them. -/
def LRaw.hdr (r : LRaw) (imm : BitVec 17) : Except Reject LaneHdr :=
  match Src.ofCode r.a, Src.ofCode r.b, Src.ofCode r.c, latchOfCode r.latch with
  | some a, some b, some c, some l =>
    .ok { wbs := r.wbs.getLsbD 0, dest := r.dest, a := a, b := b, c := c, guard := Guard.ofCodes r.g0 r.g1 r.comb, latch := l,
          hint := r.hint, stall := r.sched.extractLsb' 1 4, yld := r.sched.getLsbD 0, imm := imm }
  | _, _, _, none => .error .modifier
  | _, _, _, _ => .error .source

/-- The fields of `cvt` (R142). -/
def decodeCvtArgs (r : LRaw) : Option CvtArgs :=
  let im := r.imm
  let ty (int : Bool) (c : BitVec 3) : Option CvtTy := if int then (ITy.ofCode c).map .int else (Fmt.ofCode c).map .flt
  match ty (im.getLsbD 4) r.ty, ty (im.getLsbD 3) (im.extractLsb' 0 3), RMode.ofCode (r.md.extractLsb' 2 3) with
  | some d, some s, some rm =>
    if im.extractLsb' 12 5 = 0 ∧ im.getLsbD 5 = false then
      some { dst := d, src := s, rm := rm, insert := r.md.getLsbD 1, sat := r.md.getLsbD 0, se := im.extractLsb' 6 3,
             de := im.extractLsb' 9 3 }
    else none
  | _, _, _ => none

/-- The fields of `ldx` and `stx` (R166). -/
def decodeIdxArgs (r : LRaw) : Option IdxArgs :=
  if r.md.extractLsb' 0 2 = 0 then
    (Scale.ofCode (r.imm.extractLsb' 14 3)).map fun sc =>
      { width := IdxW.ofCode (r.md.extractLsb' 3 2), signed := r.md.getLsbD 2, scale := sc, off := r.imm.extractLsb' 0 14 }
  else none

/-- The fields of `atom` and `ared` (R171). -/
def decodeAtomArgs (r : LRaw) : Option AtomArgs :=
  match AOp.ofCode (r.md.extractLsb' 1 4), Scope.ofCode (r.imm.extractLsb' 14 3), AUse.ofCode (r.imm.extractLsb' 9 3) with
  | some op, some sc, some u =>
    some { op := op, spad := r.md.getLsbD 0, scope := sc, ord := AOrd.ofCode (r.imm.extractLsb' 12 2), use := u,
           off := r.imm.extractLsb' 0 9 }
  | _, _, _ => none

/-- The acquire or release field of `ld` and `st` (R166): [82] on, [81:79] scope, [78] zero. -/
def decodeAcq (md : BitVec 5) : Option (Option Scope) :=
  if md.getLsbD 0 then none
  else if md.getLsbD 4 then (Scope.ofCode (md.extractLsb' 1 3)).map some
  else if md = 0 then some none
  else none

/-- Type and modifier of a lane word, over the header `h` (R84, R85, R130, R137 to R145, R149 to R152, R166 to R171). The shape of the
header is checked afterwards by `Instr.wf`. -/
def decodeLaneOp (r : LRaw) (h : LaneHdr) : Except Reject Instr :=
  let md := r.md
  let m0 := md.getLsbD 0
  let m1 := md.getLsbD 1
  let int (k : ITy → Except Reject Instr) : Except Reject Instr := okSome (ITy.ofCode r.ty) .typeCode k
  let bits (k : BTy → Except Reject Instr) : Except Reject Instr := okSome (BTy.ofCode r.ty) .typeCode k
  let flt (k : FTy → Except Reject Instr) : Except Reject Instr := okSome (FTy.ofCode r.ty) .typeCode k
  let mem (k : MTy → Except Reject Instr) : Except Reject Instr := okSome (MTy.ofCode r.ty) .typeCode k
  let rnd (k : RMode → Except Reject Instr) : Except Reject Instr := okSome (RMode.ofCode (md.extractLsb' 2 3)) .modifier k
  let only0 (i : Instr) : Except Reject Instr := okIf (md.extractLsb' 1 4 == 0) .modifier i
  let zero (i : Instr) : Except Reject Instr := okIf (md == 0) .modifier i
  let norm (i : Instr) : Except Reject Instr := okIf (md.extractLsb' 2 3 == 0) .modifier i
  let spec (i : Instr) : Except Reject Instr := if r.ty = 0 then zero i else .error .typeCode
  match r.op.toNat with
  | 0x001 => int fun t => only0 (.iadd h t m0)
  | 0x002 => int fun t => only0 (.isub h t m0)
  | 0x003 => int fun t => zero (.imul h t)
  | 0x004 => int fun t => zero (.imulh h t)
  | 0x005 => int fun t => only0 (.imad h t m0)
  | 0x006 => int fun t => zero (.imin h t)
  | 0x007 => int fun t => zero (.imax h t)
  | 0x008 => okSome (SgTy.ofCode r.ty) .typeCode fun t => only0 (.iabs h t m0)
  | 0x010 => bits fun t => zero (.and h t)
  | 0x011 => bits fun t => zero (.or h t)
  | 0x012 => bits fun t => zero (.xor h t)
  | 0x013 => bits fun t => zero (.not h t)
  | 0x014 => bits fun t => only0 (.shl h t m0)
  | 0x015 => bits fun t => only0 (.shr h t m0)
  | 0x016 => bits fun t => only0 (.sar h t m0)
  | 0x018 => okSome (bfeOfCode r.ty) .typeCode fun sg => zero (.bfe h sg)
  | 0x019 => if r.ty = 4 then zero (.bfi h) else .error .typeCode
  | 0x01A => bits fun t => zero (.popc h t)
  | 0x01B => bits fun t => zero (.clz h t)
  | 0x01C => bits fun t => zero (.brev h t)
  | 0x020 =>
    int fun t => okSome (Comb.ofCode (md.extractLsb' 3 2)) .modifier fun cb =>
      okSome (ICond.ofCode (md.extractLsb' 0 3)) .modifier fun cc => .ok (.iset h t cc cb)
  | 0x021 => bits fun t => .ok (.sel h t (md.getLsbD 4) (md.extractLsb' 0 4))
  | 0x022 => bits fun t => zero (.mov h t)
  | 0x041 => flt fun t => rnd fun rm => .ok (.fadd h t rm m1 m0)
  | 0x042 => flt fun t => rnd fun rm => .ok (.fsub h t rm m1 m0)
  | 0x043 => flt fun t => rnd fun rm => .ok (.fmul h t rm m1 m0)
  | 0x044 => flt fun t => rnd fun rm => .ok (.ffma h t rm m1 m0)
  | 0x045 => flt fun t => only0 (.fmin h t m0)
  | 0x046 => flt fun t => only0 (.fmax h t m0)
  | 0x048 => flt fun t => norm (.fset h t (FCond.ofCode (md.extractLsb' 0 2)))
  | 0x049 => flt fun t => rnd fun rm => okIf (!m1) .modifier (.frnd h t rm m0)
  | 0x04A => flt fun t => zero (.fclass h t)
  | 0x04B => okSome (decodeCvtArgs r) .modifier fun k => .ok (.cvt h k)
  | 0x081 => spec (.rcp h)
  | 0x082 => spec (.rsq h)
  | 0x083 => spec (.sqrt h)
  | 0x084 => spec (.exp2 h)
  | 0x085 => spec (.log2 h)
  | 0x086 => spec (.sin h)
  | 0x087 => spec (.cos h)
  | 0x088 => spec (.tanh h)
  | 0x0A1 => okSome (PTy.ofCode r.ty) .typeCode fun t => rnd fun rm => .ok (.pkfma h t rm m1 m0)
  | 0x0A2 => okSome (D4Ty.ofCode r.ty) .typeCode fun t => rnd fun rm => .ok (.dp4 h t rm m1 m0)
  | 0x0A3 => okSome (dp8OfCode r.ty) .typeCode fun sg => norm (.dp8 h sg m1 m0)
  | 0x0C1 => bits fun t => okIf (md.extractLsb' 0 2 == 0) .modifier (.shfl h t (ShMode.ofCode (md.extractLsb' 3 2)) (md.getLsbD 2))
  | 0x0C2 =>
    okSome (XTy.ofCode r.ty) .typeCode fun t => okSome (ROp.ofCode (md.extractLsb' 2 3)) .modifier fun op =>
      okIf (!m1) .modifier (.xred h t op m0)
  | 0x0C3 =>
    okSome (XTy.ofCode r.ty) .typeCode fun t => okSome (ROp.ofCode (md.extractLsb' 2 3)) .modifier fun op =>
      .ok (.xscan h t op m1 m0)
  | 0x0C4 =>
    if r.ty = 4 then okIf (md.extractLsb' 0 3 == 0) .modifier (.vote h (VMode.ofCode (md.extractLsb' 3 2))) else .error .typeCode
  | 0x0C5 => bits fun t => zero (.matchLanes h t)
  | 0x0C6 =>
    if r.ty = 4 then
      okSome (LSel.ofCode (md.extractLsb' 2 3)) .modifier fun sl => okIf (md.extractLsb' 0 2 == 0) .modifier (.laneid h sl)
    else .error .typeCode
  | 0x101 => mem fun t => okSome (decodeAcq md) .modifier fun a => .ok (.ld h t a)
  | 0x102 => mem fun t => okSome (decodeAcq md) .modifier fun a => .ok (.st h t a)
  | 0x103 => mem fun t => okSome (decodeIdxArgs r) .modifier fun x => .ok (.ldx h t x)
  | 0x104 => mem fun t => okSome (decodeIdxArgs r) .modifier fun x => .ok (.stx h t x)
  | 0x105 => mem fun t => zero (.lds h t)
  | 0x106 => mem fun t => zero (.sts h t)
  | 0x107 =>
    mem fun t => okSome (Buf.ofCode (md.extractLsb' 3 2)) .modifier fun b =>
      okSome (Cnt.ofCode (md.extractLsb' 1 2)) .modifier fun c => okIf (!m0) .modifier (.ldb h t b c)
  | 0x108 =>
    mem fun t => okSome (Buf.ofCode (md.extractLsb' 3 2)) .modifier fun b =>
      okSome (Cnt.ofCode (md.extractLsb' 1 2)) .modifier fun c => okIf (!m0) .modifier (.stb h t b c)
  | 0x109 => okSome (ATy.ofCode r.ty) .typeCode fun t => okSome (decodeAtomArgs r) .modifier fun k => .ok (.atom h t k)
  | 0x10A => okSome (ATy.ofCode r.ty) .typeCode fun t => okSome (decodeAtomArgs r) .modifier fun k => .ok (.ared h t k)
  | 0x10B => if r.ty = 4 then zero (.pref h) else .error .typeCode
  | _ => .error .opcode

/-- Whether the opcode's own typed fields take imm17 (R142, R166, R171), so that the header keeps none of it. -/
def immInArgs (op : BitVec 10) : Bool :=
  match op.toNat with
  | 0x04B => true
  | 0x103 => true
  | 0x104 => true
  | 0x109 => true
  | 0x10A => true
  | _ => false

/-- The lane decoder on the fields of a word (R66 check 2). -/
def decodeLRaw (r : LRaw) : Except Reject Instr :=
  match r.hdr (if immInArgs r.op then 0 else r.imm) with
  | .error e => .error e
  | .ok h =>
    match decodeLaneOp r h with
    | .error e => .error e
    | .ok i => if i.wf then .ok i else .error .illFormed

/-- The lane decoder (R66 check 2, R67, R75). DEDUCED, log 26. -/
def decodeLane (w : BitVec 96) : Except Reject Instr := decodeLRaw (LRaw.ofBits w)

/-! ## Bytes -/

/-- Bytes as a number, the byte at the lowest address least significant (R7). -/
def bytesToNat : List Byte → Nat
  | [] => 0
  | b :: bs => b.toNat + 256 * bytesToNat bs
/-- The `n` low bytes of a number, lowest address first (R7). -/
def natToBytes : Nat → Nat → List Byte
  | 0, _ => []
  | n + 1, x => BitVec.ofNat 8 x :: natToBytes n (x / 256)

/-- Decodes the words of one instruction. -/
def decodeWords : Words → Except Reject Instr
  | .scalar w => if isPrefix w then .error .truncated else decodeScalar w 0
  | .pair w imm => if isPrefix w then decodeScalar w imm else .error .xop
  | .lane w => decodeLane w

/-- The scalar decoder on bytes: the instruction and the bytes after it. -/
def decodeBytes (bs : List Byte) : Except Reject (Instr × List Byte) :=
  if bs.length < 4 then .error .truncated
  else
    let w : W32 := BitVec.ofNat 32 (bytesToNat (bs.take 4))
    if isPrefix w then
      if bs.length < 8 then .error .truncated
      else (decodeScalar w (BitVec.ofNat 32 (bytesToNat ((bs.drop 4).take 4)))).map fun i => (i, bs.drop 8)
    else (decodeScalar w 0).map fun i => (i, bs.drop 4)

/-- The lane decoder on bytes. -/
def decodeLaneBytes (bs : List Byte) : Except Reject (Instr × List Byte) :=
  if bs.length < 12 then .error .truncated
  else (decodeLane (BitVec.ofNat 96 (bytesToNat (bs.take 12)))).map fun i => (i, bs.drop 12)

/-! ## The encoder -/

/-- The scalar word of an instruction, or the prefix and immediate word of an X pair. -/
def encodeSWord : Instr → Option (SWord × Option W32)
  | .sadd d a b => some (.r 0 d a b 0x00, none)
  | .ssub d a b => some (.r 0 d a b 0x01, none)
  | .smul d a b => some (.r 0 d a b 0x02, none)
  | .smulh d a b => some (.r 0 d a b 0x03, none)
  | .sand d a b => some (.r 0 d a b 0x08, none)
  | .sor d a b => some (.r 0 d a b 0x09, none)
  | .sxor d a b => some (.r 0 d a b 0x0A, none)
  | .sandn d a b => some (.r 0 d a b 0x0B, none)
  | .sshl d a b => some (.r 0 d a b 0x10, none)
  | .sshr d a b => some (.r 0 d a b 0x11, none)
  | .ssar d a b => some (.r 0 d a b 0x12, none)
  | .smin d a b => some (.r 0 d a b 0x18, none)
  | .smax d a b => some (.r 0 d a b 0x19, none)
  | .sminn d a b => some (.r 0 d a b 0x1A, none)
  | .smaxn d a b => some (.r 0 d a b 0x1B, none)
  | .smov d a => some (.r 0 d a 0 0x20, none)
  | .scmp cc c a b => some (.r 0 (0#3 ++ c) a b (5#5 ++ cc.code), none)
  | .ssel d p a b => some (.r 0 d a b (6#5 ++ p), none)
  | .saddImm d a i => some (⟨0x01, d, a, i⟩, none)
  | .sandImm d a i => some (⟨0x02, d, a, i⟩, none)
  | .sorImm d a i => some (⟨0x03, d, a, i⟩, none)
  | .sxorImm d a i => some (⟨0x04, d, a, i⟩, none)
  | .sshlImm d a n => some (⟨0x05, d, a, 0#8 ++ n⟩, none)
  | .sshrImm d a n => some (⟨0x05, d, a, 1#8 ++ n⟩, none)
  | .ssarImm d a n => some (⟨0x05, d, a, 2#8 ++ n⟩, none)
  | .scmpImm cc c a i => some (⟨0x06, cc.code ++ c, a, i⟩, none)
  | .sli d i => some (⟨0x07, d, 0, i⟩, none)
  | .sldN8 d a i => some (⟨0x08, d, a, i⟩, none)
  | .sldN16 d a i => some (⟨0x09, d, a, i⟩, none)
  | .sldN32 d a i => some (⟨0x0A, d, a, i⟩, none)
  | .sldN64 d a i => some (⟨0x0B, d, a, i⟩, none)
  | .sldI8 d a i => some (⟨0x0C, d, a, i⟩, none)
  | .sldI16 d a i => some (⟨0x0D, d, a, i⟩, none)
  | .sldI32 d a i => some (⟨0x0E, d, a, i⟩, none)
  | .sldc d a i => some (⟨0x0F, d, a, i⟩, none)
  | .bc p n d => some (.b 0x10 p n d, none)
  | .call p n d => some (.b 0x11 p n d, none)
  | .loop d i => some (⟨0x12, d, 0, i⟩, none)
  | .ret => some (.r 0x13 0 0 0 0, none)
  | .jr a => some (.r 0x13 0 a 0 1, none)
  | .exit => some (.r 0x13 0 0 0 2, none)
  | .yield => some (.r 0x13 0 0 0 3, none)
  | .join => some (.r 0x13 0 0 0 4, none)
  | .rett => some (.r 0x13 0 0 0 5, none)
  | .rettSkip => some (.r 0x13 1 0 0 5, none)
  | .lx k d => some (⟨0x18, k, d.extractLsb' 14 6, d.extractLsb' 0 14⟩, none)
  | .srd d n => some (⟨0x19, d, 0, 0#5 ++ n⟩, none)
  | .swr n a => some (⟨0x1A, 0, a, 0#5 ++ n⟩, none)
  | .sstN8 d a i => some (⟨0x20, d, a, i⟩, none)
  | .sstN16 d a i => some (⟨0x21, d, a, i⟩, none)
  | .sstN32 d a i => some (⟨0x22, d, a, i⟩, none)
  | .sstN64 d a i => some (⟨0x23, d, a, i⟩, none)
  | .regroup m a => some (.r 0x24 (0#2 ++ m) a 0 0, none)
  | .loc d a => some (.r 0x24 d a 0 1, none)
  | .mma h a b l z => some (.rq 0x25 (0#2 ++ h) a b 0 (BitVec.ofBool l ++ (0#2 ++ BitVec.ofBool z)), none)
  | .mmg h a b z => some (.rq 0x25 (0#2 ++ h) a b 1 (0#3 ++ BitVec.ofBool z), none)
  | .mmt h a b l f z => some (.rq 0x25 (0#2 ++ h) a b 2 (BitVec.ofBool l ++ (0#1 ++ (BitVec.ofBool f ++ BitVec.ofBool z))), none)
  | .mmtSolo h a b l z => some (.rq 0x25 (0#2 ++ h) a b 2 (BitVec.ofBool l ++ (2#2 ++ BitVec.ofBool z)), none)
  | .mmw h a b z => some (.rq 0x25 (0#2 ++ h) a b 3 (0#3 ++ BitVec.ofBool z), none)
  | .tskip => some (.rq 0x25 0 0 0 4 0, none)
  | .accZero h a => some (.rq 0x25 (0#2 ++ h) a 0 5 0, none)
  | .accLd h a b => some (.rq 0x25 (0#2 ++ h) a b 6 0, none)
  | .accSt h b => some (.rq 0x25 (0#2 ++ h) 0 b 7 0, none)
  | .accCvt h b s rm => some (.rq 0x25 (0#2 ++ h) 0 b 8 (BitVec.ofBool s ++ rm.code), none)
  | .nnPush d a b e => some (.rq 0x25 d a b 9 (0#2 ++ e.code), none)
  | .nnPull d a b e => some (.rq 0x25 d a b 10 (0#2 ++ e.code), none)
  | .cpy d a b y => some (.rq 0x26 d a b 0 (0#3 ++ BitVec.ofBool y), none)
  | .gath d a b y => some (.rq 0x26 d a b 1 (0#3 ++ BitVec.ofBool y), none)
  | .mig d a b => some (.rq 0x26 d a b 2 0, none)
  | .prefS d a b c => some (.rq 0x26 d a b 3 (0#3 ++ BitVec.ofBool c), none)
  | .fence sc => some (.rq 0x27 0 0 0 0 (0#1 ++ sc.code), none)
  | .arv d a x => some (.rq 0x27 d a 0 1 (0#3 ++ BitVec.ofBool x), none)
  | .wait d a t => some (.rq 0x27 d a 0 2 (0#3 ++ BitVec.ofBool t), none)
  | .barInit a b => some (.rq 0x27 0 a b 3 0, none)
  | .tlw d a b => some (.rq 0x27 d a b 4 0, none)
  | .tlr d a q => some (.rq 0x27 d a 0 5 (0#3 ++ BitVec.ofBool q), none)
  | .qend => some (.rq 0x27 0 0 0 6 0, none)
  | .tspec a => some (.rq 0x27 0 a 0 7 0, none)
  | .tabort => some (.rq 0x27 0 0 0 8 0, none)
  | .seal a b => some (.rq 0x27 0 a b 9 0, none)
  | .unseal a b => some (.rq 0x27 0 a b 10 0, none)
  | .mbxPost d a b => some (.rq 0x27 d a b 11 0, none)
  | .mbxPostWait d a b => some (.rq 0x27 d a b 11 1, none)
  | .mbxPostTl d a b => some (.rq 0x27 d a b 11 2, none)
  | .dqPush c a => some (.r 0x28 (0#3 ++ c) a 0 0, none)
  | .dqPop d c => some (.r 0x28 d 0 (0#3 ++ c) 1, none)
  | .dqTake d c w g => some (.r 0x28 d 0 (0#1 ++ (BitVec.ofBool g ++ (BitVec.ofBool w ++ c))) 2, none)
  | .tcommit d => some (⟨0x2A, 0#4 ++ d.extractLsb' 20 2, d.extractLsb' 14 6, d.extractLsb' 0 14⟩, none)
  | .partNew d a b => some (.r 0x2C d a b 0, none)
  | .partSet d a b => some (.r 0x2C d a b 1, none)
  | .partBindRun d a b | .partBindSuspend d a b | .partBindFree d a b => some (.r 0x2C d a b 2, none)
  | .vfBind d a b => some (.r 0x2C d a b 3, none)
  | .catSet d a b => some (.r 0x2C d a b 4, none)
  | .mbxBind d a b | .mbxUnbind d a b => some (.r 0x2C d a b 5, none)
  | .halt d a => some (.r 0x2C d a 0 6, none)
  | .stop d a => some (.r 0x2C d a 0 7, none)
  | .clr d a b => some (.r 0x2C d a b 8, none)
  | .ckpt d a b => some (.r 0x2C d a b 9, none)
  | .rest d a b => some (.r 0x2C d a b 10, none)
  | .keyldMeasure d a b | .keyldReport d a b | .keyldUnbind d a b => some (.r 0x2C d a b 11, none)
  | .trap c => some (⟨0x2E, 0, 0, c⟩, none)
  | .brk c => some (⟨0x2F, 0, 0, c⟩, none)
  | .saddX d a e x => some (.r 0x3F d a 0x01 (0#6 ++ e.code), some x)
  | .sandX d a e x => some (.r 0x3F d a 0x02 (0#6 ++ e.code), some x)
  | .sorX d a e x => some (.r 0x3F d a 0x03 (0#6 ++ e.code), some x)
  | .sxorX d a e x => some (.r 0x3F d a 0x04 (0#6 ++ e.code), some x)
  | .scmpX cc c a e x => some (.r 0x3F (cc.code ++ c) a 0x06 (0#6 ++ e.code), some x)
  | .sliX d e x => some (.r 0x3F d 0 0x07 (0#6 ++ e.code), some x)
  | .sldN8X d a x => some (.r 0x3F d a 0x08 0, some x)
  | .sldN16X d a x => some (.r 0x3F d a 0x09 0, some x)
  | .sldN32X d a x => some (.r 0x3F d a 0x0A 0, some x)
  | .sldN64X d a x => some (.r 0x3F d a 0x0B 0, some x)
  | .sldI8X d a x => some (.r 0x3F d a 0x0C 0, some x)
  | .sldI16X d a x => some (.r 0x3F d a 0x0D 0, some x)
  | .sldI32X d a x => some (.r 0x3F d a 0x0E 0, some x)
  | .sldcX d a x => some (.r 0x3F d a 0x0F 0, some x)
  | .split m e j => some (.r 0x3F (0#2 ++ m) 0 0x14 0, some (e ++ j))
  | .sstN8X d a x => some (.r 0x3F d a 0x20 0, some x)
  | .sstN16X d a x => some (.r 0x3F d a 0x21 0, some x)
  | .sstN32X d a x => some (.r 0x3F d a 0x22 0, some x)
  | .sstN64X d a x => some (.r 0x3F d a 0x23 0, some x)
  | _ => none

/-- The common fields of a lane word, under an opcode, a type, a modifier and an imm17. -/
def LaneHdr.raw (h : LaneHdr) (op : BitVec 10) (ty : BitVec 3) (md : BitVec 5) (imm : BitVec 17) : LRaw :=
  { op := op, ty := ty, md := md, wbs := BitVec.ofBool h.wbs, dest := h.dest, a := h.a.code, b := h.b.code, c := h.c.code,
    g0 := h.guard.g0, g1 := h.guard.g1, comb := h.guard.comb, latch := latchCode h.latch, hint := h.hint,
    sched := h.stall ++ BitVec.ofBool h.yld, imm := imm }

/-- A modifier of one flag in [78]. -/
def mdFlag (b : Bool) : BitVec 5 := 0#4 ++ BitVec.ofBool b
/-- A modifier of a rounding mode in [82:80] and two flags in [79] and [78]. -/
def mdRound (rm : RMode) (hi lo : Bool) : BitVec 5 := rm.code ++ (BitVec.ofBool hi ++ BitVec.ofBool lo)
/-- The modifier of `ld` and `st` (R166). -/
def mdAcq : Option Scope → BitVec 5
  | none => 0
  | some sc => 1#1 ++ (sc.code ++ 0#1)

/-- The type code of a `cvt` side (R142). -/
def CvtTy.code : CvtTy → BitVec 3
  | .flt f => f.code
  | .int t => t.code
/-- imm17 of `cvt` (R142). -/
def CvtArgs.imm (k : CvtArgs) : BitVec 17 :=
  0#5 ++ (k.de ++ (k.se ++ (0#1 ++ (BitVec.ofBool k.dst.isInt ++ (BitVec.ofBool k.src.isInt ++ k.src.code)))))
/-- Modifier of `ldx` and `stx` (R166). -/
def IdxArgs.md (x : IdxArgs) : BitVec 5 := x.width.code ++ (BitVec.ofBool x.signed ++ 0#2)
/-- imm17 of `ldx` and `stx` (R166). -/
def IdxArgs.imm (x : IdxArgs) : BitVec 17 := x.scale.code ++ x.off
/-- Modifier of the atomics (R171). -/
def AtomArgs.md (k : AtomArgs) : BitVec 5 := k.op.code ++ BitVec.ofBool k.spad
/-- imm17 of the atomics (R171). -/
def AtomArgs.imm (k : AtomArgs) : BitVec 17 := k.scope.code ++ (k.ord.code ++ (k.use.code ++ k.off))

/-- The fields of a lane word. -/
def encodeLRaw : Instr → Option LRaw
  | .iadd h t s => some (h.raw 0x001 t.code (mdFlag s) h.imm)
  | .isub h t s => some (h.raw 0x002 t.code (mdFlag s) h.imm)
  | .imul h t => some (h.raw 0x003 t.code 0 h.imm)
  | .imulh h t => some (h.raw 0x004 t.code 0 h.imm)
  | .imad h t s => some (h.raw 0x005 t.code (mdFlag s) h.imm)
  | .imin h t => some (h.raw 0x006 t.code 0 h.imm)
  | .imax h t => some (h.raw 0x007 t.code 0 h.imm)
  | .iabs h t s => some (h.raw 0x008 t.code (mdFlag s) h.imm)
  | .and h t => some (h.raw 0x010 t.code 0 h.imm)
  | .or h t => some (h.raw 0x011 t.code 0 h.imm)
  | .xor h t => some (h.raw 0x012 t.code 0 h.imm)
  | .not h t => some (h.raw 0x013 t.code 0 h.imm)
  | .shl h t c => some (h.raw 0x014 t.code (mdFlag c) h.imm)
  | .shr h t c => some (h.raw 0x015 t.code (mdFlag c) h.imm)
  | .sar h t c => some (h.raw 0x016 t.code (mdFlag c) h.imm)
  | .bfe h sg => some (h.raw 0x018 (bfeCode sg) 0 h.imm)
  | .bfi h => some (h.raw 0x019 4 0 h.imm)
  | .popc h t => some (h.raw 0x01A t.code 0 h.imm)
  | .clz h t => some (h.raw 0x01B t.code 0 h.imm)
  | .brev h t => some (h.raw 0x01C t.code 0 h.imm)
  | .iset h t cc cb => some (h.raw 0x020 t.code (cb.code ++ cc.code) h.imm)
  | .sel h t inv k => some (h.raw 0x021 t.code (BitVec.ofBool inv ++ k) h.imm)
  | .mov h t => some (h.raw 0x022 t.code 0 h.imm)
  | .fadd h t rm x y => some (h.raw 0x041 t.code (mdRound rm x y) h.imm)
  | .fsub h t rm x y => some (h.raw 0x042 t.code (mdRound rm x y) h.imm)
  | .fmul h t rm x y => some (h.raw 0x043 t.code (mdRound rm x y) h.imm)
  | .ffma h t rm x y => some (h.raw 0x044 t.code (mdRound rm x y) h.imm)
  | .fmin h t n => some (h.raw 0x045 t.code (mdFlag n) h.imm)
  | .fmax h t n => some (h.raw 0x046 t.code (mdFlag n) h.imm)
  | .fset h t cc => some (h.raw 0x048 t.code (0#3 ++ cc.code) h.imm)
  | .frnd h t rm e => some (h.raw 0x049 t.code (mdRound rm false e) h.imm)
  | .fclass h t => some (h.raw 0x04A t.code 0 h.imm)
  | .cvt h k => some (h.raw 0x04B k.dst.code (mdRound k.rm k.insert k.sat) k.imm)
  | .rcp h => some (h.raw 0x081 0 0 h.imm)
  | .rsq h => some (h.raw 0x082 0 0 h.imm)
  | .sqrt h => some (h.raw 0x083 0 0 h.imm)
  | .exp2 h => some (h.raw 0x084 0 0 h.imm)
  | .log2 h => some (h.raw 0x085 0 0 h.imm)
  | .sin h => some (h.raw 0x086 0 0 h.imm)
  | .cos h => some (h.raw 0x087 0 0 h.imm)
  | .tanh h => some (h.raw 0x088 0 0 h.imm)
  | .pkfma h t rm x y => some (h.raw 0x0A1 t.code (mdRound rm x y) h.imm)
  | .dp4 h t rm x y => some (h.raw 0x0A2 t.code (mdRound rm x y) h.imm)
  | .dp8 h sg x y => some (h.raw 0x0A3 (dp8Code sg) (0#3 ++ (BitVec.ofBool x ++ BitVec.ofBool y)) h.imm)
  | .shfl h t m w => some (h.raw 0x0C1 t.code (m.code ++ (BitVec.ofBool w ++ 0#2)) h.imm)
  | .xred h t op n => some (h.raw 0x0C2 t.code (op.code ++ (0#1 ++ BitVec.ofBool n)) h.imm)
  | .xscan h t op e n => some (h.raw 0x0C3 t.code (op.code ++ (BitVec.ofBool e ++ BitVec.ofBool n)) h.imm)
  | .vote h m => some (h.raw 0x0C4 4 (m.code ++ 0#3) h.imm)
  | .matchLanes h t => some (h.raw 0x0C5 t.code 0 h.imm)
  | .laneid h sl => some (h.raw 0x0C6 4 (sl.code ++ 0#2) h.imm)
  | .ld h t a => some (h.raw 0x101 t.code (mdAcq a) h.imm)
  | .st h t a => some (h.raw 0x102 t.code (mdAcq a) h.imm)
  | .ldx h t x => some (h.raw 0x103 t.code x.md x.imm)
  | .stx h t x => some (h.raw 0x104 t.code x.md x.imm)
  | .lds h t => some (h.raw 0x105 t.code 0 h.imm)
  | .sts h t => some (h.raw 0x106 t.code 0 h.imm)
  | .ldb h t b c => some (h.raw 0x107 t.code (b.code ++ (c.code ++ 0#1)) h.imm)
  | .stb h t b c => some (h.raw 0x108 t.code (b.code ++ (c.code ++ 0#1)) h.imm)
  | .atom h t k => some (h.raw 0x109 t.code k.md k.imm)
  | .ared h t k => some (h.raw 0x10A t.code k.md k.imm)
  | .pref h => some (h.raw 0x10B 4 0 h.imm)
  | _ => none

/-- The words of an instruction; none for a row without an encoding. -/
def encode (i : Instr) : Option Words :=
  match encodeSWord i with
  | some (x, none) => some (.scalar x.toBits)
  | some (x, some imm) => some (.pair x.toBits imm)
  | none => (encodeLRaw i).map fun r => .lane r.toBits

/-- The encoding as `TRAP_DEST` and `TRAP_DESTH` hold it for `ILLEGAL` (R26, R67): a scalar word in [31:0], an X pair with its immediate
in [63:32], a lane word in [95:0]. -/
def Words.toNat : Words → Nat
  | .scalar w => w.toNat
  | .pair w imm => w.toNat + 2 ^ 32 * imm.toNat
  | .lane w => w.toNat

/-- What this decoder reads from an instruction whose bits, numbered as the opcode table numbers them, are `w`: rows of at most 64 bits are
scalar words and X pairs, wider ones lane words. Bits above `nbits` are zero. -/
def decodeTableWord (nbits w : Nat) : Option Instr :=
  let v := w % 2 ^ nbits
  let r := if nbits ≤ 64 then decodeScalar (BitVec.ofNat 32 v) (BitVec.ofNat 32 (v / 2 ^ 32)) else decodeLane (BitVec.ofNat 96 v)
  match r with
  | .ok i => some i
  | .error _ => none

end Sys2Proof
end

