-- ==== Sys2Proof/Machine/Aes.lean ====
section
/-! DEFINITION. AES-256 as FIPS 197 defines it, and AES-256-XTS over the lines of device memory (R330, NIST SP 800-38E). PRESUMED, log 121. -/

namespace Sys2Proof.Machine

/-! ## The cipher -/

/-- The product of two bytes in the field of AES. -/
def aesMul (a b : Byte) : Byte :=
  ((List.range 8).foldl (fun (r : Byte × Byte) i =>
    (if b.getLsbD i then r.1 ^^^ r.2 else r.1, (r.2 <<< 1) ^^^ if r.2.getLsbD 7 then 0x1B else 0)) (0, a)).1

/-- The inverse of a byte, its 254th power; 0 stays 0. -/
def aesInv (a : Byte) : Byte := (List.range 253).foldl (fun x _ => aesMul x a) a

/-- The substitution of a byte. -/
def aesSub (a : Byte) : Byte :=
  let x := aesInv a
  x ^^^ x.rotateLeft 1 ^^^ x.rotateLeft 2 ^^^ x.rotateLeft 3 ^^^ x.rotateLeft 4 ^^^ 0x63

/-- Bytes, added. -/
def xorBytes (a b : List Byte) : List Byte := a.zipWith (· ^^^ ·) b

/-- The words of the key schedule, the latest first; the fuel counts those to come. -/
def aesWords : Nat → List (List Byte) → List (List Byte)
  | 0, ws => ws
  | k + 1, ws =>
    let i := ws.length
    let t := ws.headD []
    let t :=
      if i % 8 = 0 then xorBytes ((t.drop 1 ++ t.take 1).map aesSub) [(List.range (i / 8 - 1)).foldl (fun x _ => aesMul x 2) 1, 0, 0, 0]
      else if i % 8 = 4 then t.map aesSub else t
    aesWords k (xorBytes (ws.getD 7 []) t :: ws)

/-- The round keys of a 32-byte key. -/
def aesKeys (key : List Byte) : List (List Byte) :=
  let ws := (aesWords 52 ((List.range 8).map fun i => (key.drop (4 * i)).take 4).reverse).reverse
  (List.range 15).map fun r => ((ws.drop (4 * r)).take 4).flatMap id

/-- Rows shifted: byte r of column c comes from column c + r. -/
def aesShift (b : List Byte) : List Byte := (List.range 16).map fun i => b.getD ((i + 4 * (i % 4)) % 16) 0

/-- Columns mixed. -/
def aesMix (b : List Byte) : List Byte :=
  (List.range 16).map fun i =>
    let at' (k : Nat) : Byte := b.getD (i / 4 * 4 + (i + k) % 4) 0
    aesMul 2 (at' 0) ^^^ aesMul 3 (at' 1) ^^^ at' 2 ^^^ at' 3

/-- One block under round keys. -/
def aesBlock (ks : List (List Byte)) (b : List Byte) : List Byte :=
  let b := ((ks.take 14).drop 1).foldl (fun b k => xorBytes (aesMix (aesShift (b.map aesSub))) k) (xorBytes b (ks.headD []))
  xorBytes (aesShift (b.map aesSub)) (ks.getD 14 [])

/-! ## The inverse cipher -/

/-- The byte whose substitution a byte is. -/
def aesUnsub (b : Byte) : Byte := aesInv (b.rotateLeft 1 ^^^ b.rotateLeft 3 ^^^ b.rotateLeft 6 ^^^ 0x05)

/-- Rows shifted back. -/
def aesUnshift (b : List Byte) : List Byte := (List.range 16).map fun i => b.getD ((i + 12 * (i % 4)) % 16) 0

/-- Columns unmixed. -/
def aesUnmix (b : List Byte) : List Byte :=
  (List.range 16).map fun i =>
    let at' (k : Nat) : Byte := b.getD (i / 4 * 4 + (i + k) % 4) 0
    aesMul 14 (at' 0) ^^^ aesMul 11 (at' 1) ^^^ aesMul 13 (at' 2) ^^^ aesMul 9 (at' 3)

/-- The block that round keys make a block of. -/
def aesUnblock (ks : List (List Byte)) (b : List Byte) : List Byte :=
  let b := ((ks.take 14).drop 1).reverse.foldl (fun b k => aesUnmix (xorBytes ((aesUnshift b).map aesUnsub) k)) (xorBytes b (ks.getD 14 []))
  xorBytes ((aesUnshift b).map aesUnsub) (ks.headD [])

/-! ## XTS (R330) -/

/-- The mask of the next block of a data unit. -/
def xtsNext (t : BitVec 128) : BitVec 128 := (t <<< 1) ^^^ if t.getLsbD 127 then 0x87#128 else 0

/-- Blocks of a data unit under a cipher, each between two additions of its mask; the fuel is their number. -/
def xtsBlocks (f : List Byte → List Byte) : BitVec 128 → Nat → List Byte → List Byte
  | _, 0, _ => []
  | t, k + 1, b => xorBytes (f (xorBytes (b.take 16) (natToBytes 16 t.toNat))) (natToBytes 16 t.toNat) ++ xtsBlocks f (xtsNext t) k (b.drop 16)

/-- A line of 128 bytes, encrypted or decrypted under a key of 64 bytes; the tweak is the line's number, pa[51:7] (R330). -/
def xtsLine (seals : Bool) (key : List Byte) (line : Nat) (b : List Byte) : List Byte :=
  let ks := aesKeys (key.take 32)
  let t := BitVec.ofNat 128 (bytesToNat (aesBlock (aesKeys (key.drop 32)) (natToBytes 16 (line % 2 ^ 45))))
  xtsBlocks (if seals then aesBlock ks else aesUnblock ks) t 8 b

end Sys2Proof.Machine
end

