-- ==== Sys2Proof/Machine/State.lean ====
section
/-! DEFINITION. The state of the module as plain data: warps, crews, clusters, partitions, package memory, engines, dies, security block,
host link and fabric. INVENTORY.md lists each field with its rule and its reset value. -/

namespace Sys2Proof.Machine

/-- A table keyed by number; a number with no entry has the default that the reader of the table names. -/
abbrev Tab (α : Type) := List (Nat × α)

/-! ## Memory -/

/-- Bytes and poison. `cells` is canonical: addresses strictly rising, no byte equal to the default 0. `poison` holds the numbers of the
poisoned 8-byte granules (R216, R278, R326), strictly rising. -/
structure Mem where
  cells : List Host.Cell
  poison : List Nat
  deriving DecidableEq, Repr

/-- The place of a physical address (R332 PLACE). -/
inductive Place where
  | device
  | host
  | remote
  deriving DecidableEq, Repr

/-- The key under which a range of lines was written (R330): owner number (0 to 31 a partition, 63 the free pool) and key epoch. -/
structure LineTag where
  lo : Nat
  hi : Nat
  owner : Nat
  epoch : Nat
  deriving DecidableEq, Repr

/-- A range of 4 KiB frames and its owner (R363): 0 to 31 a partition, 63 the free pool, 64 none (retired). The newest entry governs. -/
structure OwnerRange where
  lo : Nat
  hi : Nat
  owner : Nat
  deriving DecidableEq, Repr

/-- A line of a cluster data cache, or a fill on its way to it (R264, R356): the cluster, the place and address of the line, its bytes and
poison, and whether its page is sealed. -/
structure CdcLine where
  cluster : Nat
  place : Place
  line : Nat
  bytes : List Byte
  poison : List Nat
  isSealed : Bool
  /-- the home slice that the line comes from (R327) -/
  home : Nat
  deriving DecidableEq, Repr

/-! ## Warps -/

/-- A bound accumulator handle (R239). -/
structure Handle where
  rows : Nat
  cols : Nat
  base : Nat
  fold : W32
  deriving DecidableEq, Repr

/-- An open lane block (R63, R107): the address of its `lx`, the lane code base and first word it read, its count, the lane PC, the mask
that governs it, the scalar registers its words read (R78), and its latches (R21). -/
structure Block where
  addr : W64
  lcb : W64
  first : Nat
  count : Nat
  lanePc : Nat
  am : Mask
  srcs : Vector W64 64
  latch : Vector (Lanes W32) 4
  alive : BitVec 4
  deriving DecidableEq, Repr

/-- An entry of the mask stack (R110). -/
structure StackEnt where
  saved : Mask
  pending : Mask
  els : W64
  jn : W64
  deriving DecidableEq, Repr

/-- What trap entry saves (R183): the interrupted lane word, if any, and where and how `rett` resumes. -/
structure SaveRec where
  lanew : Bool
  word : Nat
  size : Nat
  block : Option Block
  partDone : Mask
  am : Mask
  next : Bool
  depth : Nat
  redirect : Bool
  deriving DecidableEq, Repr

/-- One bank of the trap registers (R25). -/
structure TrapBank where
  cause : W64
  pc : W64
  mask : W64
  dest : W64
  desth : W64
  deriving DecidableEq, Repr

/-- A program cause ready to be taken (R181, R183): its code, DETAIL, TRAP_MASK, TRAP_DEST and TRAP_DESTH, the word's address and size,
whether a lane word raised it, and the address of the access that raised it, 0 for none (R192). -/
structure Cause where
  code : Byte
  detail : W32
  mask : Mask
  dest : BitVec 128
  addr : W64
  size : Nat
  lanew : Bool
  va : Nat
  deriving DecidableEq, Repr

/-- What a configuration word waits for: the crews of a partition to leave their cores (R370), the crews of an old cluster to leave it
(R385), or a stop to end (R407). -/
inductive ConfigWait where
  | suspend
  | cluster
  | stop
  deriving DecidableEq, Repr

/-- Why a stream does not issue (R189, R211, R218, R220, R250, R312, R391). -/
inductive Wait where
  /-- It issues. -/
  | none
  /-- A `wait` on a phase that has not been left: its destination and its token. -/
  | barrier (d : SReg) (token : W64)
  /-- A `dq.take.wait`: whether its scope is the grid, and where its result goes. -/
  | take (grid : Bool) (d : SReg) (c : PReg)
  /-- A word that depends on outstanding remote loads or returning atomics, named by end-to-end number and module (R178). -/
  | remote (on : List (Nat × Nat))
  /-- An ordering wait of a word that traps for the values of lane words (R161, R183), named like those of `remote`. -/
  | values (on : List (Nat × Nat))
  /-- A fetch of code from a remote module (R64, R425). -/
  | fetch
  /-- A posted `mmt` or `tskip`. -/
  | twin (post : Instr)
  /-- A matched post that finds no free entry of the reservation table: an ordering wait (R234). -/
  | entry (post : Instr)
  /-- A yielded engine word: context, operation, continuation and destination register. -/
  | engine (ctx n : Nat) (cont : W64) (d : SReg)
  /-- A `tlw` on an incoming link context: the context word and n. -/
  | link (c : W64) (n : Nat)
  /-- A quantum commit. -/
  | commit
  /-- An ordering wait: the word is executed again when its warp is next issued. -/
  | order
  /-- The rendezvous of `regroup`: the partner's rank and the survivor mask. -/
  | regroup (rank : Nat) (m : Mask)
  /-- Parked by a translation fault with this token (R189). -/
  | xlate (token : W64)
  /-- Parked for register fills (R16): the lane registers that the word names. -/
  | regfile (regs : List Nat)
  /-- An arm that has executed its `join` (R112). -/
  | joined
  /-- The firmware of the binding service's grid runs; the spec does not give its words (R367). -/
  | firmware
  /-- A configuration word that waits for an event of this partition, with its destination. -/
  | config (what : ConfigWait) (part : Nat) (d : SReg)
  deriving DecidableEq, Repr

/-- What an arm of a fork holds for itself (R110, R14): the program counter, the active mask, `s1`-`s55`, the current bank of
`s56`-`s63`, the predicates, its open block with the replay state of its present word (R22, R27), its mask stack and its wait. -/
structure Arm where
  pc : W64
  am : Mask
  s : Vector W64 56
  bank : Vector W64 8
  c : BitVec 8
  block : Option Block
  partDone : Mask
  /-- the lane word at the lane PC has issued and has not completed (R109, R188) -/
  inFlight : Bool
  stack : List StackEnt
  wait : Wait
  pending : Option Cause
  deriving DecidableEq, Repr

/-- The open fork record (R110): the mask at the split, the join address, the stack depth and trap level at the fork, the mask each arm was
forked with, which arm the warp's own fields hold (0 fall-through, 1 else), and the other arm. -/
structure Fork where
  saved : Mask
  jn : W64
  b0 : Nat
  level : Fin 3
  mask0 : Mask
  mask1 : Mask
  cur : Nat
  other : Arm
  /-- the other arm is held by a trap until the `rett` that returns to the fork's level (R188) -/
  held : Bool
  /-- the arm whose parked word has raised a cause that is to be taken before any further word (R188) -/
  first : Option Nat
  deriving DecidableEq, Repr

/-- Where the old value of an atomic goes when it is delivered at a commit: lane, register, write-back suppress, latch, and the arm of the
word. -/
structure Ret where
  lane : Nat
  dest : BitVec 8
  wbs : Bool
  latch : Option (BitVec 2)
  arm : Nat
  deriving DecidableEq, Repr

/-- An entry of a carrel (R311, R318), in program order. -/
inductive CarrelEnt where
  /-- A store: place, address, bytes, ticket, and the lanes and virtual address for a late error (R195). -/
  | store (place : Place) (pa : Nat) (bytes : List Byte) (t : Ticket) (lanes : Mask) (va : Nat)
  /-- A `.qtm` or `.spc` atomic: place, address, operation, type, operands, where the old value goes when it is delivered at commit, and
  ticket, lanes and virtual address as for a store. -/
  | atomic (place : Place) (pa : Nat) (op : AOp) (ty : ATy) (y z : W64) (ret : Option Ret) (t : Ticket) (lanes : Mask) (va : Nat)
  /-- An `arv` in a `DET` launch (R312): barrier, drop and token register. -/
  | arv (bar : Nat) (drop : Bool) (d : SReg)
  /-- A `seal` or `unseal` in a `DET` launch (R312). -/
  | mark (on : Bool) (va len : Nat)
  deriving DecidableEq, Repr

/-- An open speculative task (R317 to R321). -/
structure Task where
  s : List W64
  am : Mask
  regs : List (Nat × Lanes W32)
  carrel : List CarrelEnt
  readSet : List (Place × Nat)
  doomed : Bool
  deriving DecidableEq, Repr

/-- Who a warp is (R24, R378): the grid's number in this model, GLOBAL and RANK, crew NUMBER, CORE and WARPS, team NUMBER and CREWS. -/
structure Ident where
  grid : Nat
  part : Nat
  global : Nat
  rank : Nat
  crew : Nat
  core : Nat
  warps : Nat
  team : Nat
  crews : Nat
  deriving DecidableEq, Repr

/-- An access of a lane word that a remote module has not answered (R178, R427): its end-to-end number and module, the lane, and the
destination register with its width in bytes, sign extension, suppression and latch. Lane 64 is a read of code or of a block, and lane 65 a
read of a descriptor that meets no fault (R374). -/
structure RemoteLoad where
  eseq : Nat
  mod : Nat
  lane : Nat
  dest : BitVec 8
  bytes : Nat
  signed : Bool
  wbs : Bool
  latch : Option (BitVec 2)
  /-- a scalar load's destination instead of a lane's -/
  sreg : Option SReg
  /-- the address as the page gives it, for the warp's own carrel (R311) -/
  pa : Nat
  /-- the arm whose word it is, while the warp is forked, and the trap level of the word, which picks the bank of `s56`-`s63` -/
  arm : Nat
  level : Fin 3
  /-- the entries for remote modules of the warp's carrel as the word found them (R311) -/
  own : List CarrelEnt
  /-- the scope of the acquire that the word makes once its values have returned (R165, R287) -/
  acq : Option Scope
  deriving DecidableEq, Repr

/-- A warp (R12, R110, R183, R311, R317), with the current arm's streams in its own fields while it is forked. -/
structure Warp where
  id : Nat
  alive : Bool
  ident : Ident
  /-- the GRID_ID register (R24) -/
  gridId : W64
  /-- the declared register count D (R15) -/
  regs : Nat
  h1 : W64
  h2 : W64
  debug : Bool
  priv : Bool
  pc : W64
  am : Mask
  s : Vector W64 56
  banks : Vector (Vector W64 8) 3
  c : BitVec 8
  v : Vector (Lanes W32) 256
  m : Vector Mask 16
  live : Mask
  origin : Lanes (BitVec 14)
  draws : Lanes W64
  block : Option Block
  stack : List StackEnt
  fork : Option Fork
  level : Fin 3
  save : Vector SaveRec 2
  trap : Vector TrapBank 2
  partDone : Mask
  /-- the lane word at the lane PC has issued and has not completed (R109, R188) -/
  inFlight : Bool
  lcb : W64
  fpxEn : BitVec 5
  fpxFlags : BitVec 5
  qlen : W32
  acc : Vector (Option Handle) 16
  seq : BitVec 16
  wait : Wait
  pending : Option Cause
  /-- lanes and words of the latest translation fault that still miss (R189) -/
  missing : Mask
  remote : List RemoteLoad
  /-- code and block bytes that came from a remote module, by address (R64, R367, R425); none for a block that was refused -/
  fetched : List (Nat × List Byte)
  /-- the message that a waiting `mbx.post.wait` has read (R379) -/
  posting : Option (List Byte)
  carrel : List CarrelEnt
  quantum : Nat
  /-- the word at the program counter has ended its quantum, and goes on after the commit (R312) -/
  qdone : Bool
  /-- lane issues in the running quantum, and the QLEN that governs it (R29, R312) -/
  issued : Nat
  qlenNow : Nat
  task : Option Task
  /-- the resident lane registers, least recently used first (R16, R17) -/
  resident : List Nat
  evicted : Bool
  deriving DecidableEq, Repr

/-! ## Grids, teams and crews -/

/-- A handler descriptor (R374). -/
structure Desc where
  entry : W64
  lcb : W64
  h1 : W64
  h2 : W64
  regs : Nat
  warps : Nat
  crews : Nat
  teams : Nat
  det : Bool
  shadow : Bool
  twin : Bool
  timed : Bool
  priv : Bool
  debug : Bool
  fpxEn : BitVec 5
  conc : Nat
  qlen : Nat
  seedLo : W64
  seedHi : W64
  wext : Nat
  aext : Nat
  cext : Nat
  doneMbx : Option Nat
  doneVa : Nat
  deriving DecidableEq, Repr

/-- A launched grid (R376 to R378). -/
structure Grid where
  id : Nat
  part : Nat
  mbx : Nat
  launch : Nat
  arrival : Nat
  desc : Desc
  msg : List Byte
  /-- some warp of it has halted (R377) -/
  halted : Bool
  /-- commits made (R313) -/
  commits : Nat
  deriving DecidableEq, Repr

/-- The states of a crew (R380). -/
inductive CrewState where
  | waiting
  | placed
  | marked
  | saved
  | held
  | done
  | killed
  deriving DecidableEq, Repr

/-- A crew: its grid, number and team, its state and core, its deque with the own end first (R224), and its typed buffers (R217). -/
structure Crew where
  grid : Nat
  num : Nat
  team : Nat
  state : CrewState
  core : Option CoreId
  deque : List W64
  bufW : Mem
  bufA : Mem
  bufC : Mem
  deriving DecidableEq, Repr

/-- A team: its grid and number, the cluster shelfmark and physical cluster where it is placed, and its link counters by direction code:
transfers started, OUT and IN (R259, R261). -/
structure Team where
  grid : Nat
  num : Nat
  shelf : Option Nat
  cluster : Option Nat
  started : Vector Nat 4
  out : Vector Nat 4
  inn : Vector Nat 4
  deriving DecidableEq, Repr

/-! ## Matrix engine and links -/

/-- An operand of a slip (R240 to R242): type, rotation, pitches, scratchpad addresses, K, and the lane registers of an `.lr` operand as
they stood when the slip entered. -/
structure Opnd where
  ty : Nat
  rot : Nat
  rpitch : Nat
  addr : Nat
  saddr : Nat
  tpitch : Nat
  k : Nat
  /-- the crews of the team that hold the buffers of `addr` and `saddr` -/
  crew : Nat
  screw : Nat
  lanes : Option (List (Lanes W32))
  deriving DecidableEq, Repr

/-- What a slip does (R247 to R255). -/
inductive SlipOp where
  | mul (h : Handle) (a b : Opnd) (z : Bool)
  /-- An `mmg`: also the pitch, the address of the row-count table, and the counts read from it. -/
  | group (h : Handle) (a b : Opnd) (z : Bool) (pitch table : Nat) (counts : List Nat)
  | weight (h : Handle) (a : Opnd) (z : Bool) (bank off : Nat)
  | pair (hc hu : Handle) (ac au b : Opnd) (z fold : Bool)
  | zero (h : Handle)
  | load (h : Handle) (src : Opnd)
  | store (h : Handle) (dst : Opnd)
  | convert (h : Handle) (dst : Opnd) (rm : RMode) (sat : Bool)
  deriving DecidableEq, Repr

/-- A slip in the reservation table of a cluster (R234 to R238): its order of entry, its cluster, warp, grid, crew and team, its ticket,
priority and progress, the K-blocks done when a context stop last held it, whether a stop holds it, and whether its launch is `SHADOW`. -/
structure Slip where
  order : Nat
  cluster : Nat
  warp : Nat
  grid : Nat
  crew : Nat
  team : Nat
  rank : Nat
  /-- the uncond twin of a pair -/
  twin : Option Nat
  ticket : Ticket
  op : SlipOp
  priority : Nat
  started : Bool
  blocks : Nat
  held : Bool
  shadow : Bool
  /-- the weight bank that it reads has failed as a whole (R278) -/
  failed : Bool
  deriving DecidableEq, Repr

/-- A neighbour-link transfer that has not completed (R261): the starting team, direction and ticket, source and destination. -/
structure Transfer where
  grid : Nat
  team : Nat
  dir : Dir
  n : Nat
  push : Bool
  srcCrew : Nat
  srcBuf : Nat
  srcOff : Nat
  dstTeam : Nat
  dstCrew : Nat
  dstBuf : Nat
  dstOff : Nat
  len : Nat
  /-- physical cluster and link of it -/
  cluster : Nat
  plink : Nat
  ticket : Ticket
  deriving DecidableEq, Repr

/-! ## Engines -/

/-- A copy descriptor (R351): dimension 1 first in `dims`, as count, source stride and destination stride. -/
structure CpyDesc where
  src : Nat
  dst : Nat
  run : Nat
  skind : Nat
  dkind : Nat
  /-- the crews that hold the buffers of a scratchpad source and destination -/
  screw : Nat
  dcrew : Nat
  dims : List (Nat × Int × Int)
  deriving DecidableEq, Repr

/-- A gather descriptor (R353). -/
structure GathDesc where
  base : Nat
  idx : Nat
  dst : Nat
  dpitch : Nat
  count : Nat
  row : Nat
  stride : Int
  limit : Nat
  width : Nat
  signed : Bool
  spad : Bool
  /-- the crews that hold the buffers of a scratchpad index list and of the destination -/
  icrew : Nat
  dcrew : Nat
  deriving DecidableEq, Repr

/-- A side of a piece of an operation: a virtual address, a typed buffer of a crew, or a weight bank. -/
inductive EngSide where
  | va (a : Nat)
  | buf (crew b off : Nat)
  | bank (off : Nat)
  deriving DecidableEq, Repr

/-- Where bytes of an operation stand once addresses are translated. -/
inductive EngSpot where
  | mem (p : Place) (pa : Nat)
  | buf (crew b off : Nat)
  | bank (off : Nat)
  deriving DecidableEq, Repr

/-- Bytes that an operation has read, from a side on, each with its poison (R307). -/
structure Kept where
  side : EngSide
  bytes : List (Byte × Bool)
  deriving DecidableEq, Repr

/-- The operations of the engines (R343, R411, R412). -/
inductive EngKind where
  | cpy (d : CpyDesc)
  | gath (d : GathDesc)
  | mig (va : Nat) (numa : Bool) (die : Nat)
  | pref (va len : Nat) (hint : Nat) (cdc : Bool) (cluster : Nat)
  | clr (pa size owner : Nat)
  /-- A `ckpt` or `rest`: its target, its request block as read and where it stands, and a status that its acceptance has settled already (0 for
  none). -/
  | ckpt (target : Nat) (block : List Byte) (va : Nat) (early : Nat)
  | rest (target : Nat) (block : List Byte) (va : Nat) (early : Nat)
  deriving DecidableEq, Repr

/-- An accepted engine operation that has not completed (R342). -/
structure EngOp where
  part : Nat
  ctx : Nat
  n : Nat
  kind : EngKind
  grid : Nat
  team : Nat
  ticket : Ticket
  det : Bool
  started : Bool
  /-- stalled by the fault with this token, at this address (R337, R350) -/
  fault : Option W64
  faultVa : Nat
  /-- held by a context stop (R390) -/
  held : Bool
  /-- bytes done when a context stop last held it (R391, R394) -/
  pos : Nat
  /-- the core of the crew whose buffer it reads; none where it is to be resolved again, once the crew stands on a core (R347, R391) -/
  core : Option CoreId
  /-- lines that remote modules have answered: address, bytes and poison bits -/
  data : List (Nat × List Byte × Nat)
  /-- what its word's warp could load at the word (R307) -/
  kept : List Kept
  /-- granules that it has written in part with good data before a context stop, with the bytes of them (R346) -/
  halves : List (EngSpot × Nat)
  /-- a folio: the bytes that a `ckpt` writes, or those that a `rest` has read, once a context stop has held it (R390) -/
  folio : List (Byte × Bool)
  /-- its writes have been made, and remote acknowledgements are awaited -/
  sent : Bool
  /-- refused by a remote module (R350), at this address -/
  refused : Option Nat
  deriving DecidableEq, Repr

/-- A deferred post (R379): the operation it waits for, the mailbox and partition, the poster's partition and the message. -/
structure Deferred where
  n : Nat
  mbx : Nat
  part : Nat
  src : Nat
  msg : List Byte
  deriving DecidableEq, Repr

/-- An engine context (R304, R342): S, T, the operations above T that have completed, and its deferred posts. -/
structure Ctx where
  s : Nat
  t : Nat
  done : List Nat
  deferred : List Deferred
  deriving DecidableEq, Repr

/-- A page move (R340): queued or in flight. -/
structure Move where
  id : Nat
  part : Nat
  va : Nat
  /-- leaf address and page size code, old place and address, new address -/
  leaf : Nat
  size : Nat
  oldPlace : Place
  oldPa : Nat
  newPa : Nat
  numa : Bool
  die : Nat
  flying : Bool
  /-- the `mig` operations that complete with it -/
  ops : List (Nat × Nat)
  deriving DecidableEq, Repr

/-! ## Partitions -/

/-- The states of a partition (R361). -/
inductive PartState where
  | free
  | suspended
  | running
  deriving DecidableEq, Repr

/-- A partition's configuration (R362). -/
structure PartCfg where
  root : Nat
  poolBase : Nat
  poolSize : Nat
  migBase : Nat
  migSize : Nat
  mbx : Nat
  faultMbx : Nat
  replyMbx : Nat
  barq : Nat
  ectx : Nat
  level : Nat
  flags : Nat
  drain : Nat
  slice : Nat
  clq : Nat
  hbmq : Nat
  engq : Nat
  tcl : Nat
  migth : Nat
  hwres : Nat
  deriving DecidableEq, Repr

/-- What a mailbox is bound to (R373); partition 0's mailbox 4,095 is bound to the firmware's binding service (R367). -/
inductive Binding where
  | none
  | handler (d : Desc)
  | service
  deriving DecidableEq, Repr

/-- A mailbox (R373, R375): its binding, its queue as arrival number and message, its running grids, and its refusals. -/
structure Mbx where
  binding : Binding
  queue : List (Nat × List Byte)
  running : Nat
  refused : Nat
  reason : Nat
  deriving DecidableEq, Repr

/-- A barrier object (R298, R301): the arrivals expected in the present phase, in the next one and in later ones, and the warps that have
arrived in the first two and that take part. -/
structure Bar where
  gen : BitVec 8
  phase : W32
  count0 : Nat
  count1 : Nat
  count : Nat
  scope : Nat
  abandoned : Bool
  arr0 : List Nat
  arr1 : List Nat
  members : List Nat
  deriving DecidableEq, Repr

/-- A translation-fault entry (R337): its token, page, access kind, the attached warps (with the arm) and engine operations, and whether
its record has entered the fault-message buffer, with the record. -/
structure FaultEnt where
  token : W64
  page : Nat
  access : Nat
  warps : List (Nat × Nat)
  ops : List (Nat × Nat)
  sent : Bool
  record : List Byte
  deriving DecidableEq, Repr

/-- The overflow record of a fault-message buffer (R193): the messages of the buffer that entered before it, messages coalesced, times, and
the KINDs among them. -/
structure Overflow where
  ahead : Nat
  count : Nat
  first : W64
  last : W64
  kinds : Nat
  deriving DecidableEq, Repr

/-- A context stop under way (R389 to R393). -/
structure Stop where
  reason : Nat
  code : Nat
  source : Nat
  /-- the partition of the source that raised it, where that is a cluster -/
  srcPart : Nat
  raise : W64
  count : Nat
  /-- the sources that it reaches, and those of them that have not reached their stop point -/
  reached : List Nat
  left : List Nat
  records : Nat
  latest : W64
  /-- the partition was RUNNING before, and PART_RUN has asked for it (R408) -/
  wasRunning : Bool
  runAfter : Bool
  /-- the address of the `brk` and the warp of a debug stop -/
  brk : Option (W64 × Nat)
  deriving DecidableEq, Repr

/-- A step of a fabric group (R430, R431). -/
structure GStep where
  n : Nat
  own : Option (List Byte)
  /-- bytes of the own contribution that were poisoned -/
  bad : List Nat
  /-- the sums of child ports, with the elements that were poisoned -/
  partials : List (Nat × List W32 × List Nat)
  /-- a multicast's reservation (R431), and the result to write -/
  reserved : Bool
  result : Option (List Byte)
  failed : Bool
  held : Bool
  /-- the sums of a module that is no root have been sent to its parent -/
  sentUp : Bool
  /-- the value has been written at RESULT and sent down; the report waits for remote acknowledgements (R430) -/
  written : Bool
  deriving DecidableEq, Repr

/-- A fabric group (R428): its entry and its unfinished steps. -/
structure Group where
  entry : BitVec 512
  taken : Nat
  steps : List GStep
  broken : Bool
  /-- what has arrived of values that are not whole, by port: offset, bytes and poison bits of each packet -/
  inbox : Tab (List (Nat × List Byte × Nat))
  deriving DecidableEq, Repr

/-- A partition (R361): everything it owns. Catalogue tables hold raw entries, default 0 (R274, R385). -/
structure Part where
  state : PartState
  cfg : PartCfg
  launches : Nat
  mbxs : Tab Mbx
  clusters : Tab W64
  banks : Tab W64
  links : Tab W64
  barBase : Nat
  bars : Tab Bar
  ctxs : Tab Ctx
  faults : List FaultEnt
  /-- faults that found the fault buffer full (R337) -/
  faultWait : List FaultEnt
  msgs : List (List Byte)
  overflow : Option Overflow
  stop : Option Stop
  /-- the REASON, 7 or 8, of the stop after which the part itself runs it again (R408) -/
  autoRun : Option Nat
  bound : Option (W64 × List Byte)
  /-- migration frames in use (R340) -/
  migUsed : List (Nat × Nat)
  windows : Tab W64
  groups : Tab Group
  /-- a suspend or a cluster change that waits for crews to leave (R370, R385) -/
  suspending : Bool
  newCluster : Option (Nat × W64)
  deriving DecidableEq, Repr

/-- A virtual function's binding (R372). -/
structure Vf where
  part : Nat
  count : Nat
  base : Nat
  weight : Nat
  deriving DecidableEq, Repr

/-! ## Dies, events, security, fabric -/

/-- The states of a compute die (R279). -/
inductive DieState where
  | active
  | fenced
  | reset
  | dropped
  deriving DecidableEq, Repr

/-- A compute die: its state, the clusters that failed built-in test, the fenced cores, and the defective lanes found, as core, group and
physical lane of the group (R233, R279). -/
structure Die where
  state : DieState
  bad : List Nat
  fencedCores : List Nat
  lanes : List (Nat × Nat × Nat)
  deriving DecidableEq, Repr

/-- An event record held in a source's reserved slot (R284, R396). -/
structure SlotRec where
  source : Nat
  bytes : List Byte
  deriving DecidableEq, Repr

/-- The event queue toward the host (R395, R396), with the MSI-X vectors raised so far, one each time that the queue turns non-empty (R416). -/
structure EventQ where
  produced : W32
  consumed : W32
  entries : Tab (List Byte)
  slots : List SlotRec
  vectors : Nat
  deriving DecidableEq, Repr

/-- The security block (R402, R403, R414): the replay-protected store, and the running and staged firmware; `none` is the image that the part
came with, and `activating` says that a module stop for a staged one has been raised. -/
structure Security where
  sigIndex : Nat
  floor : W32
  tenants : List (W64 × W64)
  transport : Nat
  fwVersion : W32
  fwImage : Option (List Byte)
  staged : Option (W32 × List Byte)
  activating : Bool
  deriving DecidableEq, Repr

/-- A receiver's and sender's state of a serial link (R282, R283, R421, R422). -/
structure Link where
  /-- the next sequence number expected, and the next to send -/
  expect : Nat
  next : Nat
  /-- the replay buffer: the flits sent and not acknowledged, by number, as they went out -/
  unacked : List (Nat × List Byte)
  /-- the packets whose last flit has not been acknowledged, with its number -/
  sent : List (Nat × Packet)
  /-- credits returned by the other end, and credits used -/
  credit : Nat
  used : Nat
  /-- receive credits that wait to be returned, for units or slots taken -/
  owed : Nat
  /-- replays of the buffer so far -/
  replays : Nat
  /-- a replay has been asked of the other end, and the flit that is due has not come -/
  asking : Bool
  /-- what has gone out on each lane of a port or over a module, replays too, in order -/
  wire : Tab (List (List Byte))
  /-- lanes of a port that have failed -/
  badLanes : List Nat
  /-- slots of a module's line set that its partner carries until they are acknowledged there (R283) -/
  away : List (List Byte)
  /-- the units of a packet that has not arrived whole, by virtual channel -/
  units : Tab (List (List Byte))
  /-- slots of a die link that wait to leave -/
  queue : List (List Byte)
  lanes : Nat
  lost : Bool
  deriving DecidableEq, Repr

/-- An access to a remote module that awaits its answer (R423, R426, R427): its number and module, the requesting warp, its ticket, and
whether it returns a value. -/
structure Outstanding where
  eseq : Nat
  mod : Nat
  warp : Nat
  ticket : Ticket
  mask : Mask
  va : W64
  returns : Bool
  /-- an access to an SO page (R427) -/
  so : Bool
  /-- a line or unit that an engine operation reads or writes: partition, context and number -/
  eng : Option (Nat × Nat × Nat)
  /-- a write of a group's RESULT: partition, group and step (R430) -/
  grp : Option (Nat × Nat × Nat)
  /-- the index of its packet, the remote address of which that holds the offset, and the KIND of its answer (R421, R423) -/
  index : Nat
  offset : Nat
  ans : Nat
  deriving DecidableEq, Repr

/-- The fabric block (R424 to R427). -/
structure Fabric where
  module : W64
  /-- a window has been made valid: the module number no longer changes (R424) -/
  fixed : Bool
  exports : Tab (BitVec 128)
  hdm : Tab W64
  ports : Tab Link
  /-- end-to-end numbers: next to send and those received, by module -/
  sendSeq : Tab Nat
  seen : Tab (List Nat)
  outbox : List Packet
  /-- packets of groups that wait to leave, each for the port of its shelfmark (R430, R431) -/
  groupOut : List (Nat × Packet)
  waiting : List Outstanding
  deriving DecidableEq, Repr

/-- What happens to the hardware and has no row in the opcode table: errors in stored bits and losses of units. DESIGN CHOICE, log 119. -/
inductive Mishap where
  /-- a corrected error in device memory (R359) -/
  | corrected (pa : Nat)
  /-- an uncorrectable error in a granule of device memory (R194, R326, R359) -/
  | memory (pa : Nat)
  /-- an uncorrectable error in a granule of a crew's typed buffer: 0 W, 1 A, 2 C (R216, R233) -/
  | buffer (grid crew buf off : Nat)
  /-- an uncorrectable error in a granule of a weight bank (R278) -/
  | bank (wdie off : Nat)
  /-- host memory lines that the host answers with an error from now on (R420) -/
  | hostError (lines : List Nat)
  /-- an error of an engine that cannot be attributed to an operation (R350, R389) -/
  | engine (source : Nat) (part : Option Nat)
  /-- a die module that passes its threshold of corrected errors, or is lost (R284) -/
  | module (link : DieLink) (lost : Bool)
  deriving DecidableEq, Repr

/-- One turn of the module: which agent moves next. DESIGN CHOICE, log 1. -/
inductive Turn where
  /-- the warp with this number issues its next word, in this arm when it is forked -/
  | issue (warp arm : Nat)
  /-- the shadow of the warp with this number executes the oldest word that the warp is ahead -/
  | shadow (warp : Nat)
  /-- an event of a unit or of the outside world -/
  | event (i : Instr)
  /-- something that happens to the hardware -/
  | mishap (m : Mishap)
  deriving DecidableEq, Repr

/-- An item of the compare buffer of a `SHADOW` pair (R199): the DETAIL of R200 for a mismatch, the values compared, and the lanes and the
address of the access for the halt message (R192). -/
structure Item where
  detail : Nat
  vals : List Nat
  mask : Mask
  va : Nat
  deriving DecidableEq, Repr

/-- A value in the load value queue of a `SHADOW` pair (R198): one that the leading warp has, or one that a remote module has still to send, by
its end-to-end number and module. -/
inductive LvqVal where
  | known (x : Nat)
  | awaited (eseq mod : Nat)
  deriving DecidableEq, Repr

/-- What an item of the compare buffer holds back until the shadow's item matches it (R199). -/
inductive Held where
  /-- A store, or an atomic without a return, to memory. -/
  | mem (e : CarrelEnt)
  /-- A store to a typed buffer of a grid: crew, buffer code, offset and bytes. -/
  | buf (grid crew buf off : Nat) (bytes : List Byte)
  /-- An atomic without a return on a typed buffer, with the ticket, lanes and address of its late error. -/
  | bufAtomic (grid crew buf off : Nat) (op : AOp) (ty : ATy) (y z : W64) (t : Ticket) (lanes : Mask) (va : Nat)
  deriving DecidableEq, Repr

/-- A word that the leading warp of a `SHADOW` pair has executed ahead of its shadow (R198, R199): the word and its arm, the values that it
loaded, the items to be compared, and what waits for the match. -/
structure Ahead where
  word : Instr
  arm : Nat
  vals : List LvqVal
  items : List Item
  stores : List Held
  deriving DecidableEq, Repr

/-- The state of the module. -/
structure State where
  /-- the warp whose word is executed; every other warp is in `others` -/
  warp : Warp
  others : List Warp
  shadows : List Warp
  /-- the turns to come: the model's own field, plain data that says which agent moves next -/
  agenda : List Turn
  /-- the counter that free values are applied to: the model's own field -/
  fresh : Nat
  nextId : Nat
  arrivals : Nat
  up : Bool
  dev : Mem
  hostMem : Mem
  /-- lines of host memory that the host answers with an error (R420) -/
  hostErrs : List Nat
  bankMem : Mem
  owners : List OwnerRange
  tags : List LineTag
  epochs : Tab Nat
  scores : Tab Nat
  dirtyScores : List Nat
  cdc : List CdcLine
  fills : List CdcLine
  parts : Tab Part
  grids : List Grid
  teams : List Team
  crews : List Crew
  slips : List Slip
  slipOrder : Nat
  transfers : List Transfer
  ops : List EngOp
  moves : List Move
  migCounts : Tab Nat
  /-- the compute die of the access with which a page's counter reached the threshold (R339) -/
  migDies : Tab Nat
  vfs : Tab Vf
  /-- the core-time of a function over the last 16 slices (R384) -/
  coreTime : Tab Nat
  laneMaps : Tab W64
  slices : Tab W64
  portMap : Tab W64
  dies : Tab Die
  wdies : Tab Bool
  dieLinks : Tab Link
  /-- neighbour links that are lost: physical cluster and link of it (R262) -/
  lostLinks : List (Nat × Nat)
  channels : List (Nat × Nat)
  /-- post-package repair rows left, by bank group (R399); a group without an entry has the rows it was made with -/
  rowsLeft : Tab Nat
  softRepairs : List Nat
  events : EventQ
  stopBuf : Tab (List Byte)
  /-- a module stop under way in the sources that no partition owns (R389, R394) -/
  moduleStop : Option Stop
  sensors : List Nat
  limits : List Nat
  security : Security
  fabric : Fabric
  hostWidth : Nat
  mgmtConfig : Option (List Byte)
  mgmtClusters : List (Nat × W64)
  frame : Nat
  /-- the load value queue and compare buffer of each `SHADOW` pair, word by word, the oldest first (R198, R199) -/
  pairs : Tab (List Ahead)
  /-- the values, items and stores of the word of a `SHADOW` pair that runs now, and whether its shadow runs it, alone or in one turn with it -/
  lvq : List LvqVal
  items : List Item
  stores : List Held
  shadowRun : Bool
  shadowAlone : Bool
  deriving DecidableEq, Repr

/-! ## Outcomes -/

/-- Why a step stops with a fault. -/
inductive Fault where
  /-- A host memory access outside the range of the HDM decoder (R417), raised by HOST_MEM_ACCESS; safe: such an access never reaches
  the module. -/
  | outsideDecoder
  deriving DecidableEq, Repr

/-- Why a step has no meaning. -/
inductive Refusal where
  /-- Raised by an arm of `exec` whose instruction has no meaning yet; safe. -/
  | notModelled (mnemonic : String)
  deriving DecidableEq, Repr

/-! ## Reset -/

/-- No byte and no poison. DESIGN CHOICE, log 7. -/
def Mem.empty : Mem := ⟨[], []⟩

/-- A trap bank at launch (R24). DESIGN CHOICE, log 5. -/
def TrapBank.zero : TrapBank := ⟨0, 0, 0, 0, 0⟩
/-- A save record that nothing has written. DESIGN CHOICE, log 5. -/
def SaveRec.zero : SaveRec := ⟨false, 0, 0, none, 0, 0, false, 0, false⟩
/-- No identity. DESIGN CHOICE, log 5. -/
def Ident.zero : Ident := ⟨0, 0, 0, 0, 0, 0, 0, 0, 0⟩

/-- The launch values of R24 and R34 that do not come from placement or the descriptor; not alive. DESIGN CHOICE, logs 5, 105. -/
def Warp.blank : Warp where
  id := 0
  alive := false
  ident := .zero
  gridId := 0
  regs := 2
  h1 := 0
  h2 := 0
  debug := false
  priv := false
  pc := 0
  am := BitVec.allOnes 64
  s := Vector.replicate 56 0
  banks := Vector.replicate 3 (Vector.replicate 8 0)
  c := 0x80
  v := Vector.replicate 256 (Vector.replicate 64 0)
  m := Vector.replicate 16 0
  live := BitVec.allOnes 64
  origin := Vector.replicate 64 0
  draws := Vector.replicate 64 0
  block := none
  stack := []
  fork := none
  level := 0
  save := Vector.replicate 2 .zero
  trap := Vector.replicate 2 .zero
  partDone := 0
  inFlight := false
  lcb := 0
  fpxEn := 0
  fpxFlags := 0
  qlen := 0
  acc := Vector.replicate 16 none
  seq := 0
  wait := .none
  pending := none
  missing := 0
  remote := []
  fetched := []
  posting := none
  carrel := []
  quantum := 0
  qdone := false
  issued := 0
  qlenNow := 0
  task := none
  resident := []
  evicted := false

/-- A descriptor with nothing in it. -/
def Desc.blank : Desc :=
  { entry := 0, lcb := 0, h1 := 0, h2 := 0, regs := 2, warps := 1, crews := 1, teams := 1, det := false, shadow := false,
    twin := false, timed := false, priv := false, debug := false, fpxEn := 0, conc := 1, qlen := 0, seedLo := 0, seedHi := 0,
    wext := 0, aext := 0, cext := 0, doneMbx := none, doneVa := 0 }

/-- The configuration of a FREE partition: nothing. -/
def PartCfg.blank : PartCfg :=
  { root := 0, poolBase := 0, poolSize := 0, migBase := 0, migSize := 0, mbx := 0, faultMbx := 0, replyMbx := 0, barq := 0, ectx := 0,
    level := 0, flags := 0, drain := 0, slice := 0, clq := 0, hbmq := 0, engq := 0, tcl := 0, migth := 0, hwres := 0 }

/-- An unbound mailbox with its status word at reset (R375). -/
def Mbx.blank : Mbx := ⟨.none, [], 0, 0, 0⟩
/-- A barrier object at partition creation (R298). -/
def Bar.blank : Bar := ⟨0, 0, 0, 0, 0, 0, false, [], [], []⟩
/-- An engine context at partition creation (R370). -/
def Ctx.blank : Ctx := ⟨0, 0, [], []⟩
/-- A group entry at reset (R428). -/
def Group.blank : Group := ⟨0, 0, [], false, []⟩

/-- A FREE partition (R361). -/
def Part.blank : Part :=
  { state := .free, cfg := .blank, launches := 0, mbxs := [], clusters := [], banks := [], links := [], barBase := 0, bars := [],
    ctxs := [], faults := [], faultWait := [], msgs := [], overflow := none, stop := none, autoRun := none, bound := none,
    migUsed := [], windows := [], groups := [], suspending := false, newCluster := none }

/-- A compute die before its first RESET has completed: no placement (12, Bring-up). DESIGN CHOICE, log 6; DEDUCED, log 59. -/
def Die.blank : Die := ⟨.reset, [], [], []⟩
/-- A link that has carried nothing. DESIGN CHOICE, logs 6, 81. -/
def Link.blank : Link :=
  { expect := 0, next := 0, unacked := [], sent := [], credit := 0, used := 0, owed := 0, replays := 0, asking := false, wire := [],
    badLanes := [], away := [], units := [], queue := [], lanes := 2, lost := false }

/-- The module right after reset, before the firmware has brought it up (12 Bring-up, R441): no partition exists, no warp lives, nothing
is queued. DESIGN CHOICE, logs 5, 6. -/
def State.reset : State where
  warp := .blank
  others := []
  shadows := []
  agenda := []
  fresh := 0
  nextId := 1
  arrivals := 0
  up := false
  dev := .empty
  hostMem := .empty
  hostErrs := []
  bankMem := .empty
  owners := []
  tags := []
  epochs := []
  scores := []
  dirtyScores := []
  cdc := []
  fills := []
  parts := []
  grids := []
  teams := []
  crews := []
  slips := []
  slipOrder := 0
  transfers := []
  ops := []
  moves := []
  migCounts := []
  migDies := []
  vfs := []
  coreTime := []
  laneMaps := []
  slices := []
  portMap := []
  dies := []
  wdies := []
  dieLinks := []
  lostLinks := []
  channels := []
  rowsLeft := []
  softRepairs := []
  events := ⟨0, 0, [], [], 0⟩
  stopBuf := []
  moduleStop := none
  sensors := []
  limits := []
  security := ⟨0, 0, [], 0, 0, none, none, false⟩
  fabric := ⟨0, false, [], [], [], [], [], [], [], []⟩
  hostWidth := 16
  mgmtConfig := none
  mgmtClusters := []
  frame := 0
  pairs := []
  lvq := []
  items := []
  stores := []
  shadowRun := false
  shadowAlone := false

end Sys2Proof.Machine
end

