-- ==== Sys2Proof/Machine/Mem.lean ====
section
/-! DEFINITION. Memory: bytes in canonical form, poison, the frames' owners and the keys of lines (R7, R326, R330, R363). -/

namespace Sys2Proof.Machine

/-! ## Tables and small helpers -/

/-- The entry of a table, or the default. -/
def Tab.get {α : Type} (t : Tab α) (k : Nat) (d : α) : α :=
  match t with
  | [] => d
  | (j, x) :: r => if j = k then x else Tab.get r k d

/-- Writes an entry of a table. -/
def Tab.set {α : Type} (t : Tab α) (k : Nat) (x : α) : Tab α :=
  match t with
  | [] => [(k, x)]
  | (j, y) :: r => if j = k then (k, x) :: r else (j, y) :: Tab.set r k x

/-- Removes an entry of a table. -/
def Tab.del {α : Type} (t : Tab α) (k : Nat) : Tab α := t.filter fun e => e.1 != k

/-- An element of a vector, or the default where the index is beyond it. -/
def vget {α : Type} {n : Nat} (v : Vector α n) (i : Nat) (d : α) : α := v[i]?.getD d
/-- Writes an element of a vector; nothing where the index is beyond it. -/
def vset {α : Type} {n : Nat} (v : Vector α n) (i : Nat) (x : α) : Vector α n := v.setIfInBounds i x

/-- One bit of a bit vector, written. -/
def setBit {n : Nat} (x : BitVec n) (i : Nat) (b : Bool) : BitVec n := if b then x ||| (1#n <<< i) else x &&& ~~~(1#n <<< i)

/-- A field of a number. -/
def bitsOf (x lo n : Nat) : Nat := x / 2 ^ lo % 2 ^ n
/-- A field of a 64-bit word. -/
def field (x : W64) (lo n : Nat) : Nat := bitsOf x.toNat lo n

/-- `n` bytes of a number at offset `o` of a block of bytes (R7). -/
def leAt (bs : List Byte) (o n : Nat) : Nat := bytesToNat ((bs.drop o).take n)

/-- A signed 64-bit number. -/
def signed64 (x : Nat) : Int := (BitVec.ofNat 64 x).toInt

/-- Fields of a record in order of offset, each a size in bytes and a value. -/
def layBytes (fs : List (Nat × Nat)) : List Byte := fs.flatMap fun f => natToBytes f.1 f.2

/-! ## Cells -/

/-- The byte at an address; an address that is not listed reads 0. -/
def cellGet (l : List Host.Cell) (a : Nat) : Byte :=
  match l with
  | [] => 0
  | (k, b) :: r => if k = a then b else cellGet r a

/-- Writes a byte other than 0 at its place in the order of addresses. -/
def cellPut (l : List Host.Cell) (a : Nat) (b : Byte) : List Host.Cell :=
  match l with
  | [] => [(a, b)]
  | (k, c) :: r => if a < k then (a, b) :: (k, c) :: r else if a = k then (a, b) :: r else (k, c) :: cellPut r a b

/-- Writes a byte and keeps the canonical form: writing 0 removes the entry. -/
def cellSet (l : List Host.Cell) (a : Nat) (b : Byte) : List Host.Cell := if b = 0 then l.filter fun c => c.1 != a else cellPut l a b

/-- Adds a number to a rising list. -/
def numAdd (l : List Nat) (a : Nat) : List Nat :=
  match l with
  | [] => [a]
  | k :: r => if a < k then a :: k :: r else if a = k then k :: r else k :: numAdd r a

/-- The addresses rise strictly from above `lo` and no byte is 0. -/
def cellsFrom (lo : Nat) : List Host.Cell → Bool
  | [] => true
  | (k, b) :: r => decide (lo ≤ k) && b != 0 && cellsFrom (k + 1) r

/-- The numbers rise strictly from `lo`. -/
def numsFrom (lo : Nat) : List Nat → Bool
  | [] => true
  | k :: r => decide (lo ≤ k) && numsFrom (k + 1) r

/-- The canonical form of a memory. -/
def Mem.wf (m : Mem) : Bool := cellsFrom 0 m.cells && numsFrom 0 m.poison

/-- The byte at an address. DESIGN CHOICE, log 7. -/
def Mem.byte (m : Mem) (a : Nat) : Byte := cellGet m.cells a
/-- Writes one byte; poison stays (R164). -/
def Mem.setByte (m : Mem) (a : Nat) (b : Byte) : Mem := { m with cells := cellSet m.cells a b }
/-- `n` bytes from an address upward (R7). -/
def Mem.read (m : Mem) (a : Nat) : Nat → List Byte
  | 0 => []
  | n + 1 => m.byte a :: m.read (a + 1) n
/-- Writes bytes from an address upward. -/
def Mem.write (m : Mem) (a : Nat) : List Byte → Mem
  | [] => m
  | b :: bs => (m.setByte a b).write (a + 1) bs

/-- Whether a byte range touches a poisoned granule. -/
def Mem.poisoned (m : Mem) (a n : Nat) : Bool := n != 0 && m.poison.any fun g => a / 8 ≤ g && g ≤ (a + n - 1) / 8
/-- Poisons the granules of a byte range. -/
def Mem.taint (m : Mem) (a n : Nat) : Mem :=
  { m with poison := (List.range ((a + n + 7) / 8 - a / 8)).foldl (fun l i => numAdd l (a / 8 + i)) m.poison }
/-- Clears the poison of every granule that a byte range covers whole (R216, R346). -/
def Mem.cleanse (m : Mem) (a n : Nat) : Mem :=
  { m with poison := m.poison.filter fun g => !(a ≤ 8 * g && 8 * g + 8 ≤ a + n) }
/-- Sets every byte of a range to 0 and clears its poison. -/
def Mem.erase (m : Mem) (lo hi : Nat) : Mem :=
  { cells := m.cells.filter fun c => !(lo ≤ c.1 && c.1 < hi), poison := m.poison.filter fun g => !(lo ≤ 8 * g && 8 * g < hi) }

/-! ## Owners and keys -/

/-- The owner of a 4 KiB frame (R363): 0 to 31 a partition, 63 the free pool, 64 none. -/
def ownerIn (l : List OwnerRange) (frame : Nat) : Nat :=
  match l with
  | [] => 63
  | r :: t => if r.lo ≤ frame ∧ frame < r.hi then r.owner else ownerIn t frame

/-- The key tag of a line, if anything has been written to it. -/
def tagIn (l : List LineTag) (line : Nat) : Option (Nat × Nat) :=
  match l with
  | [] => none
  | r :: t => if r.lo ≤ line ∧ line < r.hi then some (r.owner, r.epoch) else tagIn t line

/-- The owner of the frame of an address. -/
def State.ownerAt (s : State) (pa : Nat) : Nat := ownerIn s.owners (pa / 4096)
/-- The key of a line's frame now: owner and epoch (R330). DESIGN CHOICE, log 25. -/
def State.keyAt (s : State) (line : Nat) : Nat × Nat :=
  let o := ownerIn s.owners (line / 32)
  (o, Tab.get s.epochs o 0)
/-- The line was written under the key that its frame has now, or never. DESIGN CHOICE, log 25. -/
def State.keyed (s : State) (line : Nat) : Bool :=
  match tagIn s.tags line with
  | none => true
  | some t => t == s.keyAt line

/-- A key as one number. -/
def keyCode (k : Nat × Nat) : Nat := k.1 + 65 * k.2

/-- The bytes of a key. -/
def keyBytes (k : Nat × Nat) : List Byte := (List.range 64).map (Config.memoryKey (keyCode k))

/-- What a line that was written under one key reads as under another (R330): its ciphertext decrypted under the reader's key, and never the
plaintext. Keys for which the two agree are no keys of a part, and the read is then the plaintext inverted. DESIGN CHOICE, log 25. -/
def otherKey (writer reader : Nat × Nat) (line : Nat) (plain : List Byte) : List Byte :=
  let x := xtsLine false (keyBytes reader) line (xtsLine true (keyBytes writer) line plain)
  if x = plain then plain.map (~~~ ·) else x

/-- A byte of a line as its frame's key shows it (R330). DESIGN CHOICE, log 7. -/
def State.devByte (s : State) (a : Nat) : Byte :=
  match tagIn s.tags (a / 128) with
  | none => s.dev.byte a
  | some t =>
    if t = s.keyAt (a / 128) then s.dev.byte a
    else (otherKey t (s.keyAt (a / 128)) (a / 128) (s.dev.read (a / 128 * 128) 128)).getD (a % 128) 0

/-- Bytes of device memory. -/
def State.devRead (s : State) (a : Nat) : Nat → List Byte
  | 0 => []
  | n + 1 => s.devByte a :: s.devRead (a + 1) n

/-- Makes a line stand under its frame's present key, with the bytes that key shows (R330). -/
def State.rekey (s : State) (line : Nat) : State :=
  if s.keyed line then s
  else
    { s with
      dev := s.dev.write (128 * line) (s.devRead (128 * line) 128),
      tags := ⟨line, line + 1, (s.keyAt line).1, (s.keyAt line).2⟩ :: s.tags }

/-- Writes one byte of device memory under its frame's key. -/
def State.devSetByte (s : State) (a : Nat) (b : Byte) : State :=
  let s := s.rekey (a / 128)
  { s with dev := s.dev.setByte a b }
/-- Writes bytes of device memory under their frames' keys. -/
def State.devWrite (s : State) (a : Nat) : List Byte → State
  | [] => s
  | b :: bs => (s.devSetByte a b).devWrite (a + 1) bs

/-- Bytes at a physical place; a remote place holds nothing here. -/
def State.placeRead (s : State) (p : Place) (a n : Nat) : List Byte :=
  match p with
  | .device => s.devRead a n
  | .host => s.hostMem.read a n
  | .remote => List.replicate n 0
/-- Writes bytes at a physical place. -/
def State.placeWrite (s : State) (p : Place) (a : Nat) (bs : List Byte) : State :=
  match p with
  | .device => s.devWrite a bs
  | .host => { s with hostMem := s.hostMem.write a bs }
  | .remote => s
/-- The host answers an access to a range of a physical place with an error (R420). DESIGN CHOICE, log 119. -/
def State.hostErr (s : State) (p : Place) (a n : Nat) : Bool :=
  p == .host && s.hostErrs.any fun l => decide (a / 128 ≤ l ∧ l ≤ (a + n - 1) / 128)
/-- Whether a range of a physical place is poisoned; a host access error is met as poison (R420). -/
def State.placePoisoned (s : State) (p : Place) (a n : Nat) : Bool :=
  match p with
  | .device => s.dev.poisoned a n
  | .host => s.hostMem.poisoned a n || s.hostErr .host a n
  | .remote => false
/-- Poisons a range of a physical place. -/
def State.placeTaint (s : State) (p : Place) (a n : Nat) : State :=
  match p with
  | .device => { s with dev := s.dev.taint a n }
  | .host => { s with hostMem := s.hostMem.taint a n }
  | .remote => s
/-- Clears the poison of the granules that a range covers whole. -/
def State.placeCleanse (s : State) (p : Place) (a n : Nat) : State :=
  match p with
  | .device => { s with dev := s.dev.cleanse a n }
  | .host => { s with hostMem := s.hostMem.cleanse a n }
  | .remote => s

end Sys2Proof.Machine
end

