-- ==== Sys2Proof/Machine/Codec.lean ====
section
/-! DEFINITION. The part's own layout of the data of a folio's records (R410): for each type of data, its bytes and what is read back from
them. Laws/Codec.lean shows that what is written is what is read. DESIGN CHOICE, log 88. -/

namespace Sys2Proof.Machine

/-! ## Parts of a layout -/

/-- How data becomes bytes, and what bytes at the start of a list stand for, with the bytes that follow them. -/
structure Codec (α : Type) where
  enc : α → List Byte
  dec : List Byte → Option (α × List Byte)

/-- A number in digits of 7 bits, the least significant first; the last digit has bit 7 clear. The first argument bounds the digits. -/
def encDigits : Nat → Nat → List Byte
  | 0, n => [BitVec.ofNat 8 (n % 128)]
  | k + 1, n => if n < 128 then [BitVec.ofNat 8 n] else BitVec.ofNat 8 (128 + n % 128) :: encDigits k (n / 128)
/-- The number that digits stand for. -/
def decDigits : List Byte → Option (Nat × List Byte)
  | [] => none
  | b :: r => if b.toNat < 128 then some (b.toNat, r) else (decDigits r).map fun x => (b.toNat - 128 + 128 * x.1, x.2)
/-- A number. -/
def cNat : Codec Nat := ⟨fun n => encDigits n n, decDigits⟩

/-- One after another. -/
def Codec.pair {α β : Type} (a : Codec α) (b : Codec β) : Codec (α × β) where
  enc x := a.enc x.1 ++ b.enc x.2
  dec l := (a.dec l).bind fun x => (b.dec x.2).map fun y => ((x.1, y.1), y.2)

/-- Data that another layout holds as well. -/
def Codec.iso {α β : Type} (f : α → β) (g : β → α) (c : Codec β) : Codec α where
  enc x := c.enc (f x)
  dec l := (c.dec l).map fun x => (g x.1, x.2)

/-- One constructor of an inductive type. -/
def Codec.branch {α β : Type} (f : α → Option β) (g : β → α) (c : Codec β) : Codec α where
  enc x := ((f x).map c.enc).getD []
  dec l := (c.dec l).map fun x => (g x.1, x.2)

/-- Data of a kind: anything else is not read. -/
def Codec.only {α : Type} (p : α → Bool) (c : Codec α) : Codec α := ⟨c.enc, fun l => (c.dec l).filter fun x => p x.1⟩

/-- A constructor without data. -/
def Codec.unit {α : Type} (x : α) : Codec α := ⟨fun _ => [], fun l => some (x, l)⟩

/-- The number of a constructor, then its data. -/
def Codec.tagged {α : Type} (tag : α → Nat) (cs : List (Codec α)) : Codec α where
  enc x := cNat.enc (tag x) ++ ((cs[tag x]?).map fun c => c.enc x).getD []
  dec l := (cNat.dec l).bind fun x => (cs[x.1]?).bind fun c => c.dec x.2

/-- One name of a list. -/
def Codec.enum {α : Type} [DecidableEq α] (l : List α) : Codec α where
  enc x := cNat.enc (l.idxOf x)
  dec b := (cNat.dec b).bind fun x => (l[x.1]?).map fun a => (a, x.2)

/-- A bit vector, in whole bytes. -/
def cBits (w : Nat) : Codec (BitVec w) where
  enc x := natToBytes ((w + 7) / 8) x.toNat
  dec b := if b.length < (w + 7) / 8 then none else some (BitVec.ofNat w (bytesToNat (b.take ((w + 7) / 8))), b.drop ((w + 7) / 8))

/-- Yes or no. -/
def cBool : Codec Bool := Codec.enum [false, true]
/-- A trap level. -/
def cFin3 : Codec (Fin 3) := Codec.enum [0, 1, 2]
/-- An integer. -/
def cInt : Codec Int := Codec.tagged (fun x => match x with
    | .ofNat _ => 0
    | .negSucc _ => 1)
  [Codec.branch (fun x => match x with
      | .ofNat n => some n
      | _ => none) (fun n => .ofNat n) cNat,
    Codec.branch (fun x => match x with
      | .negSucc n => some n
      | _ => none) (fun n => .negSucc n) cNat]

/-- Something or nothing. -/
def cOption {α : Type} (c : Codec α) : Codec (Option α) := Codec.tagged (fun x => if x.isSome then 1 else 0)
  [Codec.unit none, Codec.branch (fun x => x) some c]

/-- As many items as asked. -/
def decItems {α : Type} (c : Codec α) : Nat → List Byte → Option (List α × List Byte)
  | 0, b => some ([], b)
  | n + 1, b => (c.dec b).bind fun x => (decItems c n x.2).map fun y => (x.1 :: y.1, y.2)
/-- A list: its length, then its items. -/
def cList {α : Type} (c : Codec α) : Codec (List α) where
  enc l := cNat.enc l.length ++ l.flatMap c.enc
  dec b := (cNat.dec b).bind fun x => decItems c x.1 x.2
/-- A vector: its items. -/
def cVec {α : Type} (n : Nat) (c : Codec α) : Codec (Vector α n) where
  enc v := v.toList.flatMap c.enc
  dec b := (decItems c n b).bind fun x => if h : x.1.length = n then some (⟨x.1.toArray, by simp [h]⟩, x.2) else none

/-! ## Names -/

/-- A place. -/
def cPlace : Codec Place := Codec.enum [.device, .host, .remote]
/-- A scope. -/
def cScope : Codec Scope := Codec.enum [.warp, .crew, .team, .grid, .domain, .sys]
/-- An atomic operation. -/
def cAOp : Codec AOp := Codec.enum [.add, .min, .max, .minn, .maxn, .conj, .disj, .xor, .exch, .cas, .inc, .dec]
/-- The type of an atomic. -/
def cATy : Codec ATy := Codec.enum [.b32, .n64, .f32]
/-- A rounding mode. -/
def cRMode : Codec RMode := Codec.enum [.rne, .rtz, .rdn, .rup, .sto]
/-- What a configuration word waits for. -/
def cConfigWait : Codec ConfigWait := Codec.enum [.suspend, .cluster, .stop]
/-- The state of a crew. -/
def cCrewState : Codec CrewState := Codec.enum [.waiting, .placed, .marked, .saved, .held, .done, .killed]

/-! ## Warps -/

/-- Bytes and poison, in their canonical form. -/
def cMem : Codec Mem := Codec.only Mem.wf <|
  Codec.iso (fun x => (x.cells, x.poison)) (fun (a0, a1) => ⟨a0, a1⟩) <| (cList (cNat.pair (cBits 8))).pair <| cList cNat
/-- An accumulator handle. -/
def cHandle : Codec Handle :=
  Codec.iso (fun x => (x.rows, x.cols, x.base, x.fold))
    (fun (a0, a1, a2, a3) => ⟨a0, a1, a2, a3⟩) <|
    cNat.pair <| cNat.pair <| cNat.pair <| (cBits 32)
/-- An open lane block. -/
def cBlock : Codec Block :=
  Codec.iso (fun x => (x.addr, x.lcb, x.first, x.count, x.lanePc, x.am, x.srcs, x.latch, x.alive))
    (fun (a0, a1, a2, a3, a4, a5, a6, a7, a8) => ⟨a0, a1, a2, a3, a4, a5, a6, a7, a8⟩) <|
    (cBits 64).pair <| (cBits 64).pair <| cNat.pair <| cNat.pair <| cNat.pair <| (cBits 64).pair <| (cVec 64 (cBits 64)).pair <|
    (cVec 4 (cVec 64 (cBits 32))).pair <| (cBits 4)
/-- An entry of the mask stack. -/
def cStackEnt : Codec StackEnt :=
  Codec.iso (fun x => (x.saved, x.pending, x.els, x.jn))
    (fun (a0, a1, a2, a3) => ⟨a0, a1, a2, a3⟩) <|
    (cBits 64).pair <| (cBits 64).pair <| (cBits 64).pair <| (cBits 64)
/-- A save record. -/
def cSaveRec : Codec SaveRec :=
  Codec.iso (fun x => (x.lanew, x.word, x.size, x.block, x.partDone, x.am, x.next, x.depth, x.redirect))
    (fun (a0, a1, a2, a3, a4, a5, a6, a7, a8) => ⟨a0, a1, a2, a3, a4, a5, a6, a7, a8⟩) <|
    cBool.pair <| cNat.pair <| cNat.pair <| (cOption cBlock).pair <| (cBits 64).pair <| (cBits 64).pair <| cBool.pair <| cNat.pair <| cBool
/-- A trap bank. -/
def cTrapBank : Codec TrapBank :=
  Codec.iso (fun x => (x.cause, x.pc, x.mask, x.dest, x.desth))
    (fun (a0, a1, a2, a3, a4) => ⟨a0, a1, a2, a3, a4⟩) <|
    (cBits 64).pair <| (cBits 64).pair <| (cBits 64).pair <| (cBits 64).pair <| (cBits 64)
/-- A pending cause. -/
def cCause : Codec Cause :=
  Codec.iso (fun x => (x.code, x.detail, x.mask, x.dest, x.addr, x.size, x.lanew, x.va))
    (fun (a0, a1, a2, a3, a4, a5, a6, a7) => ⟨a0, a1, a2, a3, a4, a5, a6, a7⟩) <|
    (cBits 8).pair <| (cBits 32).pair <| (cBits 64).pair <| (cBits 128).pair <| (cBits 64).pair <| cNat.pair <| cBool.pair <| cNat
/-- A ticket. -/
def cTicket : Codec Ticket :=
  Codec.iso (fun x => (x.part, x.launch, x.crew, x.warp, x.pc, x.word))
    (fun (a0, a1, a2, a3, a4, a5) => ⟨a0, a1, a2, a3, a4, a5⟩) <|
    cNat.pair <| cNat.pair <| cNat.pair <| cNat.pair <| (cBits 64).pair <| (cOption cNat)
/-- Where an old value goes. -/
def cRet : Codec Ret :=
  Codec.iso (fun x => (x.lane, x.dest, x.wbs, x.latch, x.arm))
    (fun (a0, a1, a2, a3, a4) => ⟨a0, a1, a2, a3, a4⟩) <|
    cNat.pair <| (cBits 8).pair <| cBool.pair <| (cOption (cBits 2)).pair <| cNat
/-- The identity of a warp. -/
def cIdent : Codec Ident :=
  Codec.iso (fun x => (x.grid, x.part, x.global, x.rank, x.crew, x.core, x.warps, x.team, x.crews))
    (fun (a0, a1, a2, a3, a4, a5, a6, a7, a8) => ⟨a0, a1, a2, a3, a4, a5, a6, a7, a8⟩) <|
    cNat.pair <| cNat.pair <| cNat.pair <| cNat.pair <| cNat.pair <| cNat.pair <| cNat.pair <| cNat.pair <| cNat
/-- An entry of a carrel. -/
def cCarrelEnt : Codec CarrelEnt :=
  Codec.tagged
    (fun x => match x with
      | .store _ _ _ _ _ _ => 0
      | .atomic _ _ _ _ _ _ _ _ _ _ => 1
      | .arv _ _ _ => 2
      | .mark _ _ _ => 3)
    [Codec.branch (fun x => match x with
        | .store a0 a1 a2 a3 a4 a5 => some (a0, a1, a2, a3, a4, a5)
        | _ => none) (fun (a0, a1, a2, a3, a4, a5) => .store a0 a1 a2 a3 a4 a5) <|
        cPlace.pair <| cNat.pair <| (cList (cBits 8)).pair <| cTicket.pair <| (cBits 64).pair <| cNat,
      Codec.branch (fun x => match x with
        | .atomic a0 a1 a2 a3 a4 a5 a6 a7 a8 a9 => some (a0, a1, a2, a3, a4, a5, a6, a7, a8, a9)
        | _ => none) (fun (a0, a1, a2, a3, a4, a5, a6, a7, a8, a9) => .atomic a0 a1 a2 a3 a4 a5 a6 a7 a8 a9) <|
        cPlace.pair <| cNat.pair <| cAOp.pair <| cATy.pair <| (cBits 64).pair <| (cBits 64).pair <| (cOption cRet).pair <|
        cTicket.pair <| (cBits 64).pair <| cNat,
      Codec.branch (fun x => match x with
        | .arv a0 a1 a2 => some (a0, a1, a2)
        | _ => none) (fun (a0, a1, a2) => .arv a0 a1 a2) <|
        cNat.pair <| cBool.pair <| (cBits 6),
      Codec.branch (fun x => match x with
        | .mark a0 a1 a2 => some (a0, a1, a2)
        | _ => none) (fun (a0, a1, a2) => .mark a0 a1 a2) <|
        cBool.pair <| cNat.pair <| cNat]
/-- A task. -/
def cTask : Codec Task :=
  Codec.iso (fun x => (x.s, x.am, x.regs, x.carrel, x.readSet, x.doomed))
    (fun (a0, a1, a2, a3, a4, a5) => ⟨a0, a1, a2, a3, a4, a5⟩) <|
    (cList (cBits 64)).pair <| (cBits 64).pair <| (cList (cNat.pair (cVec 64 (cBits 32)))).pair <| (cList cCarrelEnt).pair <|
    (cList (cPlace.pair cNat)).pair <| cBool
/-- An access that awaits its answer. -/
def cRemoteLoad : Codec RemoteLoad :=
  Codec.iso
    (fun x =>
      (x.eseq, x.mod, x.lane, x.dest, x.bytes, x.signed, x.wbs, x.latch, x.sreg, x.pa, x.arm, x.level, x.own, x.acq))
    (fun
      (a0, a1, a2, a3, a4, a5, a6, a7, a8, a9, a10, a11, a12, a13) =>
      ⟨a0, a1, a2, a3, a4, a5, a6, a7, a8, a9, a10, a11, a12, a13⟩) <|
    cNat.pair <| cNat.pair <| cNat.pair <| (cBits 8).pair <| cNat.pair <| cBool.pair <| cBool.pair <| (cOption (cBits 2)).pair <|
    (cOption (cBits 6)).pair <| cNat.pair <| cNat.pair <| cFin3.pair <| (cList cCarrelEnt).pair <| (cOption cScope)
/-- A posted word (R251). -/
def cTwin : Codec Instr :=
  Codec.tagged
    (fun x => match x with
      | .mmt _ _ _ _ _ _ => 0
      | .mmtSolo _ _ _ _ _ => 1
      | _ => 2)
    [Codec.branch (fun x => match x with
        | .mmt a0 a1 a2 a3 a4 a5 => some (a0, a1, a2, a3, a4, a5)
        | _ => none) (fun (a0, a1, a2, a3, a4, a5) => .mmt a0 a1 a2 a3 a4 a5) <|
        (cBits 4).pair <| (cBits 6).pair <| (cBits 6).pair <| cBool.pair <| cBool.pair <| cBool,
      Codec.branch (fun x => match x with
        | .mmtSolo a0 a1 a2 a3 a4 => some (a0, a1, a2, a3, a4)
        | _ => none) (fun (a0, a1, a2, a3, a4) => .mmtSolo a0 a1 a2 a3 a4) <|
        (cBits 4).pair <| (cBits 6).pair <| (cBits 6).pair <| cBool.pair <| cBool,
      Codec.unit .tskip]
/-- Why a stream does not issue. -/
def cWait : Codec Wait :=
  Codec.tagged
    (fun x => match x with
      | .none => 0
      | .barrier _ _ => 1
      | .take _ _ _ => 2
      | .remote _ => 3
      | .values _ => 4
      | .fetch => 5
      | .twin _ => 6
      | .entry _ => 7
      | .engine _ _ _ _ => 8
      | .link _ _ => 9
      | .commit => 10
      | .order => 11
      | .regroup _ _ => 12
      | .xlate _ => 13
      | .regfile _ => 14
      | .joined => 15
      | .firmware => 16
      | .config _ _ _ => 17)
    [Codec.unit .none,
      Codec.branch (fun x => match x with
        | .barrier a0 a1 => some (a0, a1)
        | _ => none) (fun (a0, a1) => .barrier a0 a1) <|
        (cBits 6).pair <| (cBits 64),
      Codec.branch (fun x => match x with
        | .take a0 a1 a2 => some (a0, a1, a2)
        | _ => none) (fun (a0, a1, a2) => .take a0 a1 a2) <|
        cBool.pair <| (cBits 6).pair <| (cBits 3),
      Codec.branch (fun x => match x with
        | .remote a0 => some a0
        | _ => none) (fun a0 => .remote a0) <|
        (cList (cNat.pair cNat)),
      Codec.branch (fun x => match x with
        | .values a0 => some a0
        | _ => none) (fun a0 => .values a0) <|
        (cList (cNat.pair cNat)),
      Codec.unit .fetch,
      Codec.branch (fun x => match x with
        | .twin a0 => some a0
        | _ => none) (fun a0 => .twin a0) <|
        cTwin,
      Codec.branch (fun x => match x with
        | .entry a0 => some a0
        | _ => none) (fun a0 => .entry a0) <|
        cTwin,
      Codec.branch (fun x => match x with
        | .engine a0 a1 a2 a3 => some (a0, a1, a2, a3)
        | _ => none) (fun (a0, a1, a2, a3) => .engine a0 a1 a2 a3) <|
        cNat.pair <| cNat.pair <| (cBits 64).pair <| (cBits 6),
      Codec.branch (fun x => match x with
        | .link a0 a1 => some (a0, a1)
        | _ => none) (fun (a0, a1) => .link a0 a1) <|
        (cBits 64).pair <| cNat,
      Codec.unit .commit,
      Codec.unit .order,
      Codec.branch (fun x => match x with
        | .regroup a0 a1 => some (a0, a1)
        | _ => none) (fun (a0, a1) => .regroup a0 a1) <|
        cNat.pair <| (cBits 64),
      Codec.branch (fun x => match x with
        | .xlate a0 => some a0
        | _ => none) (fun a0 => .xlate a0) <|
        (cBits 64),
      Codec.branch (fun x => match x with
        | .regfile a0 => some a0
        | _ => none) (fun a0 => .regfile a0) <|
        (cList cNat),
      Codec.unit .joined,
      Codec.unit .firmware,
      Codec.branch (fun x => match x with
        | .config a0 a1 a2 => some (a0, a1, a2)
        | _ => none) (fun (a0, a1, a2) => .config a0 a1 a2) <|
        cConfigWait.pair <| cNat.pair <| (cBits 6)]
/-- An arm. -/
def cArm : Codec Arm :=
  Codec.iso (fun x => (x.pc, x.am, x.s, x.bank, x.c, x.block, x.partDone, x.inFlight, x.stack, x.wait, x.pending))
    (fun (a0, a1, a2, a3, a4, a5, a6, a7, a8, a9, a10) => ⟨a0, a1, a2, a3, a4, a5, a6, a7, a8, a9, a10⟩) <|
    (cBits 64).pair <| (cBits 64).pair <| (cVec 56 (cBits 64)).pair <| (cVec 8 (cBits 64)).pair <| (cBits 8).pair <|
    (cOption cBlock).pair <| (cBits 64).pair <| cBool.pair <| (cList cStackEnt).pair <| cWait.pair <| (cOption cCause)
/-- A fork record. -/
def cFork : Codec Fork :=
  Codec.iso (fun x => (x.saved, x.jn, x.b0, x.level, x.mask0, x.mask1, x.cur, x.other, x.held, x.first))
    (fun (a0, a1, a2, a3, a4, a5, a6, a7, a8, a9) => ⟨a0, a1, a2, a3, a4, a5, a6, a7, a8, a9⟩) <|
    (cBits 64).pair <| (cBits 64).pair <| cNat.pair <| cFin3.pair <| (cBits 64).pair <| (cBits 64).pair <| cNat.pair <| cArm.pair <|
    cBool.pair <| (cOption cNat)
/-- A warp. -/
def cWarp : Codec Warp :=
  Codec.iso
    (fun x =>
      (x.id, x.alive, x.ident, x.gridId, x.regs, x.h1, x.h2, x.debug, x.priv, x.pc, x.am, x.s, x.banks, x.c, x.v, x.m, x.live, x.origin,
      x.draws, x.block, x.stack, x.fork, x.level, x.save, x.trap, x.partDone, x.inFlight, x.lcb, x.fpxEn, x.fpxFlags, x.qlen, x.acc, x.seq,
      x.wait, x.pending, x.missing, x.remote, x.fetched, x.posting, x.carrel, x.quantum, x.qdone, x.issued, x.qlenNow, x.task, x.resident,
      x.evicted))
    (fun
      (a0, a1, a2, a3, a4, a5, a6, a7, a8, a9, a10, a11, a12, a13, a14, a15, a16, a17, a18, a19, a20, a21, a22, a23, a24, a25, a26, a27,
      a28, a29, a30, a31, a32, a33, a34, a35, a36, a37, a38, a39, a40, a41, a42, a43, a44, a45, a46) =>
      ⟨a0, a1, a2, a3, a4, a5, a6, a7, a8, a9, a10, a11, a12, a13, a14, a15, a16, a17, a18, a19, a20, a21, a22, a23, a24, a25, a26, a27,
      a28, a29, a30, a31, a32, a33, a34, a35, a36, a37, a38, a39, a40, a41, a42, a43, a44, a45, a46⟩) <|
    cNat.pair <| cBool.pair <| cIdent.pair <| (cBits 64).pair <| cNat.pair <| (cBits 64).pair <| (cBits 64).pair <| cBool.pair <|
    cBool.pair <| (cBits 64).pair <| (cBits 64).pair <| (cVec 56 (cBits 64)).pair <| (cVec 3 (cVec 8 (cBits 64))).pair <| (cBits 8).pair <|
    (cVec 256 (cVec 64 (cBits 32))).pair <| (cVec 16 (cBits 64)).pair <| (cBits 64).pair <| (cVec 64 (cBits 14)).pair <|
    (cVec 64 (cBits 64)).pair <| (cOption cBlock).pair <| (cList cStackEnt).pair <| (cOption cFork).pair <| cFin3.pair <|
    (cVec 2 cSaveRec).pair <| (cVec 2 cTrapBank).pair <| (cBits 64).pair <| cBool.pair <| (cBits 64).pair <| (cBits 5).pair <|
    (cBits 5).pair <| (cBits 32).pair <| (cVec 16 (cOption cHandle)).pair <| (cBits 16).pair <| cWait.pair <| (cOption cCause).pair <|
    (cBits 64).pair <| (cList cRemoteLoad).pair <| (cList (cNat.pair (cList (cBits 8)))).pair <| (cOption (cList (cBits 8))).pair <|
    (cList cCarrelEnt).pair <| cNat.pair <| cBool.pair <| cNat.pair <| cNat.pair <| (cOption cTask).pair <| (cList cNat).pair <| cBool

/-! ## Grids, crews and slips -/

/-- The place of a core. -/
def cCoreId : Codec CoreId :=
  Codec.iso (fun x => (x.die, x.pcl, x.core))
    (fun (a0, a1, a2) => ⟨a0, a1, a2⟩) <|
    cNat.pair <| cNat.pair <| cNat
/-- A handler descriptor. -/
def cDesc : Codec Desc :=
  Codec.iso
    (fun x =>
      (x.entry, x.lcb, x.h1, x.h2, x.regs, x.warps, x.crews, x.teams, x.det, x.shadow, x.twin, x.timed, x.priv, x.debug, x.fpxEn, x.conc,
      x.qlen, x.seedLo, x.seedHi, x.wext, x.aext, x.cext, x.doneMbx, x.doneVa))
    (fun
      (a0, a1, a2, a3, a4, a5, a6, a7, a8, a9, a10, a11, a12, a13, a14, a15, a16, a17, a18, a19, a20, a21, a22, a23) =>
      ⟨a0, a1, a2, a3, a4, a5, a6, a7, a8, a9, a10, a11, a12, a13, a14, a15, a16, a17, a18, a19, a20, a21, a22, a23⟩) <|
    (cBits 64).pair <| (cBits 64).pair <| (cBits 64).pair <| (cBits 64).pair <| cNat.pair <| cNat.pair <| cNat.pair <| cNat.pair <|
    cBool.pair <| cBool.pair <| cBool.pair <| cBool.pair <| cBool.pair <| cBool.pair <| (cBits 5).pair <| cNat.pair <| cNat.pair <|
    (cBits 64).pair <| (cBits 64).pair <| cNat.pair <| cNat.pair <| cNat.pair <| (cOption cNat).pair <| cNat
/-- A grid. -/
def cGrid : Codec Grid :=
  Codec.iso (fun x => (x.id, x.part, x.mbx, x.launch, x.arrival, x.desc, x.msg, x.halted, x.commits))
    (fun (a0, a1, a2, a3, a4, a5, a6, a7, a8) => ⟨a0, a1, a2, a3, a4, a5, a6, a7, a8⟩) <|
    cNat.pair <| cNat.pair <| cNat.pair <| cNat.pair <| cNat.pair <| cDesc.pair <| (cList (cBits 8)).pair <| cBool.pair <| cNat
/-- A crew. -/
def cCrew : Codec Crew :=
  Codec.iso (fun x => (x.grid, x.num, x.team, x.state, x.core, x.deque, x.bufW, x.bufA, x.bufC))
    (fun (a0, a1, a2, a3, a4, a5, a6, a7, a8) => ⟨a0, a1, a2, a3, a4, a5, a6, a7, a8⟩) <|
    cNat.pair <| cNat.pair <| cNat.pair <| cCrewState.pair <| (cOption cCoreId).pair <| (cList (cBits 64)).pair <| cMem.pair <|
    cMem.pair <| cMem
/-- A team. -/
def cTeam : Codec Team :=
  Codec.iso (fun x => (x.grid, x.num, x.shelf, x.cluster, x.started, x.out, x.inn))
    (fun (a0, a1, a2, a3, a4, a5, a6) => ⟨a0, a1, a2, a3, a4, a5, a6⟩) <|
    cNat.pair <| cNat.pair <| (cOption cNat).pair <| (cOption cNat).pair <| (cVec 4 cNat).pair <| (cVec 4 cNat).pair <| (cVec 4 cNat)
/-- An operand of a slip. -/
def cOpnd : Codec Opnd :=
  Codec.iso (fun x => (x.ty, x.rot, x.rpitch, x.addr, x.saddr, x.tpitch, x.k, x.crew, x.screw, x.lanes))
    (fun (a0, a1, a2, a3, a4, a5, a6, a7, a8, a9) => ⟨a0, a1, a2, a3, a4, a5, a6, a7, a8, a9⟩) <|
    cNat.pair <| cNat.pair <| cNat.pair <| cNat.pair <| cNat.pair <| cNat.pair <| cNat.pair <| cNat.pair <| cNat.pair <|
    (cOption (cList (cVec 64 (cBits 32))))
/-- What a slip does. -/
def cSlipOp : Codec SlipOp :=
  Codec.tagged
    (fun x => match x with
      | .mul _ _ _ _ => 0
      | .group _ _ _ _ _ _ _ => 1
      | .weight _ _ _ _ _ => 2
      | .pair _ _ _ _ _ _ _ => 3
      | .zero _ => 4
      | .load _ _ => 5
      | .store _ _ => 6
      | .convert _ _ _ _ => 7)
    [Codec.branch (fun x => match x with
        | .mul a0 a1 a2 a3 => some (a0, a1, a2, a3)
        | _ => none) (fun (a0, a1, a2, a3) => .mul a0 a1 a2 a3) <|
        cHandle.pair <| cOpnd.pair <| cOpnd.pair <| cBool,
      Codec.branch (fun x => match x with
        | .group a0 a1 a2 a3 a4 a5 a6 => some (a0, a1, a2, a3, a4, a5, a6)
        | _ => none) (fun (a0, a1, a2, a3, a4, a5, a6) => .group a0 a1 a2 a3 a4 a5 a6) <|
        cHandle.pair <| cOpnd.pair <| cOpnd.pair <| cBool.pair <| cNat.pair <| cNat.pair <| (cList cNat),
      Codec.branch (fun x => match x with
        | .weight a0 a1 a2 a3 a4 => some (a0, a1, a2, a3, a4)
        | _ => none) (fun (a0, a1, a2, a3, a4) => .weight a0 a1 a2 a3 a4) <|
        cHandle.pair <| cOpnd.pair <| cBool.pair <| cNat.pair <| cNat,
      Codec.branch (fun x => match x with
        | .pair a0 a1 a2 a3 a4 a5 a6 => some (a0, a1, a2, a3, a4, a5, a6)
        | _ => none) (fun (a0, a1, a2, a3, a4, a5, a6) => .pair a0 a1 a2 a3 a4 a5 a6) <|
        cHandle.pair <| cHandle.pair <| cOpnd.pair <| cOpnd.pair <| cOpnd.pair <| cBool.pair <| cBool,
      Codec.branch (fun x => match x with
        | .zero a0 => some a0
        | _ => none) (fun a0 => .zero a0) <|
        cHandle,
      Codec.branch (fun x => match x with
        | .load a0 a1 => some (a0, a1)
        | _ => none) (fun (a0, a1) => .load a0 a1) <|
        cHandle.pair <| cOpnd,
      Codec.branch (fun x => match x with
        | .store a0 a1 => some (a0, a1)
        | _ => none) (fun (a0, a1) => .store a0 a1) <|
        cHandle.pair <| cOpnd,
      Codec.branch (fun x => match x with
        | .convert a0 a1 a2 a3 => some (a0, a1, a2, a3)
        | _ => none) (fun (a0, a1, a2, a3) => .convert a0 a1 a2 a3) <|
        cHandle.pair <| cOpnd.pair <| cRMode.pair <| cBool]
/-- A slip. -/
def cSlip : Codec Slip :=
  Codec.iso
    (fun x =>
      (x.order, x.cluster, x.warp, x.grid, x.crew, x.team, x.rank, x.twin, x.ticket, x.op, x.priority, x.started, x.blocks, x.held,
      x.shadow, x.failed))
    (fun
      (a0, a1, a2, a3, a4, a5, a6, a7, a8, a9, a10, a11, a12, a13, a14, a15) =>
      ⟨a0, a1, a2, a3, a4, a5, a6, a7, a8, a9, a10, a11, a12, a13, a14, a15⟩) <|
    cNat.pair <| cNat.pair <| cNat.pair <| cNat.pair <| cNat.pair <| cNat.pair <| cNat.pair <| (cOption cNat).pair <| cTicket.pair <|
    cSlipOp.pair <| cNat.pair <| cBool.pair <| cNat.pair <| cBool.pair <| cBool.pair <| cBool

/-! ## Mailboxes and barriers -/

/-- A binding. -/
def cBinding : Codec Binding :=
  Codec.tagged
    (fun x => match x with
      | .none => 0
      | .handler _ => 1
      | .service => 2)
    [Codec.unit .none,
      Codec.branch (fun x => match x with
        | .handler a0 => some a0
        | _ => none) (fun a0 => .handler a0) <|
        cDesc,
      Codec.unit .service]
/-- A mailbox. -/
def cMbx : Codec Mbx :=
  Codec.iso (fun x => (x.binding, x.queue, x.running, x.refused, x.reason))
    (fun (a0, a1, a2, a3, a4) => ⟨a0, a1, a2, a3, a4⟩) <|
    cBinding.pair <| (cList (cNat.pair (cList (cBits 8)))).pair <| cNat.pair <| cNat.pair <| cNat
/-- A barrier object. -/
def cBar : Codec Bar :=
  Codec.iso (fun x => (x.gen, x.phase, x.count0, x.count1, x.count, x.scope, x.abandoned, x.arr0, x.arr1, x.members))
    (fun (a0, a1, a2, a3, a4, a5, a6, a7, a8, a9) => ⟨a0, a1, a2, a3, a4, a5, a6, a7, a8, a9⟩) <|
    (cBits 8).pair <| (cBits 32).pair <| cNat.pair <| cNat.pair <| cNat.pair <| cNat.pair <| cBool.pair <| (cList cNat).pair <|
    (cList cNat).pair <| (cList cNat)

end Sys2Proof.Machine
end

