-- ==== Sys2Proof/Machine/Gcm.lean ====
section
/-! DEFINITION. AES-256-GCM (R402, R410), as NIST SP 800-38D defines it. PRESUMED, log 121. -/

namespace Sys2Proof.Machine

/-! ## GCM -/

/-- Sixteen bytes as a block, the first byte the most significant. -/
def gcmWord (b : List Byte) : BitVec 128 := BitVec.ofNat 128 (b.foldl (fun n x => 256 * n + x.toNat) 0)
/-- The bytes of a block. -/
def gcmBytes (x : BitVec 128) : List Byte := (natToBytes 16 x.toNat).reverse

/-- The product of two blocks. -/
def gcmMul (x y : BitVec 128) : BitVec 128 :=
  ((List.range 128).foldl (fun (r : BitVec 128 × BitVec 128) i =>
    (if x.getLsbD (127 - i) then r.1 ^^^ r.2 else r.1, (r.2 >>> 1) ^^^ if r.2.getLsbD 0 then 0xE1#128 <<< 120 else 0)) (0, y)).1

/-- Bytes padded to whole blocks. -/
def padBlock (b : List Byte) : List Byte := b ++ List.replicate ((16 - b.length % 16) % 16) 0

/-- Blocks of 16 bytes; the fuel is their number. -/
def blocks16 : Nat → List Byte → List (List Byte)
  | 0, _ => []
  | k + 1, b => b.take 16 :: blocks16 k (b.drop 16)

/-- GHASH of whole blocks. -/
def ghash (h : BitVec 128) (b : List Byte) : BitVec 128 := (blocks16 (b.length / 16) b).foldl (fun y x => gcmMul (y ^^^ gcmWord x) h) 0

/-- The counter block of an IV of 12 bytes. -/
def gcmCounter (iv : List Byte) (n : Nat) : List Byte := iv ++ (natToBytes 4 n).reverse

/-- A segment under the keystream: the same function seals and opens. PRESUMED, log 121. -/
def gcmCrypt (key iv b : List Byte) : List Byte :=
  let ks := aesKeys key
  ((blocks16 ((b.length + 15) / 16) b).zipIdx).flatMap fun x => xorBytes x.1 (aesBlock ks (gcmCounter iv (x.2 + 2)))

/-- The tag of a ciphertext with additional data. PRESUMED, log 121. -/
def gcmTag (key iv aad ct : List Byte) : List Byte :=
  let ks := aesKeys key
  let h := gcmWord (aesBlock ks (List.replicate 16 0))
  let lens := (natToBytes 8 (8 * aad.length)).reverse ++ (natToBytes 8 (8 * ct.length)).reverse
  xorBytes (gcmBytes (ghash h (padBlock aad ++ padBlock ct ++ lens))) (aesBlock ks (gcmCounter iv 1))

end Sys2Proof.Machine
end

