-- ==== Sys2Proof/Machine/Keccak.lean ====
section
/-! DEFINITION. The sponge functions that the security block uses (R402): SHAKE256, and SHA3 and SHAKE128 within ML-KEM, as FIPS 202 defines
them. PRESUMED, log 121. -/

namespace Sys2Proof.Machine

/-- A lane of the sponge's state: 25 lanes, lane (x, y) at 5 y + x. -/
def lane (a : List W64) (x y : Nat) : W64 := a.getD (5 * (y % 5) + x % 5) 0

/-- A state from its lanes. -/
def lanesBy (f : Nat → Nat → W64) : List W64 := (List.range 25).map fun i => f (i % 5) (i / 5)

/-- The walk that gives lanes their rotations: from step t on, lane (x, y) is rotated by the triangular number of t + 1, and the walk goes on at lane
(y, 2 x + 3 y). The fuel is the number of steps. -/
def rhoWalk : Nat → Nat → Nat → Nat → List (Nat × Nat)
  | 0, _, _, _ => []
  | k + 1, t, x, y => (5 * y + x, (t + 1) * (t + 2) / 2 % 64) :: rhoWalk k (t + 1) y ((2 * x + 3 * y) % 5)

/-- The rotation of each lane; lane (0, 0), which the walk does not meet, is not rotated. -/
def rhoOffsets : List Nat :=
  let walk := rhoWalk 24 0 1 0
  (List.range 25).map fun i => ((walk.find? fun p => p.1 == i).map (·.2)).getD 0

/-- The bits of the shift register of the round constants: it has 8 bits, bits 0, 4, 5 and 6 take the bit that leaves it, and bit 0 is put out. The
fuel is the number of bits. -/
def rcBits : Nat → Nat → List Bool
  | 0, _ => []
  | k + 1, r => r.testBit 0 :: rcBits k (if r.testBit 7 then (2 * r - 256) ^^^ 0x71 else 2 * r)

/-- The constant of each of the 24 rounds: 7 bits of the register, bit j at place 2^j - 1. -/
def roundConstants : List W64 :=
  let bits := rcBits 168 1
  (List.range 24).map fun i => (List.range 7).foldl (fun c j => if bits.getD (7 * i + j) false then c ||| ((1 : W64) <<< (2 ^ j - 1)) else c) 0

/-- One round. -/
def keccakRound (a : List W64) (rc : W64) : List W64 :=
  let c (x : Nat) : W64 := lane a x 0 ^^^ lane a x 1 ^^^ lane a x 2 ^^^ lane a x 3 ^^^ lane a x 4
  let d := (List.range 5).map fun x => c (x + 4) ^^^ (c (x + 1)).rotateLeft 1
  let t := lanesBy fun x y => lane a x y ^^^ d.getD x 0
  let b := lanesBy fun x y => let u := (x + 3 * y) % 5; (lane t u x).rotateLeft (rhoOffsets.getD (5 * x + u) 0)
  let e := lanesBy fun x y => lane b x y ^^^ (~~~lane b (x + 1) y &&& lane b (x + 2) y)
  lanesBy fun x y => if x = 0 ∧ y = 0 then lane e 0 0 ^^^ rc else lane e x y

/-- The permutation. -/
def keccak (a : List W64) : List W64 := roundConstants.foldl keccakRound a

/-- A block of bytes joins the state. -/
def absorb (a : List W64) (block : List Byte) : List W64 :=
  keccak ((List.range 25).map fun i => a.getD i 0 ^^^ BitVec.ofNat 64 (leAt block (8 * i) 8))

/-- The blocks of a padded message; the fuel is their number. -/
def absorbAll (rate : Nat) : Nat → List W64 → List Byte → List W64
  | 0, a, _ => a
  | k + 1, a, m => absorbAll rate k (absorb a (m.take rate)) (m.drop rate)

/-- Blocks of output; the fuel is their number. -/
def squeeze (rate : Nat) : Nat → List W64 → List Byte
  | 0, _ => []
  | k + 1, a => (a.flatMap fun x => natToBytes 8 x.toNat).take rate ++ squeeze rate k (keccak a)

/-- A sponge of some rate with a suffix: n bytes of output. -/
def sponge (rate : Nat) (suffix : Byte) (m : List Byte) (n : Nat) : List Byte :=
  let pad := rate - m.length % rate
  let z := suffix :: List.replicate (pad - 1) 0
  let z := z.dropLast ++ [z.getLast?.getD 0 ^^^ 0x80]
  (squeeze rate ((n + rate - 1) / rate) (absorbAll rate ((m.length + pad) / rate) (List.replicate 25 0) (m ++ z))).take n

/-- SHAKE256 and SHAKE128: n bytes. PRESUMED, log 121. -/
def shake256 (m : List Byte) (n : Nat) : List Byte := sponge 136 0x1F m n
def shake128 (m : List Byte) (n : Nat) : List Byte := sponge 168 0x1F m n
/-- SHA3-256 and SHA3-512. -/
def sha3s (m : List Byte) : List Byte := sponge 136 0x06 m 32
def sha3l (m : List Byte) : List Byte := sponge 72 0x06 m 64

end Sys2Proof.Machine
end

