-- ==== Sys2Proof/Machine/Kem.lean ====
section
/-! DEFINITION. ML-KEM-1024 (R402), as FIPS 203 defines it. PRESUMED, log 121. -/

namespace Sys2Proof.Machine

/-! ## Polynomials modulo 3,329 -/

/-- The modulus. -/
def kemQ : Nat := 3329
/-- A polynomial of 256 coefficients. -/
abbrev Poly := List Nat

/-- A polynomial from its coefficients. -/
def polyBy (f : Nat → Nat) : Poly := (List.range 256).map f
/-- The sum and the difference of two polynomials. -/
def polyAdd (a b : Poly) : Poly := a.zipWith (fun x y => (x + y) % kemQ) b
def polySub (a b : Poly) : Poly := a.zipWith (fun x y => (x + kemQ - y) % kemQ) b
/-- The zero polynomial. -/
def polyZero : Poly := List.replicate 256 0

/-- A number of 7 bits with its bits in reverse order. -/
def rev7 (i : Nat) : Nat := (List.range 7).foldl (fun n b => 2 * n + i / 2 ^ b % 2) 0
/-- A power of the root of unity 17. -/
def zeta (i : Nat) : Nat := 17 ^ i % kemQ

/-- One layer of the number-theoretic transform, over pairs `len` apart. -/
def nttLayer (f : Poly) (len : Nat) : Poly :=
  polyBy fun x =>
    let z := zeta (rev7 (128 / len + x / (2 * len)))
    if x % (2 * len) < len then (f.getD x 0 + z * f.getD (x + len) 0) % kemQ
    else (f.getD (x - len) 0 + kemQ * kemQ - z * f.getD x 0) % kemQ
/-- The transform. -/
def ntt (f : Poly) : Poly := [128, 64, 32, 16, 8, 4, 2].foldl nttLayer f

/-- One layer of the inverse transform. -/
def inttLayer (f : Poly) (len : Nat) : Poly :=
  polyBy fun x =>
    let z := zeta (rev7 (2 * (128 / len) - 1 - x / (2 * len)))
    if x % (2 * len) < len then (f.getD x 0 + f.getD (x + len) 0) % kemQ
    else z * (f.getD x 0 + kemQ - f.getD (x - len) 0) % kemQ
/-- The inverse transform. -/
def intt (f : Poly) : Poly := ([2, 4, 8, 16, 32, 64, 128].foldl inttLayer f).map fun x => x * 3303 % kemQ

/-- The product of two transformed polynomials. -/
def polyMul (a b : Poly) : Poly :=
  polyBy fun x =>
    let i := x / 2
    let p (k : Nat) : Nat := a.getD (2 * i + k) 0
    let q (k : Nat) : Nat := b.getD (2 * i + k) 0
    if x % 2 = 0 then (p 0 * q 0 + p 1 * q 1 % kemQ * zeta (2 * rev7 i + 1)) % kemQ else (p 0 * q 1 + p 1 * q 0) % kemQ

/-- The sum of the products of two vectors. -/
def polyDot (a b : List Poly) : Poly := (a.zip b).foldl (fun s p => polyAdd s (polyMul p.1 p.2)) polyZero

/-! ## Bytes, compression and sampling -/

/-- Coefficients of d bits, as bytes. -/
def encodePoly (d : Nat) (f : Poly) : List Byte := natToBytes (32 * d) ((f.reverse).foldl (fun n x => n * 2 ^ d + x % 2 ^ d) 0)
/-- Coefficients of d bits, from bytes. -/
def decodePoly (d : Nat) (b : List Byte) : Poly :=
  let n := bytesToNat (b.take (32 * d))
  polyBy fun i => n / 2 ^ (d * i) % 2 ^ d % (if d = 12 then kemQ else 2 ^ d)

/-- Compression to d bits, and its inverse. -/
def compress (d x : Nat) : Nat := (2 ^ (d + 1) * x + kemQ) / (2 * kemQ) % 2 ^ d
def decompress (d y : Nat) : Nat := (2 * kemQ * y + 2 ^ d) / 2 ^ (d + 1)

/-- The coefficients that three bytes of a stream give. -/
def samplePair (b : List Byte) (i : Nat) : List Nat :=
  let at' (k : Nat) : Nat := (b.getD (3 * i + k) 0).toNat
  [at' 0 + 256 * (at' 1 % 16), at' 1 / 16 + 16 * at' 2].filter (· < kemQ)
/-- A uniform transformed polynomial of a seed. -/
def sampleNtt (seed : List Byte) : Poly :=
  let b := shake128 seed 3360
  (((List.range 1120).flatMap (samplePair b)) ++ polyZero).take 256

/-- A small polynomial of a seed and a number: differences of sums of two bits. -/
def sampleSmall (seed : List Byte) (n : Nat) : Poly :=
  let x := bytesToNat (shake256 (seed ++ natToBytes 1 n) 128)
  let bit (i : Nat) : Nat := x / 2 ^ i % 2
  polyBy fun i => (bit (4 * i) + bit (4 * i + 1) + kemQ - bit (4 * i + 2) - bit (4 * i + 3)) % kemQ

/-- The matrix of a seed, row by row. -/
def kemMatrix (rho : List Byte) : List (List Poly) :=
  (List.range 4).map fun i => (List.range 4).map fun j => sampleNtt (rho ++ natToBytes 1 j ++ natToBytes 1 i)

/-- Its columns. -/
def columns (a : List (List Poly)) : List (List Poly) := (List.range 4).map fun j => a.map fun r => r.getD j polyZero

/-! ## The scheme -/

/-- The secret vector, in transformed form, and the encapsulation key of a seed d. PRESUMED, log 121. -/
def kemPair (d : List Byte) : List Poly × List Byte :=
  let g := sha3l (d ++ [4])
  let rho := g.take 32
  let sigma := g.drop 32
  let s := (List.range 4).map fun i => ntt (sampleSmall sigma i)
  let e := (List.range 4).map fun i => ntt (sampleSmall sigma (4 + i))
  let t := ((kemMatrix rho).zip e).map fun r => polyAdd (polyDot r.1 s) r.2
  (s, t.flatMap (encodePoly 12) ++ rho)

/-- Polynomials of d bits one after another, from bytes. -/
def decodeVec (d : Nat) (b : List Byte) : List Poly := (List.range 4).map fun i => decodePoly d (b.drop (32 * d * i))

/-- The ciphertext of a message of 32 bytes under a key, with the randomness r. -/
def kemEncrypt (ek m r : List Byte) : List Byte :=
  let a := columns (kemMatrix ((ek.drop 1536).take 32))
  let y := (List.range 4).map fun i => ntt (sampleSmall r i)
  let u := a.zipIdx.map fun c => polyAdd (intt (polyDot c.1 y)) (sampleSmall r (4 + c.2))
  let mu := (decodePoly 1 m).map (decompress 1)
  let v := polyAdd (polyAdd (intt (polyDot (decodeVec 12 ek) y)) (sampleSmall r 8)) mu
  (u.flatMap fun f => encodePoly 11 (f.map (compress 11))) ++ encodePoly 5 (v.map (compress 5))

/-- The secret and the ciphertext of an encapsulation with 32 random bytes. -/
def kemEncaps (ek m : List Byte) : List Byte × List Byte :=
  let g := sha3l (m ++ sha3s ek)
  (g.take 32, kemEncrypt ek m (g.drop 32))

/-- The message of a ciphertext. -/
def kemDecrypt (s : List Poly) (c : List Byte) : List Byte :=
  let u := (decodeVec 11 c).map fun f => ntt (f.map (decompress 11))
  let v := (decodePoly 5 (c.drop 1408)).map (decompress 5)
  encodePoly 1 ((polySub v (intt (polyDot s u))).map (compress 1))

/-- The secret that decapsulation yields, with the seeds d and z of the key: another one where the ciphertext was not made for the key.
PRESUMED, log 121. -/
def kemDecaps (d z c : List Byte) : List Byte :=
  let k := kemPair d
  let m := kemDecrypt k.1 c
  let g := sha3l (m ++ sha3s k.2)
  if kemEncrypt k.2 m (g.drop 32) = c then g.take 32 else shake256 (z ++ c) 32

end Sys2Proof.Machine
end

