-- ==== Sys2Proof/Machine/Float.lean ====
section
/-! DEFINITION. Numbers (spec 02): the floating-point formats, exact values, rounding and its flags, arithmetic, conversions, special
functions, the order of sums, and the stochastic draw. -/

namespace Sys2Proof.Machine

/-! ## Formats (R36, R37) -/

/-- Bits of the exponent and fraction fields, the bias, and the largest exponent of a finite value. -/
def expBits : Fmt → Nat
  | .f64 => 11
  | .f32 => 8
  | .f16 => 5
  | .bf16 => 8
  | .e5m2 => 5
  | .e4m3 => 4
  | .e2m1 => 2
def fracBits : Fmt → Nat
  | .f64 => 52
  | .f32 => 23
  | .f16 => 10
  | .bf16 => 7
  | .e5m2 => 2
  | .e4m3 => 3
  | .e2m1 => 1
def bias : Fmt → Nat
  | .f64 => 1023
  | .f32 => 127
  | .f16 => 15
  | .bf16 => 127
  | .e5m2 => 15
  | .e4m3 => 7
  | .e2m1 => 1
def maxExp : Fmt → Int
  | .f64 => 1023
  | .f32 => 127
  | .f16 => 15
  | .bf16 => 127
  | .e5m2 => 15
  | .e4m3 => 8
  | .e2m1 => 2

/-- The significand of the largest finite value, in units of its last place (R36). -/
def maxSig (f : Fmt) : Nat := if f = .e4m3 then 14 else 2 ^ (fracBits f + 1) - 1

/-- A format with infinities (R36). -/
def hasInf : Fmt → Bool
  | .e4m3 => false
  | .e2m1 => false
  | _ => true

/-- The canonical quiet NaN (R37); E2M1 has none, and a NaN becomes zero there (R53). -/
def canonNaN : Fmt → Nat
  | .f64 => 0x7FF8000000000000
  | .f32 => 0x7FC00000
  | .f16 => 0x7E00
  | .bf16 => 0x7FC0
  | .e5m2 => 0x7E
  | .e4m3 => 0x7F
  | .e2m1 => 0

/-- The value of a bit pattern: a NaN with its sign and fraction, an infinity, or (−1)^neg × m × 2^e. -/
inductive FVal where
  | nan (sig : Bool) (neg : Bool) (frac : Nat)
  | inf (neg : Bool)
  | fin (neg : Bool) (m : Nat) (e : Int)
  deriving DecidableEq, Repr

/-- The value of a bit pattern (R36, R37). -/
def fval (f : Fmt) (x : Nat) : FVal :=
  let p := fracBits f
  let neg := x.testBit (f.bits - 1)
  let ef := bitsOf x p (expBits f)
  let fr := bitsOf x 0 p
  let fin : FVal := if ef = 0 then .fin neg fr (1 - bias f - p) else .fin neg (2 ^ p + fr) ((ef : Int) - bias f - p)
  if hasInf f ∧ ef = 2 ^ expBits f - 1 then
    if fr = 0 then .inf neg else .nan (!fr.testBit (p - 1)) neg fr
  else if f = .e4m3 ∧ ef = 15 ∧ fr = 7 then .nan false neg fr
  else fin

/-- The flags (R50): INV, DZ, OVF, UNF, INX in bits 0 to 4. -/
abbrev Flags := BitVec 5
def flagInv : Flags := 1
def flagDz : Flags := 2
def flagOvf : Flags := 4
def flagUnf : Flags := 8
def flagInx : Flags := 16

/-- A signalling NaN raises INV (R42). -/
def FVal.sigFlag : FVal → Flags
  | .nan true _ _ => flagInv
  | _ => 0
def FVal.isNaN : FVal → Bool
  | .nan _ _ _ => true
  | _ => false
/-- A value that is finite. -/
def FVal.isFin : FVal → Bool
  | .fin _ _ _ => true
  | _ => false
/-- Changes the sign (R137). -/
def FVal.neg : FVal → FVal
  | .nan s n f => .nan s (!n) f
  | .inf n => .inf (!n)
  | .fin n m e => .fin (!n) m e

/-! ## Rounding (R46, R47, R50) -/

/-- The sign bit of a format. -/
def signBit (f : Fmt) (neg : Bool) : Nat := if neg then 2 ^ (f.bits - 1) else 0
/-- ±Inf. -/
def infBits (f : Fmt) (neg : Bool) : Nat := signBit f neg + (2 ^ expBits f - 1) * 2 ^ fracBits f
/-- ± the largest finite value. -/
def maxBits (f : Fmt) (neg : Bool) : Nat :=
  signBit f neg + (maxExp f + bias f).toNat * 2 ^ fracBits f + (maxSig f - 2 ^ fracBits f)

/-- The number of bits of a number. -/
def bitLen (m : Nat) : Nat := if m = 0 then 0 else Nat.log2 m + 1

/-- m × 2^e in units of 2^q: the whole units, and the rest as a fraction (r of 2^k). -/
def unitsOf (m : Nat) (e q : Int) : Nat × Nat × Nat :=
  if q ≤ e then (m * 2 ^ (e - q).toNat, 0, 0)
  else (m / 2 ^ (q - e).toNat, m % 2 ^ (q - e).toNat, (q - e).toNat)

/-- Whether the mode picks the neighbour of larger magnitude (R46, R47): a whole units, the rest r of 2^k. -/
def roundsUp (mode : RMode) (draw : Nat) (neg : Bool) (a r k : Nat) : Bool :=
  if r = 0 then false
  else
    match mode with
    | .rne => decide (2 ^ k < 2 * r) || (decide (2 * r = 2 ^ k) && a % 2 == 1)
    | .rtz => false
    | .rdn => neg
    | .rup => !neg
    | .sto => decide (draw < r * 2 ^ 32 / 2 ^ k)

/-- The outcome of rounding a nonzero exact value to a format (R46, R50): the chosen significand and its unit, whether it differs from the
exact value, whether it lies beyond the largest finite value, and whether the exact value is tiny. -/
structure Rounded where
  neg : Bool
  a : Nat
  q : Int
  inexact : Bool
  beyond : Bool
  tiny : Bool
  deriving DecidableEq, Repr

/-- Rounds (−1)^neg × m × 2^e with m ≠ 0. -/
def roundTo (f : Fmt) (mode : RMode) (draw : Nat) (neg : Bool) (m : Nat) (e : Int) : Rounded :=
  let p : Int := fracBits f
  let emin : Int := 1 - bias f
  let ex : Int := (bitLen m : Int) - 1 + e
  let q := max (ex - p) (emin - p)
  let (a, r, k) := unitsOf m e q
  let a' := if roundsUp mode draw neg a r k then a + 1 else a
  -- tininess after rounding: the same value rounded with an unbounded exponent
  let (b, rb, kb) := unitsOf m e (ex - p)
  let b' := if roundsUp mode draw neg b rb kb then b + 1 else b
  let tiny :=
    if mode = .sto then decide (ex < emin)
    else decide (ex < emin) && !(decide (ex = emin - 1) && decide (b' = 2 ^ (fracBits f + 1)))
  let maxQ := maxExp f - p
  { neg := neg, a := a', q := q, inexact := r != 0,
    beyond := decide (maxQ < q ∧ a' ≠ 0) && decide (maxSig f < a' * 2 ^ (q - maxQ).toNat) || (decide (q = maxQ) && decide (maxSig f < a')),
    tiny := tiny }

/-- Packs a significand of at most fracBits + 1 bits, or one carried over, in units of 2^q. -/
def packFin (f : Fmt) (neg : Bool) (a : Nat) (q : Int) : Nat :=
  let p := fracBits f
  let (a, q) := if a = 2 ^ (p + 1) then (2 ^ p, q + 1) else (a, q)
  if a < 2 ^ p then signBit f neg + a
  else signBit f neg + (q - (1 - bias f - p)).toNat * 2 ^ p + a

/-- Whether a value beyond the largest finite one is delivered as ±Inf (R46). -/
def overInf (mode : RMode) (neg : Bool) : Bool :=
  match mode with
  | .rne => true
  | .sto => true
  | .rtz => false
  | .rdn => neg
  | .rup => !neg

/-- The flags of a rounding (R50). -/
def Rounded.flags (r : Rounded) : Flags :=
  if r.beyond then flagOvf ||| flagInx
  else (if r.inexact then flagInx else 0) ||| (if r.tiny && r.inexact then flagUnf else 0)

/-- `round` to a format with infinities (R10, R46), with the flags of R50. -/
def roundF (f : Fmt) (mode : RMode) (draw : Nat) (neg : Bool) (m : Nat) (e : Int) : Nat × Flags :=
  if m = 0 then (signBit f neg, 0)
  else
    let r := roundTo f mode draw neg m e
    (if r.beyond then (if overInf mode neg then infBits f neg else maxBits f neg) else packFin f neg r.a r.q, r.flags)

/-! ## Exact arithmetic (R43) -/

/-- An exact value (−1)^neg × m × 2^e; a zero keeps its sign. -/
structure Dy where
  neg : Bool
  m : Nat
  e : Int
  deriving DecidableEq, Repr

/-- The signed significand of a value in units of 2^e, for e at most its own exponent. -/
def Dy.units (x : Dy) (e : Int) : Int := (if x.neg then -1 else 1) * ((x.m : Int) * 2 ^ (x.e - e).toNat)

/-- The exact product; a zero keeps the sign of x XOR y (R137). -/
def Dy.mul (x y : Dy) : Dy := ⟨x.neg != y.neg, x.m * y.m, x.e + y.e⟩
/-- The exact sum; a zero takes its sign by R43. -/
def Dy.add (mode : RMode) (x y : Dy) : Dy :=
  let e := min x.e y.e
  let n := x.units e + y.units e
  if n = 0 then ⟨if x.neg = y.neg then x.neg else mode == .rdn, 0, e⟩ else ⟨decide (n < 0), n.natAbs, e⟩

/-- `round` of an exact value. -/
def Dy.round (x : Dy) (f : Fmt) (mode : RMode) (draw : Nat) : Nat × Flags := roundF f mode draw x.neg x.m x.e

/-! ## Arithmetic (R137) -/

/-- round(x + y). -/
def addV (f : Fmt) (mode : RMode) (draw : Nat) (x y : FVal) : Nat × Flags :=
  let sf := x.sigFlag ||| y.sigFlag
  match x, y with
  | .nan _ _ _, _ => (canonNaN f, sf)
  | _, .nan _ _ _ => (canonNaN f, sf)
  | .inf a, .inf b => if a = b then (infBits f a, sf) else (canonNaN f, flagInv)
  | .inf a, .fin _ _ _ => (infBits f a, sf)
  | .fin _ _ _, .inf b => (infBits f b, sf)
  | .fin a m e, .fin b n d => (Dy.add mode ⟨a, m, e⟩ ⟨b, n, d⟩).round f mode draw

/-- round(x × y). -/
def mulV (f : Fmt) (mode : RMode) (draw : Nat) (x y : FVal) : Nat × Flags :=
  let sf := x.sigFlag ||| y.sigFlag
  match x, y with
  | .nan _ _ _, _ => (canonNaN f, sf)
  | _, .nan _ _ _ => (canonNaN f, sf)
  | .inf a, .inf b => (infBits f (a != b), sf)
  | .inf a, .fin b n _ => if n = 0 then (canonNaN f, flagInv) else (infBits f (a != b), sf)
  | .fin a m _, .inf b => if m = 0 then (canonNaN f, flagInv) else (infBits f (a != b), sf)
  | .fin a m e, .fin b n d => (Dy.mul ⟨a, m, e⟩ ⟨b, n, d⟩).round f mode draw

/-- 0 × ∞ among two operands (R137). -/
def zeroTimesInf : FVal → FVal → Bool
  | .inf _, .fin _ m _ => m == 0
  | .fin _ m _, .inf _ => m == 0
  | _, _ => false

/-- The exact product of two values that are not NaN and not 0 × ∞: an infinity with its sign, or a finite value. -/
def prodV : FVal → FVal → Option Bool × Dy
  | .inf a, .inf b => (some (a != b), ⟨false, 0, 0⟩)
  | .inf a, .fin b _ _ => (some (a != b), ⟨false, 0, 0⟩)
  | .fin a _ _, .inf b => (some (a != b), ⟨false, 0, 0⟩)
  | .fin a m e, .fin b n d => (none, Dy.mul ⟨a, m, e⟩ ⟨b, n, d⟩)
  | _, _ => (none, ⟨false, 0, 0⟩)

/-- round(x × y + z) with one rounding. -/
def fmaV (f : Fmt) (mode : RMode) (draw : Nat) (x y z : FVal) : Nat × Flags :=
  let sf := x.sigFlag ||| y.sigFlag ||| z.sigFlag
  if zeroTimesInf x y then (canonNaN f, flagInv)
  else if x.isNaN || y.isNaN || z.isNaN then (canonNaN f, sf)
  else
    match prodV x y, z with
    | (some a, _), .inf b => if a = b then (infBits f a, 0) else (canonNaN f, flagInv)
    | (some a, _), _ => (infBits f a, 0)
    | (none, _), .inf b => (infBits f b, 0)
    | (none, d), .fin n m e => (Dy.add mode d ⟨n, m, e⟩).round f mode draw
    | (none, d), .nan _ _ _ => d.round f mode draw

/-- The order of two values that are not NaN, −0 below +0 (R138): a key for the total order. -/
def FVal.lt (x y : FVal) : Bool :=
  match x, y with
  | .inf a, .inf b => a && !b
  | .inf a, _ => a
  | _, .inf b => !b
  | .fin a m e, .fin b n d =>
    let k := min e d
    let i := (⟨a, m, e⟩ : Dy).units k
    let j := (⟨b, n, d⟩ : Dy).units k
    decide (i < j) || (decide (i = j) && a && !b && m == 0)
  | _, _ => false
/-- Numeric comparison of values that are not NaN, −0 equal to +0 (R139). -/
def FVal.numLt (x y : FVal) : Bool :=
  match x, y with
  | .fin _ 0 _, .fin _ 0 _ => false
  | _, _ => x.lt y
def FVal.numEq (x y : FVal) : Bool :=
  match x, y with
  | .nan _ _ _, _ => false
  | _, .nan _ _ _ => false
  | _, _ => !x.numLt y && !y.numLt x

/-- `fmin` and `fmax` (R138) on bit patterns: `big` for the larger, `nan` for the NaN rule. -/
def minmaxV (f : Fmt) (big nan : Bool) (a b : Nat) : Nat × Flags :=
  let x := fval f a
  let y := fval f b
  let sf := x.sigFlag ||| y.sigFlag
  if x.isNaN && y.isNaN then (canonNaN f, sf)
  else if x.isNaN then (if nan then canonNaN f else b, sf)
  else if y.isNaN then (if nan then canonNaN f else a, sf)
  else if big then (if x.lt y then b else a, sf)
  else (if y.lt x then b else a, sf)

/-- `fset` (R139). -/
def fsetV (f : Fmt) (cc : FCond) (a b : Nat) : Bool × Flags :=
  let x := fval f a
  let y := fval f b
  let un := x.isNaN || y.isNaN
  let sf := x.sigFlag ||| y.sigFlag
  let any : Flags := if un then flagInv else 0
  match cc with
  | .eq => (x.numEq y, sf)
  | .neu => (!x.numEq y, sf)
  | .lt => (!un && x.numLt y, any)
  | .le => (!un && !y.numLt x, any)

/-- The neighbour of a value among the integers (R140, R54): its magnitude, and whether it differs from the value. -/
def roundInt (mode : RMode) (draw : Nat) (neg : Bool) (m : Nat) (e : Int) : Nat × Bool :=
  let (a, r, k) := unitsOf m e 0
  (if roundsUp mode draw neg a r k then a + 1 else a, r != 0)

/-- `frnd` (R140). -/
def frndV (f : Fmt) (mode : RMode) (draw : Nat) (exact : Bool) (a : Nat) : Nat × Flags :=
  match fval f a with
  | .nan sig _ _ => (canonNaN f, if sig then flagInv else 0)
  | .inf _ => (a, 0)
  | .fin neg m e =>
    let (n, inx) := roundInt mode draw neg m e
    ((roundF f .rne 0 neg n 0).1, if exact && inx then flagInx else 0)

/-- `fclass` (R141). -/
def fclassV (f : Fmt) (a : Nat) : Nat :=
  match fval f a with
  | .nan true _ _ => 1
  | .nan false _ _ => 2
  | .inf true => 4
  | .inf false => 512
  | .fin neg m _ =>
    if m = 0 then (if neg then 32 else 64)
    else if m < 2 ^ fracBits f then (if neg then 16 else 128)
    else (if neg then 8 else 256)

/-! ## Conversions (R41, R52 to R54) -/

/-- A conversion that only widens (R41). -/
def widens (src dst : Fmt) : Bool :=
  match src, dst with
  | .f16, .f32 => true
  | .f16, .f64 => true
  | .bf16, .f32 => true
  | .bf16, .f64 => true
  | .f32, .f64 => true
  | .e5m2, .f64 => true
  | .e5m2, .f32 => true
  | .e5m2, .f16 => true
  | .e5m2, .bf16 => true
  | _, _ => false

/-- Float to float (R52, R53). -/
def cvtFF (src dst : Fmt) (mode : RMode) (draw : Nat) (sat : Bool) (x : Nat) : Nat × Flags :=
  match fval src x with
  | .nan sig neg fr =>
    let sf : Flags := if sig then flagInv else 0
    if dst = .e2m1 then (0, flagInv)
    else if widens src dst then
      let p := fracBits dst
      let k := fr * 2 ^ (p - fracBits src)
      (signBit dst neg + (2 ^ expBits dst - 1) * 2 ^ p + (if k.testBit (p - 1) then k else k + 2 ^ (p - 1)), sf)
    else (canonNaN dst, sf)
  | .inf neg =>
    match dst with
    | .e5m2 => if sat then (maxBits dst neg, flagInv) else (infBits dst neg, 0)
    | .e4m3 => (if sat then maxBits dst neg else canonNaN dst, flagInv)
    | .e2m1 => (maxBits dst neg, flagInv)
    | _ => (infBits dst neg, 0)
  | .fin neg m e =>
    if m = 0 then (signBit dst neg, 0)
    else
      let r := roundTo dst mode draw neg m e
      if r.beyond then
        let big := overInf mode neg
        (match dst with
          | .e5m2 => if sat then maxBits dst neg else if big then infBits dst neg else maxBits dst neg
          | .e4m3 => if sat then maxBits dst neg else if big then canonNaN dst else maxBits dst neg
          | .e2m1 => maxBits dst neg
          | _ => if big then infBits dst neg else maxBits dst neg, r.flags)
      else (packFin dst neg r.a r.q, r.flags)

/-- Float to integer (R54): width and signedness of the target. -/
def cvtFI (src : Fmt) (wide signed : Bool) (mode : RMode) (draw : Nat) (x : Nat) : Nat × Flags :=
  let n := if wide then 64 else 32
  let hi : Int := if signed then 2 ^ (n - 1) - 1 else 2 ^ n - 1
  let lo : Int := if signed then -(2 ^ (n - 1)) else 0
  let bits (i : Int) : Nat := (i % 2 ^ n).toNat
  match fval src x with
  | .nan _ _ _ => (0, flagInv)
  | .inf neg => (bits (if neg then lo else hi), flagInv)
  | .fin neg m e =>
    let (a, inx) := roundInt mode draw neg m e
    let i : Int := if neg then -(a : Int) else a
    if hi < i then (bits hi, flagInv)
    else if i < lo then (bits lo, flagInv)
    else (bits i, if inx then flagInx else 0)

/-- Integer to float (R54, R53). -/
def cvtIF (i : Int) (dst : Fmt) (mode : RMode) (draw : Nat) (sat : Bool) : Nat × Flags :=
  if i = 0 then (0, 0)
  else
    let neg := decide (i < 0)
    let r := roundTo dst mode draw neg i.natAbs 0
    let fl := r.flags &&& (flagOvf ||| flagInx)
    if r.beyond then
      let big := overInf mode neg
      (match dst with
        | .e5m2 => if sat then maxBits dst neg else if big then infBits dst neg else maxBits dst neg
        | .e4m3 => if sat then maxBits dst neg else if big then canonNaN dst else maxBits dst neg
        | .e2m1 => maxBits dst neg
        | _ => if big then infBits dst neg else maxBits dst neg, fl)
    else (packFin dst neg r.a r.q, fl)

/-! ## The stochastic draw (R48) -/

/-- The mixing function of R48. -/
def mix (x : W64) : W64 :=
  let x := x ^^^ (x >>> 31)
  let x := x * 0x9E6F1D2B7C45A3E5#64
  let x := x ^^^ (x >>> 29)
  let x := x * 0xD3A2646CC5B17E0B#64
  x ^^^ (x >>> 32)

/-- `draw` of R48. -/
def stoDraw (seedLo seedHi : W64) (crew owarp olane : Nat) (count : W64) : Nat :=
  let a : W64 := (BitVec.ofNat 64 crew <<< 32) ||| (BitVec.ofNat 64 owarp <<< 7) ||| BitVec.ofNat 64 olane
  let x := mix (seedLo ^^^ a)
  let x := mix (x ^^^ count ^^^ seedHi)
  (x >>> 32).toNat

/-! ## The order of sums (R55, R57, R59) -/

/-- A partial sum of exact products: a NaN, infinities seen of each sign, and the finite part. -/
structure Acc where
  nan : Bool
  pinf : Bool
  ninf : Bool
  sum : Dy
  deriving DecidableEq, Repr

/-- Adds an exact product to a block (R55). -/
def Acc.addProd (a : Acc) (x y : FVal) : Acc :=
  if x.isNaN || y.isNaN || zeroTimesInf x y then { a with nan := true }
  else
    match prodV x y with
    | (some true, _) => { a with ninf := true }
    | (some false, _) => { a with pinf := true }
    | (none, d) => { a with sum := Dy.add .rne a.sum d }

/-- round(x + y, RNE, f32) of FP32 bit patterns, no flag kept. -/
def addF32 (x y : Nat) : Nat := (addV .f32 .rne 0 (fval .f32 x) (fval .f32 y)).1

/-- One K-block of products: its sum rounded to FP32, or none where the element becomes the canonical NaN (R55). An exactly zero sum takes
its sign by R43: −0 only where every product is −0. -/
def blockSum (ps : List (FVal × FVal)) : Option Nat :=
  match ps with
  | [] => some 0
  | (x, y) :: r =>
    let first : Acc :=
      if x.isNaN || y.isNaN || zeroTimesInf x y then ⟨true, false, false, ⟨false, 0, 0⟩⟩
      else
        match prodV x y with
        | (some true, _) => ⟨false, false, true, ⟨false, 0, 0⟩⟩
        | (some false, _) => ⟨false, true, false, ⟨false, 0, 0⟩⟩
        | (none, d) => ⟨false, false, false, d⟩
    let a := r.foldl (fun a p => a.addProd p.1 p.2) first
    if a.nan || (a.pinf && a.ninf) then none
    else if a.pinf then some (infBits .f32 false)
    else if a.ninf then some (infBits .f32 true)
    else some (a.sum.round .f32 .rne 0).1

/-- Cuts a list into runs of 16 (R55); the fuel bounds the number of runs. -/
def runs16 {α : Type} : Nat → List α → List (List α)
  | 0, _ => []
  | n + 1, l => if l.isEmpty then [] else l.take 16 :: runs16 n (l.drop 16)

/-- `msum` (R55, R247): the products in order of k, added to an initial FP32 element. -/
def msum (init : Nat) (ps : List (FVal × FVal)) : Nat :=
  (runs16 ps.length ps).foldl (fun acc b =>
    match blockSum b with
    | none => canonNaN .f32
    | some s => addF32 acc s) init

/-- The guidance fold (R59): out := round(u + g × (c − u), RNE, f32), evaluated exactly; g = 0 delivers a finite u, and g = 1 a finite c, as it
stands. DEDUCED, log 14. -/
def foldF32 (u c g : Nat) : Nat :=
  let vu := fval .f32 u
  let vc := fval .f32 c
  let vg := fval .f32 g
  if vu.isNaN || vc.isNaN || vg.isNaN then canonNaN .f32
  else if vu.isFin && vc.isFin && (g % 2 ^ 31 == 0 || g == 0x3F800000) then (if g = 0x3F800000 then c else u)
  else
    match vc, vu.neg with
    | .inf a, .inf b => if a != b then canonNaN .f32 else (fmaV .f32 .rne 0 vg (.inf a) vu).1
    | .inf a, _ => (fmaV .f32 .rne 0 vg (.inf a) vu).1
    | _, .inf b => (fmaV .f32 .rne 0 vg (.inf b) vu).1
    | .fin a m e, .fin b n d =>
      let x := Dy.add .rne ⟨a, m, e⟩ ⟨b, n, d⟩
      (fmaV .f32 .rne 0 vg (.fin x.neg x.m x.e) vu).1
    | _, _ => canonNaN .f32

/-! ## Fixed point for the special functions -/

/-- floor(sqrt n), by `fuel` binary digits from the top. -/
def isqrtFrom (n : Nat) : Nat → Nat → Nat
  | 0, r => r
  | k + 1, r => if (r + 2 ^ k) * (r + 2 ^ k) ≤ n then isqrtFrom n k (r + 2 ^ k) else isqrtFrom n k r
def isqrt (n : Nat) : Nat := isqrtFrom n (bitLen n / 2 + 1) 0

/-- Fractional digits of the fixed-point numbers below. -/
def fxBits : Nat := 256
def fxOne : Nat := 2 ^ fxBits
def fxMul (a b : Nat) : Nat := a * b / fxOne

/-- 2^f for a fraction f given by `n` bits (the highest first), from the root r = 2^(1/2): the product of the roots of its set bits. -/
def exp2Bits (f : Nat) : Nat → Nat → Nat → Nat
  | 0, _, acc => acc
  | n + 1, r, acc => exp2Bits f n (isqrt (r * fxOne)) (if f.testBit n then fxMul acc r else acc)
/-- 2^x for x = f × 2^(−128) below 1, in fixed point. -/
def exp2Fx (f : Nat) : Nat := exp2Bits f 128 (isqrt (2 * fxOne * fxOne)) fxOne

/-- The fraction bits of log2 of y in [1, 2), by squaring. -/
def log2Bits : Nat → Nat → Nat → Nat
  | 0, _, acc => acc
  | n + 1, y, acc =>
    let z := fxMul y y
    if 2 * fxOne ≤ z then log2Bits n (z / 2) (2 * acc + 1) else log2Bits n z (2 * acc)
/-- log2 of a value in [1, 2), with 96 fraction bits. -/
def log2Fx (y : Nat) : Nat := log2Bits 96 y 0

/-- π / 2 in fixed point, and log2 e with 128 fraction bits. -/
def halfPiFx : Nat := 181885788445883162140117471388864931326696688664196214979386075558969447233092
def log2eFx : Nat := 490923683258796565746369346286093237521

/-- Σ (−1)^i x^(2i) / (2i + j)! from the term t, for `n` terms: the series of cosine (j = 0) and sine (j = 1). -/
def trigSeries (x2 : Nat) (j : Nat) : Nat → Nat → Nat → Int
  | 0, _, _ => 0
  | n + 1, i, t =>
    (if i % 2 = 0 then (t : Int) else -(t : Int)) + trigSeries x2 j n (i + 1) (fxMul t x2 / ((2 * i + j + 1) * (2 * i + j + 2)))

/-- sin and cos of a fixed-point angle below π / 2. -/
def sinFx (x : Nat) : Int := trigSeries (fxMul x x) 1 40 0 x
def cosFx (x : Nat) : Int := trigSeries (fxMul x x) 0 40 0 fxOne

/-- An angle m × 2^e as its quarter turns and rest (the reduction uses π / 2 to 256 bits). -/
def reduceAngle (m : Nat) (e : Int) : Nat × Nat :=
  let x := if 0 ≤ e + fxBits then m * 2 ^ (e + fxBits).toNat else m / 2 ^ (-(e + fxBits)).toNat
  (x / halfPiFx % 4, x % halfPiFx)

/-! ## Special functions (R146, R147) -/

/-- The special functions, numbered for the free value of their bits (R148). -/
inductive SpecialFn where
  | rsq
  | exp2
  | log2
  | sin
  | cos
  | tanh
  deriving DecidableEq, Repr
def SpecialFn.num : SpecialFn → Nat
  | .rsq => 0
  | .exp2 => 1
  | .log2 => 2
  | .sin => 3
  | .cos => 4
  | .tanh => 5

/-- A value in fixed point as an exact value. -/
def fxDy (i : Int) (frac : Nat) : Dy := ⟨decide (i < 0), i.natAbs, -(frac : Int)⟩

/-- The exact function to far more digits than any bound asks, for a finite input that R146 does not list. -/
def specialRef (fn : SpecialFn) (neg : Bool) (m : Nat) (e : Int) : Dy :=
  let sgn (i : Int) : Int := if neg then -i else i
  match fn with
  | .rsq =>
    -- 1 / sqrt(m 2^e): an even exponent, then floor(2^k / sqrt)
    let (m, e) := if e % 2 = 0 then (m, e) else (2 * m, e - 1)
    ⟨false, 2 ^ 512 / isqrt (m * 2 ^ 512), -(256 : Int) - e / 2⟩
  | .exp2 =>
    -- |a| < 2^8: whole part by floor, fraction to 128 bits
    let (w, r, k) := unitsOf m e 0
    let fr : Nat := if k = 0 then 0 else r * 2 ^ 128 / 2 ^ k
    if neg then
      if r = 0 then ⟨false, exp2Fx 0, -(fxBits : Int) - w⟩
      else if fr = 0 then ⟨false, fxOne - 1, -(fxBits : Int) - w⟩
      else ⟨false, exp2Fx (2 ^ 128 - fr), -(fxBits : Int) - w - 1⟩
    else ⟨false, exp2Fx fr, -(fxBits : Int) + w⟩
  | .log2 =>
    let ex : Int := (bitLen m : Int) - 1 + e
    let y := m * 2 ^ (fxBits + 1 - bitLen m)
    fxDy (ex * 2 ^ 96 + (log2Fx y : Int)) 96
  | .sin =>
    let (q, r) := reduceAngle m e
    fxDy (sgn (match q with
      | 0 => sinFx r
      | 1 => cosFx r
      | 2 => -sinFx r
      | _ => -cosFx r)) fxBits
  | .cos =>
    let (q, r) := reduceAngle m e
    fxDy (match q with
      | 0 => cosFx r
      | 1 => -sinFx r
      | 2 => -cosFx r
      | _ => sinFx r) fxBits
  | .tanh =>
    let ex : Int := (bitLen m : Int) - 1 + e
    if ex < -40 then
      -- x − x³/3
      let c := Dy.add .rne ⟨false, m * 2 ^ 200, e - 200⟩ ⟨true, m * m * m * 2 ^ 200 / 3, 3 * e - 200⟩
      { c with neg := neg }
    else if 5 ≤ ex then ⟨neg, fxOne - 1, -(fxBits : Int)⟩
    else
      -- (E − 1) / (E + 1) with E = 2^(2 x log2 e)
      let t := m * 2 ^ (e + 129).toNat * log2eFx / 2 ^ 128
      let w := t / 2 ^ 128
      let big := exp2Fx (t % 2 ^ 128) * 2 ^ w
      ⟨neg, (big - fxOne) * fxOne / (big + fxOne), -(fxBits : Int)⟩

/-- |x − y| ≤ b for exact values. DESIGN CHOICE, log 27. -/
def Dy.within (x y b : Dy) : Bool :=
  let e := min (min x.e y.e) b.e
  decide ((x.units e - y.units e).natAbs ≤ (b.units e).natAbs)

/-- The bound of R147 for a reference value: n ulp, or an absolute error. DESIGN CHOICE, log 27. -/
def specialBound (fn : SpecialFn) (m : Nat) (e : Int) (y : Dy) : Dy :=
  let ulp (n : Nat) : Dy := ⟨false, n, max ((bitLen y.m : Int) - 1 + y.e) (-126) - 23⟩
  let ex : Int := (bitLen m : Int) - 1 + e
  match fn with
  | .rsq => ulp 1
  | .exp2 => ulp 2
  | .tanh => ulp 2
  | .log2 => if ex = -1 ∨ ex = 0 ∨ (ex = 1 ∧ m = 2 ^ (bitLen m - 1)) then ⟨false, 1, -22⟩ else ulp 2
  | .sin => ⟨false, 1, -22⟩
  | .cos => ⟨false, 1, -22⟩

/-- Functions that are odd: their bits are those of |a| with the sign turned (R147 Shape). -/
def SpecialFn.odd : SpecialFn → Bool
  | .sin => true
  | .tanh => true
  | _ => false

/-- Functions whose magnitude is at most 1 (R147 Shape). -/
def SpecialFn.capped : SpecialFn → Bool
  | .sin => true
  | .cos => true
  | .tanh => true
  | _ => false

/-- Functions that do not decrease (R147 Shape). -/
def SpecialFn.rising : SpecialFn → Bool
  | .exp2 => true
  | .log2 => true
  | .tanh => true
  | _ => false

/-- The input at which an odd or even function is taken. -/
def SpecialFn.key (fn : SpecialFn) (a : W32) : W32 := if fn.odd || fn == .cos then a &&& 0x7FFFFFFF#32 else a

/-- The nearest FP32 value to a function. -/
def specialNear (fn : SpecialFn) (neg : Bool) (m : Nat) (e : Int) : Nat := ((specialRef fn neg m e).round .f32 .rne 0).1

/-- Some bits lie within the bounds of R147 for a finite input. -/
def specialFits (fn : SpecialFn) (neg : Bool) (m : Nat) (e : Int) (bits : Nat) : Bool :=
  let y := specialRef fn neg m e
  match fval .f32 bits with
  | .fin cn cm ce =>
    (Dy.mk cn cm ce).within y (specialBound fn m e y) && (!fn.capped || (Dy.mk false cm ce).within ⟨false, 0, 0⟩ ⟨false, 1, 0⟩)
  | _ => false

/-- An exact power of two: its exponent. -/
def powerOf (m : Nat) (e : Int) : Option Int := if m = 2 ^ (bitLen m - 1) then some ((bitLen m : Int) - 1 + e) else none

/-- Whether an FP32 value is subnormal. -/
def subnormal32 (m : Nat) : Bool := m != 0 && decide (m < 2 ^ 23)

/-- `rcp` (R146, R147). -/
def rcpV (a : W32) : Nat × Flags :=
  match fval .f32 a.toNat with
  | .nan sig _ _ => (canonNaN .f32, if sig then flagInv else 0)
  | .inf neg => (signBit .f32 neg, 0)
  | .fin neg m e =>
    if m = 0 ∨ subnormal32 m then (infBits .f32 neg, flagDz)
    else
      let q := 2 ^ 100 / m
      roundF .f32 .rne 0 neg (2 * q + (if 2 ^ 100 % m = 0 then 0 else 1)) (-(101 : Int) - e)

/-- `sqrt` (R146, R147). -/
def sqrtV (a : W32) : Nat × Flags :=
  match fval .f32 a.toNat with
  | .nan sig _ _ => (canonNaN .f32, if sig then flagInv else 0)
  | .inf neg => if neg then (canonNaN .f32, flagInv) else (infBits .f32 false, 0)
  | .fin neg m e =>
    if m = 0 then (signBit .f32 neg, 0)
    else if neg then (canonNaN .f32, flagInv)
    else
      let (m, e) := if e % 2 = 0 then (m, e) else (2 * m, e - 1)
      let n := m * 2 ^ 80
      let r := isqrt n
      roundF .f32 .rne 0 false (2 * r + (if r * r = n then 0 else 1)) (e / 2 - 41)

/-- What stands for a special function at a finite input that R146 does not list: from the sign, the significand, the exponent and the bits
of the input. -/
abbrev FreePart := Bool → Nat → Int → W32 → Nat

/-- `rsq` (R146, R147), over its free part. -/
def rsqWith (free : FreePart) (a : W32) : Nat × Flags :=
  match fval .f32 a.toNat with
  | .nan sig _ _ => (canonNaN .f32, if sig then flagInv else 0)
  | .inf neg => if neg then (canonNaN .f32, flagInv) else (0, 0)
  | .fin neg m e =>
    if m = 0 ∨ subnormal32 m then (infBits .f32 neg, flagDz)
    else if neg then (canonNaN .f32, flagInv)
    else
      match powerOf m e with
      | some k => if k % 2 = 0 then roundF .f32 .rne 0 false 1 (-(k / 2)) else (free false m e a, flagInx)
      | none => (free false m e a, flagInx)

/-- `exp2` (R146, R147), over its free part. -/
def exp2With (free : FreePart) (a : W32) : Nat × Flags :=
  match fval .f32 a.toNat with
  | .nan sig _ _ => (canonNaN .f32, if sig then flagInv else 0)
  | .inf neg => if neg then (0, 0) else (infBits .f32 false, 0)
  | .fin neg m e =>
    let one := 0x3F800000
    if m = 0 then (one, 0)
    else
      let (w, r, _) := unitsOf m e 0
      if !neg ∧ 128 ≤ w then (infBits .f32 false, flagOvf ||| flagInx)
      else if neg ∧ (126 < w ∨ (w = 126 ∧ r ≠ 0)) then (0, flagUnf ||| flagInx)
      else if r = 0 then roundF .f32 .rne 0 false 1 (if neg then -(w : Int) else w)
      else (free neg m e a, flagInx)

/-- `log2` (R146, R147), over its free part. -/
def log2With (free : FreePart) (a : W32) : Nat × Flags :=
  match fval .f32 a.toNat with
  | .nan sig _ _ => (canonNaN .f32, if sig then flagInv else 0)
  | .inf neg => if neg then (canonNaN .f32, flagInv) else (infBits .f32 false, 0)
  | .fin neg m e =>
    if m = 0 ∨ subnormal32 m then (infBits .f32 true, flagDz)
    else if neg then (canonNaN .f32, flagInv)
    else
      match powerOf m e with
      | some k => roundF .f32 .rne 0 (decide (k < 0)) k.natAbs 0
      | none => (free false m e a, flagInx)

/-- `sin` and `cos` (R146, R147), over their free part. -/
def trigWith (cosine : Bool) (free : FreePart) (a : W32) : Nat × Flags :=
  match fval .f32 a.toNat with
  | .nan sig _ _ => (canonNaN .f32, if sig then flagInv else 0)
  | .inf _ => (canonNaN .f32, flagInv)
  | .fin neg m e =>
    if m = 0 then (if cosine then 0x3F800000 else signBit .f32 neg, 0)
    else
      (free neg m e a,
        if !cosine && subnormal32 m then flagUnf ||| flagInx else flagInx)

/-- `tanh` (R146, R147), over its free part. -/
def tanhWith (free : FreePart) (a : W32) : Nat × Flags :=
  match fval .f32 a.toNat with
  | .nan sig _ _ => (canonNaN .f32, if sig then flagInv else 0)
  | .inf neg => (signBit .f32 neg + 0x3F800000, 0)
  | .fin neg m e =>
    if m = 0 then (signBit .f32 neg, 0)
    else (free neg m e a, if subnormal32 m then flagUnf ||| flagInx else flagInx)

/-- A special function over its free part. -/
def SpecialFn.over (fn : SpecialFn) (free : FreePart) (a : W32) : Nat × Flags :=
  match fn with
  | .rsq => rsqWith free a
  | .exp2 => exp2With free a
  | .log2 => log2With free a
  | .sin => trigWith false free a
  | .cos => trigWith true free a
  | .tanh => tanhWith free a

/-- Turns the sign of an odd function's bits for a negative input. -/
def SpecialFn.turned (fn : SpecialFn) (neg : Bool) (bits : Nat) : Nat := if neg && fn.odd then (bits + 2 ^ 31) % 2 ^ 32 else bits

/-- The free bits of the part, with the symmetries of R147. -/
def specialCand (fn : SpecialFn) : FreePart := fun neg _ _ a => fn.turned neg (Config.specialBits fn.num (fn.key a)).toNat
/-- The nearest value, with the symmetries of R147. -/
def specialBest (fn : SpecialFn) : FreePart := fun neg m e _ =>
  fn.turned (neg && fn.odd) (specialNear fn (neg && !fn.odd && fn != .cos) m e)

/-- The free bits of a function keep the bounds of R147 at an input. -/
def specialOkAt (fn : SpecialFn) (a : W32) : Bool :=
  (fn.over (fun neg m e a => if specialFits fn (neg && !fn.odd && fn != .cos) m e (Config.specialBits fn.num (fn.key a)).toNat then 0 else 1)
      a).1 == (fn.over (fun _ _ _ _ => 0) a).1

/-- One FP32 value does not exceed another. -/
def leF32 (a b : Nat) : Bool := !(fval .f32 a).isNaN && !(fval .f32 b).isNaN && !(fval .f32 b).lt (fval .f32 a)

/-- Two FP32 results are in order; a NaN, which `log2` delivers below zero, has no place in it. -/
def risesF32 (a b : Nat) : Bool := (fval .f32 a).isNaN || (fval .f32 b).isNaN || leF32 a b

/-- The free bits of a function meet R147: its bounds at every input, and for `exp2`, `log2` and `tanh` its monotonic shape.
DESIGN CHOICE, log 27. -/
def specialOk (fn : SpecialFn) : Bool :=
  decide (∀ a : W32, specialOkAt fn a = true) &&
    (!fn.rising ||
      decide (∀ a b : W32, leF32 a.toNat b.toNat = true → risesF32 (fn.over (specialCand fn) a).1 (fn.over (specialCand fn) b).1 = true))

/-- The bits that the part delivers for a finite input that R146 does not list (R147, R148): a free function that meets R147, in whose place
the nearest FP32 values stand should it not meet R147. DESIGN CHOICE, log 27. -/
def specialFree (fn : SpecialFn) : FreePart := if specialOk fn then specialCand fn else specialBest fn

/-- `rsq` (R146, R147). -/
def rsqV (a : W32) : Nat × Flags := rsqWith (specialFree .rsq) a
/-- `exp2` (R146, R147). -/
def exp2V (a : W32) : Nat × Flags := exp2With (specialFree .exp2) a
/-- `log2` (R146, R147). -/
def log2V (a : W32) : Nat × Flags := log2With (specialFree .log2) a
/-- `sin` and `cos` (R146, R147). -/
def trigV (cosine : Bool) (a : W32) : Nat × Flags := trigWith cosine (specialFree (if cosine then .cos else .sin)) a
/-- `tanh` (R146, R147). -/
def tanhV (a : W32) : Nat × Flags := tanhWith (specialFree .tanh) a

end Sys2Proof.Machine
end

