-- ==== Sys2Proof/Machine/Ops.lean ====
section
/-! DEFINITION. The named operations over registers, warps, partitions and messages, and taking an exception: trap entry (R183), the return
from it (R186), halting (R191, R196) and exit (R117, R118). -/

namespace Sys2Proof.Machine

/-- The outcome of a step of this machine. -/
abbrev Out := Host.Outcome State Fault Refusal

/-! ## Registers of the current stream -/

/-- A scalar register (R12, R13): `s0` reads zero, `s56`-`s63` are those of the trap level. -/
def Warp.sget (w : Warp) (r : SReg) : W64 :=
  if r = 0 then 0
  else if h : r.toNat < 56 then w.s[r.toNat]
  else vget (w.banks.get w.level) (r.toNat - 56) 0

/-- Writes a scalar register; a write to `s0` is discarded (R13). -/
def Warp.sset (w : Warp) (r : SReg) (x : W64) : Warp :=
  if r = 0 then w
  else if h : r.toNat < 56 then { w with s := w.s.set r.toNat x h }
  else { w with banks := w.banks.set w.level.val (vset (w.banks.get w.level) (r.toNat - 56) x) w.level.isLt }

/-- A predicate; `c7` reads true (R14). -/
def Warp.cget (w : Warp) (p : PReg) : Bool := if p = 7 then true else w.c.getLsbD p.toNat
/-- Writes a predicate; a write to `c7` is discarded (R14). -/
def Warp.cset (w : Warp) (p : PReg) (b : Bool) : Warp := if p = 7 then w else { w with c := setBit w.c p.toNat b }

/-- A lane mask; `m0` reads all true (R19). -/
def Warp.mget (w : Warp) (k : MReg) : Mask := if k = 0 then BitVec.allOnes 64 else w.m.get k.toFin
/-- Writes a lane mask; a write to `m0` is discarded (R19). -/
def Warp.mset (w : Warp) (k : MReg) (x : Mask) : Warp := if k = 0 then w else { w with m := w.m.set k.toNat x k.isLt }

/-- Writes the active mask: the value AND `LIVE` (R20). -/
def Warp.setAm (w : Warp) (x : Mask) : Warp := { w with am := x &&& w.live }

/-- All 64 scalar registers as the current stream reads them (R78). -/
def Warp.scalars (w : Warp) : Vector W64 64 := Vector.ofFn fun i => w.sget (BitVec.ofNat 6 i.val)

/-- Applies a function to the current warp. -/
def State.upd (s : State) (f : Warp → Warp) : State := { s with warp := f s.warp }
/-- The word at the program counter is done and `n` bytes long. -/
def State.adv (s : State) (n : Nat) : State := s.upd fun w => { w with pc := w.pc + BitVec.ofNat 64 n }
/-- Writes a scalar register of the current stream. -/
def State.sset (s : State) (r : SReg) (x : W64) : State := s.upd (·.sset r x)
/-- A scalar register of the current stream. -/
def State.sget (s : State) (r : SReg) : W64 := s.warp.sget r
/-- The current stream waits; its program counter stays at the word. -/
def State.waitOn (s : State) (x : Wait) : State := s.upd fun w => { w with wait := x }

/-! ## Other warps, crews, teams, grids, partitions -/

/-- Every warp that lives (R12). -/
def State.warps (s : State) : List Warp := (s.warp :: s.others).filter (·.alive)

/-- The live warp with a number. -/
def State.findWarp (s : State) (id : Nat) : Option Warp := s.warps.find? (·.id == id)

/-- Applies a function to the warp with a number. -/
def State.modWarp (s : State) (id : Nat) (f : Warp → Warp) : State :=
  if s.warp.id = id then { s with warp := f s.warp }
  else { s with others := s.others.map fun w => if w.id = id then f w else w }

/-- Applies a function to a warp and to its shadow (R198). -/
def State.modPair (s : State) (id : Nat) (f : Warp → Warp) : State :=
  let s := s.modWarp id f
  { s with shadows := s.shadows.map fun w => if w.id = id then f w else w }

/-- Makes the warp with a number the one whose word is executed; nothing where no such warp lives. -/
def State.focus (s : State) (id : Nat) : State :=
  if s.warp.id = id then s
  else
    match s.others.find? (·.id == id) with
    | none => s
    | some w =>
      let rest := s.others.filter fun x => x.id != id
      { s with warp := w, others := if s.warp.alive then s.warp :: rest else rest }

/-- A partition (R361). -/
def State.part (s : State) (p : Nat) : Part := Tab.get s.parts p .blank
/-- Writes a partition. -/
def State.setPart (s : State) (p : Nat) (x : Part) : State := { s with parts := Tab.set s.parts p x }
/-- Applies a function to a partition. -/
def State.modPart (s : State) (p : Nat) (f : Part → Part) : State := s.setPart p (f (s.part p))

/-- The grid with a number. -/
def State.grid? (s : State) (g : Nat) : Option Grid := s.grids.find? (·.id == g)
/-- The descriptor of a grid; that of no grid is blank. -/
def State.descOf (s : State) (g : Nat) : Desc := ((s.grid? g).map (·.desc)).getD .blank
/-- Applies a function to a grid. -/
def State.modGrid (s : State) (g : Nat) (f : Grid → Grid) : State :=
  { s with grids := s.grids.map fun x => if x.id = g then f x else x }

/-- The crew of a grid with a number. -/
def State.crew? (s : State) (g c : Nat) : Option Crew := s.crews.find? fun x => x.grid == g && x.num == c
/-- Applies a function to a crew. -/
def State.modCrew (s : State) (g c : Nat) (f : Crew → Crew) : State :=
  { s with crews := s.crews.map fun x => if x.grid = g ∧ x.num = c then f x else x }

/-- The team of a grid with a number. -/
def State.team? (s : State) (g t : Nat) : Option Team := s.teams.find? fun x => x.grid == g && x.num == t
/-- Applies a function to a team. -/
def State.modTeam (s : State) (g t : Nat) (f : Team → Team) : State :=
  { s with teams := s.teams.map fun x => if x.grid = g ∧ x.num = t then f x else x }

/-- The live warps of a crew. -/
def State.crewWarps (s : State) (g c : Nat) : List Warp := s.warps.filter fun w => w.ident.grid == g && w.ident.crew == c
/-- The live warps of a grid. -/
def State.gridWarps (s : State) (g : Nat) : List Warp := s.warps.filter fun w => w.ident.grid == g

/-- The physical cluster of a warp's team, or a number that names none. -/
def State.clusterOf (s : State) (w : Warp) : Nat := ((s.team? w.ident.grid w.ident.team).bind (·.cluster)).getD 1000

/-- Launch attributes in GRID_ID (R24). -/
def Warp.timed (w : Warp) : Bool := w.gridId.getLsbD 59
def Warp.isTwin (w : Warp) : Bool := w.gridId.getLsbD 58
def Warp.isShadowed (w : Warp) : Bool := w.gridId.getLsbD 57
def Warp.det (w : Warp) : Bool := w.gridId.getLsbD 56
/-- The launch number (R24). -/
def Warp.launch (w : Warp) : Nat := (w.gridId.extractLsb' 0 32).toNat

/-- The warp of a warp's crew with a rank. -/
def State.rankOf (s : State) (w : Warp) (r : Nat) : Option Warp :=
  s.warps.find? fun x => x.ident.grid == w.ident.grid && x.ident.crew == w.ident.crew && x.ident.rank == r
/-- The twin of a warp, while it lives (R26 PLIVE). -/
def State.twinOf (s : State) (w : Warp) : Option Warp :=
  if w.isTwin then s.rankOf w (if w.ident.rank % 2 = 0 then w.ident.rank + 1 else w.ident.rank - 1) else none

/-! ## Items of a SHADOW pair (R198, R199) -/

/-- Logs an item for comparison where the warp has a shadow, with the lanes and the address of the access that it belongs to; the detail is
that of R200. DESIGN CHOICE, log 21. -/
def State.itemAt (s : State) (detail : Nat) (vals : List Nat) (mask : Mask) (va : Nat) : State :=
  if s.warp.isShadowed then { s with items := s.items ++ [⟨detail, vals, mask, va⟩] } else s
/-- A shadow runs behind its leading warp: it takes that warp's lanes and values and never reaches memory (R198). -/
def State.behind (s : State) : Bool := s.warp.isShadowed && s.shadowAlone
/-- An item that belongs to no access. -/
def State.item (s : State) (detail : Nat) (vals : List Nat) : State := s.itemAt detail vals 0 0

/-- A value that the leading warp puts into the load value queue and the shadow takes from it (R198). DESIGN CHOICE, log 21. -/
def State.viaLvq (s : State) (x : Nat) : Nat × State :=
  if s.warp.isShadowed then
    if s.shadowRun then
      match s.lvq with
      | .known y :: r => (y, { s with lvq := r })
      | _ => (x, s)
    else (x, { s with lvq := s.lvq ++ [.known x] })
  else (x, s)

/-! ## Messages to the fault mailbox (R192, R193, R195) -/

/-- A time, taken from the free clock. DESIGN CHOICE, log 8. -/
def State.now (s : State) : W64 × State := (Config.nclkAt s.fresh, { s with fresh := s.fresh + 1 })

/-- A message enters the partition's fault-message buffer, or coalesces into its overflow record while every other entry is full (R193). -/
def State.pushMsg (s : State) (p : Nat) (m : List Byte) : State :=
  let x := s.part p
  if x.msgs.length < Config.faultMessages then s.setPart p { x with msgs := x.msgs ++ [m] }
  else
    let (t, s) := s.now
    let kind := (m.headD 0).toNat
    let o := match x.overflow with
      | none => ⟨x.msgs.length, 1, t, t, 2 ^ kind⟩
      | some o => { o with count := o.count + 1, last := t, kinds := if o.kinds.testBit kind then o.kinds else o.kinds + 2 ^ kind }
    s.setPart p { x with overflow := some o }

/-- The bytes of the overflow record (R193). -/
def Overflow.bytes (o : Overflow) : List Byte :=
  layBytes [(1, 10), (3, 0), (4, o.count), (8, o.first.toNat), (8, o.last.toNat), (8, o.kinds), (32, 0)]

/-- A halt or late-error message (R192). -/
def ticketMsg (kind code : Nat) (t : Ticket) (level detail : Nat) (mask : Mask) (va : Nat) : List Byte :=
  layBytes [(1, kind), (1, code), (2, 0), (4, t.launch), (4, t.crew), (4, t.warp), (8, t.pc.toNat), (1, t.word.getD 255), (1, level),
    (2, 0), (4, detail), (8, mask.toNat), (8, va), (8, 0), (8, 0)]

/-- A late error is sent to the fault mailbox of the ticket's partition (R195); the ticket holds no trap level, and LEVEL is 0.
DEDUCED, logs 32, 114. -/
def State.lateError (s : State) (t : Ticket) (code detail : Nat) (mask : Mask) (va : Nat) : State :=
  s.pushMsg t.part (ticketMsg 2 code t 0 detail mask va)

/-- The ticket of the word that the current warp executes (R195). DEDUCED, log 13. -/
def Warp.ticket (w : Warp) : Ticket :=
  match w.block with
  | some b => ⟨w.ident.part, w.launch, w.ident.crew, w.ident.global, b.addr, some b.lanePc⟩
  | none => ⟨w.ident.part, w.launch, w.ident.crew, w.ident.global, w.pc, none⟩

/-! ## The end of a warp -/

/-- The warp's state is discarded (R117, R191), and with it what its shadow has not confirmed. -/
def State.retire (s : State) (id : Nat) : State :=
  let s := { s with
    others := s.others.filter fun w => w.id != id
    shadows := s.shadows.filter fun w => w.id != id
    pairs := Tab.del s.pairs id }
  if s.warp.id = id then { s with warp := { s.warp with alive := false } } else s

/-- An operation that writes a typed buffer of a crew holds the crew on its core (R347). -/
def EngOp.holds (o : EngOp) (g c : Nat) : Bool :=
  o.grid == g && (match o.kind with
    | .cpy d => d.dkind == 1 && d.dcrew == c
    | .gath d => d.dcrew == c
    | _ => false)

/-- A crew without a warp is DONE, or HELD while its deque holds tokens (R229, R380). A MARKED crew that holds no token is DONE, its drain
withdrawn first; one that holds tokens stays MARKED until it is SAVED, and a SAVED one stays so until its team is placed again (R380, R383).
DEDUCED, log 64. -/
def Crew.emptied (x : Crew) (busy : Bool) : Crew :=
  if x.deque.isEmpty then
    if x.state = .placed ∨ x.state = .marked then { x with state := .done, core := if busy then x.core else none } else x
  else if x.state = .placed then { x with state := .held }
  else x

/-- What becomes of a crew whose last warp has gone. -/
def State.crewAfter (s : State) (g c : Nat) : State :=
  if (s.crewWarps g c).isEmpty then s.modCrew g c (·.emptied (s.ops.any fun o => o.holds g c)) else s

/-- Every barrier in which a warp takes part is abandoned (R196, R303). -/
def Part.abandon (p : Part) (id : Nat) : Part :=
  { p with bars := p.bars.map fun b => if b.2.members.contains id then (b.1, { b.2 with abandoned := true }) else b }

/-- `exit`, and what it takes with it (R117, R118): the twin's PLIVE and the rendezvous of `regroup` follow from the warp's absence. -/
def State.exitWarp (s : State) (w : Warp) : State := (s.retire w.id).crewAfter w.ident.grid w.ident.crew

/-- `halt` (R191, R196) of a warp, with the message of R192. -/
def State.haltAt (s : State) (w : Warp) (code detail : Nat) (mask : Mask) (va : Nat) (t : Ticket) : State :=
  let s := s.pushMsg w.ident.part (ticketMsg 1 code t w.level.val detail mask va)
  let s := s.modPart w.ident.part (·.abandon w.id)
  let s := s.modGrid w.ident.grid fun g => { g with halted := true }
  s.exitWarp w

/-- The current warp halts at its word. -/
def State.halt (s : State) (code detail : Nat) (mask : Mask) (va : Nat) : State :=
  s.haltAt s.warp code detail mask va s.warp.ticket

/-- Consumption of poison (R194). -/
def State.poisonHalt (s : State) (detail : Nat) (mask : Mask) (va : Nat) : State := s.halt 0x20 detail mask va

/-! ## Cause codes (R181) -/

def cIllegal : Byte := 0x01
def cProt : Byte := 0x02
def cAlign : Byte := 0x03
def cSealedStore : Byte := 0x04
def cXlate : Byte := 0x05
def cLatchDead : Byte := 0x08
def cMaskPartial : Byte := 0x09
def cSplitActive : Byte := 0x0A
def cStackOvf : Byte := 0x0B
def cMode : Byte := 0x0C
def cPairLost : Byte := 0x0D
def cPairMismatch : Byte := 0x0E
def cFpInv : Byte := 0x10
def cUser : Byte := 0x18
def cBreak : Byte := 0x19
def cPoison : Nat := 0x20
def cSdc : Nat := 0x21
def cDoubleTrap : Nat := 0x22
def cDrain : Nat := 0x23

/-- The causes after which `rett` continues with the next word (R181). -/
def nextKind (code : Byte) : Bool := decide (0x10 ≤ code.toNat ∧ code.toNat ≤ 0x14) || code == cUser || code == cBreak

/-! ## Taking an exception -/

/-- The other arm's issued word has raised a cause, or runs again and may raise one (R188). -/
def Fork.raised (f : Fork) : Bool := (f.other.pending.isSome || f.other.inFlight) && f.other.wait == .none
/-- The other arm has an issued word that has not completed and has raised no cause yet (R183, R188). -/
def Fork.unfinished (f : Fork) : Bool := f.other.inFlight && f.other.block.isSome && !(f.other.pending.isSome && f.other.wait == .none)

/-- The current arm's cause is raised and not yet taken: the other arm's issued words complete first, and a cause that it has raised before is taken
first (R183, R188). -/
def Warp.trapHeld (w : Warp) : Bool := w.fork.any fun f => f.unfinished || f.first == some (1 - f.cur)
/-- The cause of the current arm's word, held until it is taken; it is the next one unless another was raised before it (R188). -/
def Warp.raiseCause (w : Warp) (c : Cause) : Warp :=
  { w with
    wait := .none
    pending := some c
    inFlight := w.inFlight || (c.lanew && w.block.isSome)
    fork := w.fork.map fun (f : Fork) => { f with first := f.first.or (some f.cur) } }
/-- The arm whose cause is to be taken next, once that of the current arm has been taken (R188). -/
def Fork.nextFirst (f : Fork) : Option Nat := if f.raised then some (1 - f.cur) else none

/-- Exchanges the arm that the warp's own fields hold with the other (R110). -/
def Warp.swapArm (w : Warp) : Warp :=
  match w.fork with
  | none => w
  | some f =>
    let o := f.other
    let mine : Arm :=
      { pc := w.pc, am := w.am, s := w.s, bank := w.banks.get f.level, c := w.c, block := w.block, partDone := w.partDone,
        inFlight := w.inFlight, stack := w.stack, wait := w.wait, pending := w.pending }
    { w with
      pc := o.pc
      am := o.am
      s := o.s
      banks := w.banks.set f.level.val o.bank f.level.isLt
      c := o.c
      block := o.block
      partDone := o.partDone
      inFlight := o.inFlight
      stack := o.stack
      wait := o.wait
      pending := o.pending
      fork := some { f with cur := 1 - f.cur, other := mine } }

/-- The mask of the current arm at the fork (R183). -/
def Fork.mask (f : Fork) : Mask := if f.cur = 0 then f.mask0 else f.mask1

/-- TRAP_CAUSE (R24): DETAIL, the lane word index, LANE, LEVEL, CODE. DEDUCED, log 13. -/
def causeWord (detail : W32) (word : Nat) (lanew : Bool) (level : Nat) (code : Byte) : W64 :=
  detail ++ (0#15 ++ (BitVec.ofNat 6 word ++ (BitVec.ofBool lanew ++ (BitVec.ofNat 2 level ++ code))))

/-- The lane PC of the open block, 0 where none is open (R34). -/
def Warp.lanePc (w : Warp) : Nat := (w.block.map (·.lanePc)).getD 0

/-- The state that a program trap at level `n` leaves in the warp (R183). -/
def Warp.enter (w : Warp) (c : Cause) (n : Fin 3) : Warp :=
  let bank : TrapBank :=
    { cause := causeWord c.detail (if c.lanew then w.lanePc else 0) c.lanew n.val c.code, pc := c.addr, mask := c.mask,
      dest := c.dest.extractLsb' 0 64, desth := c.dest.extractLsb' 64 64 }
  let rec' : SaveRec :=
    { lanew := c.lanew, word := w.lanePc, size := c.size, block := if c.lanew then w.block else none, partDone := w.partDone, am := w.am,
      next := nextKind c.code, depth := w.stack.length, redirect := false }
  { w with
    trap := vset w.trap (n.val - 1) bank
    save := vset w.save (n.val - 1) rec'
    partDone := 0
    inFlight := false
    block := none
    level := n
    wait := .none
    qdone := false
    fork := w.fork.map fun (f : Fork) => if f.level.val + 1 = n.val then { f with held := true, first := f.nextFirst } else f
    am := match w.fork with
      | some f => f.mask &&& w.live
      | none => w.live
    pc := if n = 1 then w.h1 else w.h2 }

/-- Taking a program trap (R183): the handler of the next level, or a halt where none is registered; while forked it may have to wait (R188).
DEDUCED, log 15. -/
def State.trap (s : State) (c : Cause) : State :=
  let w := s.warp
  let s := s.itemAt 7 [c.code.toNat, c.mask.toNat] c.mask c.va
  if w.trapHeld then s.upd (·.raiseCause c)
  else if w.level = 2 ∨ (w.level = 1 ∧ w.h2 = 0) then s.halt cDoubleTrap c.code.toNat c.mask c.va
  else if w.level = 0 ∧ w.h1 = 0 then s.halt c.code.toNat c.detail.toNat c.mask c.va
  else s.upd (·.enter c (w.level + 1))

/-- The size of a scalar instruction in bytes (R70). -/
def sizeOf? (i : Instr) : Nat :=
  match encode i with
  | some (.pair _ _) => 8
  | _ => 4

/-- A cause that an access of a scalar word at an address raises (R26, R192): no mask, and TRAP_DEST zero. -/
def State.trapAccess (s : State) (code : Byte) (detail : Nat) (size va : Nat) : State :=
  s.trap ⟨code, BitVec.ofNat 32 detail, 0, 0, s.warp.pc, size, false, va⟩
/-- A cause raised by a scalar word that makes no access (R26): no mask, and TRAP_DEST zero unless the cause is `ILLEGAL`. -/
def State.trapScalar (s : State) (code : Byte) (detail : Nat) (size : Nat) : State := s.trapAccess code detail size 0

/-- `ILLEGAL` at a scalar word whose encoding is known (R26, R67). -/
def State.illegalScalar (s : State) (enc : Nat) (size : Nat) : State :=
  s.trap ⟨cIllegal, 0, 0, BitVec.ofNat 128 enc, s.warp.pc, size, false, 0⟩

/-- The encoding of an instruction as TRAP_DEST holds it (R26). -/
def encNat (i : Instr) : Nat := ((encode i).map (·.toNat)).getD 0

/-- The cause that the current lane word raises by an access at an address (R26, R183, R192): TRAP_PC is the address of its `lx`. -/
def Warp.laneCause (w : Warp) (code : Byte) (detail : Nat) (mask : Mask) (dest : BitVec 128) (va : Nat) : Cause :=
  ⟨code, BitVec.ofNat 32 detail, mask, dest, (w.block.map (·.addr)).getD w.pc, 4, true, va⟩
/-- A cause raised by a lane word that makes no access (R26, R183). DEDUCED, log 30. -/
def State.trapLane (s : State) (code : Byte) (detail : Nat) (mask : Mask) (dest : BitVec 128) : State :=
  s.trap (s.warp.laneCause code detail mask dest 0)

/-- TRAP_DEST of a cause raised by a lane word with a destination (R26). -/
def destInfo (h : LaneHdr) : BitVec 128 := (latchCode h.latch ++ (BitVec.ofBool h.wbs ++ h.dest)).setWidth 128

/-! ## The open block -/

/-- The lane word at the lane PC is done: the next one follows, or the block ends and the scalar stream goes on at the word after the
`lx` (R63, R108). In a `DET` launch it counts (R107): a word that a check of R66 ended, or that is parked, has not issued yet.
DEDUCED, logs 16, 111. -/
def Warp.laneDone (w : Warp) : Warp :=
  match w.block with
  | none => w
  | some b =>
    let w := { w with partDone := 0, inFlight := false, issued := if w.det then w.issued + 1 else w.issued }
    if b.lanePc + 1 < b.count then { w with block := some { b with lanePc := b.lanePc + 1 } }
    else { w with block := none }

/-! ## rett (R186) -/

/-- The registers that `rett` restores from its record, with `skip` for `rett.skip`. -/
def Warp.leave (w : Warp) (skip : Bool) : Warp :=
  let n := w.level.val
  let r := vget w.save (n - 1) .zero
  let t := vget w.trap (n - 1) .zero
  let w := { w with
    level := w.level - 1
    am := r.am &&& w.live
    fork := w.fork.map fun (f : Fork) => if f.level.val + 1 = n then { f with held := false, first := f.nextFirst } else f }
  if r.redirect then { w with partDone := 0, pc := t.pc, block := none }
  else if r.lanew then
    match r.block with
    | none => { w with partDone := 0, pc := t.pc + 4 }
    | some b =>
      let b : Block := { b with am := b.am &&& w.live }
      if r.next ∨ skip then
        let w := { w with partDone := 0, pc := t.pc + 4 }
        if r.word + 1 < b.count then { w with block := some { b with lanePc := r.word + 1 } } else { w with block := none }
      else { w with partDone := r.partDone, inFlight := true, pc := t.pc + 4, block := some { b with lanePc := r.word } }
  else { w with pc := if r.next ∨ skip then t.pc + BitVec.ofNat 64 r.size else t.pc }

/-- `rett` and `rett.skip` (R186). DEDUCED, log 15. -/
def State.rett (s : State) (enc : Nat) (skip : Bool) : State :=
  let w := s.warp
  if w.level = 0 then s.illegalScalar enc 4
  else if w.stack.length ≠ (vget w.save (w.level.val - 1) .zero).depth then s.trapScalar cStackOvf 3 4
  else s.upd (·.leave skip)

/-! ## Mode checks shared by words -/

/-- `SPLIT_ACTIVE` while forked (R114), then the checks that follow. -/
def State.unforked (s : State) (size : Nat) (k : State → State) : State :=
  if s.warp.fork.isSome then s.trapScalar cSplitActive 0 size else k s

/-- `MASK_PARTIAL` unless `AM` is `LIVE` (R114). -/
def State.fullMask (s : State) (size : Nat) (k : State → State) : State :=
  if s.warp.am ≠ s.warp.live then s.trapScalar cMaskPartial 0 size else k s

/-- `MODE` with a DETAIL where a condition holds. -/
def State.modeIf (s : State) (c : Bool) (detail : Nat) (k : State → State) : State :=
  if c then s.trapScalar cMode detail 4 else k s

end Sys2Proof.Machine
end

