-- ==== Sys2Proof/Machine/Flags.lean ====
section
/-! DEFINITION. The exception flags of lane words (R28, R50, R125): how they accumulate and which of them traps. -/

namespace Sys2Proof.Machine

/-- ORs raised flags into FPX_FLAGS (R28). -/
def Warp.raise (w : Warp) (f : Flags) : Warp := { w with fpxFlags := w.fpxFlags ||| f }

/-- The number of the lowest set flag (R50). -/
def lowFlag (f : Flags) : Nat :=
  if f.getLsbD 0 then 0 else if f.getLsbD 1 then 1 else if f.getLsbD 2 then 2 else if f.getLsbD 3 then 3 else 4

/-- The cause code of the lowest set flag: FP_INV, FP_DZ, FP_OVF, FP_UNF, FP_INX (R125, R181). -/
def fpCause (f : Flags) : Byte := cFpInv + BitVec.ofNat 8 (lowFlag f)

/-- The mask of the lanes that a test selects. -/
def laneMask (p : Nat → Bool) : Mask := BitVec.ofNat 64 (bytesToNat ((List.range 8).map fun i =>
  BitVec.ofNat 8 ((List.range 8).foldl (fun n j => if p (8 * i + j) then n + 2 ^ j else n) 0)))

/-- All flags raised by the lanes. -/
def anyFlags (rs : Lanes (W64 × Flags)) (act : Mask) : Flags :=
  (List.range 64).foldl (fun f l => if act.getLsbD l then f ||| (vget rs l (0, 0)).2 else f) 0

/-- The lanes that raise an enabled flag (R125). -/
def trapLanes (rs : Lanes (W64 × Flags)) (act : Mask) (en : Flags) : Mask :=
  laneMask fun l => act.getLsbD l && ((vget rs l (0, 0)).2 &&& en) != 0

/-- The end of a lane word that raised flags (R28, R125): the flags accumulate; an enabled one traps after the word has completed (R50),
any other word is simply done. -/
def State.fpDone (s : State) (h : LaneHdr) (raised : Flags) (tmask : Mask) : State :=
  let s := s.upd (·.raise raised)
  let e := raised &&& s.warp.fpxEn
  if e = 0 then s.upd Warp.laneDone
  else
    let s := s.upd fun w => { w with issued := if w.det then w.issued + 1 else w.issued, partDone := 0 }
    s.trapLane (fpCause e) 0 tmask (destInfo h)

end Sys2Proof.Machine
end

