-- ==== Sys2Proof/Machine/Operands.lean ====
section
/-! DEFINITION. The operand forms of lane words (R76 to R81, R126): sources, guards, destinations, the checks before any lane executes
(R66), and the frame of R125. -/

namespace Sys2Proof.Machine

/-- What a lane word sees when its lanes execute: the warp and block as they stood before it, its fields, its active lanes, and the
launch's stochastic seed (R48). -/
structure LaneCx where
  w : Warp
  b : Block
  h : LaneHdr
  act : Mask
  seedLo : W64
  seedHi : W64

/-! ## Sources -/

/-- An immediate-slot value of 32 bits (R77). -/
def imm32 (imm : BitVec 17) : Slot → W32
  | .sx => imm.signExtend 32
  | .zx => imm.setWidth 32
  | .f32 => imm.setWidth 32 <<< 15
  | .f64 => 0
  | .pk => imm.setWidth 16 ++ (imm.setWidth 16 : BitVec 16)
/-- An immediate-slot value of 64 bits (R77). -/
def imm64 (imm : BitVec 17) : Slot → W64
  | .sx => imm.signExtend 64
  | .zx => imm.setWidth 64
  | .f64 => imm.setWidth 64 <<< 47
  | _ => 0

/-- A lane of a lane register. -/
def Warp.vlane (w : Warp) (r l : Nat) : W32 := vget (vget w.v r (Vector.replicate 64 0)) l 0
/-- A lane of a register pair (R15). -/
def Warp.vpair (w : Warp) (r l : Nat) : W64 := w.vlane (r + 1) l ++ w.vlane r l

/-- A 32-bit source in a lane (R76, R126). -/
def LaneCx.src32 (c : LaneCx) (x : Src) (l : Nat) : W32 :=
  match x with
  | .v n => c.w.vlane n.toNat l
  | .b n => vget (vget c.b.latch n.toNat (Vector.replicate 64 0)) l 0
  | .s n => (vget c.b.srcs n.toNat 0).setWidth 32
  | .imm n => imm32 c.h.imm n
/-- A 64-bit source in a lane (R126); a latch never stands here. -/
def LaneCx.src64 (c : LaneCx) (x : Src) (l : Nat) : W64 :=
  match x with
  | .v n => c.w.vpair n.toNat l
  | .b _ => 0
  | .s n => vget c.b.srcs n.toNat 0
  | .imm n => imm64 c.h.imm n
/-- A source of 64 bits, or of 32 bits zero-extended. -/
def LaneCx.src (c : LaneCx) (wide : Bool) (x : Src) (l : Nat) : W64 :=
  if wide then c.src64 x l else (c.src32 x l).setWidth 64

/-- The guard of a word in every lane (R80). -/
def guardMask (w : Warp) (g : Guard) : Mask :=
  let x := if g.inv0 then ~~~(w.mget g.g0) else w.mget g.g0
  let y := if g.inv1 then ~~~(w.mget g.g1) else w.mget g.g1
  if g.disj then x ||| y else x &&& y

/-- The stochastic draw of a lane's result number k (R48). -/
def LaneCx.draw (c : LaneCx) (l k : Nat) : Nat :=
  let o := vget c.w.origin l 0
  stoDraw c.seedLo c.seedHi c.w.ident.crew (o.extractLsb' 8 6).toNat (o.extractLsb' 0 7).toNat (vget c.w.draws l 0 + BitVec.ofNat 64 k)

/-! ## Registers that a word names (R15, R16) -/

/-- The lane registers of a source. -/
def srcRegs (x : Src) (k : SrcSpec) : List Nat :=
  match x with
  | .v n =>
    (match k with
      | .unused => []
      | .w64 => [n.toNat, n.toNat + 1]
      | .m64 => [n.toNat, n.toNat + 1]
      | .run r => (List.range r).map (n.toNat + ·)
      | _ => [n.toNat])
  | _ => []
/-- The lane registers of a destination. -/
def destRegs (h : LaneHdr) (k : DestSpec) : List Nat :=
  if h.wbs then []
  else
    match k with
    | .none => []
    | .mask => []
    | .v32 => [h.dest.toNat]
    | .v64 => [h.dest.toNat, h.dest.toNat + 1]
    | .run r => (List.range r).map (h.dest.toNat + ·)
/-- The lane registers that a word names. -/
def laneRegs (h : LaneHdr) (k : LaneShape) : List Nat := srcRegs h.a k.a ++ srcRegs h.b k.b ++ srcRegs h.c k.c ++ destRegs h k.dest

/-- The first dead latch that a word reads (R21), with no entry where every one is live. -/
def deadLatch (h : LaneHdr) (b : Block) : Option Nat :=
  [h.a, h.b, h.c].findSome? fun x =>
    match x with
    | .b n => if b.alive.getLsbD n.toNat then none else some n.toNat
    | _ => none

/-! ## The checks before any lane executes (R66) -/

/-- The active lanes of a word: AM AND guard (R80). -/
def activeLanes (w : Warp) (b : Block) (h : LaneHdr) : Mask := b.am &&& guardMask w h.guard

/-- The registers that must be filled before a word runs (R16, R127): none while all declared registers are resident or no lane is active. -/
def fillNeed (w : Warp) (act : Mask) (regs : List Nat) : List Nat :=
  if w.regs ≤ Config.residentVregs ∨ act = 0 then [] else (regs.filter fun r => !w.resident.contains r).eraseDups

/-- The registers that a word names become the most recently used (R17). -/
def Warp.touch (w : Warp) (regs : List Nat) : Warp :=
  if w.regs ≤ Config.residentVregs then w
  else { w with resident := (w.resident.filter fun r => !regs.contains r) ++ (regs.filter fun r => w.resident.contains r).eraseDups }

/-- A lane word passes its checks in the order of R66: the declared register count (R15), dead latches (R21), residency (R16); then `k` runs.
Nothing happens where no block is open. DEDUCED, log 30. -/
def laneGate (i : Instr) (s : State) (k : LaneCx → State → State) : State :=
  match i.laneShape, s.warp.block with
  | some (h, sh, _), some b =>
    let w := s.warp
    let regs := laneRegs h sh
    let act := activeLanes w b h
    if regs.any (decide <| w.regs ≤ ·) then s.trapLane cIllegal 0 0 (BitVec.ofNat 128 (encNat i))
    else
      match deadLatch h b with
      | some n => s.trapLane cLatchDead n 0 (destInfo h)
      | none =>
        if (fillNeed w act regs).isEmpty then
          let d := s.descOf w.ident.grid
          k ⟨w, b, h, act, d.seedLo, d.seedHi⟩ (s.upd (·.touch regs))
        else s.waitOn (.regfile regs.eraseDups)
  | _, _ => s

/-! ## Destinations (R79, R81, R125) -/

/-- Writes the selected lanes of a lane register. -/
def Warp.putV (w : Warp) (r : Nat) (m : Mask) (x : Nat → W32) : Warp :=
  let old := vget w.v r (Vector.replicate 64 0)
  { w with v := vset w.v r (Vector.ofFn fun l => if m.getLsbD l.val then x l.val else old.get l) }
/-- Writes the selected lanes of a register pair. -/
def Warp.putPair (w : Warp) (r : Nat) (m : Mask) (x : Nat → W64) : Warp :=
  (w.putV r m fun l => (x l).setWidth 32).putV (r + 1) m fun l => (x l).extractLsb' 32 32
/-- Writes the selected lanes of a latch, which becomes live (R21). -/
def Warp.putLatch (w : Warp) (n : Nat) (m : Mask) (x : Nat → W32) : Warp :=
  { w with block := w.block.map fun (b : Block) =>
      let old := vget b.latch n (Vector.replicate 64 0)
      { b with
        latch := vset b.latch n (Vector.ofFn fun l => if m.getLsbD l.val then x l.val else old.get l)
        alive := setBit b.alive n true } }
/-- Writes the selected lanes' bits of a lane mask (R135). -/
def Warp.putMask (w : Warp) (k : MReg) (m : Mask) (x : Nat → Bool) : Warp :=
  w.mset k ((w.mget k &&& ~~~m) ||| (laneMask x &&& m))

/-- Writes results to the destination and the latch of the selected lanes (R79, R81, R125). -/
def Warp.putResult (w : Warp) (h : LaneHdr) (d : DestSpec) (m : Mask) (x : Nat → W64) : Warp :=
  match d with
  | .mask => w.putMask (h.dest.setWidth 4) m fun l => x l != 0
  | .v64 => if h.wbs then w else w.putPair h.dest.toNat m x
  | .v32 =>
    let w := if h.wbs then w else w.putV h.dest.toNat m fun l => (x l).setWidth 32
    (match h.latch with
      | some n => w.putLatch n.toNat m fun l => (x l).setWidth 32
      | none => w)
  | _ => w

/-- Advances the draw counts of the active lanes by `n` (R48). -/
def Warp.drawn (w : Warp) (m : Mask) (n : Nat) : Warp :=
  if n = 0 then w
  else { w with draws := Vector.ofFn fun l => if m.getLsbD l.val then w.draws.get l + BitVec.ofNat 64 n else w.draws.get l }

/-! ## The frame of R125 -/

/-- The destination that a lane word's shape asks for. -/
def destOf (i : Instr) : DestSpec :=
  match i.laneShape with
  | some (_, sh, _) => sh.dest
  | none => .none

/-- The effect of the frame of R125 once the checks have passed: `op` gives each lane's result and flags, and the word takes `n` draws in
each active lane. -/
def frameRun (d : DestSpec) (n : Nat) (op : LaneCx → Nat → W64 × Flags) (c : LaneCx) (s : State) : State :=
  let rs : Lanes (W64 × Flags) := Vector.ofFn fun l => if c.act.getLsbD l.val then op c l.val else (0, 0)
  let s := s.upd fun w => (w.putResult c.h d c.act fun l => (vget rs l (0, 0)).1).drawn c.act n
  s.fpDone c.h (anyFlags rs c.act) (trapLanes rs c.act s.warp.fpxEn)

/-- A lane arithmetic word (R125, R127). -/
def laneWord (i : Instr) (s : State) (n : Nat) (op : LaneCx → Nat → W64 × Flags) : Out := .next (laneGate i s (frameRun (destOf i) n op))

end Sys2Proof.Machine
end

