-- ==== Sys2Proof/Machine/Xlate.lean ====
section
/-! DEFINITION. Translation (R331 to R337), the central write to memory with what hangs on it (R319, R334, R336, R341), cluster data caches
(R264, R356), and translation faults (R189, R337). -/

namespace Sys2Proof.Machine

/-! ## The walk -/

/-- The kinds of access of a fault record (R337). -/
def accRead : Nat := 1
def accWrite : Nat := 2
def accAtomic : Nat := 3
def accFetch : Nat := 4

/-- A translation: the leaf entry's address and value, the place and physical address reached, and the page size in bytes. -/
structure Trans where
  leaf : Nat
  entry : Nat
  place : Place
  pa : Nat
  page : Nat
  deriving DecidableEq, Repr

/-- The end of a walk (R331, R337): a fault with its WALK value and the valid, well-formed leaf that it found, if any; a non-canonical address;
or a translation. -/
inductive Xl where
  | miss (walk : Nat) (leaf : Option Nat)
  | noncanon
  | ok (t : Trans)
  deriving DecidableEq, Repr

/-- The bytes of a page size code, and the level of its leaves (R333); 0 for a code that does not exist. -/
def pageBytes (size : Nat) : Nat :=
  match size with
  | 0 => 2 ^ 12
  | 1 => 2 ^ 14
  | 2 => 2 ^ 16
  | 3 => 2 ^ 18
  | 4 => 2 ^ 20
  | 5 => 2 ^ 21
  | 6 => 2 ^ 24
  | 7 => 2 ^ 26
  | 8 => 2 ^ 29
  | 9 => 2 ^ 30
  | _ => 0
def pageLevel (size : Nat) : Nat := if size ≤ 4 then 0 else if size ≤ 8 then 1 else if size = 9 then 2 else 9

/-- Fields of a page-table entry (R332). -/
def pteV (e : Nat) : Bool := e.testBit 0
def pteR (e : Nat) : Bool := e.testBit 1
def pteW (e : Nat) : Bool := e.testBit 2
def pteX (e : Nat) : Bool := e.testBit 3
def pteLeaf (e : Nat) : Bool := e.testBit 4
def ptePlace (e : Nat) : Nat := bitsOf e 9 3
def pteFrame (e : Nat) : Nat := bitsOf e 12 40 * 4096
def pteMoving (e : Nat) : Bool := e.testBit 52
def pteDie (e : Nat) : Nat := bitsOf e 53 3
def pteNuma (e : Nat) : Bool := e.testBit 56
def pteSealed (e : Nat) : Bool := e.testBit 57
def pteMode (e : Nat) : Nat := bitsOf e 58 2
def pteSize (e : Nat) : Nat := bitsOf e 60 4

/-- A malformed valid leaf at a level (R333). -/
def leafBad (e level : Nat) : Bool :=
  pageLevel (pteSize e) != level || pteFrame e % pageBytes (pteSize e) != 0 || bitsOf e 5 2 != 0 || pteMode e == 3 ||
    decide (2 < ptePlace e)
/-- A malformed valid table entry at a level (R333). -/
def tableBad (e level : Nat) : Bool := level == 0 || bitsOf e 52 12 != 0 || bitsOf e 5 7 != 0 || bitsOf e 1 3 != 0

/-- Whether a frame of device memory is retired (R364). -/
def State.retiredAt (s : State) (pa : Nat) : Bool := s.ownerAt pa == 64

/-- A table's own frame as the walk meets it: outside device memory (WALK 6) or retired (WALK 7). -/
def State.tableFault (s : State) (table : Nat) : Option Nat :=
  if Config.deviceBytes ≤ table then some 6 else if s.retiredAt table then some 7 else none

/-- What a valid, well-formed leaf gives (R333, R337, R364, R425). -/
def State.leafEnd (s : State) (p va leaf e : Nat) : Xl :=
  let pa := pteFrame e + va % pageBytes (pteSize e)
  let t (pl : Place) : Xl := .ok ⟨leaf, e, pl, pa, pageBytes (pteSize e)⟩
  match ptePlace e with
  | 0 => if Config.deviceBytes ≤ pa then .miss 6 (some leaf) else if s.retiredAt pa then .miss 7 (some leaf) else t .device
  | 1 => t .host
  | _ => if (Tab.get (s.part p).windows (bitsOf pa 40 12) 0).getLsbD 63 then t .remote else .miss 5 (some leaf)

/-- The walk from the table at a level downward (R331). In a group whose leaves differ (R333) it takes the leaf that the address indexes.
DESIGN CHOICE, logs 11, 130; DEDUCED, log 20. -/
def State.walk (s : State) (p va : Nat) : Nat → Nat → Xl
  | level, table =>
    match s.tableFault table with
    | some k => .miss k none
    | none =>
      let ea := table + 8 * bitsOf va (12 + 9 * level) 9
      let e := leAt (s.devRead ea 8) 0 8
      if !pteV e then .miss level none
      else if pteLeaf e then (if leafBad e level then .miss 5 none else s.leafEnd p va ea e)
      else if tableBad e level then .miss 5 none
      else
        match level with
        | 0 => .miss 5 none
        | k + 1 => s.walk p va k (pteFrame e)

/-- The translation of a virtual address of a partition (R331). DESIGN CHOICE, log 11. -/
def State.xlate (s : State) (p va : Nat) : Xl := if 2 ^ 57 ≤ va then .noncanon else s.walk p va 4 (s.part p).cfg.root

/-! ## Permission -/

/-- The outcome of the checks of an access: it may be performed, it misses translation with a WALK value, or it raises a cause with a kind. -/
inductive Chk where
  | ok (t : Trans)
  | miss (walk : Nat)
  | cause (code : Byte) (kind : Nat)
  deriving DecidableEq, Repr

/-- The permission that an access needs (R161, R332). -/
def permitted (acc e : Nat) : Bool :=
  if acc = accFetch then pteX e else if acc = accRead then pteR e else if acc = accWrite then pteW e else pteR e && pteW e

/-- The permission and seal checks (R120, R161, R331, R332). -/
def permCheck (acc : Nat) : Xl → Chk
  | .miss k _ => .miss k
  | .noncanon => .cause cProt (if acc = accFetch then 7 else 1)
  | .ok t =>
    if !permitted acc t.entry then .cause cProt (if acc = accFetch then 7 else 1)
    else if (acc = accWrite ∨ acc = accAtomic) ∧ pteSealed t.entry then .cause cSealedStore 0
    else .ok t

/-- Sets A, and D where asked, in a leaf (R334). -/
def State.markLeaf (s : State) (leaf : Nat) (d : Bool) : State :=
  let s := s.devSetByte (leaf + 1) (s.devByte (leaf + 1) ||| 1)
  if d then s.devSetByte leaf (s.devByte leaf ||| 0x80) else s

/-- The translation of an address; the walk sets A in the leaf that it finds (R334). DEDUCED, log 23. -/
def State.lookUp (s : State) (p va : Nat) : Xl × State :=
  match s.xlate p va with
  | .ok t => (.ok t, s.markLeaf t.leaf false)
  | .miss k (some leaf) => (.miss k none, s.markLeaf leaf false)
  | x => (x, s)

/-- A translation with its checks, and A and D as R334 sets them: A in every valid, well-formed leaf that the walk finds. DEDUCED, log 23. -/
def State.access (s : State) (p va acc : Nat) : Chk × State :=
  let x := s.xlate p va
  let c := permCheck acc x
  match x, c with
  | .ok t, .ok _ => (c, s.markLeaf t.leaf (acc == accWrite || acc == accAtomic))
  | .ok t, _ => (c, s.markLeaf t.leaf false)
  | .miss _ (some leaf), _ => (c, s.markLeaf leaf false)
  | _, _ => (c, s)

/-! ## Cluster data caches -/

/-- The lines and pending fills that a test selects leave the caches. -/
def State.cdcDrop (s : State) (f : CdcLine → Bool) : State :=
  { s with cdc := s.cdc.filter fun x => !f x, fills := s.fills.filter fun x => !f x }

/-- An acquire of grid or wider scope in a cluster (R264, R356). -/
def State.acquireCluster (s : State) (cluster : Nat) : State := s.cdcDrop fun x => x.cluster == cluster && !x.isSealed

/-- An acquire at a scope by the current warp (R264, R287). -/
def State.acquire (s : State) (sc : Scope) : State := if sc.beyondTeam then s.acquireCluster (s.clusterOf s.warp) else s

/-- The copy of a line in a cluster. -/
def cdcFind (l : List CdcLine) (cluster : Nat) (p : Place) (line : Nat) : Option CdcLine :=
  l.find? fun x => x.cluster == cluster && x.place == p && x.line == line

/-- The granules of a line that are poisoned in memory. -/
def State.linePoison (s : State) (p : Place) (line : Nat) : List Nat :=
  (List.range 16).filterMap fun i => if s.placePoisoned p (128 * line + 8 * i) 8 then some (16 * line + i) else none

/-- The home slice of an address (R327). -/
def homeSlice (pa : Nat) (numa : Bool) (die : Nat) : Nat :=
  let x := BitVec.ofNat 52 pa
  let h : BitVec 8 := x.extractLsb' 7 8 ^^^ x.extractLsb' 15 8 ^^^ x.extractLsb' 23 8 ^^^ x.extractLsb' 31 8 ^^^ x.extractLsb' 39 8 ^^^
    (x.extractLsb' 47 5).setWidth 8
  if numa then 32 * die + h.toNat % 32 else h.toNat

/-- A fill of a line is requested: it will carry the line as the home holds it now (R356). DESIGN CHOICE, log 12. -/
def State.requestFill (s : State) (cluster : Nat) (p : Place) (line e : Nat) : State :=
  let x : CdcLine :=
    ⟨cluster, p, line, s.placeRead p (128 * line) 128, s.linePoison p line, pteSealed e, homeSlice (128 * line) (pteNuma e) (pteDie e)⟩
  { s with fills := x :: s.fills.filter fun y => !(y.cluster == cluster && y.place == p && y.line == line) }

/-- Whether a page's lines may be held in a cluster data cache under a hint (R82, R290, R427). -/
def cdcHolds (t : Trans) (hint : Nat) : Bool := pteMode t.entry != 1 && t.place != .remote && hint != 4 && hint != 5

/-- The bytes that a load of the current warp's cluster sees, and whether one of them is poisoned (R264, R292). DESIGN CHOICE, log 12. -/
def State.cdcRead (s : State) (t : Trans) (n : Nat) : List Byte × Bool :=
  let mem : List Byte × Bool := (s.placeRead t.place t.pa n, s.placePoisoned t.place t.pa n)
  if pteMode t.entry = 1 then mem
  else
    match cdcFind s.cdc (s.clusterOf s.warp) t.place (t.pa / 128) with
    | none => mem
    | some x => ((x.bytes.drop (t.pa % 128)).take n, x.poison.any fun g => decide (t.pa / 8 ≤ g ∧ g ≤ (t.pa + n - 1) / 8))

/-- The cache's part of a load: a line that is absent is requested (R264), in place of a fill under way; a load that requests none, and has
read memory, drops that fill, which may be older (R289). DESIGN CHOICE, log 12. -/
def State.cdcTouch (s : State) (t : Trans) (hint : Nat) : State :=
  let c := s.clusterOf s.warp
  if (cdcFind s.cdc c t.place (t.pa / 128)).isSome then s
  else if cdcHolds t hint then s.requestFill c t.place (t.pa / 128) t.entry
  else { s with fills := s.fills.filter fun x => !(x.cluster == c && x.place == t.place && x.line == t.pa / 128) }

/-- Writes bytes into a cached copy. -/
def CdcLine.patch (x : CdcLine) (off : Nat) (bs : List Byte) : CdcLine :=
  { x with bytes := x.bytes.take off ++ bs ++ x.bytes.drop (off + bs.length) }

/-- The cache's part of a store of the current warp's cluster: a copy is updated, a pending fill is dropped (R264). -/
def State.cdcStore (s : State) (p : Place) (pa : Nat) (bs : List Byte) : State :=
  let c := s.clusterOf s.warp
  let hit (x : CdcLine) : Bool := x.cluster == c && x.place == p && x.line == pa / 128
  { s with
    cdc := s.cdc.map fun x => if hit x then x.patch (pa % 128) bs else x
    fills := s.fills.filter fun x => !hit x }

/-- The cache's part of an atomic: its line is removed (R264). -/
def State.cdcAtomic (s : State) (p : Place) (pa : Nat) : State :=
  let c := s.clusterOf s.warp
  s.cdcDrop fun x => x.cluster == c && x.place == p && x.line == pa / 128

/-- Every copy of the lines of a range leaves every cache (R308, R309). DEDUCED, log 34. -/
def State.cdcPurge (s : State) (p : Place) (pa len : Nat) : State :=
  s.cdcDrop fun x => x.place == p && decide (pa < 128 * x.line + 128 ∧ 128 * x.line < pa + len)

/-! ## The central write -/

/-- A write dooms every open task that has read the line (R319). -/
def Warp.doomBy (w : Warp) (p : Place) (lo hi : Nat) : Warp :=
  match w.task with
  | none => w
  | some t =>
    if t.readSet.any fun x => x.1 == p && decide (lo ≤ x.2 ∧ x.2 ≤ hi) then { w with task := some { t with doomed := true } } else w
def State.doom (s : State) (p : Place) (pa n : Nat) : State :=
  let f (w : Warp) := w.doomBy p (pa / 128) ((pa + n - 1) / 128)
  { s with warp := f s.warp, others := s.others.map f, shadows := s.shadows.map f }

/-- Whether an address lies in a page table reachable from a table at a level. -/
def State.inTable (s : State) (pa : Nat) : Nat → Nat → Bool
  | 0, table => pa / 4096 == table / 4096
  | k + 1, table =>
    pa / 4096 == table / 4096 ||
      (List.range 512).any fun i =>
        let e := leAt (s.devRead (table + 8 * i) 8) 0 8
        pteV e && !pteLeaf e && s.inTable pa k (pteFrame e)

/-- Whether an address is a slot of some partition's page table. DEDUCED, log 33. -/
def State.isTableSlot (s : State) (pa : Nat) : Bool :=
  s.parts.any fun x => x.2.state != .free && s.inTable pa 4 x.2.cfg.root

/-- Clears or sets MOVING in the leaves of a move's page (R340). -/
def State.setMoving (s : State) (m : Move) (on : Bool) : State :=
  let n := pageBytes m.size / 2 ^ (12 + 9 * pageLevel m.size)
  (List.range n).foldl (fun s i =>
    let a := m.leaf + 8 * i + 6
    s.devSetByte a (if on then s.devByte a ||| 0x10 else s.devByte a &&& ~~~0x10#8)) s

/-- Whether a move's leaves include the entry at an address. -/
def Move.hasLeaf (m : Move) (pa : Nat) : Bool :=
  decide (m.leaf ≤ pa ∧ pa < m.leaf + 8 * (pageBytes m.size / 2 ^ (12 + 9 * pageLevel m.size)))

/-- T advances over every operation that has completed (R304). -/
def Ctx.advance : Nat → Ctx → Ctx
  | 0, c => c
  | k + 1, c => if c.done.contains (c.t + 1) then Ctx.advance k { c with t := c.t + 1, done := c.done.filter (· != c.t + 1) } else c
/-- An operation of the context has completed. -/
def Ctx.finish (c : Ctx) (n : Nat) : Ctx := Ctx.advance (c.done.length + 1) { c with done := n :: c.done }

/-- An engine operation has completed: it leaves its engine, a core that it alone held is free, and its context counts it (R304, R342,
R347). -/
def State.finishOp (s : State) (p ctx n : Nat) : State :=
  let s := { s with ops := s.ops.filter fun o => !(o.part == p && o.ctx == ctx && o.n == n) }
  let s := { s with crews := s.crews.map fun (c : Crew) =>
      if (c.state = CrewState.done ∨ c.state = CrewState.killed) ∧ ¬(s.ops.any fun o => o.holds c.grid c.num) then { c with core := none } else c }
  s.modPart p fun x => { x with ctxs := Tab.set x.ctxs ctx ((Tab.get x.ctxs ctx .blank).finish n) }

/-- A store to a leaf of a moving page aborts the move (R341): MOVING clears, the new frame returns to the pool, and the `mig` operations that
asked for the move are over. -/
def State.abortMove (s : State) (m : Move) : State :=
  let s := s.setMoving m false
  let s := { s with moves := s.moves.filter fun x => x.id != m.id }
  let s := m.ops.foldl (fun s o => s.finishOp m.part o.1 o.2) s
  s.modPart m.part fun p => { p with migUsed := p.migUsed.filter fun f => f.1 != m.newPa }

/-- Every copy of the lines of the page that a leaf maps leaves every cache: device and host memory are held there (R308, R336, R420). -/
def State.leafPurge (s : State) (e : Nat) : State :=
  if pteV e && pteLeaf e then s.cdcPurge (if ptePlace e = 0 then .device else .host) (pteFrame e) (pageBytes (pteSize e)) else s

/-- What a store does besides, where it stores to a page-table entry (R332, R336, R341): moves of the page are aborted, a change of SEALED drops
the page's cached lines, and MOVING stays as the engine holds it. DESIGN CHOICE, log 11; DEDUCED, logs 33, 34. -/
def State.pteStored (s : State) (pa old new : Nat) : State :=
  let s := (s.moves.filter fun m => m.flying && m.hasLeaf pa).foldl State.abortMove s
  if old = new then s
  else
    let drop (s : State) (e : Nat) : State := s.leafPurge e
    let s := if pteSealed old != pteSealed new then drop (drop s old) new else s
    if pteV new && pteLeaf new && pteMoving new && s.isTableSlot pa then s.devSetByte (pa + 6) (s.devByte (pa + 6) &&& ~~~0x10#8) else s

/-- Bytes are written at their home: the write, the tasks it dooms, and what it does to page-table entries. DESIGN CHOICE, log 9. -/
def State.put (s : State) (p : Place) (pa : Nat) (bs : List Byte) : State :=
  let t := (s.placeWrite p pa bs).doom p pa bs.length
  match p with
  | .device =>
    (List.range ((pa + bs.length + 7) / 8 - pa / 8)).foldl (fun u i =>
      let g := 8 * (pa / 8 + i)
      u.pteStored g (leAt (s.devRead g 8) 0 8) (leAt (t.devRead g 8) 0 8)) t
  | _ => t

/-! ## Translation faults -/

/-- The arm whose words the warp's own fields hold. -/
def Warp.arm (w : Warp) : Nat := (w.fork.map (·.cur)).getD 0

/-- A read of code, of a block or of a descriptor by the warp, from a remote module. -/
def RemoteLoad.ofUnit (e m lane n pa : Nat) (w : Warp) : RemoteLoad := ⟨e, m, lane, 0, n, false, true, none, none, pa, w.arm, w.level, [], none⟩

/-- The record of a warp's fault (R337). DEDUCED, log 31. -/
def warpRecord (w : Warp) (t : Ticket) (acc walk : Nat) (mask : Mask) (va : Nat) (token : W64) : List Byte :=
  layBytes [(1, 3), (1, 5), (1, acc), (1, walk), (4, t.launch), (4, t.crew), (4, t.warp), (8, t.pc.toNat), (1, t.word.getD 255),
    (1, w.level.val), (2, 0), (4, 0), (8, mask.toNat), (8, va), (8, 0), (8, token.toNat)]

/-- The record of an engine operation's fault (R337). -/
def engineRecord (t : Ticket) (acc walk ctx n va : Nat) (token : W64) : List Byte :=
  layBytes [(1, 4), (1, 5), (1, acc), (1, walk), (4, t.launch), (4, t.crew), (4, t.warp), (8, t.pc.toNat), (1, 255), (1, 0), (2, ctx),
    (4, 0), (8, n), (8, va), (8, 0), (8, token.toNat)]

/-- Room for one more message besides the overflow record (R193). -/
def Part.msgRoom (p : Part) : Bool := decide (p.msgs.length < Config.faultMessages)

/-- A fault enters the fault buffer, attaches to the entry of its page and access, or waits for an entry (R337). -/
def State.fault (s : State) (p va acc : Nat) (warps ops : List (Nat × Nat)) (record : W64 → List Byte) : W64 × State :=
  let x := s.part p
  match x.faults.find? fun f => f.page == va / 4096 && f.access == acc with
  | some f =>
    let g := { f with warps := f.warps ++ warps, ops := f.ops ++ ops }
    (f.token, s.setPart p { x with faults := x.faults.map fun y => if y.token = f.token then g else y })
  | none =>
    let token := Config.faultToken s.fresh
    let s := { s with fresh := s.fresh + 1 }
    let f : FaultEnt := ⟨token, va / 4096, acc, warps, ops, x.msgRoom, record token⟩
    if x.faults.length < Config.faultEntries then
      (token, s.setPart p { x with faults := x.faults ++ [f], msgs := if x.msgRoom then x.msgs ++ [f.record] else x.msgs })
    else (token, s.setPart p { x with faultWait := x.faultWait ++ [{ f with sent := false }] })

/-- The current stream parks on a translation fault (R189): its record, and the cause it takes if the pager refuses. A word that parks at its
fetch has not issued (R109). DEDUCED, log 31. -/
def State.park (s : State) (acc walk : Nat) (mask : Mask) (va : Nat) (dest : BitVec 128) (size : Nat) : State :=
  let w := s.warp
  let t := w.ticket
  let (token, s) := s.fault w.ident.part va acc [(w.id, w.arm)] [] (warpRecord w t acc walk mask va)
  let c : Cause := ⟨cXlate, 0, mask, dest, t.pc, size, t.word.isSome, va⟩
  s.upd fun w => { w with wait := .xlate token, pending := some c, missing := mask, inFlight := w.inFlight || (acc != accFetch && w.block.isSome) }

end Sys2Proof.Machine
end

