-- ==== Sys2Proof/Machine/Footprint.lean ====
section
/-! DEFINITION. Where a slip reads and writes typed buffers (R236, R239 to R243): element types, the offset of an element, and the ranges that
a slip touches. -/

namespace Sys2Proof.Machine

/-! ## Element types (R241) -/

/-- Twice the size of an element in bytes. -/
def tyHalves (ty : Nat) : Nat := if ty = 0 then 8 else if ty ≤ 2 then 4 else if ty = 8 then 1 else 2
/-- A microscaled type. -/
def tyMx (ty : Nat) : Bool := decide (5 ≤ ty ∧ ty ≤ 8)
/-- The row of the table of accepted products that a type stands in. -/
def tyRow (ty : Nat) : Nat := if ty = 4 then 3 else if ty = 6 then 5 else ty
/-- The multiple that addresses and pitches of a type keep (R38, R241). -/
def tyAlign (ty : Nat) : Nat := if ty = 8 then 16 else if tyMx ty then 32 else 4

/-! ## The offset of an element (R240) -/

/-- Rotates bits [7:2] of an offset in row r. -/
def rotated (rot r o : Nat) : Nat :=
  if rot = 0 then o else o - 4 * (o / 4 % 64) + 4 * ((o / 4 + r * 2 ^ (rot - 1)) % 64)

/-- The unrotated offset of element (r, k), `base` being the offset of element (0, 0). -/
def Opnd.plain (o : Opnd) (base r k : Nat) : Nat :=
  let t := if o.tpitch = 0 then 16 * tyHalves o.ty else o.tpitch
  base + r * o.rpitch + k / 32 * t + k % 32 * tyHalves o.ty / 2

/-- `off(r, k)`. -/
def Opnd.off (o : Opnd) (base r k : Nat) : Nat := rotated o.rot r (o.plain base r k)

/-- The offsets of element (0, 0) and of the scale array, and the buffers that hold them. -/
def Opnd.base (o : Opnd) : Nat := o.addr % 2 ^ 19
def Opnd.sbase (o : Opnd) : Nat := o.saddr % 2 ^ 19
def Opnd.buf (o : Opnd) : Nat := bitsOf o.addr 21 2
def Opnd.sbuf (o : Opnd) : Nat := bitsOf o.saddr 21 2

/-- The end of the last byte of `rows` rows: that of the last element, or of the group before it. -/
def Opnd.finish (o : Opnd) (base rows : Nat) : Nat :=
  let last := o.plain base (rows - 1) (o.k - 1) + (tyHalves o.ty + 1) / 2
  if 32 < o.k then max last (o.plain base (rows - 1) ((o.k - 1) / 32 * 32 - 1) + (tyHalves o.ty + 1) / 2) else last

/-- The end of the scale array of `rows` rows. -/
def Opnd.sfinish (o : Opnd) (sbase rows : Nat) : Nat := sbase + rows * (o.k / 32)

/-! ## What a slip touches -/

/-- A range of a typed buffer of a crew, and whether it is written. -/
structure BufMark where
  crew : Nat
  buf : Nat
  lo : Nat
  hi : Nat
  writes : Bool
  deriving DecidableEq, Repr

/-- Two ranges conflict: they share a byte and one is written (R236). -/
def BufMark.meets (a b : BufMark) : Bool :=
  a.crew == b.crew && a.buf == b.buf && decide (a.lo < b.hi ∧ b.lo < a.hi) && (a.writes || b.writes)

/-- The bytes of an operand; rotation keeps an element in its 256-byte stretch. -/
def Opnd.marks (o : Opnd) (shift sshift rows : Nat) (writes : Bool) : List BufMark :=
  if o.lanes.isSome ∨ rows = 0 then []
  else
    let lo := o.base + shift
    let hi := o.finish lo rows
    let main : BufMark := ⟨o.crew, o.buf, if o.rot = 0 then lo else lo / 256 * 256, if o.rot = 0 then hi else (hi + 255) / 256 * 256, writes⟩
    if tyMx o.ty then [main, ⟨o.screw, o.sbuf, o.sbase + sshift, o.sfinish (o.sbase + sshift) rows, writes⟩] else [main]

/-- The region of a handle (R239). -/
def Handle.mark (h : Handle) (crew : Nat) (writes : Bool) : BufMark := ⟨crew, 2, h.base, h.base + 4 * h.rows * h.cols, writes⟩

/-- How far group g of an `mmg` lies from group 0, in its elements and in its scales (R248). -/
def groupShift (h : Handle) (b : Opnd) (pitch g : Nat) : Nat × Nat := (64 * pitch * g, g * h.cols * b.k / 32)

/-- Every range that a slip touches. -/
def Slip.marks (x : Slip) : List BufMark :=
  match x.op with
  | .mul h a b _ => h.mark x.crew true :: a.marks 0 0 h.rows false ++ b.marks 0 0 h.cols false
  | .group h a b _ pitch _ counts =>
    h.mark x.crew true :: a.marks 0 0 h.rows false ++
      ((List.range counts.length).filter fun g => counts.getD g 0 != 0).flatMap fun g =>
        b.marks (groupShift h b pitch g).1 (groupShift h b pitch g).2 h.cols false
  | .weight h a _ _ _ => h.mark x.crew true :: a.marks 0 0 h.rows false
  | .pair hc hu ac au b _ _ =>
    hc.mark x.crew true :: hu.mark x.crew true :: ac.marks 0 0 hc.rows false ++ au.marks 0 0 hu.rows false ++ b.marks 0 0 hc.cols false
  | .zero h => [h.mark x.crew true]
  | .load h src => h.mark x.crew true :: src.marks 0 0 h.rows false
  | .store h dst => h.mark x.crew false :: dst.marks 0 0 h.rows true
  | .convert h dst _ _ => h.mark x.crew false :: dst.marks 0 0 h.rows true

/-- A slip of a warp; a paired one is a slip of both twins (R268). DEDUCED, log 46. -/
def Slip.ofWarp (x : Slip) (w : Nat) : Bool := x.warp == w || x.twin == some w

/-- Two slips of one warp that touch a common byte, one of them writing it, take effect in order (R236). -/
def Slip.conflicts (x y : Slip) : Bool :=
  (x.ofWarp y.warp || y.twin.any x.ofWarp) && x.marks.any fun a => y.marks.any a.meets

end Sys2Proof.Machine
end

