-- ==== Sys2Proof/Machine/LaneInt.lean ====
section
/-! DEFINITION. Lane instructions: integer class (R130 to R136). -/

namespace Sys2Proof

/-- The value of an integer operand under its type (R131). -/
def ITy.val (t : ITy) (x : W64) : Int :=
  match t with
  | .i32 => (x.setWidth 32 : BitVec 32).toInt
  | .n32 => (x.setWidth 32 : BitVec 32).toNat
  | .i64 => x.toInt
  | .n64 => x.toNat

/-- The width of an integer type. -/
def ITy.bits (t : ITy) : Nat := if t.wide then 64 else 32

def ITy.lo : ITy → Int
  | .i32 => -(2 ^ 31)
  | .i64 => -(2 ^ 63)
  | _ => 0

def ITy.hi : ITy → Int
  | .i32 => 2 ^ 31 - 1
  | .n32 => 2 ^ 32 - 1
  | .i64 => 2 ^ 63 - 1
  | .n64 => 2 ^ 64 - 1

/-- The bits of a type's value: its low W bits, zero-extended to 64 ("wrap", R131). -/
def ITy.wrap (t : ITy) (e : Int) : W64 := if t.wide then BitVec.ofInt 64 e else (BitVec.ofInt 32 e).setWidth 64

/-- The nearer bound of the type's range ("clamp", R131). -/
def ITy.clamp (t : ITy) (e : Int) : W64 := t.wrap (max t.lo (min t.hi e))

/-- Wrap or clamp. -/
def ITy.deliver (t : ITy) (sat : Bool) (e : Int) : W64 := if sat then t.clamp e else t.wrap e

/-- The integer type of `iabs`. -/
def SgTy.ity : SgTy → ITy
  | .i32 => .i32
  | .i64 => .i64

/-- The width of a bit-pattern type. -/
def BTy.bits (t : BTy) : Nat := if t.wide then 64 else 32

/-- The comparison of `iset` (R135). -/
def ICond.holds (cc : ICond) (x y : Int) : Bool :=
  match cc with
  | .eq => decide (x = y)
  | .ne => decide (x ≠ y)
  | .lt => decide (x < y)
  | .ge => decide (y ≤ x)
  | .le => decide (x ≤ y)
  | .gt => decide (y < x)

/-- The combine field of `iset` (R135). -/
def Comb.apply (k : Comb) (old new : Bool) : Bool :=
  match k with
  | .set => new
  | .conj => old && new
  | .disj => old || new

end Sys2Proof

namespace Sys2Proof.Machine

/-! ## The shared operations -/

/-- A word on two integer operands (R131). -/
def intWord2 (i : Instr) (s : State) (t : ITy) (f : Int → Int → W64) : Out :=
  laneWord i s 0 fun c l => (f (t.val (c.src t.wide c.h.a l)) (t.val (c.src t.wide c.h.b l)), 0)

/-- A word on two bit patterns (R132). -/
def bitWord2 (i : Instr) (s : State) (wide : Bool) (f : W64 → W64 → W64) : Out :=
  laneWord i s 0 fun c l => (f (c.src wide c.h.a l) (c.src wide c.h.b l), 0)
/-- A word on one bit pattern (R132, R134). -/
def bitWord1 (i : Instr) (s : State) (wide : Bool) (f : W64 → W64) : Out :=
  laneWord i s 0 fun c l => (f (c.src wide c.h.a l), 0)
/-- A word on three 32-bit patterns (R133). -/
def bitWord3 (i : Instr) (s : State) (f : W32 → W32 → W32 → W32) : Out :=
  laneWord i s 0 fun c l => ((f (c.src32 c.h.a l) (c.src32 c.h.b l) (c.src32 c.h.c l)).setWidth 64, 0)

/-- The shift count (R132): the low 5 or 6 bits of y, or all of y with clamp. -/
def shiftCount (wide clamp : Bool) (y : W32) : Nat := if clamp then y.toNat else y.toNat % (if wide then 64 else 32)
/-- Cuts a 64-bit working value to the width W. -/
def cutTo (wide : Bool) (x : W64) : W64 := if wide then x else (x.setWidth 32 : W32).setWidth 64
/-- `shl` (R132); a count of W or more leaves nothing. -/
def shlBits (wide : Bool) (x : W64) (n : Nat) : W64 := if 64 ≤ n then 0 else cutTo wide (x <<< n)
/-- `shr` (R132). -/
def shrBits (x : W64) (n : Nat) : W64 := if 64 ≤ n then 0 else x >>> n
/-- `sar` (R132). -/
def sarBits (wide : Bool) (x : W64) (n : Nat) : W64 :=
  if wide then x.sshiftRight (min n 64) else ((x.setWidth 32 : W32).sshiftRight (min n 32)).setWidth 64
/-- A shift word: first source of width W, second of 32 bits. -/
def shiftWord (i : Instr) (s : State) (wide clamp : Bool) (f : W64 → Nat → W64) : Out :=
  laneWord i s 0 fun c l => (f (c.src wide c.h.a l) (shiftCount wide clamp (c.src32 c.h.b l)), 0)

/-- `bfe` (R133). -/
def bfeBits (signed : Bool) (x y z : W32) : W32 :=
  let p := y.toNat % 256
  let n := min (z.toNat % 256) 32
  if n = 0 then 0
  else
    let e : Int := if signed then x.toInt else x.toNat
    let f := (e / 2 ^ p % 2 ^ n).toNat
    if signed ∧ f.testBit (n - 1) then BitVec.ofInt 32 ((f : Int) - 2 ^ n) else BitVec.ofNat 32 f
/-- `bfi` (R133). -/
def bfiBits (x y z : W32) : W32 :=
  let p := z.toNat % 256
  let n := z.toNat / 256 % 256
  let m : W32 := if n ≥ 32 then BitVec.allOnes 32 <<< p else (1#32 <<< n - 1) <<< p
  (y &&& ~~~m) ||| ((x <<< p) &&& m)

/-- The number of set bits among the low `n` (R134). -/
def popBits (x : W64) (n : Nat) : Nat := (List.range n).foldl (fun k i => if x.getLsbD i then k + 1 else k) 0
/-- The number of zero bits above the highest set bit of the low W (R134). -/
def clzBits (x : W64) (n : Nat) : Nat := n - bitLen x.toNat
/-- Bit i moved to bit W − 1 − i (R134). -/
def revBits (x : W64) (n : Nat) : W64 :=
  BitVec.ofNat 64 ((List.range n).foldl (fun k i => if x.getLsbD i then k + 2 ^ (n - 1 - i) else k) 0)

/-- A truth value as a mask result. -/
def bitW (b : Bool) : W64 := if b then 1 else 0

/-! ## The meanings -/

/-- `iadd` (R131). -/
def execIadd (h : LaneHdr) (t : ITy) (sat : Bool) (s : State) : Out :=
  intWord2 (.iadd h t sat) s t fun x y => t.deliver sat (x + y)
/-- `isub` (R131). -/
def execIsub (h : LaneHdr) (t : ITy) (sat : Bool) (s : State) : Out :=
  intWord2 (.isub h t sat) s t fun x y => t.deliver sat (x - y)
/-- `imul` (R131). -/
def execImul (h : LaneHdr) (t : ITy) (s : State) : Out := intWord2 (.imul h t) s t fun x y => t.wrap (x * y)
/-- `imulh` (R131): bits [2W−1:W] of the exact product. -/
def execImulh (h : LaneHdr) (t : ITy) (s : State) : Out := intWord2 (.imulh h t) s t fun x y => t.wrap (x * y / 2 ^ t.bits)
/-- `imad` (R131). -/
def execImad (h : LaneHdr) (t : ITy) (sat : Bool) (s : State) : Out :=
  laneWord (.imad h t sat) s 0 fun c l =>
    let v (x : Src) := t.val (c.src t.wide x l)
    (t.deliver sat (v c.h.a * v c.h.b + v c.h.c), 0)
/-- `imin` (R131). -/
def execImin (h : LaneHdr) (t : ITy) (s : State) : Out := intWord2 (.imin h t) s t fun x y => t.wrap (min x y)
/-- `imax` (R131). -/
def execImax (h : LaneHdr) (t : ITy) (s : State) : Out := intWord2 (.imax h t) s t fun x y => t.wrap (max x y)
/-- `iabs` (R131). -/
def execIabs (h : LaneHdr) (t : SgTy) (sat : Bool) (s : State) : Out :=
  laneWord (.iabs h t sat) s 0 fun c l => (t.ity.deliver sat |t.ity.val (c.src t.wide c.h.a l)|, 0)
/-- `and` (R132). -/
def execAnd (h : LaneHdr) (t : BTy) (s : State) : Out := bitWord2 (.and h t) s t.wide fun x y => x &&& y
/-- `or` (R132). -/
def execOr (h : LaneHdr) (t : BTy) (s : State) : Out := bitWord2 (.or h t) s t.wide fun x y => x ||| y
/-- `xor` (R132). -/
def execXor (h : LaneHdr) (t : BTy) (s : State) : Out := bitWord2 (.xor h t) s t.wide fun x y => x ^^^ y
/-- `not` (R132). -/
def execNot (h : LaneHdr) (t : BTy) (s : State) : Out := bitWord1 (.not h t) s t.wide fun x => cutTo t.wide (~~~x)
/-- `shl` (R132). -/
def execShl (h : LaneHdr) (t : BTy) (clamp : Bool) (s : State) : Out := shiftWord (.shl h t clamp) s t.wide clamp (shlBits t.wide)
/-- `shr` (R132). -/
def execShr (h : LaneHdr) (t : BTy) (clamp : Bool) (s : State) : Out := shiftWord (.shr h t clamp) s t.wide clamp shrBits
/-- `sar` (R132). -/
def execSar (h : LaneHdr) (t : BTy) (clamp : Bool) (s : State) : Out := shiftWord (.sar h t clamp) s t.wide clamp (sarBits t.wide)
/-- `bfe` (R133). -/
def execBfe (h : LaneHdr) (signed : Bool) (s : State) : Out := bitWord3 (.bfe h signed) s (bfeBits signed)
/-- `bfi` (R133). -/
def execBfi (h : LaneHdr) (s : State) : Out := bitWord3 (.bfi h) s bfiBits
/-- `popc` (R134). -/
def execPopc (h : LaneHdr) (t : BTy) (s : State) : Out :=
  bitWord1 (.popc h t) s t.wide fun x => BitVec.ofNat 64 (popBits x t.bits)
/-- `clz` (R134). -/
def execClz (h : LaneHdr) (t : BTy) (s : State) : Out :=
  bitWord1 (.clz h t) s t.wide fun x => BitVec.ofNat 64 (clzBits x t.bits)
/-- `brev` (R134). -/
def execBrev (h : LaneHdr) (t : BTy) (s : State) : Out := bitWord1 (.brev h t) s t.wide fun x => revBits x t.bits
/-- `iset` (R135). -/
def execIset (h : LaneHdr) (t : ITy) (cc : ICond) (comb : Comb) (s : State) : Out :=
  laneWord (.iset h t cc comb) s 0 fun c l =>
    let new := cc.holds (t.val (c.src t.wide c.h.a l)) (t.val (c.src t.wide c.h.b l))
    (bitW (comb.apply ((c.w.mget (c.h.dest.setWidth 4)).getLsbD l) new), 0)
/-- `sel` (R136). -/
def execSel (h : LaneHdr) (t : BTy) (inv : Bool) (k : MReg) (s : State) : Out :=
  laneWord (.sel h t inv k) s 0 fun c l =>
    (if (c.w.mget k).getLsbD l != inv then c.src t.wide c.h.a l else c.src t.wide c.h.b l, 0)
/-- `mov` (R132). -/
def execMov (h : LaneHdr) (t : BTy) (s : State) : Out := bitWord1 (.mov h t) s t.wide fun x => x

end Sys2Proof.Machine
end

