-- ==== Sys2Proof/Machine/Access.lean ====
section
/-! DEFINITION. Data accesses of warps: the order of checks of lane memory words (R161), loads, stores and atomics to memory, to carrels
(R311, R318), to typed buffers (R159, R160) and to remote modules (R425 to R427). -/

namespace Sys2Proof.Machine

/-! ## Atomic operations (R172, R173) -/

/-- The width of an atomic in bytes. -/
def atyBytes (t : ATy) : Nat := if t.wide then 8 else 4

/-- `f32` `min` and `max` at memory (R173). -/
def atomMinmax (big : Bool) (old y : Nat) : Nat :=
  let a := fval .f32 old
  let b := fval .f32 y
  if a.isNaN && b.isNaN then canonNaN .f32
  else if a.isNaN then y
  else if b.isNaN then old
  else if big then (if a.lt b then y else old) else (if b.lt a then y else old)

/-- The new value at the location (R172), of the type's width. -/
def atomNew (op : AOp) (t : ATy) (old y z : Nat) : Nat :=
  let n := 8 * atyBytes t
  let sg (x : Nat) : Int := if x < 2 ^ (n - 1) then x else (x : Int) - 2 ^ n
  match t, op with
  | .f32, .add => addF32 old y
  | .f32, .min => atomMinmax false old y
  | .f32, .max => atomMinmax true old y
  | _, .add => (old + y) % 2 ^ n
  | _, .min => if sg y < sg old then y else old
  | _, .max => if sg old < sg y then y else old
  | _, .minn => min old y
  | _, .maxn => max old y
  | _, .conj => Nat.land old y
  | _, .disj => Nat.lor old y
  | _, .xor => Nat.xor old y
  | _, .exch => y
  | _, .cas => if old = y then z else old
  | _, .inc => if y ≤ old then 0 else old + 1
  | _, .dec => if old = 0 ∨ y < old then y else old - 1

/-! ## Carrels (R311, R318, R319) -/

/-- A warp's stores go to a carrel: in a `DET` launch or inside a task. -/
def Warp.buffered (w : Warp) : Bool := w.det || w.task.isSome
/-- The carrel that the warp's stores go to. -/
def Warp.entries (w : Warp) : List CarrelEnt :=
  match w.task with
  | some t => t.carrel
  | none => w.carrel

/-- The line of a store entry. -/
def CarrelEnt.line? : CarrelEnt → Option (Place × Nat)
  | .store p pa _ _ _ _ => some (p, pa / 128)
  | _ => none
/-- Carrel lines that entries take: one per line stored to, one per atomic (R311). -/
def carrelCount (l : List CarrelEnt) : Nat :=
  (l.filterMap CarrelEnt.line?).eraseDups.length + (l.filter fun e => match e with | .atomic .. => true | _ => false).length

/-- A task whose carrel and read set outgrow the carrel is doomed (R319); a line in both counts twice. DESIGN CHOICE, log 131. -/
def Task.sized (t : Task) : Task :=
  if Config.carrelLines < carrelCount t.carrel + t.readSet.length then { t with doomed := true } else t

/-- An entry joins the warp's carrel; a doomed task's stores are discarded (R319). -/
def Warp.buffer (w : Warp) (e : CarrelEnt) : Warp :=
  match w.task with
  | some t => if t.doomed then w else { w with task := some { t with carrel := t.carrel ++ [e] }.sized }
  | none => { w with carrel := w.carrel ++ [e] }

/-- A line joins the read set of the open task (R318). -/
def Warp.taskRead (w : Warp) (p : Place) (pa : Nat) : Warp :=
  match w.task with
  | some t =>
    if t.readSet.contains (p, pa / 128) then w
    else { w with task := some { t with readSet := t.readSet ++ [(p, pa / 128)] }.sized }
  | none => w

/-- Replaces bytes of a window that begins at `base`. -/
def patchAt (base : Nat) (win : List Byte) (a : Nat) (bs : List Byte) : List Byte :=
  (List.range win.length).map fun i => if a ≤ base + i ∧ base + i < a + bs.length then bs.getD (base + i - a) 0 else win.getD i 0

/-- The bytes of a window as the carrel's entries leave them, in program order (R311). -/
def overlay (l : List CarrelEnt) (p : Place) (base : Nat) (win : List Byte) : List Byte :=
  l.foldl (fun win e =>
    match e with
    | .store q a bs _ _ _ => if q = p then patchAt base win a bs else win
    | .atomic q a op t y z _ _ _ _ =>
      if q = p ∧ base ≤ a ∧ a + atyBytes t ≤ base + win.length then
        patchAt base win a (natToBytes (atyBytes t) (atomNew op t (leAt win (a - base) (atyBytes t)) y.toNat z.toNat))
      else win
    | _ => win) win

/-- Whether stores of the carrel give every byte of a range. -/
def carrelCovers (l : List CarrelEnt) (p : Place) (pa n : Nat) : Bool :=
  (List.range n).all fun i => l.any fun e =>
    match e with
    | .store q a bs _ _ _ => q == p && decide (a ≤ pa + i ∧ pa + i < a + bs.length)
    | _ => false

/-! ## Remote modules (R424 to R427) -/

/-- The window entry of a remote translation (R424, R425). -/
def State.windowOf (s : State) (p : Nat) (t : Trans) : W64 := Tab.get (s.part p).windows (bitsOf t.pa 40 12) 0

/-- The module's own number (R424). -/
def State.moduleNo (s : State) : Nat := field s.fabric.module 0 14

/-- A mask of the first n bytes. -/
def maskBytes (n : Nat) : BitVec 128 := BitVec.ofNat 128 (2 ^ n - 1)

/-- Bytes up to the highest one that a mask names. -/
def maskLength (m : BitVec 128) : Nat := (List.range 128).foldl (fun n i => if m.getLsbD i then i + 1 else n) 0

/-- A read or write in whole data units of 16 bytes, as a packet carries it (R421): a read asks for the units that hold its bytes, and a write of
parts of units is a masked write. DESIGN CHOICE, log 94. -/
def wholePacket (k : Packet) : Packet :=
  let sh := k.offset.toNat % 16
  let n := if k.kind = 1 then maskLength k.byteMask else k.bytes.length
  let len := (sh + n + 15) / 16 * 16
  let off := k.offset - BitVec.ofNat 40 sh
  if k.kind = 1 then { k with offset := off, byteMask := maskBytes len }
  else if k.kind = 2 ∧ len ≠ n then
    { k with kind := 3, offset := off, bytes := List.replicate sh 0 ++ k.bytes ++ List.replicate (len - sh - n) 0,
             byteMask := BitVec.ofNat 128 ((2 ^ n - 1) * 2 ^ sh) }
  else k

/-- The KIND of the answer to a request (R421). -/
def answerKind (kind : BitVec 8) : Nat := if kind = 1 then 5 else if kind = 4 then 7 else 6

/-- A remote access is accepted by the fabric block (R425): the packet leaves under the next number toward its module (R423), and the access is
outstanding until it is answered. None where the window is a group's, which refuses every access but a contribution (R429). -/
def State.sendRemote (s : State) (p : Nat) (t : Trans) (kind op ty : Nat) (opnd : W64) (bytes : List Byte) (mask : BitVec 128)
    (o : Outstanding) : Option (Nat × Nat) × State :=
  let w := s.windowOf p t
  if w.getLsbD 62 then (none, s)
  else
    let m := field w 42 14
    let n := Tab.get s.fabric.sendSeq m 0 % 65536
    let k : Packet := wholePacket
      { kind := BitVec.ofNat 8 kind, dst := BitVec.ofNat 14 m, src := BitVec.ofNat 14 s.moduleNo, spart := BitVec.ofNat 5 p,
        atomOp := BitVec.ofNat 4 op, atomTy := BitVec.ofNat 2 ty, eseq := BitVec.ofNat 16 n, poison := 0,
        index := BitVec.ofNat 10 (field w 32 10), offset := BitVec.ofNat 40 t.pa, opnd := opnd, bytes := bytes, byteMask := mask }
    (some (n, m), { s with fabric := { s.fabric with
      sendSeq := Tab.set s.fabric.sendSeq m (n + 1), outbox := s.fabric.outbox ++ [k],
      waiting := s.fabric.waiting ++ [{ o with
        eseq := n, mod := m, index := k.index.toNat, offset := t.pa - (t.pa % 2 ^ 40 - k.offset.toNat), ans := answerKind k.kind }] } })

/-- The codes that the table of R181 lists for the accesses of a warp. -/
def accessCodes : List Byte := [cProt, cAlign, cSealedStore, cXlate, BitVec.ofNat 8 cPoison]
/-- A DETAIL that R181 gives with one of those codes, by a number. -/
def detailFor (code : Byte) (x : Nat) : Nat :=
  if code = cXlate then x % 2 ^ 32
  else if code.toNat = cPoison then 1 + x % 4
  else if code = cProt then 256 * (x / 8 % 64) + x % 8
  else 256 * (x % 64)
/-- A late error whose CODE and DETAIL the spec does not state (R195, R426): a free choice among the codes that R181 lists for accesses, and among
the DETAILs that it lists with the code. DESIGN CHOICE, log 9. -/
def State.lateOpen (s : State) (t : Ticket) (lanes : Mask) (va : Nat) : State :=
  let x := Config.freeWord s.fresh
  let code := accessCodes.getD (field x 0 8 % 5) cProt
  { s with fresh := s.fresh + 1 }.lateError t code.toNat (detailFor code (field x 32 32)) lanes va

/-- What the fabric block keeps of an access of the current warp. -/
def Warp.pendingAccess (w : Warp) (lanes : Mask) (va : Nat) (returns so : Bool) : Outstanding :=
  ⟨0, 0, w.id, w.ticket, lanes, BitVec.ofNat 64 va, returns, so, none, none, 0, 0, 0⟩

/-- Codes of an atomic in a packet (R172, R421). -/
def atomTyCode : ATy → Nat
  | .b32 => 0
  | .n64 => 1
  | .f32 => 2

/-- Whether the warp has an access that no remote module has answered. DEDUCED, log 22. -/
def State.awaiting (s : State) (f : Outstanding → Bool) : Bool := s.fabric.waiting.any fun o => o.warp == s.warp.id && o.eng.isNone && f o

/-- Every slip of the current warp has completed (R236); a paired slip is a slip of both twins (R268). -/
def State.slipFree (s : State) : Bool := !s.slips.any fun x => x.warp == s.warp.id || x.twin == some s.warp.id

/-- What the current warp has handed out and its shadow has not confirmed (R199), in program order. -/
def State.unconfirmed (s : State) : List Held := if s.warp.isShadowed then (Tab.get s.pairs s.warp.id []).flatMap (·.stores) else []

/-- A release at a scope may be performed: every one waits for the warp's slips (R236), and one of domain or sys scope for the acknowledgement of
every remote access before it (R427), those that a shadow has still to confirm included. A shadow follows a release that its leading warp has
made. DEDUCED, log 37. -/
def State.releaseReady (s : State) (sc : Scope) : Bool :=
  s.behind || (s.slipFree && (match sc with
    | .domain => s.unconfirmed.isEmpty && !s.awaiting fun _ => true
    | .sys => s.unconfirmed.isEmpty && !s.awaiting fun _ => true
    | _ => true))

/-! ## Access counters (R339) -/

/-- The key of a page's access counter. -/
def migKey (p va page : Nat) : Nat := p * 2 ^ 57 + va / page * page

/-- Counts an access of the current warp to a NUMA page away from home or to a host page, and keeps the die of the one that reaches the
threshold (R339). -/
def State.countAccess (s : State) (p va : Nat) (t : Trans) : State :=
  if (s.part p).cfg.migth = 0 ∨ 2 ^ 21 < t.page then s
  else if t.place = .host ∨ (pteNuma t.entry ∧ s.clusterOf s.warp / 17 ≠ pteDie t.entry) then
    let k := migKey p va t.page
    let n := min 65535 (Tab.get s.migCounts k 0 + 1)
    { s with
      migCounts := Tab.set s.migCounts k n
      migDies := if n = (s.part p).cfg.migth then Tab.set s.migDies k (s.clusterOf s.warp / 17) else s.migDies }
  else s

/-! ## One access -/

/-- What performing one access gives: the state, the value delivered now if any, whether it met poison (R164), and whether an operation
without a return was refused as a late error. -/
structure Perf where
  s : State
  val : Option Nat
  poison : Bool
  late : Bool
  deriving DecidableEq, Repr

/-- An atomic that waits for the shadow. -/
def Held.isAtomic : Held → Bool
  | .mem (.atomic ..) => true
  | .bufAtomic .. => true
  | _ => false
/-- A store or atomic to a remote module. -/
def CarrelEnt.isRemote : CarrelEnt → Bool
  | .store p .. => p == .remote
  | .atomic p .. => p == .remote
  | _ => false
/-- A store or atomic to a remote module that waits for the shadow. -/
def Held.isRemote : Held → Bool
  | .mem e => e.isRemote
  | _ => false
/-- The address of a store or atomic to memory that waits for the shadow. -/
def Held.va? : Held → Option Nat
  | .mem (.store _ _ _ _ _ va) => some va
  | .mem (.atomic _ _ _ _ _ _ _ _ _ va) => some va
  | _ => none
/-- The stores to memory among what waits for the shadow. -/
def memHeld (l : List Held) : List CarrelEnt :=
  l.filterMap fun h => match h with
    | .mem e => some e
    | _ => none

/-- The ordering mode of the page of an address of the current warp's partition is SO (R290). -/
def State.soAt (s : State) (va : Nat) : Bool :=
  match s.xlate s.warp.ident.part va with
  | .ok t => pteMode t.entry == 1
  | _ => false

/-- The first read of a line inside a task leaves no copy of the cache behind: the value is the home's, so that no write falls between it
and the commit (R320). -/
def State.firstRead (s : State) (t : Trans) : State :=
  if s.warp.task.any fun k => !k.readSet.contains (t.place, t.pa / 128) then s.cdcAtomic t.place t.pa else s

/-- A load of n bytes at its home or a cached copy, with the warp's own carrel before memory (R167, R264, R311). -/
def State.loadHome (s : State) (t : Trans) (n hint : Nat) : List Byte × Bool × State :=
  let s := s.firstRead t
  let base := t.pa / 8 * 8
  let (win, bad) := if s.behind then (List.replicate 8 0, false) else s.cdcRead { t with pa := base } 8
  let es := s.warp.entries
  let win := if s.warp.buffered then overlay es t.place base win else overlay (memHeld s.unconfirmed) t.place base win
  let bad := bad && !(s.warp.buffered && carrelCovers es t.place t.pa n)
  ((win.drop (t.pa % 8)).take n, bad, (s.cdcTouch t hint).upd (·.taskRead t.place t.pa))

/-- The warp awaits the value of a remote access of its current arm and level (R178); what its carrel holds then comes before memory (R311). -/
def Warp.awaits (w : Warp) (r : RemoteLoad) : Warp :=
  { w with remote := w.remote ++ [{ r with arm := w.arm, level := w.level, own := if w.buffered then w.entries.filter CarrelEnt.isRemote else [] }] }

/-- A value that a remote module has still to send takes its place in the load value queue (R198). DESIGN CHOICE, log 21. -/
def State.awaitLvq (s : State) (e m : Nat) : State :=
  if s.warp.isShadowed && !s.shadowRun then { s with lvq := s.lvq ++ [.awaited e m] } else s

/-- A generic load of n bytes by a lane or by the scalar stream. DESIGN CHOICE, log 9. -/
def State.load (s : State) (p va : Nat) (t : Trans) (n hint : Nat) (lanes : Mask) (r : RemoteLoad) : Perf :=
  let s := s.countAccess p va t
  let s := s.itemAt 1 [va] lanes va
  if t.place = .remote ∧ ¬(s.warp.buffered ∧ carrelCovers s.warp.entries .remote t.pa n) then
    match s.sendRemote p t 1 0 0 0 [] (maskBytes n) (s.warp.pendingAccess lanes va true (pteMode t.entry == 1)) with
    | (none, s) => ⟨s, none, true, false⟩
    | (some (e, m), s) =>
      ⟨(s.upd (·.awaits { r with eseq := e, mod := m, bytes := n, pa := t.pa })).awaitLvq e m, none, false, false⟩
  else
    let (bs, bad, s) := s.loadHome t n hint
    if bad then ⟨s, none, true, false⟩
    else
      let (x, s) := s.viaLvq (bytesToNat bs)
      ⟨s, some x, false, false⟩

/-- A generic store of bytes; `prevails` says that no higher lane of the word stores to the same bytes, and only such a store leaves the core
for another module, now or from a carrel (R162). DESIGN CHOICE, log 9. -/
def State.store (s : State) (p va : Nat) (t : Trans) (bs : List Byte) (lanes : Mask) (prevails : Bool) : Perf :=
  let s := s.countAccess p va t
  let s := (s.itemAt 2 [va] lanes va).itemAt 3 [bytesToNat bs] lanes va
  let e : CarrelEnt := .store t.place t.pa bs s.warp.ticket lanes va
  if t.place = .remote ∧ !prevails then ⟨s, none, false, false⟩
  else if s.warp.buffered then ⟨s.upd (·.buffer e), none, false, false⟩
  else if s.warp.isShadowed then ⟨{ s with stores := s.stores ++ [.mem e] }, none, false, false⟩
  else
    match t.place with
    | .remote =>
      (match s.sendRemote p t 2 0 0 0 bs (maskBytes bs.length) (s.warp.pendingAccess lanes va false (pteMode t.entry == 1)) with
        | (none, s) => ⟨s.lateOpen s.warp.ticket lanes va, none, false, false⟩
        | (some _, s) => ⟨s, none, false, false⟩)
    | q =>
      if s.hostErr q t.pa bs.length then ⟨s.lateOpen s.warp.ticket lanes va, none, false, false⟩
      else ⟨(s.cdcStore q t.pa bs).put q t.pa bs, none, false, false⟩

/-- A generic atomic (R162, R164, R172, R175, R311, R318); `ret` names the old value's destination where it has one.
DESIGN CHOICE, log 9; DEDUCED, log 32. -/
def State.atomic (s : State) (p va : Nat) (t : Trans) (op : AOp) (ty : ATy) (y z : W64) (returns : Bool) (lanes : Mask)
    (r : RemoteLoad) : Perf :=
  let n := atyBytes ty
  let s := s.countAccess p va t
  let s := s.itemAt 4 [va, y.toNat, z.toNat] lanes va
  let e : CarrelEnt := .atomic t.place t.pa op ty y z none s.warp.ticket lanes va
  if s.warp.task.isSome then
    if returns then
      let s := s.cdcAtomic t.place t.pa
      let base := t.pa / 8 * 8
      let win := overlay s.warp.entries t.place base (s.placeRead t.place base 8)
      if s.placePoisoned t.place t.pa n then ⟨s, none, true, false⟩
      else
        let (x, s) := s.viaLvq (leAt win (t.pa % 8) n)
        ⟨s.upd fun w => (w.taskRead t.place t.pa).buffer e, some x, false, false⟩
    else ⟨(s.cdcAtomic t.place t.pa).upd (·.buffer e), none, false, false⟩
  else if s.warp.det then
    ⟨s.upd fun w => w.buffer (.atomic t.place t.pa op ty y z (if returns then some ⟨r.lane, r.dest, r.wbs, r.latch, w.arm⟩ else none)
        w.ticket lanes va), none, false, false⟩
  else if s.warp.isShadowed && !returns then ⟨{ s with stores := s.stores ++ [.mem e] }, none, false, false⟩
  else
    match t.place with
    | .remote =>
      (match s.sendRemote p t 4 op.code.toNat (atomTyCode ty) y (natToBytes n z.toNat) (maskBytes n)
          (s.warp.pendingAccess lanes va returns (pteMode t.entry == 1)) with
        | (none, s) => if returns then ⟨s, none, true, false⟩ else ⟨s.lateOpen s.warp.ticket lanes va, none, false, false⟩
        | (some (e, m), s) =>
          if returns then
            ⟨s.upd (·.awaits { r with eseq := e, mod := m, bytes := n, pa := t.pa }), none, false, false⟩
          else ⟨s, none, false, false⟩)
    | q =>
      let s := s.cdcAtomic q t.pa
      if s.placePoisoned q t.pa n then ⟨s, none, returns, !returns⟩
      else
        let old := bytesToNat (s.placeRead q t.pa n)
        let s := s.put q t.pa (natToBytes n (atomNew op ty old y.toNat z.toNat))
        if returns then
          let (x, s) := s.viaLvq old
          ⟨s, some x, false, false⟩
        else ⟨s, none, false, false⟩

/-! ## Stores and atomics that leave a carrel or a compare buffer (R199, R310, R313) -/

/-- A mask of listed lanes. -/
def lanesOf (l : List Nat) : Mask := laneMask fun i => l.contains i

/-- Writes a delivered value to a lane's destination registers and latch. -/
def Warp.deliver (w : Warp) (lane : Nat) (dest : BitVec 8) (regs : Nat) (wbs : Bool) (latch : Option (BitVec 2)) (x : Nat) : Warp :=
  let m := lanesOf [lane]
  let w := if wbs then w else (List.range regs).foldl (fun w j => w.putV (dest.toNat + j) m fun _ => BitVec.ofNat 32 (x / 2 ^ (32 * j))) w
  match latch with
  | some b => w.putLatch b.toNat m fun _ => BitVec.ofNat 32 x
  | none => w

/-- Applies a function to a warp while the streams of an arm stand in its own fields. -/
def Warp.inArm (w : Warp) (arm : Nat) (f : Warp → Warp) : Warp :=
  match w.fork with
  | some k => if k.cur = arm then f w else (f w.swapArm).swapArm
  | none => f w

/-- An address of the current warp's partition stands in a sealed page now. -/
def State.sealedAt (s : State) (va : Nat) : Bool :=
  match s.xlate s.warp.ident.part va with
  | .ok t => pteSealed t.entry
  | _ => false

/-- A buffered store or atomic whose page has been sealed since leaves the location unchanged and traps `SEALED_STORE` (R310), at the word that
the warp has come to. The first such access traps. DESIGN CHOICE, log 108. -/
def Warp.sealTrap (lanes : Mask) (va : Nat) (w : Warp) : Warp :=
  let l := ((List.range 64).find? fun i => lanes.getLsbD i).getD 0
  if w.pending.isSome then w
  else { w with pending := some ⟨cSealedStore, BitVec.ofNat 32 (256 * l), lanes, 0, (w.block.map (·.addr)).getD w.pc, 4, w.block.isSome, va⟩ }

/-- A store of the current warp's carrel is performed. DESIGN CHOICE, log 108. -/
def State.performStore (s : State) (q : Place) (pa : Nat) (bs : List Byte) (t : Ticket) (lanes : Mask) (va : Nat) : State :=
  if s.sealedAt va then s.modPair s.warp.id (Warp.sealTrap lanes va)
  else
    match q with
    | .remote =>
      let p := s.warp.ident.part
      let tr : Trans := ⟨0, 0, .remote, pa, 1⟩
      (match s.sendRemote p tr 2 0 0 0 bs (maskBytes bs.length) { s.warp.pendingAccess lanes va false (s.soAt va) with ticket := t } with
        | (none, s) => s.lateOpen t lanes va
        | (some _, s) => s)
    | q => if s.hostErr q pa bs.length then s.lateOpen t lanes va else (s.cdcStore q pa bs).put q pa bs

/-- An atomic of the current warp's carrel, or of the compare buffer, is performed; a returning one that meets poison halts the warp (R164). Its
line leaves the cache whatever it meets (R264). DESIGN CHOICE, log 108. -/
def State.performAtomic (s : State) (q : Place) (pa : Nat) (op : AOp) (ty : ATy) (y z : W64) (ret : Option Ret) (t : Ticket) (lanes : Mask)
    (va : Nat) : State :=
  let n := atyBytes ty
  if s.sealedAt va then s.modPair s.warp.id (Warp.sealTrap lanes va)
  else
    match q with
    | .remote =>
      let tr : Trans := ⟨0, 0, .remote, pa, 1⟩
      (match s.sendRemote s.warp.ident.part tr 4 op.code.toNat (atomTyCode ty) y (natToBytes n z.toNat) (maskBytes n)
          { s.warp.pendingAccess lanes va ret.isSome (s.soAt va) with ticket := t } with
        | (none, s) => if ret.isSome then s.haltAt s.warp cPoison 1 lanes va t else s.lateOpen t lanes va
        | (some (e, m), s) =>
          match ret with
          | some r => s.modPair s.warp.id fun w =>
              { w with remote := w.remote ++ [⟨e, m, r.lane, r.dest, n, false, r.wbs, r.latch, none, pa, r.arm, w.level, [], none⟩] }
          | none => s)
    | q =>
      let s := s.cdcAtomic q pa
      if s.placePoisoned q pa n then
        if ret.isSome then s.haltAt s.warp cPoison 1 lanes va t else s.lateError t cPoison 1 lanes va
      else
        let old := bytesToNat (s.placeRead q pa n)
        let s := s.put q pa (natToBytes n (atomNew op ty old y.toNat z.toNat))
        match ret with
        | some r => s.modPair s.warp.id (·.inArm r.arm (·.deliver r.lane r.dest (if ty.wide then 2 else 1) r.wbs r.latch old))
        | none => s

/-! ## Typed buffers (R159, R160, R169) -/

/-- A byte of a typed buffer: the crew of the warp's team that holds it, the buffer code (0 W, 1 A, 2 C) and the offset. -/
structure BufAddr where
  crew : Nat
  buf : Nat
  off : Nat
  deriving DecidableEq, Repr

/-- A crew's buffer by its code. -/
def Crew.bufOf (c : Crew) (b : Nat) : Mem := if b = 0 then c.bufW else if b = 1 then c.bufA else c.bufC
def Crew.setBuf (c : Crew) (b : Nat) (m : Mem) : Crew :=
  if b = 0 then { c with bufW := m } else if b = 1 then { c with bufA := m } else { c with bufC := m }

/-- A buffer of a crew; that of no crew is empty. -/
def State.bufMem (s : State) (g : Nat) (a : BufAddr) : Mem := ((s.crew? g a.crew).map (·.bufOf a.buf)).getD .empty
/-- Writes a buffer of a crew. -/
def State.setBufMem (s : State) (g : Nat) (a : BufAddr) (m : Mem) : State := s.modCrew g a.crew (·.setBuf a.buf m)

/-- A buffer as the stores that wait for the shadow of the current warp leave it (R199). -/
def State.bufSeen (s : State) (g : Nat) (a : BufAddr) : Mem :=
  s.unconfirmed.foldl (fun m h =>
    match h with
    | .buf g' c b o bs => if g' = g ∧ c = a.crew ∧ b = a.buf then m.write o bs else m
    | _ => m) (s.bufMem g a)
/-- A load of a typed buffer; a shadow alone has the value of its leading warp (R198). -/
def State.bufLoad (s : State) (g : Nat) (a : BufAddr) (n : Nat) (lanes : Mask) (va : Nat) : Perf :=
  let s := s.itemAt 1 [va] lanes va
  let m := s.bufSeen g a
  if !s.behind && m.poisoned a.off n then ⟨s, none, true, false⟩
  else
    let (x, s) := s.viaLvq (bytesToNat (m.read a.off n))
    ⟨s, some x, false, false⟩
/-- A store to a typed buffer. -/
def State.bufStore (s : State) (g : Nat) (a : BufAddr) (bs : List Byte) (lanes : Mask) (va : Nat) : Perf :=
  let s := (s.itemAt 2 [va] lanes va).itemAt 3 [bytesToNat bs] lanes va
  if s.warp.isShadowed then ⟨{ s with stores := s.stores ++ [.buf g a.crew a.buf a.off bs] }, none, false, false⟩
  else ⟨s.setBufMem g a ((s.bufMem g a).write a.off bs), none, false, false⟩
/-- An atomic on a typed buffer (R175). -/
def State.bufAtomic (s : State) (g : Nat) (a : BufAddr) (op : AOp) (ty : ATy) (y z : W64) (returns : Bool) (lanes : Mask) (va : Nat) : Perf :=
  let n := atyBytes ty
  let s := s.itemAt 4 [va, y.toNat, z.toNat] lanes va
  let m := s.bufMem g a
  if s.warp.isShadowed && !returns then
    ⟨{ s with stores := s.stores ++ [.bufAtomic g a.crew a.buf a.off op ty y z s.warp.ticket lanes va] }, none, false, false⟩
  else if m.poisoned a.off n then ⟨s, none, returns, !returns⟩
  else
    let old := bytesToNat (m.read a.off n)
    let s := s.setBufMem g a (m.write a.off (natToBytes n (atomNew op ty old y.toNat z.toNat)))
    if returns then
      let (x, s) := s.viaLvq old
      ⟨s, some x, false, false⟩
    else ⟨s, none, false, false⟩

/-- What a word of a `SHADOW` pair has handed out is performed once both warps agree on it (R199): a store, or an atomic without a return. -/
def State.perform1 (s : State) (h : Held) : State :=
  match h with
  | .mem (.store q pa bs t lanes va) => s.performStore q pa bs t lanes va
  | .mem (.atomic q pa op ty y z _ t lanes va) => s.performAtomic q pa op ty y z none t lanes va
  | .mem _ => s
  | .buf g c b o bs => s.setBufMem g ⟨c, b, o⟩ ((s.bufMem g ⟨c, b, o⟩).write o bs)
  | .bufAtomic g c b o op ty y z t lanes va =>
    let m := s.bufMem g ⟨c, b, o⟩
    let n := atyBytes ty
    if m.poisoned o n then s.lateError t cPoison 1 lanes va
    else s.setBufMem g ⟨c, b, o⟩ (m.write o (natToBytes n (atomNew op ty (bytesToNat (m.read o n)) y.toNat z.toNat)))
/-- They are performed in program order. -/
def State.performHeld (s : State) (l : List Held) : State := l.foldl State.perform1 s

/-- The crew of the warp's team on a core rank, while it stands on its core (R160, R381). -/
def State.crewAtRank (s : State) (w : Warp) (r : Nat) : Option Nat :=
  let n := w.ident.team * w.ident.crews + r
  if r < w.ident.crews then
    match s.crew? w.ident.grid n with
    | some c => if c.core.isSome ∨ n = w.ident.crew then some n else none
    | none => none
  else none

/-- The checks of a scratchpad address (R159 to R161): the buffer byte, or the kind of `PROT`. -/
def State.scratch (s : State) (w : Warp) (a : Nat) (writes atomic : Bool) : Except Nat BufAddr :=
  let buf := bitsOf a 21 2
  let r := bitsOf a 19 2
  if bitsOf a 23 9 ≠ 0 then .error 2
  else if buf = 3 then .error 3
  else
    match s.crewAtRank w r with
    | none => .error 4
    | some c =>
      if buf = 0 ∧ (atomic ∨ (writes ∧ c ≠ w.ident.crew)) then .error 5
      else .ok ⟨c, buf, a % 2 ^ 19⟩

/-! ## The lane loop of R161 -/

/-- The outcome of a lane's checks. -/
inductive LChk where
  | page (t : Trans)
  | buffer (a : BufAddr)
  | miss (walk : Nat)
  | cause (code : Byte) (kind : Nat)
  deriving DecidableEq, Repr

/-- The translation of a shadow that runs behind its leading warp: it takes the leading warp's lanes and never reaches memory (R198). -/
def shadowTrans (va : Nat) : Trans := ⟨0, 0, .device, va, 1⟩

/-- A generic lane's checks in order (R161): alignment, translation, permission, seal. -/
def State.genericCheck (s : State) (p acc n va : Nat) : LChk × State :=
  if va % n ≠ 0 then (.cause cAlign 0, s)
  else if s.behind then (.page (shadowTrans va), s)
  else
    match s.access p va acc with
    | (.ok t, s) => (.page t, s)
    | (.miss k, s) => (.miss k, s)
    | (.cause c k, s) => (.cause c k, s)

/-- A scratchpad lane's checks in order (R161); a shadow alone takes the outcome of its leading warp (R198). -/
def State.scratchCheck (s : State) (w : Warp) (n a : Nat) (writes atomic : Bool) : LChk × State :=
  if a % n ≠ 0 then (.cause cAlign 0, s)
  else if s.behind then (.buffer ⟨w.ident.crew, bitsOf a 21 2, a % 2 ^ 19⟩, s)
  else
    match s.scratch w a writes atomic with
    | .error k => (.cause cProt k, s)
    | .ok b => (.buffer b, s)

/-- An own-buffer lane's checks in order (R161, R168). -/
def State.ownCheck (s : State) (w : Warp) (buf n a : Nat) : LChk × State :=
  if a % n ≠ 0 then (.cause cAlign 0, s)
  else if Config.bufBytes ≤ a then (.cause cProt 6, s)
  else (.buffer ⟨w.ident.crew, buf, a⟩, s)

/-- How far the loop of R161 has come: lanes performed, failed with their cause and kind, missed with their WALK, values delivered, lanes
whose operation without a return became a late error, and the lane that met poison. DEDUCED, log 29. -/
structure LaneRun where
  s : State
  done : List Nat
  fail : List (Nat × Byte × Nat)
  miss : List (Nat × Nat)
  vals : List (Nat × Nat)
  late : List Nat
  dead : Option Nat
  deriving DecidableEq, Repr

/-- One lane of the loop of R161. DESIGN CHOICE, log 10. -/
def laneStep (check : State → Nat → LChk × State) (perform : State → Nat → LChk → Perf) (r : LaneRun) (l : Nat) : LaneRun :=
  if r.dead.isSome then r
  else
    match check r.s l with
    | (.miss k, s) => { r with s := s, miss := r.miss ++ [(l, k)] }
    | (.cause c k, s) => { r with s := s, fail := r.fail ++ [(l, c, k)] }
    | (t, s) =>
      let f := perform s l t
      if f.poison then { r with s := f.s, dead := some l }
      else
        { r with
          s := f.s
          done := r.done ++ [l]
          vals := match f.val with
            | some x => r.vals ++ [(l, x)]
            | none => r.vals
          late := if f.late then r.late ++ [l] else r.late }

/-- Writes loaded values to `n` registers from the destination upward, and to the latch (R81, R168). -/
def Warp.putLoaded (w : Warp) (h : LaneHdr) (n : Nat) (vals : List (Nat × Nat)) : Warp :=
  let m := lanesOf (vals.map (·.1))
  let x (l : Nat) : Nat := ((vals.find? fun v => v.1 == l).map (·.2)).getD 0
  let w := if h.wbs then w else
    (List.range n).foldl (fun w j => w.putV (h.dest.toNat + j) m fun l => BitVec.ofNat 32 (x l / 2 ^ (32 * j))) w
  match h.latch with
  | some b => w.putLatch b.toNat m fun l => BitVec.ofNat 32 (x l)
  | none => w

/-- The lanes that a memory word still has to perform (R161). -/
def LaneCx.todo (c : LaneCx) : List Nat := (List.range 64).filter fun l => c.act.getLsbD l && !c.w.partDone.getLsbD l

/-- What lane words of the warp still await, in an arm or in any: the values of remote accesses (R178). -/
def Warp.owed (w : Warp) (f : RemoteLoad → Bool) : List (Nat × Nat) :=
  (w.remote.filter fun r => decide (r.lane < 64) && r.sreg.isNone && f r).map fun r => (r.eseq, r.mod)

/-- An entry of a carrel whose old value a commit has still to deliver (R311). -/
def CarrelEnt.delivers : CarrelEnt → Bool
  | .atomic _ _ _ _ _ _ (some _) _ _ _ => true
  | _ => false

/-- A lane word with finished and failed lanes traps once its finished lanes have their values (R161, R183): at once, by an ordering wait after the
answers of remote modules that lane words of either arm await, or after the commit that delivers old values (R312). -/
def State.trapAfter (s : State) (c : Cause) : State :=
  let late (x : Wait) : State := s.upd fun w => { w.raiseCause c with wait := x }
  if s.warp.det && s.warp.carrel.any CarrelEnt.delivers then late .commit
  else if s.warp.owed (fun _ => true) = [] then s.trap c
  else late (.values (s.warp.owed fun _ => true))

/-- The end of the loop of R161: a halt for poison (R164), a trap, a park, or the word's completion. `regs` registers take the values;
`acc` is the kind of access for a fault record; `last` acts on completion. DESIGN CHOICE, log 10; DEDUCED, logs 22, 29, 31. -/
def laneEnd (c : LaneCx) (r : LaneRun) (regs acc : Nat) (va : Nat → Nat) (last : State → State) : State :=
  let done := lanesOf r.done
  match r.dead with
  | some l => r.s.poisonHalt 1 (lanesOf [l]) (va l)
  | none =>
    let s := if r.late.isEmpty then r.s else
      r.s.lateError c.w.ticket cPoison 1 (lanesOf r.late) (r.late.foldl (fun m l => min m (va l)) (va (r.late.headD 0)))
    let wrote (s : State) : State := if r.done.isEmpty then s else s.upd (·.putLoaded c.h regs r.vals)
    match r.fail with
    | (f, code, kind) :: rest =>
      let s := (wrote s).upd fun w => { w with partDone := w.partDone ||| done }
      let ls := f :: (rest.filter fun x => x.2.1 == code).map (·.1)
      s.trapAfter (s.warp.laneCause code (kind + 256 * f) (lanesOf ls) (destInfo c.h) (va f))
    | [] =>
      match r.miss with
      | (m, k) :: rest =>
        let s := (wrote s).upd fun w => { w with partDone := w.partDone ||| done }
        s.park acc k (lanesOf (m :: rest.map (·.1))) (va m) (destInfo c.h) 4
      | [] => last (s.upd fun w => (w.putLoaded c.h regs r.vals).laneDone)

/-- A lane memory word (R161). DESIGN CHOICE, log 10. -/
def laneMem (c : LaneCx) (s : State) (regs acc : Nat) (va : Nat → Nat) (check : State → Nat → LChk × State)
    (perform : State → Nat → LChk → Perf) (last : State → State) : State :=
  laneEnd c (c.todo.foldl (laneStep check perform) ⟨s, [], [], [], [], [], none⟩) regs acc va last

/-! ## What a generic word waits for before any lane performs -/

/-- The translations that the word's lanes would use now. -/
def LaneCx.trans (c : LaneCx) (s : State) (acc n : Nat) (va : Nat → Nat) : List Trans :=
  c.todo.filterMap fun l =>
    if va l % n ≠ 0 then none
    else
      match permCheck acc (s.xlate c.w.ident.part (va l)) with
      | .ok t => some t
      | _ => none

/-- Lines that a buffered word adds to the carrel. DEDUCED, log 112. -/
def newLines (es : List CarrelEnt) (acc : Nat) (ts : List Trans) : Nat :=
  if acc = accAtomic then ts.length
  else ((ts.map fun t => (t.place, t.pa / 128)).eraseDups.filter fun x => !(es.filterMap CarrelEnt.line?).contains x).length

/-- The end of the running quantum (R312): the warp waits for its commit, and then executes the word again or goes on. DEDUCED, log 116. -/
def State.quantumEnd (s : State) : State := s.waitOn .commit

/-- The checks and waits of a generic access before it performs: a host or remote access inside a task (R318), a store or atomic to a
page that is moving (R340), an SO access after a remote one (R427) or after one that a shadow has still to confirm (R290), a load after atomics
or remote accesses that a shadow has still to confirm (R96, R199), and in a `DET` launch the carrel's room (R177, R312), which a `.qtm` atomic word
needs as a store word does. DEDUCED, log 112. -/
def State.before (s : State) (acc : Nat) (ts : List Trans) (mode44 : State → State) (k : State → State) : State :=
  let w := s.warp
  if s.behind then k s
  else if w.task.isSome && ts.any fun t => t.place != .device then mode44 s
  else if acc != accRead && !w.buffered && ts.any fun t => pteMoving t.entry then s.waitOn .order
  else if (ts.any fun t => pteMode t.entry == 1) && (s.awaiting (·.so) || (s.unconfirmed.filterMap Held.va?).any s.soAt) then s.waitOn .order
  else if acc == accRead && ((s.unconfirmed.any Held.isAtomic) || ((ts.any fun t => t.place == .remote) && s.unconfirmed.any Held.isRemote)) then
    s.waitOn .order
  else if acc != accRead && w.det && !w.carrel.isEmpty && decide (Config.carrelLines < carrelCount w.carrel + newLines w.carrel acc ts) then
    s.quantumEnd
  else k s

/-- `before` for a lane word. -/
def LaneCx.before (c : LaneCx) (s : State) (acc n : Nat) (va : Nat → Nat) (k : State → State) : State :=
  s.before acc (c.trans s acc n va) (fun s => s.trapLane cMode 44 0 (destInfo c.h)) k

end Sys2Proof.Machine
end

