-- ==== Sys2Proof/Machine/Scalar.lean ====
section
/-! DEFINITION. Scalar words: arithmetic, logic, compare, constants, loads and stores (R99 to R102, R119 to R122). -/

namespace Sys2Proof

/-- The immediate word of an X pair under its extension (R70). -/
def Ext.apply (e : Ext) (x : W32) : W64 :=
  match e with
  | .sx => x.signExtend 64
  | .zx => x.setWidth 64
  | .hi => x ++ 0#32

/-- The conditions of `scmp` (R73, R100). -/
def Cond.holds (cc : Cond) (x y : W64) : Bool :=
  match cc with
  | .eq => x == y
  | .ne => x != y
  | .lt => x.slt y
  | .ge => y.sle x
  | .le => x.sle y
  | .gt => y.slt x
  | .ltn => x.ult y
  | .gen => y.ule x

end Sys2Proof

namespace Sys2Proof.Machine

/-! ## The shared operations -/

/-- A scalar word that writes a register and nothing else (R99). -/
def setReg (s : State) (d : SReg) (x : W64) (size : Nat) : Out := .next ((s.sset d x).adv size)
/-- An R-form word. -/
def alu (s : State) (d a b : SReg) (f : W64 → W64 → W64) : Out := setReg s d (f (s.sget a) (s.sget b)) 4
/-- An I-form word. -/
def aluImm (s : State) (d a : SReg) (y : W64) (f : W64 → W64 → W64) : Out := setReg s d (f (s.sget a) y) 4
/-- An X pair. -/
def aluX (s : State) (d a : SReg) (e : Ext) (x : W32) (f : W64 → W64 → W64) : Out := setReg s d (f (s.sget a) (e.apply x)) 8

/-- A compare (R100). -/
def compare (s : State) (c : PReg) (b : Bool) (size : Nat) : Out := .next ((s.upd (·.cset c b)).adv size)

/-- Shift amount [5:0] (R99). -/
def amount (y : W64) : Nat := y.toNat % 64

/-- The smaller or larger of two values under an order. -/
def pick (lt : Bool) (x y : W64) : W64 := if lt then x else y

/-- A loaded scalar value (R119): zero- or sign-extended from n bytes. -/
def extendLoad (signed : Bool) (n : Nat) (x : Nat) : W64 :=
  if signed ∧ 2 ^ (8 * n - 1) ≤ x then BitVec.ofInt 64 ((x : Int) - 2 ^ (8 * n)) else BitVec.ofNat 64 x

/-- A `MODE` trap of DETAIL 44 at a scalar word's access (R318). -/
def mode44 (size va : Nat) (s : State) : State := s.trapAccess cMode 44 size va

/-- The translations that a scalar access would use now. -/
def State.scalarTrans (s : State) (acc va : Nat) : List Trans :=
  match permCheck acc (s.xlate s.warp.ident.part va) with
  | .ok t => [t]
  | _ => []

/-- The checks of a scalar access in order (R120); `k` performs it. -/
def scalarAccess (s : State) (acc n va size : Nat) (k : Trans → State → State) : State :=
  if va % n ≠ 0 then s.trapAccess cAlign 0 size va
  else
    s.before acc (s.scalarTrans acc va) (mode44 size va) fun s =>
      if s.behind then k (shadowTrans va) s else
      match s.access s.warp.ident.part va acc with
      | (.ok t, s) => k t s
      | (.miss w, s) => s.park acc w 0 va 0 size
      | (.cause c d, s) => s.trapAccess c d size va

/-- A scalar load of n bytes (R119 to R121). -/
def scalarLoad (s : State) (d a : SReg) (off : W64) (n : Nat) (signed : Bool) (size : Nat) : Out :=
  let va := (s.sget a + off).toNat
  let p := s.warp.ident.part
  .next (scalarAccess s accRead n va size fun t s =>
    let f := s.load p va t n 0 0 ⟨0, 0, 0, 0, 0, signed, false, none, some d, 0, 0, 0, [], none⟩
    if f.poison then f.s.poisonHalt 1 0 va
    else
      match f.val with
      | some x => (f.s.sset d (extendLoad signed n x)).adv size
      | none => f.s.adv size)

/-- A scalar store of n bytes (R119 to R121). -/
def scalarStore (s : State) (d a : SReg) (off : W64) (n size : Nat) : Out :=
  let va := (s.sget a + off).toNat
  let p := s.warp.ident.part
  .next (scalarAccess s accWrite n va size fun t s => (s.store p va t (natToBytes n (s.sget d).toNat) 0 true).s.adv size)

/-- The offset of the I form and of an X pair (R119). -/
def off14 (i : BitVec 14) : W64 := i.signExtend 64
def off32 (x : W32) : W64 := x.signExtend 64

/-! ## Arithmetic and logic (R99) -/

/-- `sadd`, R form. -/
def execSadd (d a b : SReg) (s : State) : Out := alu s d a b (· + ·)
/-- `sadd`, I form. -/
def execSaddImm (d a : SReg) (i : BitVec 14) (s : State) : Out := aluImm s d a (i.signExtend 64) (· + ·)
/-- `sadd`, X pair. -/
def execSaddX (d a : SReg) (e : Ext) (x : W32) (s : State) : Out := aluX s d a e x (· + ·)
/-- `ssub`. -/
def execSsub (d a b : SReg) (s : State) : Out := alu s d a b (· - ·)
/-- `smul`. -/
def execSmul (d a b : SReg) (s : State) : Out := alu s d a b (· * ·)
/-- `smulh`: bits [127:64] of the signed product. -/
def execSmulh (d a b : SReg) (s : State) : Out := alu s d a b fun x y => BitVec.ofInt 64 (x.toInt * y.toInt / 2 ^ 64)
/-- `sand`, R form. -/
def execSand (d a b : SReg) (s : State) : Out := alu s d a b (· &&& ·)
/-- `sand`, I form. -/
def execSandImm (d a : SReg) (i : BitVec 14) (s : State) : Out := aluImm s d a (i.setWidth 64) (· &&& ·)
/-- `sand`, X pair. -/
def execSandX (d a : SReg) (e : Ext) (x : W32) (s : State) : Out := aluX s d a e x (· &&& ·)
/-- `sor`, R form. -/
def execSor (d a b : SReg) (s : State) : Out := alu s d a b (· ||| ·)
/-- `sor`, I form. -/
def execSorImm (d a : SReg) (i : BitVec 14) (s : State) : Out := aluImm s d a (i.setWidth 64) (· ||| ·)
/-- `sor`, X pair. -/
def execSorX (d a : SReg) (e : Ext) (x : W32) (s : State) : Out := aluX s d a e x (· ||| ·)
/-- `sxor`, R form. -/
def execSxor (d a b : SReg) (s : State) : Out := alu s d a b (· ^^^ ·)
/-- `sxor`, I form. -/
def execSxorImm (d a : SReg) (i : BitVec 14) (s : State) : Out := aluImm s d a (i.setWidth 64) (· ^^^ ·)
/-- `sxor`, X pair. -/
def execSxorX (d a : SReg) (e : Ext) (x : W32) (s : State) : Out := aluX s d a e x (· ^^^ ·)
/-- `sandn`. -/
def execSandn (d a b : SReg) (s : State) : Out := alu s d a b fun x y => x &&& ~~~y
/-- `sshl`, R form. -/
def execSshl (d a b : SReg) (s : State) : Out := alu s d a b fun x y => x <<< amount y
/-- `sshl`, immediate amount. -/
def execSshlImm (d a : SReg) (n : BitVec 6) (s : State) : Out := aluImm s d a (n.setWidth 64) fun x y => x <<< amount y
/-- `sshr`, R form. -/
def execSshr (d a b : SReg) (s : State) : Out := alu s d a b fun x y => x >>> amount y
/-- `sshr`, immediate amount. -/
def execSshrImm (d a : SReg) (n : BitVec 6) (s : State) : Out := aluImm s d a (n.setWidth 64) fun x y => x >>> amount y
/-- `ssar`, R form. -/
def execSsar (d a b : SReg) (s : State) : Out := alu s d a b fun x y => x.sshiftRight (amount y)
/-- `ssar`, immediate amount. -/
def execSsarImm (d a : SReg) (n : BitVec 6) (s : State) : Out := aluImm s d a (n.setWidth 64) fun x y => x.sshiftRight (amount y)
/-- `smin`: the smaller as `i64`. -/
def execSmin (d a b : SReg) (s : State) : Out := alu s d a b fun x y => pick (x.slt y) x y
/-- `smax`: the larger as `i64`. -/
def execSmax (d a b : SReg) (s : State) : Out := alu s d a b fun x y => pick (y.slt x) x y
/-- `sminn`: the smaller as `n64`. -/
def execSminn (d a b : SReg) (s : State) : Out := alu s d a b fun x y => pick (x.ult y) x y
/-- `smaxn`: the larger as `n64`. -/
def execSmaxn (d a b : SReg) (s : State) : Out := alu s d a b fun x y => pick (y.ult x) x y
/-- `smov`. -/
def execSmov (d a : SReg) (s : State) : Out := setReg s d (s.sget a) 4

/-! ## Compare, select and constants (R100 to R102) -/

/-- `scmp`, R form. -/
def execScmp (cc : Cond) (c : PReg) (a b : SReg) (s : State) : Out := compare s c (cc.holds (s.sget a) (s.sget b)) 4
/-- `scmp`, I form. -/
def execScmpImm (cc : Cond) (c : PReg) (a : SReg) (i : BitVec 14) (s : State) : Out :=
  compare s c (cc.holds (s.sget a) (i.signExtend 64)) 4
/-- `scmp`, X pair. -/
def execScmpX (cc : Cond) (c : PReg) (a : SReg) (e : Ext) (x : W32) (s : State) : Out :=
  compare s c (cc.holds (s.sget a) (e.apply x)) 8
/-- `ssel`. -/
def execSsel (d : SReg) (p : PReg) (a b : SReg) (s : State) : Out := setReg s d (if s.warp.cget p then s.sget a else s.sget b) 4
/-- `sli`, I form. -/
def execSli (d : SReg) (i : BitVec 14) (s : State) : Out := setReg s d (i.signExtend 64) 4
/-- `sli`, X pair. -/
def execSliX (d : SReg) (e : Ext) (x : W32) (s : State) : Out := setReg s d (e.apply x) 8

/-! ## Loads and stores (R119 to R122) -/

/-- `sld.n8`. -/
def execSldN8 (d a : SReg) (i : BitVec 14) (s : State) : Out := scalarLoad s d a (off14 i) 1 false 4
/-- `sld.n16`. -/
def execSldN16 (d a : SReg) (i : BitVec 14) (s : State) : Out := scalarLoad s d a (off14 i) 2 false 4
/-- `sld.n32`. -/
def execSldN32 (d a : SReg) (i : BitVec 14) (s : State) : Out := scalarLoad s d a (off14 i) 4 false 4
/-- `sld.n64`. -/
def execSldN64 (d a : SReg) (i : BitVec 14) (s : State) : Out := scalarLoad s d a (off14 i) 8 false 4
/-- `sld.i8`. -/
def execSldI8 (d a : SReg) (i : BitVec 14) (s : State) : Out := scalarLoad s d a (off14 i) 1 true 4
/-- `sld.i16`. -/
def execSldI16 (d a : SReg) (i : BitVec 14) (s : State) : Out := scalarLoad s d a (off14 i) 2 true 4
/-- `sld.i32`. -/
def execSldI32 (d a : SReg) (i : BitVec 14) (s : State) : Out := scalarLoad s d a (off14 i) 4 true 4
/-- `sldc` (R122): the cached copy that it may use is the one that every load of the cluster uses. -/
def execSldc (d a : SReg) (i : BitVec 14) (s : State) : Out := scalarLoad s d a (off14 i) 8 false 4
/-- `sld.n8`, X pair. -/
def execSldN8X (d a : SReg) (x : W32) (s : State) : Out := scalarLoad s d a (off32 x) 1 false 8
/-- `sld.n16`, X pair. -/
def execSldN16X (d a : SReg) (x : W32) (s : State) : Out := scalarLoad s d a (off32 x) 2 false 8
/-- `sld.n32`, X pair. -/
def execSldN32X (d a : SReg) (x : W32) (s : State) : Out := scalarLoad s d a (off32 x) 4 false 8
/-- `sld.n64`, X pair. -/
def execSldN64X (d a : SReg) (x : W32) (s : State) : Out := scalarLoad s d a (off32 x) 8 false 8
/-- `sld.i8`, X pair. -/
def execSldI8X (d a : SReg) (x : W32) (s : State) : Out := scalarLoad s d a (off32 x) 1 true 8
/-- `sld.i16`, X pair. -/
def execSldI16X (d a : SReg) (x : W32) (s : State) : Out := scalarLoad s d a (off32 x) 2 true 8
/-- `sld.i32`, X pair. -/
def execSldI32X (d a : SReg) (x : W32) (s : State) : Out := scalarLoad s d a (off32 x) 4 true 8
/-- `sldc`, X pair. -/
def execSldcX (d a : SReg) (x : W32) (s : State) : Out := scalarLoad s d a (off32 x) 8 false 8
/-- `sst.n8`. -/
def execSstN8 (d a : SReg) (i : BitVec 14) (s : State) : Out := scalarStore s d a (off14 i) 1 4
/-- `sst.n16`. -/
def execSstN16 (d a : SReg) (i : BitVec 14) (s : State) : Out := scalarStore s d a (off14 i) 2 4
/-- `sst.n32`. -/
def execSstN32 (d a : SReg) (i : BitVec 14) (s : State) : Out := scalarStore s d a (off14 i) 4 4
/-- `sst.n64`. -/
def execSstN64 (d a : SReg) (i : BitVec 14) (s : State) : Out := scalarStore s d a (off14 i) 8 4
/-- `sst.n8`, X pair. -/
def execSstN8X (d a : SReg) (x : W32) (s : State) : Out := scalarStore s d a (off32 x) 1 8
/-- `sst.n16`, X pair. -/
def execSstN16X (d a : SReg) (x : W32) (s : State) : Out := scalarStore s d a (off32 x) 2 8
/-- `sst.n32`, X pair. -/
def execSstN32X (d a : SReg) (x : W32) (s : State) : Out := scalarStore s d a (off32 x) 4 8
/-- `sst.n64`, X pair. -/
def execSstN64X (d a : SReg) (x : W32) (s : State) : Out := scalarStore s d a (off32 x) 8 8

end Sys2Proof.Machine
end

