-- ==== Sys2Proof/Machine/Control.lean ====
section
/-! DEFINITION. Control words: branches, loops, the dual path, lane issue, special registers, return from a trap, exit, `trap`, and `loc`
(R103 to R118, R123, R124, R186, R187, R275). -/

namespace Sys2Proof.Machine

/-! ## Branches (R103 to R106) -/

/-- Sets the program counter. -/
def State.jump (s : State) (x : W64) : State := s.upd fun w => { w with pc := x }

/-- The condition of `bc` and `call`. -/
def Warp.taken (w : Warp) (p : PReg) (neg : Bool) : Bool := w.cget p != neg

/-- A branch target: A + 4 × displacement. -/
def State.target (s : State) {n : Nat} (disp : BitVec n) : W64 := s.warp.pc + 4 * disp.signExtend 64

/-- An indirect jump (R105): a target that is not a multiple of 4 traps at the word. -/
def jumpTo (s : State) (x : W64) : State := if x.extractLsb' 0 2 = 0 then s.jump x else s.trapScalar cAlign 0 4

/-- `bc` (R103). -/
def execBc (p : PReg) (neg : Bool) (disp : BitVec 22) (s : State) : Out :=
  .next (if s.warp.taken p neg then s.jump (s.target disp) else s.adv 4)
/-- `call` (R104). -/
def execCall (p : PReg) (neg : Bool) (disp : BitVec 22) (s : State) : Out :=
  .next (if s.warp.taken p neg then (s.jump (s.target disp)).sset 63 (s.warp.pc + 4) else s.adv 4)
/-- `loop` (R106). -/
def execLoop (d : SReg) (i : BitVec 14) (s : State) : Out :=
  let n := s.sget d
  .next (if n = 0 then s.adv 4
    else if n - 1 = 0 then (s.sset d (n - 1)).adv 4
    else (s.sset d (n - 1)).jump (s.target i))
/-- `ret` (R104, R105). -/
def execRet (s : State) : Out := .next (jumpTo s (s.sget 63))
/-- `jr` (R104, R105). -/
def execJr (a : SReg) (s : State) : Out := .next (jumpTo s (s.sget a))
/-- `yield` (R116). -/
def execYield (s : State) : Out := .next (s.adv 4)

/-! ## The dual path (R110 to R113) -/

/-- Opens the fork record (R111): the warp's fields become the fall-through arm. -/
def Warp.forkAt (w : Warp) (a b : Mask) (e j next : W64) : Warp :=
  let other : Arm :=
    { pc := e, am := b, s := w.s, bank := w.banks.get w.level, c := w.c, block := none, partDone := 0, inFlight := false,
      stack := w.stack, wait := .none, pending := none }
  { w with
    am := a
    pc := next
    fork := some { saved := w.am, jn := j, b0 := w.stack.length, level := w.level, mask0 := a, mask1 := b, cur := 0, other := other,
                   held := false, first := none } }

/-- Closes the fork record (R113): the fall-through arm's registers and stack, the saved mask, and the word after the join. -/
def Warp.merge (w : Warp) (f : Fork) : Warp :=
  let w := if f.cur = 0 then w else w.swapArm
  ({ w with fork := none, wait := .none, pc := f.jn + 4 }).setAm f.saved

/-- `split` (R111). -/
def execSplit (m : MReg) (els jn : BitVec 16) (s : State) : Out :=
  let w := s.warp
  let a := w.am &&& w.mget m
  let b := w.am &&& ~~~(w.mget m)
  let e := s.target els
  let j := s.target jn
  .next (
    if a = 0 ∧ b = 0 then s.jump (j + 4)
    else if w.fork.isNone ∧ a ≠ 0 ∧ b ≠ 0 then s.upd (·.forkAt a b e j (w.pc + 8))
    else if w.stack.length = Config.splitDepth then s.trapScalar cStackOvf 0 8
    else
      let ent : StackEnt := ⟨w.am, if a ≠ 0 then b else 0, e, j⟩
      s.upd fun w => ({ w with stack := ent :: w.stack, pc := if a ≠ 0 then w.pc + 8 else e }).setAm (if a ≠ 0 then a else b))

/-- `join` (R112, R113). -/
def execJoin (s : State) : Out :=
  let w := s.warp
  let b0 := (w.fork.map (·.b0)).getD 0
  .next (
    match w.stack, w.fork with
    | e :: rest, f =>
      if b0 < w.stack.length then
        if e.jn ≠ w.pc then s.trapScalar cStackOvf 2 4
        else if e.pending ≠ 0 then
          s.upd fun w => ({ w with stack := { e with pending := 0 } :: rest, pc := e.els }).setAm e.pending
        else s.upd fun w => ({ w with stack := rest, pc := w.pc + 4 }).setAm e.saved
      else
        (match f with
        | some f =>
          if f.jn ≠ w.pc then s.trapScalar cStackOvf 2 4
          else if f.other.wait = .joined then s.upd (·.merge f)
          else s.waitOn .joined
        | none => s.trapScalar cStackOvf 1 4)
    | [], some f =>
      if f.jn ≠ w.pc then s.trapScalar cStackOvf 2 4
      else if f.other.wait = .joined then s.upd (·.merge f)
      else s.waitOn .joined
    | [], none => s.trapScalar cStackOvf 1 4)

/-! ## Lane issue (R63, R107) -/

/-- Opens a lane block (R21, R63, R78): remote values of earlier blocks that are still out go to no latch of it. -/
def Warp.openBlock (w : Warp) (first count : Nat) : Warp :=
  { w with
    pc := w.pc + 4
    remote := w.remote.map fun (r : RemoteLoad) => if r.arm = w.arm then { r with latch := none } else r
    block := some { addr := w.pc, lcb := w.lcb, first := first, count := count, lanePc := 0, am := w.am, srcs := w.scalars,
                    latch := Vector.replicate 4 (Vector.replicate 64 0), alive := 0 } }

/-- `lx` (R63, R107): an empty mask issues no word. -/
def execLx (k : BitVec 6) (d : BitVec 20) (s : State) : Out :=
  .next (if s.warp.am = 0 then s.adv 4 else s.upd (·.openBlock d.toNat (k.toNat + 1)))

/-! ## Special registers (R24 to R33, R123, R124) -/

/-- The lowest lane of the active mask (R24). -/
def Warp.lowLane (w : Warp) : Option Nat := (List.range 64).find? fun l => w.am.getLsbD l

/-- The trap bank that the special registers reach (R25): at level 0 that of level 1. -/
def Warp.bankIx (w : Warp) : Nat := w.level.val - 1

/-- PAIR_STAT (R26, R27). -/
def State.pairStat (s : State) (w : Warp) : W64 :=
  if !w.isTwin then 0
  else
    let t := s.twinOf w
    let skip := match t with
      | some p => p.wait == .twin .tskip
      | none => false
    0#32 ++ (w.seq ++ (0#12 ++ (BitVec.ofBool skip ++ (BitVec.ofBool t.isSome ++ (BitVec.ofNat 1 (w.ident.rank % 2) ++ 1#1)))))

/-- The value of a special register (R24), or none for a number that names none. -/
def State.special (s : State) (n : Nat) : Option W64 :=
  let w := s.warp
  let t := vget w.trap w.bankIx .zero
  match n with
  | 0x000 => some 0x640
  | 0x001 => some (BitVec.ofNat 64 (w.lowLane.getD 0))
  | 0x002 => some ((w.lowLane.map fun l => (vget w.origin l 0).setWidth 64).getD 0)
  | 0x003 => some (BitVec.ofNat 64 (w.ident.global * 2 ^ 32 + w.ident.rank))
  | 0x004 => some (BitVec.ofNat 64 (w.ident.crew * 2 ^ 32 + w.ident.core * 2 ^ 8 + w.ident.warps))
  | 0x005 => some (BitVec.ofNat 64 (w.ident.team * 2 ^ 32 + w.ident.crews))
  | 0x006 => some w.gridId
  | 0x008 => some w.am
  | 0x009 => some w.live
  | 0x00A => some w.lcb
  | 0x010 => some t.cause
  | 0x011 => some t.pc
  | 0x012 => some t.mask
  | 0x013 => some t.dest
  | 0x014 => some t.desth
  | 0x015 => some (if w.level = 0 then w.partDone else (vget w.save (w.level.val - 1) .zero).partDone)
  | 0x018 => some (s.pairStat w)
  | 0x019 => some (w.fpxEn.setWidth 64)
  | 0x01A => some (w.fpxFlags.setWidth 64)
  | 0x01B => some (if w.det then w.qlen.setWidth 64 else 0)
  | 0x020 => some 0x0020100B92002010
  | 0x021 => some 0x0000100000400800
  | _ => none

/-- The special registers of which a shadow reads its leading warp's value and not one of its own state (R33): `LANEID`, `ORIGIN` and `PAIR_STAT`;
the other ones of R33 never differ. -/
def pairReads (n : BitVec 9) : Bool := n == 0x001 || n == 0x002 || n == 0x018

/-- `srd` (R123): a number that names no register, and bit 8 at `WIDTH` 64, trap `ILLEGAL` (R24). -/
def execSrd (d : SReg) (n : BitVec 9) (s : State) : Out :=
  match s.special n.toNat with
  | some x =>
    let (y, s) := if pairReads n then s.viaLvq x.toNat else (x.toNat, s)
    setReg s d (BitVec.ofNat 64 y) 4
  | none => .next (s.illegalScalar (encNat (.srd d n)) 4)

/-- `swr TRAP_PC` (R124, R186): the next `rett` from that bank resumes there. DEDUCED, log 28. -/
def Warp.setTrapPc (w : Warp) (x : W64) : Warp :=
  let k := w.bankIx
  { w with
    trap := vset w.trap k { vget w.trap k .zero with pc := x &&& ~~~3#64 }
    save := if w.level = 0 then w.save else vset w.save k { vget w.save k .zero with redirect := true } }

/-- The writes of `swr` (R29, R32, R124): what a writable register takes, and whether a fork refuses it; none for any other number. -/
def Warp.special? (w : Warp) (n : Nat) (x : W64) : Option (Bool × Warp) :=
  match n with
  | 0x008 => some (false, w.setAm x)
  | 0x00A => some (true, { w with lcb := x &&& ~~~15#64 })
  | 0x011 => some (true, w.setTrapPc x)
  | 0x019 => some (true, { w with fpxEn := x.setWidth 5 })
  | 0x01A => some (true, { w with fpxFlags := x.setWidth 5 })
  | 0x01B => some (true, if w.det then { w with qlen := if x.toNat % 2 ^ 32 < 64 then 64 else x.setWidth 32 } else w)
  | _ => none

/-- `swr` (R123, R124): read-only and unknown numbers trap `ILLEGAL`, the writes of R32 trap `SPLIT_ACTIVE` while forked. -/
def execSwr (n : BitVec 9) (a : SReg) (s : State) : Out :=
  match s.warp.special? n.toNat (s.sget a) with
  | none => .next (s.illegalScalar (encNat (.swr n a)) 4)
  | some (forkRefuses, w) =>
    .next (if forkRefuses ∧ s.warp.fork.isSome then s.trapScalar cSplitActive 0 4
      else ({ s with warp := w }.item 5 [(s.sget a).toNat]).adv 4)

/-! ## Traps, returns and the end of a warp -/

/-- `rett` (R186). -/
def execRett (s : State) : Out := .next (s.rett 0x4C000005 false)
/-- `rett.skip` (R186). -/
def execRettSkip (s : State) : Out := .next (s.rett 0x4C100005 true)
/-- `trap` (R187). -/
def execTrap (code : BitVec 14) (s : State) : Out := .next (s.trapScalar cUser code.toNat 4)

/-- What a warp of a `DET` launch leaves behind until the commit of its last quantum (R118, R202): its carrel. -/
def State.leaveCarrel (s : State) (w : Warp) : State :=
  if w.det ∧ w.carrel ≠ [] then { s with others := { w with alive := false, wait := .commit } :: s.others } else s

/-- `exit` of the current warp (R117, R118). -/
def State.exitNow (s : State) : State :=
  let s := s.item 8 []
  let w := s.warp
  (s.exitWarp w).leaveCarrel w

/-- `exit` (R114, R117, R118). -/
def execExit (s : State) : Out := .next (s.unforked 4 State.exitNow)

/-! ## loc (R275, R276, R327) -/

/-- The HBM stack of an address (R327). -/
def stackOf (pa : Nat) : Nat := pa / 1024 % 12

/-- DIST between the warp's cluster and another: own cluster, own die, elsewhere (R275). -/
def distTo (own other : Nat) : Nat := if own = other then 1 else if own / 17 = other / 17 then 2 else 3

/-- A result of `loc` with VALID set (R275). -/
def locWord (slice stack dist wd cluster cd core : Nat) : W64 :=
  BitVec.ofNat 64 (2 ^ 63 + slice * 2 ^ 40 + stack * 2 ^ 36 + dist * 2 ^ 32 + wd * 2 ^ 24 + cluster * 2 ^ 16 + cd * 2 ^ 12 + core * 2 ^ 10)

/-- The answer to a `loc` query (R275). -/
def State.locate (s : State) (q : W64) : W64 :=
  let w := s.warp
  let p := s.part w.ident.part
  let own := s.clusterOf w
  match field q 60 4 with
  | 0 =>
    if q ≠ 0 then 0
    else locWord 0 15 0 0 (((s.team? w.ident.grid w.ident.team).bind (·.shelf)).getD 0) (own / 17) w.ident.core
  | 1 =>
    if field q 57 3 ≠ 0 then 0
    else
      (match s.xlate w.ident.part (field q 0 57) with
        | .ok t =>
          (match t.place with
            | .device =>
              let h := homeSlice t.pa (pteNuma t.entry) (pteDie t.entry)
              locWord h (stackOf t.pa) (if h / 32 = own / 17 then 2 else 3) 0 0 (h / 32) 0
            | .host => locWord 0 15 4 0 0 0 0
            | .remote => locWord 0 15 5 0 0 0 0)
        | _ => 0)
  | 2 =>
    if field q 8 52 ≠ 0 then 0
    else
      let e := Tab.get p.banks (field q 0 8) 0
      if e.getLsbD 8 then locWord 0 15 3 (field e 6 2) 0 0 0 else 0
  | 3 =>
    if field q 7 53 ≠ 0 then 0
    else
      let e := Tab.get p.clusters (field q 0 7) 0
      if e.getLsbD 8 then locWord 0 15 (distTo own (field e 5 3 * 17 + field e 0 5)) 0 (field q 0 7) (field e 5 3) 0 else 0
  | _ => 0

/-- The walk of a `loc` of an address sets A in the leaf it finds (R334). DEDUCED, log 23. -/
def State.locWalk (s : State) (q : W64) : State := if field q 57 7 = 8 then (s.lookUp s.warp.ident.part (field q 0 57)).2 else s

/-- `loc` (R275): in a `SHADOW` launch the shadow receives the leading warp's result (R276). -/
def execLoc (d a : SReg) (s : State) : Out :=
  let q := s.sget a
  let (x, t) := (s.locWalk q).viaLvq (s.locate q).toNat
  setReg t d (BitVec.ofNat 64 x) 4

end Sys2Proof.Machine
end

