-- ==== Sys2Proof/Machine/Issue.lean ====
section
/-! DEFINITION. Issue (R62 to R66, R95, R109, R198 to R200): readiness, instruction fetch, decoding, the rows that share one word, and the
two runs of a word of a `SHADOW` pair. -/

namespace Sys2Proof

/-! ## What a word names and waits for -/

/-- The scalar registers that a scalar word names (R95). -/
def Instr.sregs : Instr → List SReg
  | .sadd d a b | .ssub d a b | .smul d a b | .smulh d a b | .sand d a b | .sor d a b | .sxor d a b | .sandn d a b | .sshl d a b
  | .sshr d a b | .ssar d a b | .smin d a b | .smax d a b | .sminn d a b | .smaxn d a b => [d, a, b]
  | .saddImm d a _ | .sandImm d a _ | .sorImm d a _ | .sxorImm d a _ | .sshlImm d a _ | .sshrImm d a _ | .ssarImm d a _ | .smov d a => [d, a]
  | .saddX d a _ _ | .sandX d a _ _ | .sorX d a _ _ | .sxorX d a _ _ => [d, a]
  | .scmp _ _ a b => [a, b]
  | .scmpImm _ _ a _ | .scmpX _ _ a _ _ | .jr a | .swr _ a | .regroup _ a | .tspec a | .dqPush _ a | .accZero _ a => [a]
  | .ssel d _ a b => [d, a, b]
  | .sli d _ | .sliX d _ _ | .loop d _ | .srd d _ | .dqPop d _ | .dqTake d _ _ _ => [d]
  | .sldN8 d a _ | .sldN16 d a _ | .sldN32 d a _ | .sldN64 d a _ | .sldI8 d a _ | .sldI16 d a _ | .sldI32 d a _ | .sldc d a _ => [d, a]
  | .sldN8X d a _ | .sldN16X d a _ | .sldN32X d a _ | .sldN64X d a _ | .sldI8X d a _ | .sldI16X d a _ | .sldI32X d a _ | .sldcX d a _ => [d, a]
  | .sstN8 d a _ | .sstN16 d a _ | .sstN32 d a _ | .sstN64 d a _ => [d, a]
  | .sstN8X d a _ | .sstN16X d a _ | .sstN32X d a _ | .sstN64X d a _ => [d, a]
  | .call _ _ _ | .ret => [63]
  | .loc d a | .arv d a _ | .wait d a _ | .tlr d a _ | .halt d a | .stop d a => [d, a]
  | .barInit a b | .seal a b | .unseal a b => [a, b]
  | .mma _ a b lr _ | .mmt _ a b lr _ _ | .mmtSolo _ a b lr _ => (if lr then [] else [a, a + 1]) ++ [b, b + 1]
  | .mmg _ a b _ => [a, a + 1, b, b + 1, b + 2]
  | .mmw _ a b _ => [a, a + 1, b]
  | .accLd _ a b => [a, b, b + 1]
  | .accSt _ b | .accCvt _ b _ _ => [b, b + 1]
  | .nnPush d a b _ | .nnPull d a b _ | .cpy d a b _ | .gath d a b _ | .mig d a b | .prefS d a b _ | .tlw d a b => [d, a, b]
  | .mbxPost d a b | .mbxPostWait d a b | .mbxPostTl d a b => [d, a, b]
  | .partNew d a b | .partSet d a b | .partBindRun d a b | .partBindSuspend d a b | .partBindFree d a b | .vfBind d a b | .catSet d a b
  | .mbxBind d a b | .mbxUnbind d a b | .clr d a b | .ckpt d a b | .rest d a b | .keyldMeasure d a b | .keyldReport d a b
  | .keyldUnbind d a b => [d, a, b]
  | _ => []

/-- A word that copies the scalar file as it stands (R78, R111, R317). -/
def Instr.copiesScalars : Instr → Bool
  | .lx _ _ | .split _ _ _ | .tspec _ => true
  | _ => false

/-- A word that waits until every lane word that the warp has issued has completed (R31, R117, R186, R202, R234, R297, R320), or that copies lane
registers or lane state as they stand (R111, R317). DEDUCED, log 22. -/
def Instr.settles : Instr → Bool
  | .srd _ n => n == 0x008 || n == 0x009 || n == 0x015 || n == 0x01A
  | .swr n _ => n == 0x008 || n == 0x00A || n == 0x019 || n == 0x01A
  | .exit | .rett | .rettSkip | .regroup _ _ | .split _ _ _ | .tspec _ | .tabort | .tcommit _ | .fence _ => true
  | .mma _ _ _ _ _ | .mmg _ _ _ _ | .mmt _ _ _ _ _ _ | .mmtSolo _ _ _ _ _ | .mmw _ _ _ _ | .tskip | .accZero _ _ | .accLd _ _ _
  | .accSt _ _ | .accCvt _ _ _ _ | .nnPush _ _ _ _ | .nnPull _ _ _ _ => true
  | _ => false

/-- A word that accesses memory, or hands work to a unit: it follows every acquire before it (R286). DEDUCED, log 22. -/
def Instr.accesses : Instr → Bool
  | .sldN8 _ _ _ | .sldN16 _ _ _ | .sldN32 _ _ _ | .sldN64 _ _ _ | .sldI8 _ _ _ | .sldI16 _ _ _ | .sldI32 _ _ _ | .sldc _ _ _ => true
  | .sldN8X _ _ _ | .sldN16X _ _ _ | .sldN32X _ _ _ | .sldN64X _ _ _ | .sldI8X _ _ _ | .sldI16X _ _ _ | .sldI32X _ _ _ | .sldcX _ _ _ => true
  | .sstN8 _ _ _ | .sstN16 _ _ _ | .sstN32 _ _ _ | .sstN64 _ _ _ | .sstN8X _ _ _ | .sstN16X _ _ _ | .sstN32X _ _ _ | .sstN64X _ _ _ => true
  | .ld _ _ _ | .st _ _ _ | .ldx _ _ _ | .stx _ _ _ | .lds _ _ | .sts _ _ | .ldb _ _ _ _ | .stb _ _ _ _ | .atom _ _ _ | .ared _ _ _ => true
  | .cpy _ _ _ _ | .gath _ _ _ _ | .mig _ _ _ | .prefS _ _ _ _ | .fence _ | .arv _ _ _ | .wait _ _ _ | .barInit _ _ | .tlw _ _ _ | .tlr _ _ _
  | .qend | .seal _ _ | .unseal _ _ | .mbxPost _ _ _ | .mbxPostWait _ _ _ | .mbxPostTl _ _ _ | .dqPush _ _ | .dqPop _ _ | .dqTake _ _ _ _ => true
  | .partNew _ _ _ | .partSet _ _ _ | .partBindRun _ _ _ | .partBindSuspend _ _ _ | .partBindFree _ _ _ | .vfBind _ _ _ | .catSet _ _ _
  | .mbxBind _ _ _ | .mbxUnbind _ _ _ | .halt _ _ | .stop _ _ | .clr _ _ _ | .ckpt _ _ _ | .rest _ _ _ | .keyldMeasure _ _ _
  | .keyldReport _ _ _ | .keyldUnbind _ _ _ => true
  | _ => false

end Sys2Proof

namespace Sys2Proof.Machine

/-- The lane registers that an awaited value fills. -/
def RemoteLoad.regs (r : RemoteLoad) : List Nat := if r.wbs then [] else (List.range ((r.bytes + 3) / 4)).map (r.dest.toNat + ·)

/-- A word of the current stream depends on an awaited value (R95, R178): it names its destination, or follows the acquire that comes with it.
DEDUCED, log 22. -/
def Warp.dependsOn (w : Warp) (i : Instr) (r : RemoteLoad) : Bool :=
  decide (r.lane < 64) && r.arm == w.arm &&
    ((r.acq.isSome && i.accesses) ||
      match r.sreg, i.laneShape with
      | some d, _ => i.copiesScalars || i.sregs.contains d
      | none, some (h, sh, _) =>
        (laneRegs h sh).any r.regs.contains || r.latch.any fun n => h.latch == some n || [h.a, h.b, h.c].contains (.b n)
      | none, none => false)

/-- Every lane word that the warp has issued has completed or has raised its cause, those of the other arm included (R31, R183, R188). -/
def Warp.lanesDone (w : Warp) : Bool := (w.owed fun _ => true).isEmpty && !(w.fork.any Fork.unfinished)

/-- What a word waits for before it issues, `none` where it may: an ordering wait (R31), or the awaited values that it depends on (R178). An arm
joins once every value that it awaits has returned. DEDUCED, log 22. -/
def Warp.gate (w : Warp) (i : Instr) : Wait :=
  if i.settles && !w.lanesDone then .order
  else if i == .join && w.fork.isSome && w.remote.any fun r => decide (r.lane < 64) && r.arm == w.arm then .order
  else
    match w.remote.filter (w.dependsOn i) with
    | [] => .none
    | l => .remote (l.map fun r => (r.eseq, r.mod))

/-! ## Readiness -/

/-- The warp has ended its quantum and waits for the commit (R312). -/
def Warp.ended (w : Warp) : Bool :=
  w.wait == .commit || (match w.fork with
    | some f => f.other.wait == .commit
    | none => false)

/-- The warp's lane issues have reached QLEN (R29, R312). -/
def Warp.quantumFull (w : Warp) : Bool := w.det && decide (w.qlenNow ≤ w.issued)

/-- A wait during which the part executes the word again when its turn comes; during every other wait a turn does nothing. DESIGN CHOICE, log 100. -/
def Wait.retries : Wait → Bool
  | .none => true
  | .barrier _ _ => true
  | .take _ _ _ => true
  | .twin _ => true
  | .entry _ => true
  | .link _ _ => true
  | .order => true
  | .regroup _ _ => true
  | _ => false

/-- A word of an open block has issued: an earlier word, some lanes of the present one, or the present one, which has not completed.
DEDUCED, log 17. -/
def Block.begun (b : Block) (done : Mask) (inFlight : Bool) : Bool := b.lanePc != 0 || inFlight || done &&& b.am != 0

/-- The present word of an open block is its last. DEDUCED, log 17. -/
def Block.atLast (b : Block) : Bool := b.lanePc + 1 == b.count

/-- R109: an arm's lane words wait from the issue of the first word of the other arm's open block to that of its last. A last word that a
translation fault of its lanes parks has issued, and its replay (R108) is no further issue; one that parks at its fetch has not issued.
DEDUCED, log 17. -/
def Warp.blockTurn (w : Warp) : Bool :=
  match w.fork, w.block with
  | some f, some c =>
    (match f.other.block with
      | some b => w.inFlight || !b.begun f.other.partDone f.other.inFlight || (b.atLast && (f.other.inFlight || c.begun w.partDone w.inFlight))
      | none => true)
  | _, _ => true

/-- Whether the current stream of the warp may issue. -/
def Warp.ready (w : Warp) : Bool := w.alive && !w.evicted && w.wait.retries && !w.ended && !w.quantumFull && w.blockTurn

/-- The arm whose cause is to be taken first runs, and no longer comes first; `replays` says that the other arm only completes a word that it has
issued (R188). -/
def Fork.turnOf (f : Fork) (arm : Nat) (replays : Bool) : Option Fork :=
  match f.first with
  | none => some f
  | some k => if k = arm then some { f with first := none } else if replays then some f else none

/-- The word of an arm has issued, and runs again to complete. -/
def Warp.replays (w : Warp) (f : Fork) (arm : Nat) : Bool :=
  if f.cur = arm then w.inFlight && w.pending.isNone else f.other.inFlight && f.other.pending.isNone

/-- Brings the stream of an arm into the warp's own fields; none where there is no such arm, where a trap holds it, or while the other arm has a
cause to take first (R188). -/
def Warp.select (w : Warp) (arm : Nat) : Option Warp :=
  match w.fork with
  | none => if arm = 0 then some w else none
  | some f =>
    if f.held then (if f.cur = arm then some w else none)
    else if 1 < arm then none
    else (f.turnOf arm (w.replays f arm)).map fun g =>
      let w := { w with fork := some g }
      if f.cur = arm then w else w.swapArm

/-! ## Fetch (R62, R64, R66) -/

/-- What a fetch gives: bytes, a missing translation at an address with its WALK, a missing execute permission or poison at an address, or a
remote read under way. -/
inductive Fetch where
  | bytes (bs : List Byte)
  | miss (walk va : Nat)
  | prot (va : Nat)
  | poison (va : Nat)
  | remote
  deriving DecidableEq, Repr

/-- A part of a fetch that lies in one page (R291): it reads the bytes that stand there at this turn, so a write to code that another agent
makes is seen by every fetch after it (R65); a fetch counts as an access of the warp's cluster (R339). DESIGN CHOICE, log 106. -/
def State.fetchPart (s : State) (va n : Nat) : Fetch × State :=
  let w := s.warp
  match s.access w.ident.part va accFetch with
  | (.miss k, s) => (.miss k va, s)
  | (.cause _ _, s) => (.prot va, s)
  | (.ok t, s) =>
    let s := s.countAccess w.ident.part va t
    match t.place with
    | .remote =>
      (match w.fetched.find? fun x => x.1 == va && x.2.length == n with
        | some x => (.bytes x.2, s)
        | none =>
          match s.sendRemote w.ident.part t 1 0 0 0 [] (maskBytes n) (w.pendingAccess 0 va true false) with
          | (none, s) => (.poison va, s)
          | (some (e, m), s) =>
            (.remote, s.upd fun w => { w with wait := .fetch, remote := w.remote ++ [.ofUnit e m 64 n va w] }))
    | p => if s.placePoisoned p t.pa n then (.poison va, s) else (.bytes (s.placeRead p t.pa n), s)

/-- A fetch of n bytes, split at a 4 KiB boundary; addresses are 64 bits wide (R63). -/
def State.fetch (s : State) (va n : Nat) : Fetch × State :=
  let k := min n (4096 - va % 4096)
  match s.fetchPart va k with
  | (.bytes bs, s) =>
    if k = n then (.bytes bs, s)
    else
      (match s.fetchPart ((va + k) % 2 ^ 64) (n - k) with
        | (.bytes cs, s) => (.bytes (bs ++ cs), s)
        | r => r)
  | r => r

/-- Code that has been used is no longer held. DESIGN CHOICE, log 106. -/
def Warp.used (w : Warp) (va n : Nat) : Warp := { w with fetched := w.fetched.filter fun x => !(va ≤ x.1 && x.1 < va + n) }

/-- The end of a fetch that gives no bytes (R64, R194): size is that of the word as far as it is known. -/
def State.fetchFail (s : State) (f : Fetch) (size : Nat) : State :=
  match f with
  | .miss k va => s.park accFetch k 0 va 0 size
  | .prot va => if s.warp.block.isSome then s.trap (s.warp.laneCause cProt 7 0 0 va) else s.trapAccess cProt 7 size va
  | .poison va => s.poisonHalt 3 0 va
  | _ => s

/-! ## Rows that share one word -/

/-- The row that a word names when it executes: the sub-operations of `part.bind`, `mbx.bind` and `keyld` stand in registers (R370, R374,
R413). -/
def rowOf (w : Warp) (i : Instr) : Instr :=
  match i with
  | .partBindRun d a b =>
    (match (w.sget b).toNat with
      | 2 => .partBindSuspend d a b
      | 3 => .partBindFree d a b
      | _ => i)
  | .mbxBind d a b => if w.sget b = 0 then .mbxUnbind d a b else i
  | .keyldMeasure d a b =>
    (match field (w.sget a) 60 4 with
      | 2 => .keyldReport d a b
      | 3 => .keyldUnbind d a b
      | _ => i)
  | _ => i

/-! ## Waiting takes (R227) -/

/-- The crews in a take's scope: those of the warp's team, or every one of its grid. -/
def Ident.scopeHas (w : Ident) (grid : Bool) (c : Nat) : Bool := grid || c / w.crews == w.team

/-- The warp waits in a `dq.take.wait`. -/
def Warp.taking (w : Warp) : Bool :=
  match w.wait with
  | .take _ _ _ => true
  | _ => false

/-- The scope of a take is quiescent (R227); `self` names a warp that counts as waiting. -/
def State.quiescent (s : State) (w : Ident) (self : Option Nat) (grid : Bool) : Bool :=
  (s.crews.all fun c => c.grid != w.grid || !w.scopeHas grid c.num || c.deque.isEmpty) &&
    s.warps.all fun x => x.ident.grid != w.grid || !w.scopeHas grid x.ident.crew || self == some x.id || x.taking

/-- The takes of a grid that wait on a quiescent scope. -/
def State.emptyTakes (s : State) (g : Nat) (self : Option Nat) : List Nat :=
  (s.warps.filter fun x => x.ident.grid == g && self != some x.id &&
    (match x.wait with
      | .take gr _ _ => s.quiescent x.ident self gr
      | _ => false)).map (·.id)

/-- A waiting take completes empty. -/
def Warp.takeEmpty (w : Warp) : Warp :=
  match w.wait with
  | .take _ d c => { (w.sset d 0).cset c false with wait := .none, pc := w.pc + 4 }
  | _ => w

/-- Every take of a grid that waits on a quiescent scope completes empty. -/
def State.releaseTakes (s : State) (g : Nat) (self : Option Nat) : State :=
  (s.emptyTakes g self).foldl (fun s id => s.modPair id Warp.takeEmpty) s

/-! ## Issue -/

/-- A word runs once what it waits for before its issue is met. -/
def runWord (ex : Instr → State → Out) (i : Instr) (used : Warp → Warp) (s : State) : Out :=
  match s.warp.gate i with
  | .none => ex (rowOf s.warp i) (s.upd used)
  | x => .next (s.waitOn x)

/-- A scalar word is fetched with the immediate word of its pair, decoded, and run (R62, R66, R70). -/
def issueScalar (ex : Instr → State → Out) (s : State) : Out :=
  match s.fetch s.warp.pc.toNat 4 with
  | (.bytes bs, s) =>
    let w : W32 := BitVec.ofNat 32 (bytesToNat bs)
    let used (w : Warp) : Warp := w.used w.pc.toNat 8
    let run (imm : W32) (s : State) : Out :=
      match decodeScalar w imm with
      | .ok i => runWord ex i used s
      | .error _ => .next ((s.upd used).illegalScalar (w.toNat + 2 ^ 32 * imm.toNat) (if isPrefix w then 8 else 4))
    if isPrefix w then
      match s.fetch (s.warp.pc + 4).toNat 4 with
      | (.bytes cs, s) => run (BitVec.ofNat 32 (bytesToNat cs)) s
      | (f, s) => .next (s.fetchFail f 8)
    else run 0 s
  | (f, s) => .next (s.fetchFail f 4)

/-- The address of the lane word at the lane PC (R62, R63). -/
def Block.wordAddr (b : Block) : Nat := (b.lcb.toNat + 12 * (b.first + b.lanePc)) % 2 ^ 64

/-- A lane word is fetched, decoded, and run (R62, R66). -/
def issueLane (ex : Instr → State → Out) (b : Block) (s : State) : Out :=
  match s.fetch b.wordAddr 12 with
  | (.bytes bs, s) =>
    let used (w : Warp) : Warp := w.used b.wordAddr 12
    (match decodeLane (BitVec.ofNat 96 (bytesToNat bs)) with
      | .ok i => runWord ex i used s
      | .error _ => .next ((s.upd used).trapLane cIllegal 0 0 (BitVec.ofNat 128 (bytesToNat bs))))
  | (f, s) => .next (s.fetchFail f 4)

/-- A cause that a parked or held word has pending is taken first (R188, R189). -/
def State.takePending (s : State) (c : Cause) : State := (s.upd fun w => { w with pending := none }).trap c

/-- One word of the current stream, or the cause that it has pending. -/
def issueWord (ex : Instr → State → Out) (s : State) : Out :=
  match s.warp.pending, s.warp.block with
  | some c, _ => .next (s.takePending c)
  | none, some b => issueLane ex b s
  | none, none => issueScalar ex s

/-- The warp has entered or left a handler, or has ended. -/
def State.turned (s t : State) : Bool := !t.warp.alive || t.warp.level != s.warp.level

/-- A word that traps, returns from a trap or ends the warp does so once every lane word issued before it has completed (R117, R183, R186,
R191): until then it has no effect and waits. DEDUCED, log 22. -/
def settled (f : State → Out) (s : State) : Out :=
  match f s with
  | .next t => if s.turned t && !s.warp.lanesDone then .next (s.waitOn .order) else .next t
  | o => o

/-! ## The two runs of a SHADOW pair (R198 to R200) -/

/-- The first difference between two lists of items. -/
def firstDiff : List Item → List Item → Option Item
  | [], [] => none
  | a :: _, [] => some a
  | [], b :: _ => some b
  | a :: as, b :: bs => if a = b then firstDiff as bs else some a

/-- The state that an outcome leaves, where it is a next one. -/
def nextOf (o : Out) (d : State) : State :=
  match o with
  | .next t => t
  | _ => d

/-- No word of a pair runs. -/
def State.unpaired (s : State) : State := { s with items := [], lvq := [], stores := [], shadowRun := false, shadowAlone := false }

/-- Writes the shadow of the current warp. -/
def State.setShadow (s : State) (w : Warp) : State := { s with shadows := s.shadows.map fun x => if x.id = s.warp.id then w else x }

/-- Both warps of the pair halt with `SDC` at an item that differs (R200), at the word that the shadow is at. -/
def State.sdcHalt (s : State) (sh : Warp) (x : Item) : State :=
  s.haltAt { s.warp with level := sh.level } cSdc x.detail x.mask x.va sh.ticket

/-- The words that the current warp is ahead of its shadow. -/
def State.ahead (s : State) : List Ahead := Tab.get s.pairs s.warp.id []

/-- An item of a load: its place is the load value queue; every other item stands in the compare buffer. -/
def Item.ofLoad (x : Item) : Bool := x.detail == 1
/-- An item of a trap entry. -/
def Item.ofTrap (x : Item) : Bool := x.detail == 7
/-- An item that the leading warp need not wait for: of a load, a store, an atomic without a return, a special register or a trap entry. -/
def Item.passes (x : Item) : Bool := decide (x.detail ≤ 5) || x.ofTrap

/-- The load value queue, or the compare buffer, has room for one more word (R198, R199). DESIGN CHOICE, log 21. -/
def queueRoom (l : List Ahead) : Bool := decide ((l.filter fun x => x.items.any Item.ofLoad).length < Config.lvqEntries)
def bufferRoom (l : List Ahead) : Bool := decide ((l.filter fun x => x.items.any fun y => !y.ofLoad).length < Config.compareWords)

/-- The leading warp may go on before its shadow has executed a word: the word has completed or has entered a handler, and it received a value
from no unit but a load's. A trap goes ahead where the shadow raises it by itself: of a word that makes no access, while the warp is not forked.
DESIGN CHOICE, log 21. -/
def State.runsAhead (s t : State) (i : Instr) : Bool :=
  t.warp.alive && t.warp.wait == .none && s.warp.pending.isNone && t.warp.pending.isNone && t.warp.fork.isSome == s.warp.fork.isSome &&
    t.items.all Item.passes && (t.lvq.isEmpty || t.items.any Item.ofLoad) &&
    (!t.items.any Item.ofTrap || (s.warp.fork.isNone && !i.accesses))

/-- The current warp's streams on an arm. -/
def Warp.onArm (w : Warp) (arm : Nat) : Warp := if w.fork.any fun f => f.cur != arm then w.swapArm else w
/-- A shadow follows the arm that its leading warp runs, and the order of that warp's traps (R188). -/
def Warp.follow (sh w : Warp) : Warp :=
  let x := sh.onArm w.arm
  match x.fork, w.fork with
  | some f, some g => { x with fork := some { f with held := g.held, first := g.first } }
  | _, _ => x

/-- A word of both warps in one turn: the shadow takes the values that the leading warp loads, and what both agree on is released.
DESIGN CHOICE, log 21. -/
def pairTurn (f : State → Out) (s : State) : Out :=
  match s.shadows.find? fun x => x.id == s.warp.id with
  | none => f s
  | some sh =>
    match f s.unpaired with
    | .next t =>
      let u := nextOf (f { s.unpaired with warp := { sh.follow s.warp with wait := .none, pending := s.warp.pending }, lvq := t.lvq, shadowRun := true }) s
      (match firstDiff t.items u.items with
        | some d => .next (s.unpaired.sdcHalt s.warp d)
        | none => .next ((t.setShadow u.warp).unpaired.performHeld t.stores))
    | o => o

/-- The word that a turn of the leading warp executes, where it may run ahead: plain instructions are kept for the shadow. -/
def wordOf (s : State) : Option Instr :=
  match issueWord (fun i t => .next { t with agenda := [.event i] }) { s with agenda := [] } with
  | .next t =>
    (match t.agenda with
      | [.event i] => some i
      | _ => none)
  | _ => none

/-- A wait for the values of remote accesses (R178). -/
def Wait.isRemote : Wait → Bool
  | .remote _ => true
  | _ => false

/-- A turn of the leading warp: its word goes ahead of the shadow where it may and there is room; another word waits until the shadow has
executed every word before it, and a word that depends on a remote value waits for that (R178). DESIGN CHOICE, log 21. -/
def leadTurn (f : State → Out) (s : State) : Out :=
  match s.shadows.find? fun x => x.id == s.warp.id with
  | none => f s
  | some _ =>
    match f s.unpaired, wordOf s with
    | .next t, some i =>
      if s.runsAhead t i then
        if (queueRoom s.ahead || !t.items.any Item.ofLoad) && (bufferRoom s.ahead || t.items.all Item.ofLoad) then
          .next { t.unpaired with pairs := Tab.set t.pairs s.warp.id (s.ahead ++ [⟨i, s.warp.arm, t.lvq, t.items, t.stores⟩]) }
        else .next (s.waitOn .order)
      else if s.ahead.isEmpty then pairTurn f s
      else .next (s.waitOn .order)
    | .next t, none =>
      if s.ahead.isEmpty then pairTurn f s else .next (s.waitOn (if t.warp.wait.isRemote then t.warp.wait else .order))
    | _, _ => if s.ahead.isEmpty then pairTurn f s else .next (s.waitOn .order)

/-- The value has come. -/
def LvqVal.isKnown : LvqVal → Bool
  | .known _ => true
  | .awaited _ _ => false

/-- The shadow of the current warp executes the oldest word that the warp is ahead, once every value that it takes has come (R198): its items are
compared, and what waits for a word that agrees is released (R199, R200). DESIGN CHOICE, log 21. -/
def shadowTurn (ex : Instr → State → Out) (s : State) : Out :=
  match s.ahead, s.shadows.find? fun x => x.id == s.warp.id with
  | x :: r, some sh =>
    if !x.vals.all LvqVal.isKnown then .next s
    else
      let sh := sh.onArm x.arm
      let u := nextOf (ex x.word { s.unpaired with warp := sh, lvq := x.vals, shadowRun := true, shadowAlone := true }) s
      (match firstDiff x.items u.items with
        | some d => .next (s.unpaired.sdcHalt sh d)
        | none => .next (({ s with pairs := Tab.set s.pairs s.warp.id r }.setShadow u.warp).performHeld x.stores))
  | _, _ => .next s

/-- The turn of a shadow. -/
def issueShadow (ex : Instr → State → Out) (warp : Nat) (s : State) : Out :=
  let t := s.focus warp
  if t.warp.id = warp ∧ t.warp.alive then shadowTurn ex t else .next s

/-- The turn of a warp's stream: nothing where it cannot issue. A waiting word is executed again; before a waiting take may find a token,
those that wait on a quiescent scope of its grid complete (R227). DESIGN CHOICE, log 100. -/
def issue (ex : Instr → State → Out) (warp arm : Nat) (s : State) : Out :=
  let t := s.focus warp
  if t.warp.id ≠ warp then .next s
  else
    match t.warp.select arm with
    | none => .next s
    | some w =>
      if w.ready && w.taking && !(t.emptyTakes w.ident.grid none).isEmpty then .next (t.releaseTakes w.ident.grid none)
      else if w.ready then
        leadTurn (settled (issueWord ex)) { t with warp := { w with wait := .none } }
      else .next s

end Sys2Proof.Machine
end

