-- ==== Sys2Proof/Machine/Matrix.lean ====
section
/-! DEFINITION. The matrix engine (R234 to R257, R266 to R268): the words, their checks, the reservation table, the twin rendezvous, and what a
slip writes. -/

namespace Sys2Proof.Machine

/-! ## Checks (R239 to R245) -/

/-- A refusal: a cause code and its DETAIL. -/
abbrev Refusal? := Option (Byte × Nat)

/-- `MODE` with a DETAIL where a condition holds. -/
def refuseMode (detail : Nat) (c : Bool) : Refusal? := if c then some (cMode, detail) else none

/-- The first refusal traps at the word (R245); else `k` runs. -/
def State.checked (s : State) (cs : List Refusal?) (k : State → State) : State :=
  match cs.findSome? id with
  | some (c, d) => s.trapScalar c d 4
  | none => k s

/-- Checks 1 to 3 of R245. -/
def State.matrixGate (s : State) (k : State → State) : State :=
  s.unforked 4 fun s => s.fullMask 4 fun s => s.modeIf s.warp.task.isSome 25 k

/-- The fields of a handle descriptor, and whether R239 refuses it. -/
def handleOf (x : W64) : Handle := ⟨16 * (field x 24 4 + 1), 16 * (field x 28 4 + 1), field x 0 19, x.extractLsb' 32 32⟩
def handleBad (x : W64) : Bool :=
  field x 19 5 != 0 || field x 0 19 % 64 != 0 || decide (2 ^ 19 < (handleOf x).base + 4 * (handleOf x).rows * (handleOf x).cols)

/-- The operand that a descriptor pair names (R240). -/
def Warp.opndOf (w : Warp) (x0 x1 : W64) : Opnd :=
  let core (a : Nat) := w.ident.team * w.ident.crews + bitsOf a 19 2
  { ty := field x0 60 4, rot := field x0 52 3, rpitch := field x0 32 20, addr := field x0 0 32, saddr := field x1 32 32,
    tpitch := field x1 12 20, k := field x1 0 12, crew := core (field x0 0 32), screw := core (field x1 32 32), lanes := none }
def Warp.opndAt (w : Warp) (p : SReg) : Opnd := w.opndOf (w.sget p) (w.sget (p + 1))

/-- `MODE` 18 (R241). -/
def descRefused (w : Warp) (p : SReg) : Bool :=
  let o := w.opndAt p
  field (w.sget p) 55 5 != 0 || o.rot == 7 || o.k == 0 || (!tyMx o.ty && o.saddr != 0) || (tyMx o.ty && o.k % 32 != 0)

/-- `ALIGN` (R241). -/
def Opnd.misaligned (o : Opnd) : Refusal? :=
  if o.base % tyAlign o.ty ≠ 0 ∨ o.rpitch % tyAlign o.ty ≠ 0 ∨ o.tpitch % tyAlign o.ty ≠ 0 then some (cAlign, 0) else none

/-- The `PROT` kind of a scratchpad range of the current warp's team that ends at `hi` (R243). -/
def State.rangeKind (s : State) (addr hi : Nat) : Refusal? :=
  if bitsOf addr 23 9 ≠ 0 then some (cProt, 2)
  else if bitsOf addr 21 2 = 3 then some (cProt, 3)
  else if (s.crewAtRank s.warp (bitsOf addr 19 2)).isNone then some (cProt, 4)
  else if 2 ^ 19 < hi then some (cProt, 6)
  else none

/-- `PROT` for the bytes of an operand of `rows` rows (R243). -/
def State.opndKind (s : State) (o : Opnd) (shift sshift rows : Nat) : Refusal? :=
  match s.rangeKind o.addr (o.finish (o.base + shift) rows) with
  | some r => some r
  | none => if tyMx o.ty then s.rangeKind o.saddr (o.sfinish (o.sbase + sshift) rows) else none

/-- The bound handle that a word names (check 6). -/
def State.withHandle (s : State) (h : AReg) (k : Handle → State → State) : State :=
  match vget s.warp.acc h.toNat none with
  | none => s.trapScalar cMode 16 4
  | some x => k x s

/-! ## Items of a SHADOW pair (R257) -/

/-- What is compared of an operand and of a handle. -/
def Opnd.vals (o : Opnd) : List Nat :=
  [o.ty, o.rot, o.rpitch, o.addr, o.saddr, o.tpitch, o.k] ++ ((o.lanes.getD []).flatMap fun v => v.toList.map (·.toNat))
def Handle.vals (h : Handle) : List Nat := [h.rows, h.cols, h.base, h.fold.toNat]

/-- The register operands of a slip. -/
def SlipOp.vals : SlipOp → List Nat
  | .mul h a b z => h.vals ++ a.vals ++ b.vals ++ [z.toNat]
  | .group h a b z p t c => h.vals ++ a.vals ++ b.vals ++ [z.toNat, p, t] ++ c
  | .weight h a z b o => h.vals ++ a.vals ++ [z.toNat, b, o]
  | .pair hc hu ac au b z f => hc.vals ++ hu.vals ++ ac.vals ++ au.vals ++ b.vals ++ [z.toNat, f.toNat]
  | .zero h => h.vals
  | .load h o => h.vals ++ o.vals
  | .store h o => h.vals ++ o.vals
  | .convert h o _ _ => h.vals ++ o.vals

/-! ## Entry into the table (R234) -/

/-- The table of a cluster has a free entry. -/
def State.slipRoom (s : State) (cluster : Nat) : Bool :=
  decide ((s.slips.filter fun x => x.cluster == cluster).length < Config.slipEntries)

/-- The slip of a warp. -/
def State.slipOf (s : State) (w : Warp) (op : SlipOp) (twin : Option Nat) : Slip :=
  { order := s.slipOrder, cluster := s.clusterOf w, warp := w.id, grid := w.ident.grid, crew := w.ident.crew, team := w.ident.team,
    rank := w.ident.rank, twin := twin, ticket := w.ticket, op := op, priority := if w.timed then 1 else 0, started := false, blocks := 0,
    held := false, shadow := w.isShadowed, failed := false }

/-- A slip joins the table. -/
def State.addSlip (s : State) (x : Slip) : State := { s with slips := s.slips ++ [x], slipOrder := s.slipOrder + 1 }

/-- A word that has passed R245 enters as a slip, or waits for a free entry; `bind` is what it does to the warp at issue. Only the leading
warp of a `SHADOW` pair posts the slip (R257). -/
def State.enterSlip (s : State) (op : SlipOp) (bind : Warp → Warp) : State :=
  let s := s.item 6 op.vals
  if s.slipRoom (s.clusterOf s.warp) then
    ((if s.shadowRun then s else s.addSlip (s.slipOf s.warp op none)).upd bind).adv 4
  else s.waitOn .order

/-! ## Products -/

/-- The registers of a lane-register operand (R242): ceil(K × e / 4). -/
def laneRegCount (b : Opnd) : Nat := (b.k * tyHalves b.ty + 7) / 8

/-- Operand A of a product: a descriptor pair, or lane registers with the TYPE and K of B (R242). -/
def Warp.opndA (w : Warp) (a b : SReg) (lr : Bool) : Opnd :=
  if lr then
    let o := w.opndAt b
    { o with lanes := some ((List.range (laneRegCount o)).map fun i => vget w.v (a.toNat + i) (Vector.replicate 64 0)) }
  else w.opndAt a

/-- Checks 7 to 9 of a product with two operands (R241 to R245). -/
def State.product (s : State) (h : Handle) (a b : SReg) (lr : Bool) (k : State → State) : State :=
  let w := s.warp
  let oa := w.opndA a b lr
  let ob := w.opndAt b
  s.checked
    [refuseMode 18 ((!lr && descRefused w a) || descRefused w b),
     refuseMode 19 (decide (9 ≤ oa.ty) || decide (9 ≤ ob.ty) || tyRow oa.ty != tyRow ob.ty || oa.k != ob.k),
     refuseMode 20 (lr && (tyMx ob.ty || decide (64 < h.rows ∨ 32 < laneRegCount ob ∨ w.regs < a.toNat + laneRegCount ob))),
     if lr then none else oa.misaligned,
     ob.misaligned,
     if lr then none else s.opndKind oa 0 0 h.rows,
     s.opndKind ob 0 0 h.cols] k

/-- `mma` (R247). -/
def execMma (h : AReg) (a b : SReg) (lr z : Bool) (s : State) : Out :=
  .next (s.matrixGate fun s => s.withHandle h fun hd s => s.product hd a b lr fun s =>
    s.enterSlip (.mul hd (s.warp.opndA a b lr) (s.warp.opndAt b) z) id)

/-! ## mmg (R248) -/

/-- Reads the row-count table, or none where a byte of it is poisoned. -/
def State.rowCounts (s : State) (addr n : Nat) : Option (List Nat) :=
  let c := (s.crewAtRank s.warp (bitsOf addr 19 2)).getD 0
  let m := s.bufMem s.warp.ident.grid ⟨c, bitsOf addr 21 2, 0⟩
  if m.poisoned (addr % 2 ^ 19) (2 * n) then none
  else some ((List.range n).map fun i => bytesToNat (m.read (addr % 2 ^ 19 + 2 * i) 2))

/-- `mmg` (R248): the table is read at issue, after the warp's earlier slips that write it (R236). The checks of A cover its M rows, as those of an
`mma` do. DEDUCED, log 124. -/
def execMmg (h : AReg) (a b : SReg) (z : Bool) (s : State) : Out :=
  .next (s.matrixGate fun s => s.withHandle h fun hd s =>
    let w := s.warp
    let oa := w.opndAt a
    let ob := w.opndAt b
    let x := w.sget (b + 2)
    let table := field x 0 32
    let g := field x 32 16
    let pitch := field x 48 16
    s.checked
      [refuseMode 18 (descRefused w a || descRefused w b),
       refuseMode 19 (decide (9 ≤ oa.ty) || decide (9 ≤ ob.ty) || tyRow oa.ty != tyRow ob.ty || oa.k != ob.k),
       refuseMode 21 (decide (g = 0 ∨ 1024 < g)),
       oa.misaligned,
       if table % 2 ≠ 0 then some (cAlign, 0) else none,
       s.opndKind oa 0 0 hd.rows,
       s.rangeKind table (table % 2 ^ 19 + 2 * g)] fun s =>
    if s.slips.any fun z => z.ofWarp w.id && z.marks.any
        (·.meets ⟨(s.crewAtRank w (bitsOf table 19 2)).getD 0, bitsOf table 21 2, table % 2 ^ 19, table % 2 ^ 19 + 2 * g, false⟩) then
      s.waitOn .order
    else
    match s.rowCounts table g with
    | none => s.poisonHalt 1 0 table
    | some counts =>
      let used := (List.range g).filter fun i => counts.getD i 0 != 0
      s.checked
        [refuseMode 21 (decide (hd.rows < counts.foldl (· + ·) 0)),
         if used.isEmpty then none else ob.misaligned,
         used.findSome? fun i => s.opndKind ob (groupShift hd ob pitch i).1 (groupShift hd ob pitch i).2 hd.cols] fun s =>
      s.enterSlip (.group hd oa ob z pitch table counts) id)

/-! ## mmw (R249) -/

/-- The bytes of a weight row: the elements and their scales, rounded up to a multiple of 64. -/
def weightRow (ty k : Nat) : Nat := (k * tyHalves ty / 2 + k / 32 + 63) / 64 * 64

/-- `mmw` (R249). DEDUCED, log 40. -/
def execMmw (h : AReg) (a b : SReg) (z : Bool) (s : State) : Out :=
  .next (s.matrixGate fun s => s.withHandle h fun hd s =>
    let w := s.warp
    let oa := w.opndAt a
    let x := w.sget b
    let wtype := field x 60 2
    let k := 32 * field x 48 12
    let e := Tab.get (s.part w.ident.part).banks (field x 0 8) 0
    let fits := (oa.ty = 7 ∧ wtype = 0) ∨ (oa.ty = 8 ∧ wtype = 1)
    s.checked
      [refuseMode 18 (descRefused w a),
       refuseMode 19 (decide (¬fits ∨ oa.k ≠ k)),
       refuseMode 22 (field x 62 2 != 0 || field x 41 7 != 0 || field x 8 16 != 0 || decide (1 < wtype ∨ k = 0) || !e.getLsbD 8 ||
         decide (Config.bankBytes < 64 * field x 24 17 + hd.cols * weightRow oa.ty k)),
       oa.misaligned,
       s.opndKind oa 0 0 hd.rows] fun s =>
    s.enterSlip (.weight hd oa z (field e 0 8) (64 * field x 24 17)) id)

/-! ## Twins (R250 to R252) -/

/-- Checks 1 to 5 of R245 for `mmt` and `tskip`; `refused` is the rank parity that R244 refuses. -/
def State.twinGate (s : State) (refused : Option Nat) (k : State → State) : State :=
  s.matrixGate fun s => s.modeIf (!s.warp.isTwin) 23 fun s => s.modeIf (refused == some (s.warp.ident.rank % 2)) 24 fun s =>
    if (s.twinOf s.warp).isNone then s.trapScalar cPairLost 0 4 else k s

/-- The handle of a warp, or one that names nothing. -/
def Warp.handle (w : Warp) (h : AReg) : Handle := (vget w.acc h.toNat none).getD ⟨0, 0, 0, 0⟩

/-- Regions that do not overlap. -/
def Handle.apart (x y : Handle) : Bool := decide (x.base + 4 * x.rows * x.cols ≤ y.base ∨ y.base + 4 * y.rows * y.cols ≤ x.base)

/-- The word that a stream has posted. -/
def Wait.post? : Wait → Option Instr
  | .twin i => some i
  | .entry i => some i
  | _ => Option.none

/-- The slip of two posts that match (R251), by the cond twin and the uncond twin, and whether it is a slip of both. -/
def matched (c u : Warp) : Option (SlipOp × Bool) :=
  match c.wait.post?, u.wait.post? with
  | some (.mmt h a b lr fold z), some (.mmt h' a' b' lr' fold' z') =>
    let oa := c.opndA a b lr
    let oa' := u.opndA a' b' lr'
    let x := c.handle h
    let y := u.handle h'
    if lr == lr' && z == z' && fold == fold' && oa.ty == oa'.ty && oa.k == oa'.k && c.sget b == u.sget b' &&
        c.sget (b + 1) == u.sget (b' + 1) && x.rows == y.rows && x.cols == y.cols && x.apart y then
      some (.pair x y oa oa' (c.opndAt b) z fold, true)
    else none
  | some (.mmtSolo h a b lr z), some .tskip => some (.mul (c.handle h) (c.opndA a b lr) (c.opndAt b) z, false)
  | _, _ => none

/-- A posted warp whose pair has matched (R250, R252). -/
def Warp.paired (w : Warp) : Warp := { w with wait := .none, pc := w.pc + 4, seq := w.seq + 1 }
/-- A posted warp whose pair does not match (R251). -/
def Warp.mispaired (w : Warp) : Warp := { w with wait := .none, pending := some ⟨cPairMismatch, 0, 0, 0, w.pc, 4, false, 0⟩ }

/-- A warp is posted. -/
def Warp.posted (w : Warp) : Bool := w.wait.post?.isSome && w.pending.isNone
/-- A warp is posted and has not matched: it waits at the twin rendezvous (R218, R314). -/
def Warp.rendezvous (w : Warp) : Bool :=
  match w.wait with
  | .twin _ => w.pending.isNone
  | _ => false
/-- A post that has matched waits for an entry of the table (R234). -/
def Warp.entering (w : Warp) : Warp := { w with wait := (w.wait.post?.map Wait.entry).getD w.wait }

/-- Two posted twins match and enter as one slip, once the table has room, or both trap `PAIR_MISMATCH` (R251, R252). While the table is full, the
pair waits by an ordering wait (R234). -/
def State.twinMatch (s : State) (w : Nat) : State :=
  match s.findWarp w with
  | none => s
  | some x =>
    match s.twinOf x with
    | none => s
    | some y =>
      if !(x.posted && y.posted && !x.evicted && !y.evicted) then s
      else
        let (c, u) := if x.ident.rank % 2 = 0 then (x, y) else (y, x)
        match matched c u with
        | none => (s.modPair c.id Warp.mispaired).modPair u.id Warp.mispaired
        | some (op, both) =>
          if s.slipRoom (s.clusterOf c) then
            ((s.addSlip (s.slipOf c op (if both then some u.id else none))).modPair c.id Warp.paired).modPair u.id Warp.paired
          else (s.modPair c.id Warp.entering).modPair u.id Warp.entering

/-- The word is posted: it completes with that of its twin where that is posted already, and waits for it elsewhere (R250). A `SHADOW` pair
posts, and TWIN_MATCH completes it. -/
def State.post (s : State) (i : Instr) (vals : List Nat) : State :=
  let t := (s.item 6 vals).waitOn (.twin i)
  if s.warp.isShadowed then t else t.twinMatch s.warp.id

/-- The items of a posted product. -/
def postVals (w : Warp) (h : Handle) (a b : SReg) (lr : Bool) : List Nat := h.vals ++ (w.opndA a b lr).vals ++ (w.opndAt b).vals

/-- `mmt` (R250 to R252). DEDUCED, log 46. -/
def execMmt (h : AReg) (a b : SReg) (lr fold z : Bool) (s : State) : Out :=
  .next (s.twinGate none fun s => s.withHandle h fun hd s => s.product hd a b lr fun s =>
    s.post (.mmt h a b lr fold z) (postVals s.warp hd a b lr))
/-- `mmt.solo` (R250 to R252). DEDUCED, log 46. -/
def execMmtSolo (h : AReg) (a b : SReg) (lr z : Bool) (s : State) : Out :=
  .next (s.twinGate (some 1) fun s => s.withHandle h fun hd s => s.product hd a b lr fun s =>
    s.post (.mmtSolo h a b lr z) (postVals s.warp hd a b lr))
/-- `tskip` (R250 to R252). -/
def execTskip (s : State) : Out := .next (s.twinGate (some 0) fun s => s.post .tskip [])

/-- TWIN_MATCH (R250 to R252): a posted pair completes that could not when the second of it was posted. -/
def execTwinMatch (w : Nat) (s : State) : Out := .next (s.twinMatch w)

/-! ## Accumulator words (R254 to R256) -/

/-- Binds a handle (R239). -/
def Warp.bind (h : AReg) (x : Handle) (w : Warp) : Warp := { w with acc := vset w.acc h.toNat (some x) }

/-- `acc.zero` (R254). -/
def execAccZero (h : AReg) (a : SReg) (s : State) : Out :=
  .next (s.matrixGate fun s =>
    let x := s.sget a
    s.checked [refuseMode 17 (handleBad x)] fun s => s.enterSlip (.zero (handleOf x)) (Warp.bind h (handleOf x)))

/-- `acc.ld` (R254). -/
def execAccLd (h : AReg) (a b : SReg) (s : State) : Out :=
  .next (s.matrixGate fun s =>
    let x := s.sget a
    let hd := handleOf x
    let o := s.warp.opndAt b
    s.checked
      [refuseMode 17 (handleBad x), refuseMode 18 (descRefused s.warp b), refuseMode 19 (decide (2 < o.ty ∨ o.k ≠ hd.cols)),
       o.misaligned, s.opndKind o 0 0 hd.rows] fun s =>
    s.enterSlip (.load hd o) (Warp.bind h hd))

/-- A word that drains a region to a C buffer; `types` refuses a TYPE and `also` adds to DETAIL 27. -/
def State.drain (s : State) (h : AReg) (b : SReg) (types also : Opnd → Bool) (op : Handle → Opnd → SlipOp) : State :=
  s.matrixGate fun s => s.withHandle h fun hd s =>
    let o := s.warp.opndAt b
    s.checked
      [refuseMode 18 (descRefused s.warp b), refuseMode 19 (types o || o.k != hd.cols),
       refuseMode 27 (o.buf != 2 || (tyMx o.ty && o.sbuf != 2) || also o),
       o.misaligned, s.opndKind o 0 0 hd.rows] fun s =>
    s.enterSlip (op hd o) id

/-- `acc.st` (R255). -/
def execAccSt (h : AReg) (b : SReg) (s : State) : Out := .next (s.drain h b (fun o => o.ty != 0) (fun _ => false) .store)
/-- `acc.cvt` (R255, R256). DEDUCED, log 42. -/
def execAccCvt (h : AReg) (b : SReg) (sat : Bool) (rm : RMode) (s : State) : Out :=
  .next (s.drain h b (fun o => decide (o.ty = 0 ∨ 9 ≤ o.ty)) (fun o => sat && o.ty != 3 && o.ty != 4) fun hd o => .convert hd o rm sat)

/-! ## What a slip reads -/

/-- The float format of a type's elements; MXINT8 has none. -/
def tyFmt (ty : Nat) : Fmt :=
  match ty with
  | 0 => .f32
  | 1 => .bf16
  | 2 => .f16
  | 4 => .e5m2
  | 6 => .e5m2
  | 8 => .e2m1
  | _ => .e4m3

/-- The value of an element's bits (R36, R37, R38). An MXINT8 zero has sign 0, and a product takes the sign of both factors. DEDUCED, log 110. -/
def tyVal (ty raw : Nat) : FVal :=
  if ty = 7 then
    let i := (BitVec.ofNat 8 raw).toInt
    .fin (decide (i < 0)) i.natAbs (-6)
  else fval (tyFmt ty) raw

/-- A value scaled by a block's E8M0 code (R39). -/
def FVal.scaled (code : Nat) (x : FVal) : FVal :=
  if code = 255 then .nan false false 0
  else
    match x with
    | .fin n m e => .fin n m (e + code - 127)
    | y => y

/-- The bits of an element at an offset of a memory; `odd` picks the upper half of a byte of an E2M1 pair (R240). -/
def rawAt (m : Mem) (ty off : Nat) (odd : Bool) : Nat :=
  let x := bytesToNat (m.read off ((tyHalves ty + 1) / 2))
  if ty = 8 then (if odd then x / 16 else x % 16) else x

/-- Element (r, k) of an operand and whether it or its scale is poisoned; `base` and `sbase` are the offsets of its first element and scale. -/
def Opnd.elem (o : Opnd) (m sm : Mem) (base sbase r k : Nat) : FVal × Bool :=
  match o.lanes with
  | some vs =>
    let at2 := k * tyHalves o.ty
    let x := (vget (vs.getD (at2 / 8) (Vector.replicate 64 0)) r 0).toNat
    (tyVal o.ty (x / 2 ^ (4 * (at2 % 8)) % 2 ^ (4 * tyHalves o.ty)), false)
  | none =>
    let off := o.off base r k
    let v := tyVal o.ty (rawAt m o.ty off (k % 2 == 1))
    let bad := m.poisoned off ((tyHalves o.ty + 1) / 2)
    if tyMx o.ty then
      let so := sbase + r * (o.k / 32) + k / 32
      (v.scaled (sm.byte so).toNat, bad || sm.poisoned so 1)
    else (v, bad)

/-- A row of values, and whether one of them is poisoned. -/
abbrev Row := List FVal × Bool

/-- Row r of an operand, shifted as a group's is. -/
def State.opndRow (s : State) (g : Nat) (o : Opnd) (shift sshift r : Nat) : Row :=
  let m := s.bufMem g ⟨o.crew, o.buf, 0⟩
  let sm := s.bufMem g ⟨o.screw, o.sbuf, 0⟩
  let xs := (List.range o.k).map (o.elem m sm (o.base + shift) (o.sbase + sshift) r)
  (xs.map (·.1), xs.any (·.2))
/-- The rows of an operand. -/
def State.opndRows (s : State) (g : Nat) (o : Opnd) (shift sshift rows : Nat) : List Row :=
  (List.range rows).map (s.opndRow g o shift sshift)

/-- Row j of the weights of a bank (R249). -/
def State.weightRowOf (s : State) (ty k start j : Nat) : Row :=
  let b := start + j * weightRow ty k
  let xs := (List.range k).map fun i =>
    let off := b + i * tyHalves ty / 2
    let so := b + k * tyHalves ty / 2 + i / 32
    ((tyVal ty (rawAt s.bankMem ty off (i % 2 == 1))).scaled (s.bankMem.byte so).toNat,
     s.bankMem.poisoned off 1 || s.bankMem.poisoned so 1)
  (xs.map (·.1), xs.any (·.2))

/-! ## What a slip writes -/

/-- Bytes that a slip writes to a typed buffer, poisoned or not. -/
structure SlipWrite where
  crew : Nat
  buf : Nat
  off : Nat
  bytes : List Byte
  bad : Bool
  deriving DecidableEq, Repr

/-- Performs a write: it poisons its granules, and never clears poison (R216, R267). DESIGN CHOICE, log 45. -/
def State.slipPut (s : State) (g : Nat) (x : SlipWrite) : State :=
  let a : BufAddr := ⟨x.crew, x.buf, x.off⟩
  let m := (s.bufMem g a).write x.off x.bytes
  s.setBufMem g a (if x.bad then m.taint x.off x.bytes.length else m)

/-- The offset of element (i, j) of a region (R239). -/
def Handle.at (h : Handle) (i j : Nat) : Nat := h.base + 4 * (i * h.cols + j)

/-- Element (i, j) of a region of a crew, and whether it is poisoned. -/
def State.accAt (s : State) (g crew : Nat) (h : Handle) (i j : Nat) : Nat × Bool :=
  let m := s.bufMem g ⟨crew, 2, 0⟩
  (bytesToNat (m.read (h.at i j) 4), m.poisoned (h.at i j) 4)

/-- An element of a region, written. -/
def Handle.write (h : Handle) (crew i j : Nat) (x : Nat × Bool) : SlipWrite := ⟨crew, 2, h.at i j, natToBytes 4 x.1, x.2⟩

/-- The indices of a region, row by row. -/
def gridOf (rows cols : Nat) : List (Nat × Nat) := (List.range rows).flatMap fun i => (List.range cols).map fun j => (i, j)

/-- One element of a product, over the K-blocks of 16 from one number up to another (R247, R267). -/
def prodElem (lo hi : Nat) (init : Nat × Bool) (a b : Row) : Nat × Bool :=
  (msum init.1 (((a.1.zip b.1).take (16 * hi)).drop (16 * lo)), init.2 || a.2 || b.2)

/-- The element that a product starts from: −0 with `.z` (R247); a slip that a context stop has held goes on from what stands there (R391). -/
def State.initOf (s : State) (x : Slip) (h : Handle) (z : Bool) (i j : Nat) : Nat × Bool :=
  if z ∧ x.blocks = 0 then (0x80000000, false) else s.accAt x.grid x.crew h i j

/-- The elements of the region after a product with rows of A and of B, up to a K-block; `first` is the number of the first row. -/
def State.products (s : State) (x : Slip) (upTo : Nat) (h : Handle) (z : Bool) (first : Nat) (ra rb : List Row) :
    List (Nat × Nat × Nat × Bool) :=
  (gridOf ra.length rb.length).map fun ij =>
    (first + ij.1, ij.2, prodElem x.blocks upTo (s.initOf x h z (first + ij.1) ij.2) (ra.getD ij.1 ([], false)) (rb.getD ij.2 ([], false)))

/-- The writes of a product. -/
def prodWrites (h : Handle) (crew : Nat) (es : List (Nat × Nat × Nat × Bool)) : List SlipWrite :=
  es.map fun e => h.write crew e.1 e.2.1 e.2.2

/-- The groups of an `mmg`, with the first row of each (R248). -/
def groupStarts : Nat → Nat → List Nat → List (Nat × Nat × Nat)
  | _, _, [] => []
  | g, row, n :: r => (g, row, n) :: groupStarts (g + 1) (row + n) r

/-! ### Conversion (R255, R256, R40) -/

/-- emax of R40. DEDUCED, log 41. -/
def mxEmax (ty : Nat) : Int := if ty = 5 then 8 else if ty = 6 then 15 else if ty = 8 then 2 else 0

/-- The power of two of a finite value. -/
def dyExp (x : FVal) : Option Int :=
  match x with
  | .fin _ m e => if m = 0 then none else some ((bitLen m : Int) - 1 + e)
  | _ => none

/-- The scale code of an MX block (R40). DEDUCED, log 41. -/
def mxScale (ty : Nat) (vs : List FVal) : Nat :=
  if vs.any (·.isNaN) then 255
  else
    match vs.filterMap dyExp with
    | [] => 127
    | e :: r => ((max (-127) (min 127 (r.foldl max e - mxEmax ty))) + 127).toNat

/-- An element of an MX block under its scale code (R40): its bits. An E2M1 zero has sign 0 in a block that is all zero, and in any other block
the sign of its value. DEDUCED, log 109. -/
def mxElem (ty : Nat) (mode : RMode) (draw scale : Nat) (zeros : Bool) (v : FVal) : Nat :=
  let f := tyFmt ty
  if scale = 255 then 0
  else if zeros then
    (match v with
      | .fin n _ _ => if ty = 7 ∨ ty = 8 then 0 else signBit f n
      | .inf n => if ty = 7 ∨ ty = 8 then 0 else signBit f n
      | _ => 0)
  else
    match v with
    | .nan _ _ _ => 0
    | .inf n => if ty = 7 then (if n then 0x81 else 0x7F) else maxBits f n
    | .fin n m e =>
      let e := e + 127 - scale
      if ty = 7 then
        let a := min 127 (roundInt mode draw n m (e + 6)).1
        if n then (256 - a) % 256 else a
      else if m = 0 then signBit f n
      else
        let r := roundTo f mode draw n m e
        if r.beyond then maxBits f n else packFin f n r.a r.q

/-- Every element of a block is zero, or none is finite and not zero. DEDUCED, log 41. -/
def mxZeros (vs : List FVal) : Bool := (vs.filterMap dyExp).isEmpty

/-- The draw of element (i, j) under STO (R256). -/
def Slip.drawAt (x : Slip) (seedLo seedHi : W64) (o : Opnd) (n i j : Nat) : Nat :=
  stoDraw seedLo seedHi x.crew x.rank 0 (BitVec.ofNat 64 (2 ^ 63 + 2 ^ 16 * o.addr + (i * n + j)))

/-- The writes of `acc.cvt` to a type that is not microscaled. -/
def State.convertPlain (s : State) (x : Slip) (h : Handle) (o : Opnd) (rm : RMode) (sat : Bool) : List SlipWrite :=
  let d := s.descOf x.grid
  (gridOf h.rows h.cols).map fun ij =>
    let v := s.accAt x.grid x.crew h ij.1 ij.2
    let raw := (cvtFF .f32 (tyFmt o.ty) rm (x.drawAt d.seedLo d.seedHi o h.cols ij.1 ij.2) sat v.1).1
    ⟨o.crew, o.buf, o.off o.base ij.1 ij.2, natToBytes (tyHalves o.ty / 2) raw, v.2⟩

/-- The writes of one block of `acc.cvt` to a microscaled type: its elements and its scale. -/
def State.convertBlock (s : State) (x : Slip) (h : Handle) (o : Opnd) (rm : RMode) (i b : Nat) : List SlipWrite :=
  let d := s.descOf x.grid
  let cs := (List.range 32).map fun j => s.accAt x.grid x.crew h i (32 * b + j)
  let vs := cs.map fun c => fval .f32 c.1
  let bad := cs.any (·.2)
  let scale := mxScale o.ty vs
  let el (j : Nat) := mxElem o.ty rm (x.drawAt d.seedLo d.seedHi o h.cols i (32 * b + j)) scale (mxZeros vs) (vs.getD j (.inf false))
  let elems := if o.ty = 8
    then (List.range 16).map fun j =>
      (⟨o.crew, o.buf, o.off o.base i (32 * b + 2 * j), natToBytes 1 (el (2 * j) + 16 * el (2 * j + 1)), bad⟩ : SlipWrite)
    else (List.range 32).map fun j => (⟨o.crew, o.buf, o.off o.base i (32 * b + j), natToBytes 1 (el j), bad⟩ : SlipWrite)
  elems ++ [⟨o.screw, o.sbuf, o.sbase + i * (h.cols / 32) + b, natToBytes 1 scale, bad⟩]

/-! ### The whole slip -/

/-- The elements of a guidance fold (R252, R59, R267). DEDUCED, log 14. -/
def folded (g : W32) (c u : List (Nat × Nat × Nat × Bool)) : List (Nat × Nat × Nat × Bool) :=
  (c.zip u).map fun p => (p.1.1, p.1.2.1, foldF32 p.2.2.2.1 p.1.2.2.1 g.toNat, p.1.2.2.2 || p.2.2.2.2)

/-- The K-blocks of a slip (R55): a slip that makes no product counts as one. -/
def SlipOp.blocks : SlipOp → Nat
  | .mul _ a _ _ => (a.k + 15) / 16
  | .group _ a _ _ _ _ _ => (a.k + 15) / 16
  | .weight _ a _ _ _ => (a.k + 15) / 16
  | .pair _ _ a _ _ _ _ => (a.k + 15) / 16
  | _ => 1

/-- Everything that a slip writes up to a K-block, in order, from the state as the slip finds it (R247 to R256): an operand, source or destination
whose bytes overlap what the slip writes is read whole before anything is written. DESIGN CHOICE, log 127. -/
def State.slipWrites (s : State) (x : Slip) (upTo : Nat) : List SlipWrite :=
  let g := x.grid
  match x.op with
  | .mul h a b z => prodWrites h x.crew (s.products x upTo h z 0 (s.opndRows g a 0 0 h.rows) (s.opndRows g b 0 0 h.cols))
  | .group h a b z pitch _ counts =>
    (groupStarts 0 0 counts).flatMap fun t =>
      if t.2.2 = 0 then []
      else
        let sh := groupShift h b pitch t.1
        prodWrites h x.crew (s.products x upTo h z t.2.1 ((List.range t.2.2).map fun i => s.opndRow g a 0 0 (t.2.1 + i))
          (s.opndRows g b sh.1 sh.2 h.cols))
  | .weight h a z bank off =>
    prodWrites h x.crew (s.products x upTo h z 0 (s.opndRows g a 0 0 h.rows)
      ((List.range h.cols).map (s.weightRowOf a.ty a.k (Config.bankBytes * bank + off))))
  | .pair hc hu ac au b z fold =>
    let rb := s.opndRows g b 0 0 hc.cols
    let c := s.products x upTo hc z 0 (s.opndRows g ac 0 0 hc.rows) rb
    let u := s.products x upTo hu z 0 (s.opndRows g au 0 0 hu.rows) rb
    prodWrites hu x.crew u ++ prodWrites hc x.crew (if fold ∧ upTo = x.op.blocks then folded hc.fold c u else c)
  | .zero h => (gridOf h.rows h.cols).map fun ij => h.write x.crew ij.1 ij.2 (0, false)
  | .load h o =>
    let m := s.bufMem g ⟨o.crew, o.buf, 0⟩
    (gridOf h.rows h.cols).map fun ij =>
      let off := o.off o.base ij.1 ij.2
      let raw := rawAt m o.ty off false
      h.write x.crew ij.1 ij.2
        (if o.ty = 0 then raw else (cvtFF (tyFmt o.ty) .f32 .rne 0 false raw).1, m.poisoned off (tyHalves o.ty / 2))
  | .store h o =>
    (gridOf h.rows h.cols).map fun ij =>
      let v := s.accAt g x.crew h ij.1 ij.2
      ⟨o.crew, o.buf, o.off o.base ij.1 ij.2, natToBytes 4 v.1, v.2⟩
  | .convert h o rm sat =>
    if tyMx o.ty then
      (List.range h.rows).flatMap fun i => (List.range (h.cols / 32)).flatMap fun b => s.convertBlock x h o rm i b
    else s.convertPlain x h o rm sat

/-- Whether a slip's arithmetic is checked by residues (R266). -/
def SlipOp.arithmetic : SlipOp → Bool
  | .mul .. => true
  | .group .. => true
  | .weight .. => true
  | .pair .. => true
  | _ => false

/-! ## Start and completion -/

/-- A slip whose predecessors of its own warp have completed (R236, R238). -/
def State.eligible (s : State) (x : Slip) : Bool :=
  !x.started && !x.held && !s.slips.any fun y => decide (y.order < x.order) && y.conflicts x

/-- The slip that the engine of a cluster starts next (R238): the highest priority, then the earliest entry. -/
def State.nextSlip (s : State) (cluster : Nat) : Option Slip :=
  let xs := s.slips.filter fun x => x.cluster == cluster && s.eligible x
  match xs.find? fun x => x.priority == 1 with
  | some x => some x
  | none => xs.head?

/-- Applies a function to the slip with an order number. -/
def State.modSlip (s : State) (n : Nat) (f : Slip → Slip) : State :=
  { s with slips := s.slips.map fun x => if x.order = n then f x else x }

/-- SLIP_START (R238): the engine of a cluster starts one slip at a time. -/
def execSlipStart (cluster : Nat) (s : State) : Out :=
  if s.slips.any fun x => x.cluster == cluster && x.started then .next s
  else
    match s.nextSlip cluster with
    | none => .next s
    | some x => .next (s.modSlip x.order fun y => { y with started := true })

/-- SLIP_AGING (R238): a slip that has waited 2,048 clk is treated as priority 1. -/
def execSlipAging (slip : Nat) (s : State) : Out := .next (s.modSlip slip fun y => { y with priority := 1 })

/-- The failing elements of a residue check (R266): a free choice, at least one. DESIGN CHOICE, log 39. -/
def residueBad (seed total n : Nat) : Bool :=
  n == (Config.freeWord seed).toNat % total || (Config.freeWord (seed + 1 + n / 64)).getLsbD (n % 64)

/-- A slip leaves the table. -/
def State.dropSlip (s : State) (n : Nat) : State := { s with slips := s.slips.filter fun x => x.order != n }

/-- A halt with SDC from a slip (R266): nothing where its warp has gone. -/
def State.slipHalt (s : State) (x : Slip) : State :=
  match s.findWarp x.warp with
  | some w => s.haltAt w cSdc 9 0 0 x.ticket
  | none => s

/-- A running slip that a context stop reaches finishes the K-block in progress, and completes where that is its last; how many it has done before
is left open (R390). DESIGN CHOICE, logs 45, 67. -/
def State.pauseSlip (s : State) (x : Slip) : State :=
  let left := x.op.blocks - x.blocks
  let n := x.blocks + 1 + (Config.freeWord s.fresh).toNat % max 1 left
  let t := (s.slipWrites x n).foldl (fun t w => t.slipPut x.grid { w with bad := w.bad || x.failed }) { s with fresh := s.fresh + 1 }
  if n < x.op.blocks then t.modSlip x.order fun y => { y with blocks := n, started := false, held := true }
  else
    let t := t.dropSlip x.order
    if x.failed then t.lateError x.ticket cPoison 1 0 0 else t

/-- SLIP_COMPLETE (R235, R266, R267, R278): every byte is written, and the slip leaves the table. DESIGN CHOICE, logs 39, 45. -/
def execSlipComplete (slip : Nat) (residueFails : Bool) (s : State) : Out :=
  match s.slips.find? fun x => x.order == slip && x.started && !x.held with
  | none => .next s
  | some x =>
    let ws := s.slipWrites x x.op.blocks
    let ws := if x.failed then ws.map fun w => { w with bad := true } else ws
    let t := s.dropSlip slip
    let t := if x.failed then t.lateError x.ticket cPoison 1 0 0 else t
    if residueFails && x.op.arithmetic then
      let t := { t with fresh := t.fresh + 2 + ws.length / 64 }
      let bad (n : Nat) : Bool := residueBad s.fresh ws.length n
      if x.shadow then
        let good := ws.take ((List.range ws.length).find? bad |>.getD ws.length)
        .next ((good.foldl (fun t w => t.slipPut x.grid w) t).slipHalt x)
      else
        let ws := (ws.zip (List.range ws.length)).map fun p => { p.1 with bad := p.1.bad || bad p.2 }
        .next ((ws.foldl (fun t w => t.slipPut x.grid w) t).lateError x.ticket cSdc 9 0 0)
    else .next (ws.foldl (fun t w => t.slipPut x.grid w) t)

end Sys2Proof.Machine
end

