-- ==== Sys2Proof/Machine/Links.lean ====
section
/-! DEFINITION. The neighbour links (R258 to R262): `nn.push`, `nn.pull`, and the completion and loss of their transfers. -/

namespace Sys2Proof.Machine

/-! ## Directions (R258) -/

/-- The number of a direction in the counters and catalogues. -/
def dirNo (d : Dir) : Nat := d.code.toNat

/-- The physical link that a direction of a team's cluster names, if its catalogue entry is valid. -/
def State.plinkOf (s : State) (p : Nat) (t : Team) (d : Dir) : Option Nat :=
  match t.shelf with
  | none => none
  | some c =>
    let e := Tab.get (s.part p).links (4 * c + dirNo d) 0
    if e.getLsbD 2 then some (field e 0 2) else none

/-- A link is present and repaired: neither of its ends is lost. -/
def State.linkUp (s : State) (cluster plink : Nat) : Bool :=
  !s.lostLinks.contains (cluster, plink) && !s.lostLinks.contains (Config.linkFar cluster plink)

/-- The team of a grid with the lowest number among those that have a crew on a core of a cluster (R258). -/
def State.teamIn (s : State) (g cluster : Nat) : Option Team :=
  (s.teams.filter fun t => t.grid == g && t.cluster == some cluster && s.crews.any fun c => c.grid == g && c.team == t.num && c.core.isSome).foldl
    (fun b t => match b with
      | none => some t
      | some x => if t.num < x.num then some t else b) none

/-- A usable direction of the current warp's team: the team, its cluster and link, and the neighbour team. -/
structure Way where
  team : Team
  cluster : Nat
  plink : Nat
  far : Team
  deriving DecidableEq, Repr

/-- The way that a direction gives, where it is usable. -/
def State.way (s : State) (d : Dir) : Option Way :=
  let w := s.warp
  match s.team? w.ident.grid w.ident.team with
  | none => none
  | some t =>
    match t.cluster, s.plinkOf w.ident.part t d with
    | some c, some l =>
      if s.linkUp c l then (s.teamIn w.ident.grid (Config.linkFar c l).1).map fun f => ⟨t, c, l, f⟩ else none
    | _, _ => none

/-- The direction of a team that leads back over a link: the one whose entry names the link's far end, or else the opposite one. DEDUCED, log 48. -/
def State.dirBack (s : State) (p : Nat) (far : Team) (cluster plink : Nat) (d : Dir) : Dir :=
  let back := (Config.linkFar cluster plink).2
  ([Dir.n, .e, .s, .w].find? fun x => s.plinkOf p far x == some back).getD
    (match d with
      | .n => .s
      | .e => .w
      | .s => .n
      | .w => .e)

/-! ## The words (R260, R261) -/

/-- The crew of the neighbour team on a core rank, while it stands on a core. -/
def State.farCrew (s : State) (far : Team) (crews rank : Nat) : Option Nat :=
  let n := far.num * crews + rank
  if rank < crews then
    match s.crew? far.grid n with
    | some c => if c.core.isSome then some n else none
    | none => none
  else none

/-- An `nn.push` or `nn.pull` that has passed its checks starts, once the link has room (R261). DEDUCED, log 117. -/
def State.startTransfer (s : State) (d : SReg) (dir : Dir) (push : Bool) (y : Way) (len own far farCrew : Nat) : State :=
  let w := s.warp
  let t := vget y.team.started (dirNo dir) 0 + 1
  if Config.linkDepth ≤ (s.transfers.filter fun x => x.cluster == y.cluster && x.plink == y.plink).length then s.waitOn .order
  else
    let (n, s) := s.viaLvq t
    let ownCrew := w.ident.team * w.ident.crews + bitsOf own 19 2
    let x : Transfer :=
      { grid := w.ident.grid, team := w.ident.team, dir := dir, n := t, push := push,
        srcCrew := if push then ownCrew else farCrew, srcBuf := if push then bitsOf own 21 2 else bitsOf far 21 2,
        srcOff := if push then own % 2 ^ 19 else far % 2 ^ 19,
        dstTeam := if push then y.far.num else w.ident.team, dstCrew := if push then farCrew else ownCrew,
        dstBuf := if push then bitsOf far 21 2 else bitsOf own 21 2, dstOff := if push then far % 2 ^ 19 else own % 2 ^ 19,
        len := len, cluster := y.cluster, plink := y.plink, ticket := w.ticket }
    let s := if s.shadowRun then s else
      { s with transfers := s.transfers ++ [x] }.modTeam w.ident.grid w.ident.team fun z => { z with started := vset z.started (dirNo dir) t }
    (s.sset d (BitVec.ofNat 64 n)).adv 4

/-- `nn.push` and `nn.pull` (R245, R260, R261); it waits for the warp's slips that touch the bytes it moves (R236). It is no slip: it takes a place
on its link and none in the reservation table. DEDUCED, log 117. -/
def State.linkWord (s : State) (d a b : SReg) (dir : Dir) (push : Bool) : State :=
  s.matrixGate fun s =>
    let x := s.sget a
    let y := s.sget b
    let len := field x 32 20
    let src := field x 0 32
    let dst := field y 0 32
    let own := if push then src else dst
    let far := if push then dst else src
    let w := s.warp
    let farCrew := (s.way dir).bind fun z => s.farCrew z.far w.ident.crews (bitsOf far 19 2)
    let c := w.ident.team * w.ident.crews + bitsOf own 19 2
    let bad := (s.way dir).isNone || decide (len < 64 ∨ 524288 < len ∨ len % 64 ≠ 0) ||
      !(bitsOf src 21 2 == 1 || bitsOf src 21 2 == 2) || bitsOf dst 21 2 != 1 || field x 52 12 != 0 || field y 32 32 != 0 ||
      bitsOf far 23 9 != 0 || farCrew.isNone || decide (2 ^ 19 < far % 2 ^ 19 + len)
    s.checked
      [refuseMode 26 bad,
       if src % 64 ≠ 0 ∨ dst % 64 ≠ 0 then some (cAlign, 0) else none,
       s.rangeKind own (own % 2 ^ 19 + len)] fun s =>
    let s := s.item 6 [x.toNat, y.toNat, dirNo dir]
    if s.slips.any fun z => z.ofWarp w.id && z.marks.any (·.meets ⟨c, bitsOf own 21 2, own % 2 ^ 19, own % 2 ^ 19 + len, !push⟩) then
      s.waitOn .order
    else
      match s.way dir with
      | some z => s.startTransfer d dir push z len own far (farCrew.getD 0)
      | none => s

/-- `nn.push` (R260, R261). -/
def execNnPush (d a b : SReg) (dir : Dir) (s : State) : Out := .next (s.linkWord d a b dir true)
/-- `nn.pull` (R260, R261). -/
def execNnPull (d a b : SReg) (dir : Dir) (s : State) : Out := .next (s.linkWord d a b dir false)

/-! ## Completion and loss (R261, R262) -/

/-- Copies bytes of a typed buffer with their poison; what is poisoned already stays so (R216). Every byte of the transfer is read and written in
this one turn (R261). DESIGN CHOICE, log 127. -/
def State.linkCopy (s : State) (x : Transfer) : State :=
  let m := s.bufMem x.grid ⟨x.srcCrew, x.srcBuf, 0⟩
  let a : BufAddr := ⟨x.dstCrew, x.dstBuf, 0⟩
  let d := (s.bufMem x.grid a).write x.dstOff (m.read x.srcOff x.len)
  let bad := (List.range (x.len / 8)).filter fun i => m.poisoned (x.srcOff + 8 * i) 8
  s.setBufMem x.grid a (bad.foldl (fun d i => d.taint (x.dstOff + 8 * i) 8) d)

/-- The counters that a transfer advances when it completes (R259, R261). -/
def State.linkCount (s : State) (x : Transfer) : State :=
  let s := s.modTeam x.grid x.team fun t => { t with out := vset t.out (dirNo x.dir) x.n }
  if x.push then
    match s.team? x.grid x.dstTeam, s.grid? x.grid with
    | some f, some g =>
      let back := dirNo (s.dirBack g.part f x.cluster x.plink x.dir)
      s.modTeam x.grid x.dstTeam fun t => { t with inn := vset t.inn back (vget t.inn back 0 + 1) }
    | _, _ => s
  else s

/-- A transfer leaves the link. -/
def State.dropTransfer (s : State) (x : Transfer) : State := { s with transfers := s.transfers.filter fun y => y != x }

/-- LINK_TRANSFER_COMPLETE (R261): the oldest transfer that a team started on a direction completes. -/
def execLinkTransferComplete (team : TeamRef) (dir : Dir) (s : State) : Out :=
  match s.transfers.find? fun x => x.grid == team.grid && x.team == team.num && x.dir == dir with
  | none => .next s
  | some x => .next (((s.dropTransfer x).linkCopy x).linkCount x)

/-- A transfer of a lost link completes with its destination granules poisoned, and is reported (R262). -/
def State.linkFail (s : State) (x : Transfer) : State :=
  let a : BufAddr := ⟨x.dstCrew, x.dstBuf, 0⟩
  let s := (s.dropTransfer x).setBufMem x.grid a ((s.bufMem x.grid a).taint x.dstOff x.len)
  (s.linkCount x).lateError x.ticket cPoison 1 0 0

/-- Every transfer over a link, from either of its ends, fails. -/
def State.linkEnd (s : State) (cluster plink : Nat) : State :=
  (s.transfers.filter fun x => (x.cluster, x.plink) == (cluster, plink) || Config.linkFar x.cluster x.plink == (cluster, plink)).foldl
    State.linkFail s

/-- LINK_LOST (R262). -/
def execLinkLost (die pcl plink : Nat) (s : State) : Out :=
  let c := die * 17 + pcl
  .next ({ s with lostLinks := (c, plink) :: s.lostLinks }.linkEnd c plink)

end Sys2Proof.Machine
end

