-- ==== Sys2Proof/Machine/Sync.lean ====
section
/-! DEFINITION. The synchronisation group (R295 to R322): fences, barriers, timelines, quanta of `DET` launches, seals, speculative tasks; and
`regroup` (R201, R202). -/

namespace Sys2Proof.Machine

/-! ## Shared checks and ends -/

/-- Check 5 of R296 for every word but `fence`: `SPLIT_ACTIVE` while forked, then DETAIL 34 inside a task where the word is refused there. -/
def State.syncGate (s : State) (refusedInTask : Bool) (k : State → State) : State :=
  s.unforked 4 fun s => s.modeIf (refusedInTask && s.warp.task.isSome) 34 k

/-- The word is complete: its result goes to a register, and what it ended is behind it. -/
def State.syncDone (s : State) (d : SReg) (x : W64) : State :=
  let (y, s) := s.viaLvq x.toNat
  ((s.sset d (BitVec.ofNat 64 y)).upd fun w => { w with qdone := false }).adv 4

/-- In a `DET` launch the word first ends its quantum and waits for the commit (R312). -/
def State.afterQuantum (s : State) (k : State → State) : State :=
  if s.warp.det && !s.warp.qdone then (s.upd fun w => { w with qdone := true }).quantumEnd else k s

/-- A release at a scope, or an ordering wait until it may be made (R236, R427). -/
def State.releasing (s : State) (sc : Scope) (k : State → State) : State := if s.releaseReady sc then k s else s.waitOn .order

/-! ## fence (R297) -/

/-- Every load of the current warp has returned its value. -/
def State.loadsDone (s : State) : Bool := !s.warp.remote.any fun r => decide (r.lane < 64)

/-- `fence` (R297): it waits for the warp's lane words and slips, for the values of its loads and, at domain and sys scope, for remote
acknowledgements; a wide one invalidates the cluster data cache. -/
def execFence (sc : Scope) (s : State) : Out :=
  .next (let s := s.item 6 []
    if s.loadsDone then s.releasing sc fun s => (s.acquire sc).adv 4 else s.waitOn .order)

/-! ## Barriers (R298 to R303) -/

/-- The scope of a barrier object. -/
def Bar.scopeOf (b : Bar) : Scope := if b.scope = 1 then .crew else if b.scope = 2 then .team else .grid

/-- A barrier object of a partition. -/
def State.bar (s : State) (p n : Nat) : Bar := Tab.get (s.part p).bars n .blank
/-- Writes a barrier object. -/
def State.setBar (s : State) (p n : Nat) (b : Bar) : State := s.modPart p fun x => { x with bars := Tab.set x.bars n b }

/-- A phase token (R299). -/
def Bar.token (b : Bar) (phase : W32) (n : Nat) : W64 := b.gen ++ (phase ++ (0#10 ++ BitVec.ofNat 14 n))

/-- `bar.init` (R300). -/
def execBarInit (a b : SReg) (s : State) : Out :=
  .next (s.syncGate true fun s =>
    let n := (s.sget a).toNat
    let cf := s.sget b
    let p := s.warp.ident.part
    s.modeIf (decide ((s.part p).cfg.barq ≤ n)) 32 fun s =>
    s.modeIf (field cf 0 16 == 0 || field cf 16 3 == 0 || decide (3 < field cf 16 3) || field cf 19 45 != 0) 33 fun s =>
    let o := s.bar p n
    let c := field cf 0 16
    ((s.item 6 [n, cf.toNat]).setBar p n
      { gen := o.gen + 1, phase := 0, count0 := c, count1 := c, count := c, scope := field cf 16 3, abandoned := false, arr0 := [], arr1 := [],
        members := [] }).adv 4)

/-- Leaves every phase whose arrivals equal its COUNT (R301). -/
def Bar.advance : Nat → Bar → Bar
  | 0, b => b
  | k + 1, b =>
    if b.count0 ≠ 0 ∧ b.arr0.length = b.count0 then
      Bar.advance k { b with phase := b.phase + 1, arr0 := b.arr1, arr1 := [], count0 := b.count1, count1 := b.count }
    else b

/-- The warp has arrived in both phases that count arrivals. -/
def Bar.full (b : Bar) (w : Nat) : Bool := b.arr0.contains w && b.arr1.contains w

/-- An arrival that counts (R301): the object and the phase of the arrival. DEDUCED, log 43. -/
def Bar.arrive (b : Bar) (w : Nat) (drop : Bool) : Bar × W32 :=
  let second := b.arr0.contains w
  let p := if second then b.phase + 1 else b.phase
  let b := if second then { b with arr1 := w :: b.arr1 } else { b with arr0 := w :: b.arr0 }
  let b := { b with members := if drop then b.members.filter (· != w) else if b.members.contains w then b.members else w :: b.members }
  let b := if drop then { b with count1 := if second then b.count1 else b.count1 - 1, count := b.count - 1 } else b
  (b.advance 3, p)

/-- `arv` once its release is made (R301): the token, or none while the warp has arrived in both phases. -/
def State.arrive (s : State) (p n w : Nat) (drop : Bool) : Option (W64 × State) :=
  let b := s.bar p n
  if b.abandoned then some (b.token b.phase n, s)
  else if b.full w then none
  else
    let r := b.arrive w drop
    some (b.token r.2 n, s.setBar p n r.1)

/-- `arv` (R301); in a `DET` launch it ends the quantum and is performed at the commit (R312). DEDUCED, log 43. -/
def execArv (d a : SReg) (drop : Bool) (s : State) : Out :=
  .next (s.syncGate true fun s =>
    let n := (s.sget a).toNat
    let w := s.warp
    let p := w.ident.part
    s.modeIf (decide ((s.part p).cfg.barq ≤ n)) 32 fun s =>
    s.modeIf ((s.bar p n).count == 0) 33 fun s =>
    let s := s.item 6 [n, drop.toNat]
    if w.det then ((s.upd fun w => { w with carrel := w.carrel ++ [.arv n drop d] }).adv 4).quantumEnd
    else
      s.releasing (s.bar p n).scopeOf fun s =>
        match s.arrive p n w.id drop with
        | some (t, s) => s.syncDone d t
        | none => s.waitOn .order)

/-- A phase is left (R298). -/
def Bar.left (b : Bar) (p : W32) : Bool := decide (1 ≤ (b.phase - p).toNat ∧ (b.phase - p).toNat ≤ 2 ^ 31)

/-- `wait` (R302). -/
def execWait (d a : SReg) (test : Bool) (s : State) : Out :=
  .next (s.syncGate true fun s =>
    let t := s.sget a
    let n := field t 0 14
    let part := s.warp.ident.part
    s.modeIf (decide ((s.part part).cfg.barq ≤ n)) 32 fun s =>
    s.modeIf (field t 14 10 != 0) 35 fun s =>
    (s.item 6 [t.toNat, test.toNat]).afterQuantum fun s =>
      let b := s.bar part n
      let p : W32 := t.extractLsb' 24 32
      if t.extractLsb' 56 8 ≠ b.gen ∨ b.abandoned then s.syncDone d 0x29
      else if 2 ^ 31 + 1 ≤ (b.phase - p).toNat ∧ (b.phase - p).toNat ≤ 2 ^ 32 - 2 then s.trapScalar cMode 35 4
      else if b.left p then (s.acquire b.scopeOf).syncDone d 0
      else if test then s.syncDone d 1
      else s.waitOn (.barrier d t))

/-! ## Timelines (R304 to R306) -/

/-- The counters that a context word names for the current warp: S where it is defined, and T. -/
def State.timeline (s : State) (c : W64) : Option (Option Nat × Nat) :=
  let w := s.warp
  let n := field c 0 12
  let t := s.team? w.ident.grid w.ident.team
  if field c 12 48 ≠ 0 then none
  else
    match field c 60 4 with
    | 0 =>
      if n < (s.part w.ident.part).cfg.ectx then
        let x := Tab.get (s.part w.ident.part).ctxs n .blank
        some (some x.s, x.t)
      else none
    | 1 => if n < 4 then t.map fun t => (some (vget t.started n 0), vget t.out n 0) else none
    | 2 => if n < 4 then t.map fun t => (none, vget t.inn n 0) else none
    | _ => none

/-- `tlw` (R305). -/
def execTlw (d a b : SReg) (s : State) : Out :=
  .next (s.syncGate false fun s =>
    let n := (s.sget b).toNat
    match s.timeline (s.sget a) with
    | none => s.trapScalar cMode 36 4
    | some (acc, t) =>
      s.modeIf (acc.any fun k => decide (k < n)) 37 fun s =>
      (s.item 6 [(s.sget a).toNat, n]).afterQuantum fun s =>
        if n ≤ t then (s.acquire .sys).syncDone d (BitVec.ofNat 64 (if s.warp.det then n else t))
        else s.waitOn (if acc.isSome then .order else .link (s.sget a) n))

/-- `tlr` (R306). -/
def execTlr (d a : SReg) (acq : Bool) (s : State) : Out :=
  .next (s.syncGate false fun s =>
    match s.timeline (s.sget a) with
    | none => s.trapScalar cMode 36 4
    | some (_, t) => ((s.item 6 [(s.sget a).toNat]).acquire (if acq then .sys else .warp)).syncDone d (BitVec.ofNat 64 t))

/-! ## Quanta (R312, R315) -/

/-- `qend` (R315). -/
def execQend (s : State) : Out :=
  .next (s.syncGate false fun s => if s.warp.det then (s.adv 4).quantumEnd else s.adv 4)

/-! ## Seals (R308 to R310) -/

/-- What the pages of a range are, or the first that refuses the word. -/
inductive Pages where
  | ok (ps : List Trans)
  | miss (walk va : Nat)
  | cause (code : Byte) (detail va : Nat)
  deriving DecidableEq, Repr

/-- The checks of R308 for the pages from `a` up to the end of the range; a walk sets A in every leaf that it finds (R334). DEDUCED, log 23. -/
def State.sealPages (p va hi : Nat) : Nat → Nat → List Trans → State → Pages × State
  | 0, _, ps, s => (.ok ps, s)
  | k + 1, a, ps, s =>
    if hi ≤ a then (.ok ps, s)
    else
      match s.lookUp p a with
      | (.miss w _, s) => (.miss w a, s)
      | (.noncanon, s) => (.cause cProt 1 a, s)
      | (.ok t, s) =>
        let base := a - a % t.page
        if !pteW t.entry then (.cause cProt 1 a, s)
        else if base < va ∨ hi < base + t.page then (.cause cMode 38 0, s)
        else if t.place ≠ .device then (.cause cMode 39 0, s)
        else State.sealPages p va hi k (base + t.page) (ps ++ [t]) s

/-- Sets or clears SEALED in every leaf of a page whose first leaf is named (R332, R333). -/
def State.sealLeaf (s : State) (t : Trans) (on : Bool) : State :=
  let n := t.page / 2 ^ (12 + 9 * pageLevel (pteSize t.entry))
  (List.range n).foldl (fun s i =>
    let a := t.leaf + 8 * i + 7
    s.devSetByte a (if on then s.devByte a ||| 2 else s.devByte a &&& ~~~2#8)) s

/-- Marks the pages and invalidates every cached copy of their lines (R308, R309). DEDUCED, log 23. -/
def State.sealMark (s : State) (ps : List Trans) (on : Bool) : State :=
  ps.foldl (fun s t => (s.sealLeaf t on).cdcPurge .device t.pa t.page) s

/-- `seal` and `unseal` (R308, R309); in a `DET` launch they end the quantum and are performed at the commit. -/
def State.sealWord (s : State) (a b : SReg) (on : Bool) : State :=
  s.syncGate true fun s =>
    let va := (s.sget a).toNat
    let len := (s.sget b).toNat
    let w := s.warp
    if va % 4096 ≠ 0 ∨ len % 4096 ≠ 0 then s.trapScalar cAlign 0 4
    else
      s.modeIf (decide (len = 0 ∨ 2 ^ 30 < len)) 38 fun s =>
      match State.sealPages w.ident.part va (va + len) (len / 4096 + 1) va [] s with
      | (.miss k x, s) => s.park accWrite k 0 x 0 4
      | (.cause c d x, s) => s.trapAccess c d 4 x
      | (.ok ps, s) =>
        let s := s.item 6 [va, len]
        if w.det then ((s.upd fun w => { w with carrel := w.carrel ++ [.mark on va len] }).adv 4).quantumEnd
        else s.releasing .grid fun s => (s.sealMark ps on).adv 4

/-- `seal` (R308). -/
def execSeal (a b : SReg) (s : State) : Out := .next (s.sealWord a b true)
/-- `unseal` (R309). -/
def execUnseal (a b : SReg) (s : State) : Out := .next (s.sealWord a b false)

/-! ## Performing carrel entries (R313, R320) -/

/-- An entry of the current warp's carrel is performed; none where an `arv` must still wait (R301). DEDUCED, log 43. A `seal` or `unseal` whose range
no longer passes the checks of R308 then changes nothing and traps nothing. DESIGN CHOICE, log 129. -/
def State.performEntry (s : State) (e : CarrelEnt) : Option State :=
  let w := s.warp
  let p := w.ident.part
  match e with
  | .store q pa bs t lanes va => some (s.performStore q pa bs t lanes va)
  | .atomic q pa op ty y z ret t lanes va => some (s.performAtomic q pa op ty y z ret t lanes va)
  | .arv n drop d =>
    if (s.bar p n).count = 0 then
      some (s.modPair w.id fun x => { x with pending := some ⟨cMode, 33, 0, 0, x.pc - 4, 4, false, 0⟩ })
    else (s.arrive p n w.id drop).map fun r => r.2.modPair w.id fun x => x.sset d r.1
  | .mark on va len =>
    match State.sealPages p va (va + len) (len / 4096 + 1) va [] s with
    | (.ok ps, s) => some (s.sealMark ps on)
    | (_, s) => some s

/-- The current warp's carrel is performed in program order; an entry that must wait stays, with those after it. A warp that halts on the way
leaves the rest undone. -/
def State.performAll (s : State) : List CarrelEnt → State
  | [] => s.modPair s.warp.id fun w => { w with carrel := [] }
  | e :: r =>
    match s.performEntry e with
    | some t => if s.warp.alive && !t.warp.alive then t else t.performAll r
    | none => s.modPair s.warp.id fun w => { w with carrel := e :: r }

/-! ## The commit of a quantum (R313, R314) -/

/-- The warp waits at a barrier phase that has not been left (R298, R302): once it has been, the wait is over, whenever the warp takes its turn. -/
def State.atBarrier (s : State) (w : Warp) : Bool :=
  match w.wait with
  | .barrier _ t =>
    let b := s.bar w.ident.part (field t 0 14)
    t.extractLsb' 56 8 == b.gen && !b.abandoned && !b.left (t.extractLsb' 24 32)
  | _ => false

/-- The warp counts as having ended its quantum (R314): it has, or it waits at a barrier or at its twin rendezvous. -/
def State.ended? (s : State) (w : Warp) : Bool := w.ended || s.atBarrier w || w.rendezvous

/-- What an exited warp left behind (R118). -/
def State.leavings (s : State) (g : Nat) : List Warp := s.others.filter fun w => !w.alive && w.ident.grid == g && w.wait == .commit

/-- Warps in ascending `WARP_ID`.GLOBAL. -/
def insertGlobal (w : Warp) : List Warp → List Warp
  | [] => [w]
  | x :: r => if w.ident.global ≤ x.ident.global then w :: x :: r else x :: insertGlobal w r
def byGlobal (l : List Warp) : List Warp := l.foldr insertGlobal []

/-- The warp resumes in the next quantum; it still waits while an `arv` of it does. -/
def Warp.committed (w : Warp) : Warp :=
  let next (x : Wait) : Wait := if x = .commit then .none else x
  if w.wait = .commit ∧ w.carrel ≠ [] then w
  else { w with
    quantum := w.quantum + 1
    issued := 0
    qlenNow := w.qlen.toNat
    wait := next w.wait
    fork := w.fork.map fun (f : Fork) => { f with other := { f.other with wait := next f.other.wait } } }

/-- Performs the carrel of the warp with a number; at a twin rendezvous, which ends no quantum (R314), it is performed as it stands.
DESIGN CHOICE, log 129. -/
def State.commitWarp (s : State) (id : Nat) : State :=
  let s := s.focus id
  if s.warp.id = id then s.performAll s.warp.carrel else s

/-- The shadow of a warp has executed every word that the warp has. -/
def State.caughtUp (s : State) (w : Warp) : Bool := (Tab.get s.pairs w.id []).isEmpty

/-- Every cluster that holds a team of a grid. -/
def State.clustersOf (s : State) (g : Nat) : List Nat := (s.teams.filter fun t => t.grid == g).filterMap (·.cluster)

/-- QUANTUM_COMMIT (R313, R314): once every live warp of the launch has ended its quantum. -/
def execQuantumCommit (g : Nat) (s : State) : Out :=
  let s := if s.warp.alive then s else { s with warp := .blank }
  let live := s.gridWarps g
  let dead := s.leavings g
  if (s.descOf g).det && live.all s.ended? && live.all s.caughtUp && (live.any Warp.ended || !dead.isEmpty) && !s.slips.any fun x => x.grid == g then
    let ids := (byGlobal (dead ++ live)).map (·.id)
    let t := ids.foldl State.commitWarp s
    let t := ids.foldl State.commitWarp t
    let t := { t with others := t.others.filter fun w => w.alive || w.ident.grid != g }
    let t := (live.map (·.id)).foldl (fun t id => t.modPair id Warp.committed) t
    let t := (t.clustersOf g).foldl State.acquireCluster t
    .next (t.modGrid g fun x => { x with commits := x.commits + 1 })
  else .next s

/-- QLEN_QUANTUM_END (R312): the lane word that brought the lane issues to QLEN ended the quantum. -/
def execQlenQuantumEnd (w : Nat) (s : State) : Out :=
  match s.findWarp w with
  | some x =>
    if x.quantumFull && s.caughtUp x && !x.ended && (x.wait == .none || x.wait == .order) then .next (s.modPair w fun y => { y with wait := .commit })
    else .next s
  | none => .next s

/-! ## Speculative tasks (R317 to R321) -/

/-- The lane registers that a save mask names: v(4j) to v(4j + 3) for each set bit j. -/
def saveRegs (k : W64) : List Nat := ((List.range 64).filter fun j => k.getLsbD j).flatMap fun j => (List.range 4).map fun i => 4 * j + i

/-- Opens a task, saving s1 to s15, AM and lane registers (R317). -/
def Warp.openTask (w : Warp) (regs : List Nat) : Warp :=
  let t : Task :=
    { s := (List.range 15).map fun i => w.sget (BitVec.ofNat 6 (i + 1)), am := w.am,
      regs := regs.map fun r => (r, vget w.v r (Vector.replicate 64 0)), carrel := [], readSet := [], doomed := false }
  { w with task := some t }

/-- `tspec` (R317). -/
def execTspec (a : SReg) (s : State) : Out :=
  .next (s.syncGate false fun s =>
    let regs := saveRegs (s.sget a)
    s.modeIf s.warp.det 42 fun s =>
    s.modeIf s.warp.task.isSome 41 fun s =>
    s.modeIf (regs.any fun r => decide (s.warp.regs ≤ r)) 40 fun s =>
    (s.item 6 [(s.sget a).toNat]).upd (·.openTask regs) |>.adv 4)

/-- A task is discarded: its carrel goes, and what `tspec` saved is restored (R320, R321). -/
def Warp.undo (w : Warp) (t : Task) : Warp :=
  let w := ((t.s.zip (List.range 15)).foldl (fun (w : Warp) p => w.sset (BitVec.ofNat 6 (p.2 + 1)) p.1) w).setAm t.am
  { w with v := t.regs.foldl (fun v r => vset v r.1 r.2) w.v, task := none }

/-- An entry of a carrel that writes a page sealed since (R310): its address. -/
def State.sealedEntry (s : State) (e : CarrelEnt) : Option Nat :=
  match e with
  | .store _ _ _ _ _ va => if s.sealedAt va then some va else none
  | .atomic _ _ _ _ _ _ _ _ _ va => if s.sealedAt va then some va else none
  | _ => none

/-- The carrel of a task is performed in one step; its late errors are those of R195. -/
def State.performTask (s : State) (es : List CarrelEnt) : State := es.foldl (fun s e => (s.performEntry e).getD s) s

/-- `tcommit` (R320); a shadow takes its leading warp's outcome (R296). A task that has stored to a page sealed since commits nothing and traps `SEALED_STORE` (R310). DESIGN CHOICE, log 108. -/
def execTcommit (disp : BitVec 22) (s : State) : Out :=
  .next (s.syncGate false fun s =>
    s.modeIf s.warp.det 42 fun s =>
    match s.warp.task with
    | none => s.trapScalar cMode 43 4
    | some t =>
      let (doomed, s) := (s.item 6 []).viaLvq t.doomed.toNat
      if doomed ≠ 0 then (s.upd (·.undo t)).jump (s.target disp)
      else
        match t.carrel.findSome? s.sealedEntry with
        | some va => s.trapAccess cSealedStore 0 4 va
        | none => s.releasing .grid fun s => (((s.upd fun w => { w with task := none }).performTask t.carrel).acquire .grid).adv 4)

/-- `tabort` (R321). -/
def execTabort (s : State) : Out :=
  .next (s.syncGate false fun s =>
    s.modeIf s.warp.det 42 fun s =>
    match s.warp.task with
    | none => s.trapScalar cMode 43 4
    | some t => ((s.item 6 []).upd (·.undo t)).adv 4)

/-! ## regroup (R201, R202) -/

/-- The lanes that a warp of the pair becomes: each with its old warp (false for f) and old lane. -/
def regroupLanes (sf sg : Mask) : List (Bool × Nat) :=
  ((List.range 64).filter fun l => sf.getLsbD l).map (false, ·) ++ ((List.range 64).filter fun l => sg.getLsbD l).map (true, ·)

/-- The part of lane i of the lower-ranked warp that `of` reads, or the default where no lane moves there. -/
def pickLane {α : Type} (f g : Warp) (ls : List (Bool × Nat)) (of : Warp → Nat → α) (d : α) (i : Nat) : α :=
  match ls[i]? with
  | some (true, l) => of g l
  | some (false, l) => of f l
  | none => d

/-- The lower-ranked warp after a `regroup` that moves lanes. -/
def Warp.join (f g : Warp) (sf sg : Mask) : Warp :=
  let ls := regroupLanes sf sg
  let live := laneMask fun i => decide (i < ls.length)
  { f with
    v := Vector.ofFn fun r => Vector.ofFn fun i => pickLane f g ls (fun w l => w.vlane r.val l) 0 i.val
    m := Vector.ofFn fun k => laneMask fun i => pickLane f g ls (fun w l => (w.m.get k).getLsbD l) false i
    origin := Vector.ofFn fun i => pickLane f g ls (fun w l => vget w.origin l 0) (vget f.origin i.val 0) i.val
    draws := Vector.ofFn fun i => pickLane f g ls (fun w l => vget w.draws l 0) (vget f.draws i.val 0) i.val
    live := live
    am := live
    fpxFlags := f.fpxFlags ||| g.fpxFlags }

/-- A warp's `regroup` ends with a value of `c1`. -/
def Warp.regrouped (b : Bool) (w : Warp) : Warp := { w.cset 1 b with pc := w.pc + 4, wait := .none, qdone := false }

/-- Warps that wait for this one while it names another end alone (R202). DEDUCED, log 36. -/
def State.jilt (s : State) (w : Warp) (named : Nat) : State :=
  (s.warps.filter fun x => x.ident.grid == w.ident.grid && x.ident.crew == w.ident.crew && x.ident.rank != named &&
      (match x.wait with
        | .regroup r _ => r == w.ident.rank
        | _ => false)).foldl (fun s x => s.modWarp x.id (Warp.regrouped false)) s

/-- The rendezvous of two warps that name each other (R202). -/
def State.meet (s : State) (f g : Warp) (sf sg : Mask) : State :=
  if 64 < (regroupLanes sf sg).length then (s.modWarp f.id (Warp.regrouped false)).modWarp g.id (Warp.regrouped false)
  else ((s.modWarp f.id fun f => (f.join g sf sg).regrouped true).exitWarp g).leaveCarrel g

/-- `regroup` (R201, R202): in a `DET` launch the quantum ends at the warp's arrival, and the rendezvous follows its commit. DEDUCED, logs 36,
116. -/
def execRegroup (m : MReg) (a : SReg) (s : State) : Out :=
  .next (s.unforked 4 fun s => s.fullMask 4 fun s =>
    s.modeIf s.warp.isTwin 6 fun s => s.modeIf s.warp.isShadowed 7 fun s => s.modeIf s.warp.task.isSome 8 fun s =>
    s.modeIf (!s.warp.stack.isEmpty) 11 fun s =>
    s.afterQuantum fun s =>
      let w := s.warp
      let p := (s.sget a).toNat
      if 64 ≤ p ∨ p = w.ident.rank ∨ w.ident.warps ≤ p then (s.jilt w 64).upd (Warp.regrouped false)
      else if !s.slipFree then s.waitOn .order
      else
        let s := s.jilt w p
        match s.rankOf w p with
        | none => s.upd (Warp.regrouped false)
        | some x =>
          match x.wait with
          | .regroup r n =>
            if r = w.ident.rank then
              let mine := w.live &&& w.mget m
              let its := x.live &&& n
              if w.ident.rank < p then s.meet w x mine its else s.meet x w its mine
            else s.upd (Warp.regrouped false)
          | _ => s.waitOn (.regroup p (w.mget m)))

end Sys2Proof.Machine
end

