-- ==== Sys2Proof/Machine/Deque.lean ====
section
/-! DEFINITION. The deque words (R222 to R229). -/

namespace Sys2Proof.Machine

/-- Check 5 of R223. -/
def State.dequeGate (s : State) (k : State → State) : State :=
  s.unforked 4 fun s => s.modeIf s.warp.det 9 fun s => s.modeIf s.warp.task.isSome 10 k

/-- The deque of a crew of the current warp's grid, the own end first. -/
def State.dequeOf (s : State) (c : Nat) : List W64 := ((s.crew? s.warp.ident.grid c).map (·.deque)).getD []

/-- Writes the deque of a crew; a crew that was held only for its tokens is done when the last one goes (R229). -/
def State.setDeque (s : State) (c : Nat) (l : List W64) : State :=
  s.modCrew s.warp.ident.grid c fun x =>
    if x.state = .held ∧ l.isEmpty then
      { x with deque := l, state := .done, core := if s.ops.any fun o => o.holds x.grid x.num then x.core else none }
    else { x with deque := l }

/-- A deque word that delivers a token and a predicate is complete (R223 to R225). -/
def State.dequeDone (s : State) (d : SReg) (c : PReg) (x : W64) (b : Bool) : State :=
  let (y, s) := s.viaLvq x.toNat
  let (p, s) := s.viaLvq b.toNat
  ((s.sset d (BitVec.ofNat 64 y)).upd (·.cset c (p != 0))).adv 4

/-- `dq.push` (R224). -/
def execDqPush (c : PReg) (a : SReg) (s : State) : Out :=
  .next (s.dequeGate fun s =>
    let own := s.warp.ident.crew
    let t := s.sget a
    let s := s.item 6 [t.toNat]
    if Config.dequeEntries ≤ (s.dequeOf own).length then (s.upd (·.cset c false)).adv 4
    else s.releasing .grid fun s => ((s.setDeque own (t :: s.dequeOf own)).upd (·.cset c true)).adv 4)

/-- `dq.pop` (R224). -/
def execDqPop (d : SReg) (c : PReg) (s : State) : Out :=
  .next (s.dequeGate fun s =>
    let own := s.warp.ident.crew
    match s.dequeOf own with
    | [] => s.dequeDone d c 0 false
    | t :: r => ((s.setDeque own r).acquire .crew).dequeDone d c t true)

/-- The crews that a take searches, with whether each is of the warp's team (R226). -/
def State.searchOrder (s : State) (grid : Bool) : List (Nat × Bool) :=
  let w := s.warp.ident
  let team := (List.range (w.crews - 1)).map fun i => (w.team * w.crews + (w.core + 1 + i) % w.crews, true)
  let all := (s.crews.filter fun c => c.grid == w.grid).length
  let rest := ((List.range (all - 1)).map fun i => (w.crew + 1 + i) % all).filter fun c => c / w.crews != w.team
  team ++ (if grid then rest.map (·, false) else [])

/-- `dq.take` (R225 to R227). -/
def execDqTake (d : SReg) (c : PReg) (wt grid : Bool) (s : State) : Out :=
  .next (s.dequeGate fun s =>
    let own := s.warp.ident.crew
    match s.dequeOf own with
    | t :: r => ((s.setDeque own r).acquire .crew).dequeDone d c t true
    | [] =>
      match (s.searchOrder grid).find? fun k => !(s.dequeOf k.1).isEmpty with
      | some (k, team) =>
        let l := s.dequeOf k
        ((s.setDeque k l.dropLast).acquire (if team then .team else .grid)).dequeDone d c (l.getLastD 0) true
      | none =>
        let self := s.warp
        if wt && !s.quiescent self.ident (some self.id) grid then s.waitOn (.take grid d c)
        else (if wt then s.releaseTakes self.ident.grid (some self.id) else s).dequeDone d c 0 false)

end Sys2Proof.Machine
end

