-- ==== Sys2Proof/Machine/Engine.lean ====
section
/-! DEFINITION. The engine group and `clr` (R342 to R359): the words, their checks, and the start and completion of operations; migration
(R339, R340) and fills of the cluster data cache (R356). -/

namespace Sys2Proof.Machine

/-! ## Reading a block (R344, R367) -/

/-- A block that a word reads: its bytes, or the state that the failed read leaves. -/
inductive Block? where
  | ok (bs : List Byte) (s : State)
  | stop (s : State)

/-- 64 bytes of a block as the current warp loads them: a miss parks it, a missing permission traps, poison halts, and a remote part waits
for its answer. -/
def State.readPiece (s : State) (va : Nat) : Block? :=
  let w := s.warp
  let p := w.ident.part
  match s.access p va accRead with
  | (.miss k, s) => .stop (s.park accRead k 0 va 0 4)
  | (.cause c k, s) => .stop (s.trapAccess c k 4 va)
  | (.ok t, s) =>
    let s := s.countAccess p va t
    match t.place with
    | .remote =>
      (match w.fetched.find? fun x => x.1 == va && x.2.length == 64 with
        | some x => .ok x.2 s
        | none =>
          match s.sendRemote p t 1 0 0 0 [] (maskBytes 64) (w.pendingAccess 0 va true false) with
          | (none, s) => .stop (s.poisonHalt 1 0 va)
          | (some (e, m), s) =>
            .stop (s.upd fun w => { w with
              wait := .fetch
              remote := w.remote ++ [.ofUnit e m 64 64 va w] }))
    | q =>
      if s.placePoisoned q t.pa 64 then .stop (s.poisonHalt 1 0 va)
      else
        let bs := s.placeRead q t.pa 64
        .ok (if w.buffered then overlay w.entries q t.pa bs else bs) s

/-- Pieces of 64 bytes one after another. -/
def State.readPieces (s : State) (va : Nat) : Nat → List Byte → Block?
  | 0, bs => .ok bs s
  | k + 1, bs =>
    match s.readPiece va with
    | .ok cs s => s.readPieces ((va + 64) % 2 ^ 64) k (bs ++ cs)
    | r => r

/-- A block of n bytes at a multiple of 64 (R367). -/
def State.readBlock (s : State) (va n : Nat) (k : List Byte → State → State) : State :=
  if va % 64 ≠ 0 then s.trapAccess cAlign 0 4 va
  else
    match s.readPieces va (n / 64) [] with
    | .ok bs s => k bs (s.upd fun w => { w with fetched := [] })
    | .stop s => s

/-! ## What an operation reads and writes (R346, R350, R352, R354) -/

/-- The crew whose typed buffer an operation reads (R347). -/
def EngKind.reads : EngKind → Option Nat
  | .cpy d => if d.skind = 1 then some d.screw else none
  | .gath d => if d.spad then some d.icrew else none
  | _ => none

/-- The core on which a crew stands. -/
def State.coreOf (s : State) (g : Nat) (c : Option Nat) : Option CoreId := c.bind fun c => (s.crew? g c).bind (·.core)

/-- What fills a destination. -/
inductive Fill where
  | copy (x : EngSpot)
  | bytes (bs : List (Byte × Bool))
  | zero
  | poison
  deriving DecidableEq, Repr

/-- A piece: what its source is, where it goes, and its length. -/
structure Leg where
  src : Option EngSide
  poison : Bool
  dst : EngSide
  len : Nat
  deriving DecidableEq, Repr

/-- A piece that does not cross a line on either side, translated, with the addresses of its sides for a late error (R350). -/
structure Haul where
  src : Fill
  dst : EngSpot
  len : Nat
  srcVa : Nat
  dstVa : Nat
  deriving DecidableEq, Repr

/-- Why an operation cannot go on: a fault, an error with CODE, DETAIL and VA, or a page that is moving. -/
inductive Hitch where
  | none
  | miss (walk va acc : Nat)
  | err (code : Byte) (detail va : Nat)
  | hold
  deriving DecidableEq, Repr

/-- Moves a side by some bytes. -/
def EngSide.shift (x : EngSide) (n : Nat) : EngSide :=
  match x with
  | .va a => .va ((a + n) % 2 ^ 64)
  | .buf c b o => .buf c b (o + n)
  | .bank o => .bank (o + n)
/-- Bytes to the end of the line of a side. -/
def EngSide.room : EngSide → Nat
  | .va a => 128 - a % 128
  | .buf _ _ o => 128 - o % 128
  | .bank o => 128 - o % 128

/-! ## The legs of copies and gathers (R352, R354) -/

/-- The offsets of the iterations of a copy, dimension 1 varying fastest. -/
def offsets (dims : List (Nat × Int × Int)) : List (Int × Int) :=
  dims.foldl (fun acc d => (List.range d.1).flatMap fun x => acc.map fun o => (o.1 + x * d.2.1, o.2 + x * d.2.2)) [(0, 0)]

/-- A side of a copy at an offset. -/
def cpySide (kind start crew : Nat) (off : Int) : EngSide :=
  match kind with
  | 0 => .va (((start : Int) + off) % 2 ^ 64).toNat
  | 1 => .buf crew (bitsOf start 21 2) (((start % 2 ^ 19 : Nat) : Int) + off).toNat
  | _ => .bank ((start : Int) + off).toNat

/-- The legs of a copy. -/
def CpyDesc.legs (d : CpyDesc) : List Leg :=
  (offsets d.dims).map fun o => ⟨some (cpySide d.skind d.src d.screw o.1), false, cpySide d.dkind d.dst d.dcrew o.2, d.run⟩

/-- A value of an index list: its bytes, extended. -/
def indexValue (d : GathDesc) (bs : List Byte) : Int :=
  let x := bytesToNat bs
  if d.signed ∧ 2 ^ (8 * d.width - 1) ≤ x then (x : Int) - 2 ^ (8 * d.width) else x

/-- Where index i stands. -/
def GathDesc.indexSide (d : GathDesc) (i : Nat) : EngSide :=
  if d.spad then .buf d.icrew (bitsOf d.idx 21 2) (d.idx % 2 ^ 19 + i * d.width) else .va ((d.idx + i * d.width) % 2 ^ 64)
/-- The legs that read the index list, each index by itself; their destinations are not used. -/
def GathDesc.indexLegs (d : GathDesc) : List Leg := (List.range d.count).map fun i => ⟨some (d.indexSide i), false, .bank 0, d.width⟩

/-- The leg of row i for its index, or for a poisoned one. -/
def GathDesc.rowLeg (d : GathDesc) (i : Nat) (x : Int) (poisoned : Bool) : Leg :=
  let dst : EngSide := .buf d.dcrew 1 (d.dst % 2 ^ 19 + i * d.dpitch)
  if poisoned then ⟨none, true, dst, d.row⟩
  else if d.limit ≠ 0 ∧ (x < 0 ∨ (d.limit : Int) ≤ x) then ⟨none, false, dst, d.row⟩
  else ⟨some (.va (((d.base : Int) + x * d.stride) % 2 ^ 64).toNat), false, dst, d.row⟩

/-- Whether a spot of an operation's partition lies in a group window (R424, R429). -/
def State.inGroup (s : State) (p pa : Nat) : Bool := (Tab.get (s.part p).windows (bitsOf pa 40 12) 0).getLsbD 62

/-- Applies a function to an operation. -/
def State.modOp (s : State) (o : EngOp) (f : EngOp → EngOp) : State :=
  { s with ops := s.ops.map fun x => if x.part = o.part ∧ x.ctx = o.ctx ∧ x.n = o.n then f x else x }

/-- What the fabric block keeps of an access of an operation. -/
def EngOp.outstanding (o : EngOp) (va : Nat) (returns : Bool) : Outstanding :=
  ⟨0, 0, 0, o.ticket, 0, BitVec.ofNat 64 va, returns, false, some (o.part, o.ctx, o.n), none, 0, 0, 0⟩

/-- The lowest address at which a remote module has refused an operation (R350). -/
def EngOp.refuse (o : EngOp) (va : Nat) : EngOp := { o with refused := some (match o.refused with
  | some x => min x va
  | none => va) }

/-- Requests lines from remote modules; a line in a group window is refused. -/
def State.fetchLines (s : State) (o : EngOp) (ls : List (Nat × Nat)) : State :=
  ls.foldl (fun s l =>
    match s.sendRemote o.part ⟨0, 0, .remote, l.1, 1⟩ 1 0 0 0 [] (maskBytes 128) (o.outstanding l.2 true) with
    | (none, s) => s.modOp o (·.refuse l.2)
    | (some _, s) => s) s

/-! ## What the word's warp could load (R307) -/

/-- Bytes at a spot, each with its poison. -/
def State.spotRead (s : State) (o : EngOp) (x : EngSpot) (n : Nat) : List (Byte × Bool) :=
  let ofMem (m : Mem) (a : Nat) := (List.range n).map fun i => (m.byte (a + i), m.poisoned (a + i) 1)
  match x with
  | .mem .remote pa =>
    (match o.data.find? fun d => d.1 == pa / 128 * 128 with
      | some d => (List.range n).map fun i => (d.2.1.getD (pa % 128 + i) 0, d.2.2.testBit ((pa % 128 + i) / 8))
      | none => List.replicate n (0, true))
  | .mem p pa => (List.range n).map fun i => (bytesToNat (s.placeRead p (pa + i) 1) |> BitVec.ofNat 8, s.placePoisoned p (pa + i) 1)
  | .buf c b off => ofMem (s.bufMem o.grid ⟨c, b, 0⟩) off
  | .bank off => ofMem s.bankMem off

/-- Bytes of a side that stand in this module, and the line of another module that holds them, as a load of the word's warp finds them now. -/
def State.keepPiece (s : State) (o : EngOp) (x : EngSide) (n : Nat) : List Kept × List (Nat × Nat) :=
  match x with
  | .va a =>
    (match permCheck accRead (s.xlate o.part a) with
      | .ok t =>
        if t.place = .remote then ([], if s.inGroup o.part t.pa then [] else [(t.pa / 128 * 128, a)])
        else ([⟨x, s.spotRead o (.mem t.place t.pa) n⟩], [])
      | _ => ([], []))
  | .buf c b off => ([⟨x, s.spotRead o (.buf c b off) n⟩], [])
  | .bank _ => ([], [])

/-- The same of the sources of a leg, line by line; the fuel is its length. -/
def State.keepLeg (s : State) (o : EngOp) : Nat → EngSide → Nat → List Kept × List (Nat × Nat)
  | 0, _, _ => ([], [])
  | k + 1, x, len =>
    if len = 0 then ([], [])
    else
      let n := min len x.room
      let a := s.keepPiece o x n
      let b := s.keepLeg o k (x.shift n) (len - n)
      (a.1 ++ b.1, a.2 ++ b.2)
/-- The same of some legs. -/
def State.keepLegs (s : State) (o : EngOp) (ls : List Leg) : List Kept × List (Nat × Nat) :=
  ls.foldl (fun r l =>
    match l.src with
    | some x => let y := s.keepLeg o l.len x l.len; (r.1 ++ y.1, r.2 ++ y.2)
    | none => r) ([], [])

/-- How far a side lies behind another in its space. -/
def EngSide.past : EngSide → EngSide → Option Nat
  | .va a, .va b => if a ≤ b then some (b - a) else none
  | .buf c k a, .buf d l b => if c = d ∧ k = l ∧ a ≤ b then some (b - a) else none
  | .bank a, .bank b => if a ≤ b then some (b - a) else none
  | _, _ => none
/-- The bytes of a side among those that an operation has read. -/
def keptAt (l : List Kept) (x : EngSide) (n : Nat) : Option (List (Byte × Bool)) :=
  l.findSome? fun k => (k.side.past x).bind fun i => if i + n ≤ k.bytes.length then some ((k.bytes.drop i).take n) else none

/-- The rows of a gather whose indices have been read. -/
def GathDesc.knownRows (d : GathDesc) (l : List Kept) : List Leg :=
  (List.range d.count).filterMap fun i => (keptAt l (d.indexSide i) d.width).map fun bs => d.rowLeg i (indexValue d (bs.map (·.1))) (bs.any (·.2))

/-- An operation reads, as its word is accepted, what a load of its warp could return there; lines of other modules are asked for. What has no
translation yet is read when it has one. DEDUCED, log 125. -/
def State.keep (s : State) (o : EngOp) : State :=
  let x := match o.kind with
    | .cpy d => s.keepLegs o d.legs
    | .gath d =>
      let i := s.keepLegs o d.indexLegs
      let r := s.keepLegs o (d.knownRows i.1)
      (i.1 ++ r.1, i.2 ++ r.2)
    | _ => ([], [])
  let lines := x.2.foldl (fun l y => if l.any (fun z => z.1 == y.1) then l else l ++ [y]) []
  (s.modOp o fun y => { y with kept := x.1 }).fetchLines o lines

/-! ## The pieces of an operation (R345 to R348, R350) -/

/-- The address of a side as its descriptor names it: a virtual address, a scratchpad address, or an offset in the banks. -/
def State.sideAddr (s : State) (o : EngOp) : EngSide → Nat
  | .va a => a
  | .buf c b off => 2 ^ 21 * b + 2 ^ 19 * (c % max 1 (s.descOf o.grid).crews) + off
  | .bank off => off

/-- A crew that stands on no core and will stand on none: it is done or has been killed (R347, R380). -/
def State.crewOver (s : State) (g c : Nat) : Bool := !(s.crew? g c).any fun x => x.state != .done && x.state != .killed

/-- Resolves a typed buffer for an operation (R347, R391): a crew whose buffer it writes is waited for, one whose buffer it reads has to stand on
the core where it stood at acceptance. After a context stop the operation waits until that crew stands on a core again, if it ever will. -/
def State.bufSpot (s : State) (o : EngOp) (c b off : Nat) (writes : Bool) : Except Hitch EngSpot × State :=
  match s.coreOf o.grid (some c) with
  | none =>
    if writes ∨ (o.core = none ∧ !s.crewOver o.grid c) then (.error .hold, s) else (.error (.err cProt 4 (s.sideAddr o (.buf c b off))), s)
  | some k =>
    if writes ∨ o.core = some k then (.ok (.buf c b off), s)
    else if o.core = none then (.ok (.buf c b off), s.modOp o fun x => { x with core := some k })
    else (.error (.err cProt 4 (s.sideAddr o (.buf c b off))), s)

/-- Resolves a side for an operation (R345, R347, R348, R350); an access to a host page counts (R339). -/
def State.sideSpot (s : State) (o : EngOp) (x : EngSide) (writes : Bool) : Except Hitch EngSpot × State :=
  match x with
  | .va a =>
    (match s.access o.part a (if writes then accWrite else accRead) with
      | (.miss k, s) => (.error (.miss k a (if writes then accWrite else accRead)), s)
      | (.cause c k, s) => (.error (.err c k a), s)
      | (.ok t, s) =>
        if o.det ∧ ¬writes ∧ ¬pteSealed t.entry then (.error (.err cMode 49 a), s)
        else if writes ∧ pteMoving t.entry then (.error .hold, s)
        else (.ok (.mem t.place t.pa), if t.place = .host then s.countAccess o.part a t else s))
  | .buf c b off => s.bufSpot o c b off writes
  | .bank off => (.ok (.bank off), s)

/-- An offset of a spot in its space, and the spot that some bytes later has. -/
def EngSpot.at : EngSpot → Nat
  | .mem _ pa => pa
  | .buf _ _ off => off
  | .bank off => off
def EngSpot.plus : EngSpot → Nat → EngSpot
  | .mem p pa, n => .mem p (pa + n)
  | .buf c b off, n => .buf c b (off + n)
  | .bank off, n => .bank (off + n)
/-- The bytes that are written in one step: 64 of a weight bank (R277), 4 elsewhere (R346). -/
def EngSpot.unit : EngSpot → Nat
  | .bank _ => 64
  | _ => 4

/-- The first n bytes of some pieces. -/
def firstBytes : Nat → List Haul → List Haul
  | _, [] => []
  | n, h :: r => if n = 0 then [] else if h.len ≤ n then h :: firstBytes (n - h.len) r else [{ h with len := n }]

/-- The bytes that pieces move. -/
def haulLen (hs : List Haul) : Nat := hs.foldl (fun n h => n + h.len) 0

/-- The pieces of a leg without the unit that they leave unfinished: it is written in one step or not at all (R346). -/
def wholeUnits (hs : List Haul) : List Haul :=
  match hs.getLast? with
  | some h => firstBytes (haulLen hs - (h.dst.at + h.len) % h.dst.unit) hs
  | none => []

/-- The pieces of the first n bytes, with the unit in progress finished (R346, R390), also where it goes on in a further piece; the first argument is
where the piece before ended. -/
def cutHauls : Option EngSpot → Nat → List Haul → List Haul
  | _, _, [] => []
  | z, n, h :: r =>
    let u := h.dst.unit
    let n := if n = 0 ∧ z ≠ some h.dst then 0 else n + (u - (h.dst.at + n) % u) % u
    if h.len ≤ n then h :: cutHauls (some (h.dst.plus h.len)) (n - h.len) r else if n = 0 then [] else [{ h with len := n }]

/-- The pieces of a leg up to the first hitch; the fuel is its length. -/
def State.haulLeg (o : EngOp) : Nat → State → Leg → List Haul → State × List Haul × Hitch
  | 0, s, _, hs => (s, hs, .none)
  | k + 1, s, l, hs =>
    if l.len = 0 then (s, hs, .none)
    else
      let n := min l.len (min l.dst.room ((l.src.map (·.room)).getD 128))
      let (f, s) : Except Hitch Fill × State := match l.src with
        | some x => (match s.sideSpot o x false with
          | (.ok y, s) => (.ok (match keptAt o.kept x n with
            | some bs => .bytes bs
            | none => .copy y), s)
          | (.error e, s) => (.error e, s))
        | none => (.ok (if l.poison then .poison else .zero), s)
      match f with
      | .error e => (s, wholeUnits hs, e)
      | .ok f =>
        match s.sideSpot o l.dst true with
        | (.error e, s) => (s, wholeUnits hs, e)
        | (.ok d, s) =>
          State.haulLeg o k s { l with src := l.src.map (·.shift n), dst := l.dst.shift n, len := l.len - n }
            (hs ++ [⟨f, d, n, (l.src.map (s.sideAddr o)).getD 0, s.sideAddr o l.dst⟩])

/-- The pieces of all legs up to the first hitch. DEDUCED, log 38. -/
def State.haul (o : EngOp) (s : State) (ls : List Leg) : State × List Haul × Hitch :=
  ls.foldl (fun r l =>
    match r.2.2 with
    | .none => let x := State.haulLeg o l.len r.1 l []; (x.1, r.2.1 ++ x.2.1, x.2.2)
    | _ => r) (s, [], .none)

/-- What is left of legs from a byte on. -/
def skipLegs : Nat → List Leg → List Leg
  | _, [] => []
  | n, l :: r =>
    if n = 0 then l :: r
    else if l.len ≤ n then skipLegs (n - l.len) r
    else { l with src := l.src.map (·.shift n), dst := l.dst.shift n, len := l.len - n } :: r

/-- The lines of remote modules that pieces read and that no answer has brought, each with the virtual address of the first byte read of it. -/
def remoteNeeds (o : EngOp) (hs : List Haul) : List (Nat × Nat) :=
  (hs.filterMap fun h =>
    match h.src with
    | .copy (.mem .remote pa) => some (pa / 128 * 128, h.srcVa)
    | _ => none).foldl (fun l x => if l.any (fun y => y.1 == x.1) || o.data.any (fun d => d.1 == x.1) then l else l ++ [x]) []

/-- Whether an operation awaits an answer of a remote module. -/
def State.opAwaits (s : State) (o : EngOp) : Bool := s.fabric.waiting.any fun x => x.eng == some (o.part, o.ctx, o.n)

/-- The bytes that a piece writes. -/
def State.haulBytes (s : State) (o : EngOp) (h : Haul) : List (Byte × Bool) :=
  match h.src with
  | .copy x => s.spotRead o x h.len
  | .bytes bs => bs.take h.len
  | .zero => List.replicate h.len (0, false)
  | .poison => List.replicate h.len (0, true)

/-- The spot of the granule that holds a byte of a spot. -/
def EngSpot.granule : EngSpot → Nat → EngSpot
  | .mem p pa, i => .mem p ((pa + i) / 8 * 8)
  | .buf c b off, i => .buf c b ((off + i) / 8 * 8)
  | .bank off, i => .bank ((off + i) / 8 * 8)

/-- The byte that a write leaves i bytes after a spot in the same space, if it reaches it. -/
def EngSpot.hit (x : EngSpot) (bs : List (Byte × Bool)) (y : EngSpot) (i : Nat) : Option (Byte × Bool) :=
  match x, y with
  | .mem p a, .mem q b => if p = q ∧ a ≤ b + i then bs[b + i - a]? else none
  | .buf c k a, .buf d l b => if c = d ∧ k = l ∧ a ≤ b + i then bs[b + i - a]? else none
  | .bank a, .bank b => if a ≤ b + i then bs[b + i - a]? else none
  | _, _ => none

/-- Poison bits of the bytes of a packet, one per granule from the unit on in which they begin, `sh` bytes into it. -/
def packPoison (sh : Nat) (bs : List (Byte × Bool)) : Nat :=
  (List.range 16).foldl (fun n i => if bs.zipIdx.any fun b => b.1.2 && (sh + b.2) / 8 == i then n + 2 ^ i else n) 0

/-- The host answers a write at a spot with an error (R420). -/
def State.spotErr (s : State) : EngSpot → Nat → Bool
  | .mem p pa, n => s.hostErr p pa n
  | _, _ => false

/-- Bytes are written at a spot; poison is settled afterwards. A remote spot gets a packet, and a host line that answers with an error makes a late
error (R420). -/
def State.spotPut (s : State) (o : EngOp) (x : EngSpot) (bs : List (Byte × Bool)) (va : Nat) : State :=
  let vs := bs.map (·.1)
  match x with
  | .mem .remote pa =>
    (match s.sendRemote o.part ⟨0, 0, .remote, pa, 1⟩ 2 0 0 0 vs (maskBytes vs.length) (o.outstanding va false) with
      | (none, s) => s.modOp o (·.refuse va)
      | (some _, s) =>
        { s with fabric := { s.fabric with outbox :=
            s.fabric.outbox.dropLast ++ (s.fabric.outbox.getLast?.map fun k => { k with poison := BitVec.ofNat 16 (packPoison (pa % 16) bs) }).toList } })
  | .mem p pa => if s.hostErr p pa vs.length then s.lateOpen o.ticket 0 va else s.put p pa vs
  | .buf c b off => s.setBufMem o.grid ⟨c, b, 0⟩ ((s.bufMem o.grid ⟨c, b, 0⟩).write off vs)
  | .bank off => { s with bankMem := s.bankMem.write off vs }

/-- Poisons or clears a granule of a spot. -/
def State.spotPoison (s : State) (o : EngOp) (x : EngSpot) (bad : Bool) : State :=
  let f (m : Mem) (a : Nat) := if bad then m.taint a 8 else m.cleanse a 8
  match x with
  | .mem p pa => if bad then s.placeTaint p pa 8 else s.placeCleanse p pa 8
  | .buf c b off => s.setBufMem o.grid ⟨c, b, 0⟩ (f (s.bufMem o.grid ⟨c, b, 0⟩) off)
  | .bank off => { s with bankMem := f s.bankMem off }

/-- The bytes of a granule that writes leave, each with its poison. -/
def granuleBytes (ws : List (EngSpot × List (Byte × Bool))) (g : EngSpot) : List (Option (Byte × Bool)) :=
  (List.range 8).map fun i => ws.reverse.findSome? fun w => w.1.hit w.2 g i

/-- The bytes of a granule that good data covers, of these writes and of those that the operation made before a stop. -/
def EngOp.goodBytes (o : EngOp) (bs : List (Option (Byte × Bool))) (g : EngSpot) : Nat :=
  let old := ((o.halves.find? fun h => h.1 == g).map (·.2)).getD 0
  (List.range 8).foldl (fun n i => if (bs.getD i none).isSome || old.testBit i then n + 2 ^ i else n) 0

/-- What writes do to the poison of a granule (R346): a poisoned byte poisons it, good bytes that cover it whole clear it. -/
def EngOp.fate (o : EngOp) (ws : List (EngSpot × List (Byte × Bool))) (g : EngSpot) : Option Bool :=
  let bs := granuleBytes ws g
  if bs.any fun b => (b.map (·.2)).getD false then some true
  else if o.goodBytes bs g = 255 then some false
  else none

/-- The granules that writes touch. -/
def granules (ws : List (EngSpot × List (Byte × Bool))) : List EngSpot :=
  (ws.flatMap fun w => (List.range w.2.length).map w.1.granule).eraseDups

/-- What pieces write: each spot and its bytes. -/
def State.writes (s : State) (o : EngOp) (hs : List Haul) : List (EngSpot × List (Byte × Bool)) := hs.map fun h => (h.dst, s.haulBytes o h)

/-- The granules that pieces cover in part with good data, for the time that the operation goes on after a stop (R346). -/
def State.halves (s : State) (o : EngOp) (hs : List Haul) : List (EngSpot × Nat) :=
  let ws := s.writes o hs
  let gs := granules ws
  (o.halves.filter fun h => !gs.contains h.1) ++ (gs.filter fun g => o.fate ws g == none).map fun g => (g, o.goodBytes (granuleBytes ws g) g)

/-- Performs the writes of an operation (R346, R352). Every byte is read before any is written, and of two pieces that write one byte the later in the
order of the loop stays: R352 permits these values among others. DESIGN CHOICE, log 126. -/
def State.perform (s : State) (o : EngOp) (hs : List Haul) : State :=
  let ws := s.writes o hs
  let t := (ws.zip hs).foldl (fun s w => s.spotPut o w.1.1 w.1.2 w.2.dstVa) s
  (granules (ws.filter fun w => !s.spotErr w.1 w.2.length)).foldl (fun t g => match o.fate ws g with
    | some bad => t.spotPoison o g bad
    | none => t) t

/-! ## Acceptance (R342, R344, R345, R349) -/

/-- An engine context of a partition. -/
def State.ctxOf (s : State) (p c : Nat) : Ctx := Tab.get (s.part p).ctxs c .blank
/-- Applies a function to an engine context. -/
def State.modCtx (s : State) (p c : Nat) (f : Ctx → Ctx) : State :=
  s.modPart p fun x => { x with ctxs := Tab.set x.ctxs c (f (Tab.get x.ctxs c .blank)) }

/-- Checks 1 to 3 of R344. -/
def State.engineGate (s : State) (k : State → State) : State :=
  s.unforked 4 fun s => s.fullMask 4 fun s => s.modeIf s.warp.task.isSome 34 k

/-- A context has a free slot (R342). -/
def State.ctxRoom (s : State) (p c : Nat) : Bool := decide ((s.ops.filter fun o => o.part == p && o.ctx == c).length < Config.ctxDepth)

/-- The word is accepted as the next operation of its context; with a continuation the warp yields (R349). -/
def State.acceptOp (s : State) (ctx : Nat) (kind : EngKind) (d : SReg) (cont : Option W64) : State :=
  s.releasing .sys fun s =>
    let w := s.warp
    let p := w.ident.part
    if s.ctxRoom p ctx then
      let n := (s.ctxOf p ctx).s + 1
      let o : EngOp :=
        { part := p, ctx := ctx, n := n, kind := kind, grid := w.ident.grid, team := w.ident.team, ticket := w.ticket, det := w.det,
          started := false, fault := none, faultVa := 0, held := false, pos := 0, core := s.coreOf w.ident.grid kind.reads, data := [],
          kept := [], halves := [], folio := [], sent := false, refused := none }
      let s := ({ s with ops := s.ops ++ [o] }.modCtx p ctx fun c => { c with s := n }).keep o
      match cont with
      | none =>
        let (x, s) := s.viaLvq n
        (s.sset d (BitVec.ofNat 64 x)).adv 4
      | some a => s.waitOn (.engine ctx n a d)
    else s.waitOn .order

/-- The context number and the rest of a control word (R343): check 6, with `bad` the word's own control fields. -/
def State.control (s : State) (c : W64) (bad : Bool) (k : Nat → State → State) : State :=
  s.modeIf (decide ((s.part s.warp.ident.part).cfg.ectx ≤ field c 52 12)) 36 fun s => s.modeIf bad 48 fun s => k (field c 52 12) s

/-- The continuation of a yielded word (R349): the address that its displacement names. -/
def State.contOf (s : State) (d : SReg) (yld : Bool) : Option W64 := if yld then some (s.warp.pc + s.sget d) else none
/-- The displacement is not a multiple of 4. -/
def State.contBad (s : State) (d : SReg) (yld : Bool) : Bool := yld && (s.sget d).toNat % 4 != 0

/-! ## cpy (R351, R352) -/

/-- The dimensions of a copy descriptor, dimension 1 first. -/
def cpyDims (b : List Byte) : List (Nat × Int × Int) :=
  (List.range (leAt b 20 1 - 1)).map fun i => (leAt b (64 + 24 * i) 8, signed64 (leAt b (72 + 24 * i) 8), signed64 (leAt b (80 + 24 * i) 8))

/-- A hint code of R82. -/
def hintBad (h : Nat) : Bool := decide (5 < h)

/-- Bytes of a block that are not all zero. -/
def anyByte (b : List Byte) (lo hi : Nat) : Bool := ((b.drop lo).take (hi - lo)).any (· != 0)

/-- Check 8 for a copy descriptor: values out of range and reserved fields. DEDUCED, log 35. -/
def cpyBad (b : List Byte) : Bool :=
  let run := leAt b 16 4
  let nd := leAt b 20 1
  let sk := leAt b 21 1
  let dk := leAt b 22 1
  let h := leAt b 23 1
  let dims := cpyDims b
  decide (run = 0 ∨ 2 ^ 20 < run ∨ nd = 0 ∨ 14 < nd ∨ 1 < sk ∨ 2 < dk) || hintBad (bitsOf h 0 3) || hintBad (bitsOf h 3 3) ||
    decide (64 ≤ h) || anyByte b 24 64 || anyByte b (64 + 24 * (nd - 1)) 512 ||
    dims.any (fun d => decide (d.1 = 0 ∨ 2 ^ 32 < d.1)) || decide (2 ^ 40 < dims.foldl (fun n d => n * d.1) run) ||
    (sk == 1 && leAt b 4 4 != 0) || (dk == 1 && leAt b 12 4 != 0) || (dk == 2 && bitsOf (leAt b 8 8) 23 33 != 0)

/-- The lowest and one past the highest byte of a side, relative to its start. -/
def sideSpan (run : Nat) (dims : List (Nat × Int)) : Int × Int :=
  dims.foldl (fun r d => let x := ((d.1 : Int) - 1) * d.2; (r.1 + min 0 x, r.2 + max 0 x)) (0, (run : Int))

/-- Checks of a strided scratchpad range (check 11). -/
def State.spanKind (s : State) (addr : Nat) (span : Int × Int) : Refusal? :=
  match s.rangeKind addr 0 with
  | some r => some r
  | none =>
    let o : Int := (addr % 2 ^ 19 : Nat)
    if o + span.1 < 0 ∨ 2 ^ 19 < o + span.2 then some (cProt, 6) else none

/-- The crew of the current warp's team on the core rank of a scratchpad address. -/
def Warp.crewOf (w : Warp) (addr : Nat) : Nat := w.ident.team * w.ident.crews + bitsOf addr 19 2

/-- Checks 8 to 11 and acceptance of a copy (R344, R351). DEDUCED, log 35. -/
def State.cpyRead (s : State) (ctx : Nat) (d : SReg) (yld : Bool) (b : List Byte) : State :=
  let w := s.warp
  let src := leAt b 0 8
  let dst := leAt b 8 8
  let run := leAt b 16 4
  let sk := leAt b 21 1
  let dk := leAt b 22 1
  let dims := cpyDims b
  let bank := Tab.get (s.part w.ident.part).banks (bitsOf dst 56 8) 0
  let off4 (x : Int) : Bool := x % 4 != 0
  let off64 (x : Int) : Bool := x % 64 != 0
  let dspan := sideSpan run (dims.map fun d => (d.1, d.2.2))
  let boff : Int := (bitsOf dst 0 23 : Nat)
  s.checked
    [refuseMode 48 (cpyBad b || (dk == 2 && decide (boff + dspan.1 < 0 ∨ (Config.bankBytes : Int) < boff + dspan.2))),
     refuseMode 50 (dk == 2 && !bank.getLsbD 8),
     if s.contBad d yld || (sk == 1 && (src % 4 != 0 || run % 4 != 0 || dims.any fun x => off4 x.2.1)) ||
         (dk == 1 && (dst % 4 != 0 || run % 4 != 0 || dims.any fun x => off4 x.2.2)) ||
         (dk == 2 && (bitsOf dst 0 23 % 64 != 0 || run % 64 != 0 || dims.any fun x => off64 x.2.2)) then some (cAlign, 0) else none,
     if sk = 1 then s.spanKind (src % 2 ^ 32) (sideSpan run (dims.map fun d => (d.1, d.2.1))) else none,
     if dk = 1 then s.spanKind (dst % 2 ^ 32) dspan else none] fun s =>
  let op : CpyDesc :=
    { src := src, dst := if dk = 2 then Config.bankBytes * field bank 0 8 + bitsOf dst 0 23 else dst, run := run, skind := sk, dkind := dk,
      screw := w.crewOf src, dcrew := w.crewOf dst, dims := dims }
  s.acceptOp ctx (.cpy op) d (s.contOf d yld)

/-- The destination kind of the copy descriptor at an address (check 5 of R344 comes before the descriptor read): none where the granule that holds
it cannot be read, or the wait for the answer of the module that holds it. DEDUCED, log 128. -/
def State.peekKind (s : State) (va : Nat) : Except State (Option Nat) :=
  let w := s.warp
  match s.xlate w.ident.part va with
  | .ok t =>
    if va % 64 ≠ 0 ∨ ¬pteR t.entry then .ok none
    else if t.place = .remote then
      match w.fetched.find? fun x => x.1 == va || x.1 == va + 16 with
      | some x => .ok ((x.2[va + 22 - x.1]?).map (·.toNat))
      | none =>
        match s.sendRemote w.ident.part { t with pa := t.pa + 16 } 1 0 0 0 [] (maskBytes 8) (w.pendingAccess 0 (va + 16) true false) with
        | (none, _) => .ok none
        | (some (e, m), s) => .error (s.upd fun w => { w with
            wait := .fetch
            remote := w.remote ++ [.ofUnit e m 65 8 (va + 16) w] })
    else if s.placePoisoned t.place (t.pa + 16) 8 then .ok none
    else
      let b := s.placeRead t.place (t.pa + 22) 1
      .ok (some (bytesToNat (if w.buffered then overlay w.entries t.place (t.pa + 22) b else b)))
  | _ => .ok none

/-- Check 5 of R344: a copy to virtual addresses in a `DET` launch. -/
def State.detKind (s : State) (va : Nat) (k : State → State) : State :=
  if s.warp.det then
    match s.peekKind va with
    | .error t => t
    | .ok x => if x = some 0 then (s.upd fun w => { w with fetched := [] }).trapScalar cMode 49 4 else k s
  else k s

/-- `cpy` (R343, R344, R351). -/
def execCpy (d a b : SReg) (yld : Bool) (s : State) : Out :=
  .next (s.engineGate fun s =>
    let va := (s.sget a).toNat
    let c := s.sget b
    s.detKind va fun s =>
    s.control c (field c 0 52 != 0) fun ctx s =>
    s.readBlock va 512 fun bs s =>
      s.modeIf (s.warp.det && leAt bs 22 1 == 0) 49 fun s =>
      (s.item 6 ([va, c.toNat, (s.sget d).toNat] ++ bs.map (·.toNat))).cpyRead ctx d yld bs)

/-! ## gath (R353) -/

/-- Check 8 for a gather descriptor. -/
def gathBad (b : List Byte) : Bool :=
  let count := leAt b 24 4
  let row := leAt b 28 4
  let iw := leAt b 48 1
  let streams := leAt b 49 1
  decide (count = 0 ∨ 2 ^ 20 < count ∨ row < 4 ∨ 65536 < row ∨ row % 4 ≠ 0 ∨ leAt b 20 4 < row ∨ 16 ≤ iw ∨ streams = 0 ∨ 64 < streams) ||
    hintBad (leAt b 50 1) || anyByte b 51 64

/-- Checks 8 to 11 and acceptance of a gather (R344, R353). DEDUCED, log 35. -/
def State.gathRead (s : State) (ctx : Nat) (d : SReg) (yld : Bool) (b : List Byte) : State :=
  let w := s.warp
  let idx := leAt b 8 8
  let dst := leAt b 16 4
  let pitch := leAt b 20 4
  let count := leAt b 24 4
  let row := leAt b 28 4
  let iw := leAt b 48 1
  let width := 2 ^ (iw % 4)
  let spad := iw.testBit 3
  s.checked
    [refuseMode 48 (gathBad b),
     refuseMode 50 (bitsOf dst 21 2 != 1 || (spad && bitsOf idx 21 2 != 1 && bitsOf idx 21 2 != 2)),
     if s.contBad d yld || dst % 4 != 0 || pitch % 4 != 0 || idx % width != 0 then some (cAlign, 0) else none,
     if spad then s.rangeKind (idx % 2 ^ 32) (idx % 2 ^ 19 + count * width) else none,
     s.rangeKind dst (dst % 2 ^ 19 + (count - 1) * pitch + row)] fun s =>
  let op : GathDesc :=
    { base := leAt b 0 8, idx := idx, dst := dst, dpitch := pitch, count := count, row := row, stride := signed64 (leAt b 32 8),
      limit := leAt b 40 8, width := width, signed := iw.testBit 2, spad := spad, icrew := w.crewOf idx, dcrew := w.crewOf dst }
  s.acceptOp ctx (.gath op) d (s.contOf d yld)

/-- `gath` (R343, R344, R353). -/
def execGath (d a b : SReg) (yld : Bool) (s : State) : Out :=
  .next (s.engineGate fun s =>
    let va := (s.sget a).toNat
    let c := s.sget b
    s.control c (field c 0 52 != 0) fun ctx s =>
    s.readBlock va 64 fun bs s => (s.item 6 ([va, c.toNat, (s.sget d).toNat] ++ bs.map (·.toNat))).gathRead ctx d yld bs)

/-! ## mig, pref.s, clr (R355, R357, R358) -/

/-- `mig` (R343, R344, R357). -/
def execMig (d a b : SReg) (s : State) : Out :=
  .next (s.engineGate fun s =>
    let va := (s.sget a).toNat
    let c := s.sget b
    let w := s.warp
    let numa := c.getLsbD 16
    let e := Tab.get (s.part w.ident.part).clusters (field c 0 7) 0
    let bad := field c 17 35 != 0 || field c 7 9 != 0 || (!numa && field c 0 7 != 0) || (numa && !e.getLsbD 8)
    s.control c bad fun ctx s =>
    match s.lookUp w.ident.part va with
    | (.miss k _, s) => s.park accRead k 0 va 0 4
    | (.noncanon, s) => s.trapAccess cProt 1 4 va
    | (.ok t, s) =>
      s.modeIf (decide (2 ^ 21 < t.page ∨ t.place = .remote)) 51 fun s =>
      (s.item 6 [va, c.toNat]).acceptOp ctx (.mig (va / t.page * t.page) numa (field e 5 3)) d none)

/-- `pref.s` (R343, R344, R355). -/
def execPrefS (d a b : SReg) (cdc : Bool) (s : State) : Out :=
  .next (s.engineGate fun s =>
    let va := (s.sget a).toNat
    let c := s.sget b
    let len := field c 0 31
    let bad := decide (len = 0 ∨ 2 ^ 30 < len) || field c 31 17 != 0 || hintBad (field c 48 3) || c.getLsbD 51
    s.control c bad fun ctx s =>
    (s.item 6 [va, c.toNat]).acceptOp ctx (.pref va len (field c 48 3) cdc (s.clusterOf s.warp)) d none)

/-- A launch holds privilege at a level (R366). -/
def State.holds (s : State) (w : Warp) (level : Nat) : Bool := w.priv && decide (level ≤ (s.part w.ident.part).cfg.level)

/-- `clr` (R343, R344, R358). -/
def execClr (d a b : SReg) (s : State) : Out :=
  .next (s.engineGate fun s =>
    if !s.holds s.warp 2 then s.trapScalar cProt 0 4
    else
      s.modeIf s.warp.det 49 fun s =>
      let pa := (s.sget a).toNat
      let c := s.sget b
      let size := pageBytes (field c 0 4)
      let owner := field c 4 6
      let bad := field c 10 42 != 0 || (32 ≤ owner && owner != 63) || size == 0 || (size != 0 && pa % size != 0) ||
        decide (Config.deviceBytes < pa + size)
      s.control c bad fun ctx s => (s.item 6 [pa, c.toNat]).acceptOp ctx (.clr pa size owner) d none)

/-! ## The end of an operation -/

/-- An operation ends with an error (R350): it counts as completed, and a late error goes out from its ticket. -/
def State.opError (s : State) (o : EngOp) (code : Byte) (detail va : Nat) : State :=
  (s.lateError o.ticket code.toNat detail 0 va).finishOp o.part o.ctx o.n

/-- An operation stalls on a translation fault (R337). -/
def State.opFault (s : State) (o : EngOp) (walk va acc : Nat) : State :=
  let (token, s) := s.fault o.part va acc [] [(o.ctx, o.n)] (engineRecord o.ticket acc walk o.ctx o.n va)
  s.modOp o fun x => { x with fault := some token, faultVa := va }

/-- The operation of a context that may run now. -/
def State.runningOp (s : State) (p ctx n : Nat) : Option EngOp :=
  s.ops.find? fun o => o.part == p && o.ctx == ctx && o.n == n && o.started && o.fault.isNone && !o.held

/-- Performs the legs of an operation and ends it: nothing happens while it stalls, awaits remote answers or a moving page; an error leaves the
writes before it (R350). `wrote` acts on the bytes written, from one position to another. R346 leaves the units unordered and visible one by one: the
model writes all of them in the turn in which the operation completes. DESIGN CHOICE, log 126; DEDUCED, log 38. -/
def State.runOp (s : State) (o : EngOp) (ls : List Leg) (wrote : Nat → Nat → State → State) : State :=
  if s.opAwaits o then s
  else
    match o.refused with
    | some va => (s.lateOpen o.ticket 0 va).finishOp o.part o.ctx o.n
    | none =>
      if o.sent then s.finishOp o.part o.ctx o.n
      else
        let (t, hs, h) := s.haul o (skipLegs o.pos ls)
        match h with
        | .miss k va acc => t.opFault o k va acc
        | .hold => s
        | h =>
          match remoteNeeds o hs with
          | [] =>
            let t := wrote o.pos (o.pos + haulLen hs) (t.perform o hs)
            (match h with
              | .err c d va => t.opError o c d va
              | _ => if t.opAwaits o then t.modOp o fun x => { x with sent := true } else t.finishOp o.part o.ctx o.n)
          | need => t.fetchLines o need

/-- An operation that a context stop reaches in progress has done a number of bytes that the spec leaves open, whole units of them; the rest is
held (R390, R391). DESIGN CHOICE, log 67. -/
def State.pauseLegs (s : State) (o : EngOp) (ls : List Leg) (wrote : Nat → Nat → State → State) : State :=
  let (t, hs, _) := s.haul o (skipLegs o.pos ls)
  if s.opAwaits o ∨ o.sent ∨ o.refused.isSome ∨ remoteNeeds o hs ≠ [] ∨ hs.any fun h => (match h.dst with
      | .mem .remote pa => s.inGroup o.part pa
      | _ => false) then s
  else
    let hs := cutHauls none ((Config.freeWord s.fresh).toNat % (haulLen hs + 1)) hs
    let r := wrote o.pos (o.pos + haulLen hs) ({ t with fresh := t.fresh + 1 }.perform o hs)
    r.modOp o fun x => { x with pos := o.pos + haulLen hs, halves := t.halves o hs }

/-! ## Copies (R352) and contributions to groups (R429) -/

/-- The physical address of a haul's destination in a group window. -/
def State.groupHit (s : State) (p : Nat) (h : Haul) : Option (Nat × Nat) :=
  match h.dst with
  | .mem .remote pa => if s.inGroup p pa then some (pa, h.len) else none
  | _ => none

/-- A group's entry (R428): its fields. -/
def Group.valid (g : Group) : Bool := g.entry.getLsbD 63
def Group.multicast (g : Group) : Bool := g.entry.getLsbD 62
def Group.ty (g : Group) : Nat := (g.entry.extractLsb' 60 2).toNat
def Group.root (g : Group) : Bool := g.entry.getLsbD 59
def Group.parent (g : Group) : Nat := (g.entry.extractLsb' 52 7).toNat
def Group.doneMbx (g : Group) : Nat := (g.entry.extractLsb' 40 12).toNat
def Group.len (g : Group) : Nat := (g.entry.extractLsb' 0 32).toNat
def Group.children (g : Group) : List Nat := (List.range 96).filter fun i => g.entry.getLsbD (128 + i)
def Group.result (g : Group) : Nat := (g.entry.extractLsb' 256 57).toNat
def Group.step (g : Group) : W32 := g.entry.extractLsb' 320 32

/-- A group of a partition. -/
def State.group (s : State) (p g : Nat) : Group := Tab.get (s.part p).groups g .blank
/-- Writes a group of a partition. -/
def State.setGroup (s : State) (p g : Nat) (x : Group) : State := s.modPart p fun y => { y with groups := Tab.set y.groups g x }

/-- Every offset of a group's step is written once. -/
def coversOnce (len : Nat) (hits : List (Nat × Nat)) : Bool :=
  (hits.foldl (fun n h => n + h.2) 0 == len) && (List.range len).all fun i => hits.any fun h => decide (h.1 % 2 ^ 40 ≤ i ∧ i < h.1 % 2 ^ 40 + h.2)

/-- The partition launches and places: it is RUNNING, and neither a stop nor a suspend is under way (R370, R390). -/
def State.runs (s : State) (p : Nat) : Bool :=
  (s.part p).state == .running && !(s.part p).suspending && (s.part p).stop.isNone

/-- A step of a group in which nothing has arrived; one made while a stop holds the engine is held (R432). -/
def GStep.start (n : Nat) (held : Bool) : GStep := ⟨n, none, [], [], false, none, false, held, false, false⟩

/-- A step of a group, made where it does not exist yet. -/
def Group.withStepAt (g : Group) (n : Nat) (held : Bool) : Group :=
  if g.steps.any fun x => x.n == n then g else { g with steps := g.steps ++ [.start n held] }

/-- A contribution becomes the group's next step (R429). -/
def Group.take (g : Group) (own : List Byte) (bad : List Nat) (held : Bool) : Group :=
  let n := g.taken
  let x := g.withStepAt n held
  { x with taken := n + 1, steps := x.steps.map fun (x : GStep) => if x.n = n then { x with own := some own, bad := bad } else x }

/-- The virtual address of the first source in a group window: such an operation is no contribution (R429). -/
def State.groupSource (s : State) (p : Nat) (hs : List Haul) : Option Nat :=
  hs.findSome? fun h =>
    match h.src with
    | .copy (.mem .remote pa) => if s.inGroup p pa then some h.srcVa else none
    | _ => none

/-- A copy that touches a group window (R429, R431, R432): a contribution is taken, anything else is an error, and so is one whose source a remote
module refuses (R350). -/
def State.contribute (s : State) (o : EngOp) (hs : List Haul) (hits : List (Nat × Nat)) : State :=
  let win := bitsOf ((hits.head?.map (·.1)).getD 0) 40 12
  let va := ((hs.find? fun h => (s.groupHit o.part h).isSome).map (·.dstVa)).getD 0
  let e := Tab.get (s.part o.part).windows win 0
  let gi := field e 56 6
  let g := s.group o.part gi
  let ok := g.valid && hits.length == hs.length && (hits.all fun h => bitsOf h.1 40 12 == win) && coversOnce g.len hits &&
    (s.groupSource o.part hs).isNone
  match (if ok then remoteNeeds o hs else []) with
  | [] =>
    if !ok then s.opError o cMode 52 (((s.groupSource o.part hs).map (min va)).getD va)
    else if o.refused.isSome then (s.lateOpen o.ticket 0 (o.refused.getD 0)).finishOp o.part o.ctx o.n
    else if g.broken then s.opError o (BitVec.ofNat 8 cPoison) 1 va
    else if g.multicast && !g.root then s.opError o cMode 53 va
    else if 2 ≤ (g.steps.filter fun x => x.own.isSome).length then s
    else
      let bytes := hs.map fun h => ((s.groupHit o.part h).map fun x => x.1 % 2 ^ 40, s.haulBytes o h)
      let at' (i : Nat) : Byte × Bool :=
        (bytes.findSome? fun b => match b.1 with
          | some a => if a ≤ i then b.2[i - a]? else none
          | none => none).getD (0, false)
      let all := (List.range g.len).map at'
      let bad := (List.range g.len).filter fun i => (at' i).2
      (s.setGroup o.part gi (g.take (all.map (·.1)) bad !(s.runs o.part))).finishOp o.part o.ctx o.n
  | need =>
    match o.refused with
    | some va => (s.lateOpen o.ticket 0 va).finishOp o.part o.ctx o.n
    | none => s.fetchLines o need

/-- COPY_COMPLETE (R352, R429). -/
def execCopyComplete (p ctx n : Nat) (s : State) : Out :=
  match s.runningOp p ctx n with
  | some o =>
    (match o.kind with
      | .cpy d =>
        let (t, hs, h) := s.haul o d.legs
        let hits := hs.filterMap (s.groupHit p)
        .next (if s.opAwaits o ∨ o.sent then s.runOp o d.legs fun _ _ s => s
          else if hits.isEmpty then
            match s.groupSource o.part hs with
            | some va => t.opError o cMode 52 va
            | none => s.runOp o d.legs fun _ _ s => s
          else match h with
            | .miss k va acc => t.opFault o k va acc
            | .hold => s
            | .err c d va => t.opError o c d va
            | .none => t.contribute o hs hits)
      | _ => .next s)
  | none => .next s

/-! ## Gathers (R354) -/

/-- The index list of a gather is read from the row in progress on, then `rows` acts on the rows' legs, with the messages that rows of poisoned
indices send as they are written (R354). -/
def State.gatherRows (s : State) (o : EngOp) (d : GathDesc)
    (rows : State → List Leg → (Nat → Nat → State → State) → State) : State :=
  let first := o.pos / d.row
  let (t, hs, h) := s.haul o (d.indexLegs.drop first)
  match h with
  | .miss k va acc => t.opFault o k va acc
  | .hold => s
  | .err c e va => t.opError o c e va
  | .none =>
    match remoteNeeds o hs with
    | [] =>
      let xs := List.replicate first [] ++ hs.map (t.haulBytes o)
      let bad := (List.range d.count).filter fun i => (xs.getD i []).any (·.2)
      let legs := (List.range d.count).map fun i => d.rowLeg i (indexValue d ((xs.getD i []).map (·.1))) (bad.contains i)
      let ends (lo hi i : Nat) : Bool := decide (lo < (i + 1) * d.row ∧ (i + 1) * d.row ≤ hi)
      rows t legs fun lo hi s => (bad.filter (ends lo hi)).foldl (fun s i => s.lateError o.ticket cPoison 1 0 (d.idx + i * d.width)) s
    | need =>
      match o.refused with
      | some va => (t.lateOpen o.ticket 0 va).finishOp o.part o.ctx o.n
      | none => t.fetchLines o need

/-- GATHER_COMPLETE (R354): the index list is read, then the rows. -/
def execGatherComplete (p ctx n : Nat) (s : State) : Out :=
  match s.runningOp p ctx n with
  | some o =>
    (match o.kind with
      | .gath d => if s.opAwaits o then .next s else .next (s.gatherRows o d fun s ls wrote => s.runOp o ls wrote)
      | _ => .next s)
  | none => .next s

/-! ## Prefetches and fills (R355, R356) -/

/-- PREFETCH_COMPLETE (R355): lines that can be had without a walk are requested; it has no effect that a program sees. -/
def execPrefetchComplete (p ctx n : Nat) (s : State) : Out :=
  match s.runningOp p ctx n with
  | some o =>
    (match o.kind with
      | .pref va len hint cdc cluster =>
        let lines := (List.range ((va % 128 + len + 127) / 128)).map fun i => va / 128 * 128 + 128 * i
        let s := if cdc && hint != 4 && hint != 5 then
            lines.foldl (fun s a =>
              match permCheck accRead (s.xlate p a) with
              | .ok t =>
                if t.place = .device ∧ pteMode t.entry ≠ 1 ∧ (s.linePoison .device (t.pa / 128)).isEmpty ∧
                    (cdcFind s.cdc cluster .device (t.pa / 128)).isNone then
                  s.requestFill cluster .device (t.pa / 128) t.entry
                else s
              | _ => s) s
          else s
        .next (s.finishOp p ctx n)
      | _ => .next s)
  | none => .next s

/-- Two lines stand in one set of one cluster's cache: 1,024 sets (R264), by a function that the spec does not give. DESIGN CHOICE, log 12. -/
def CdcLine.sameSet (x y : CdcLine) : Bool := x.cluster == y.cluster && Config.cdcSet x.line % 1024 == Config.cdcSet y.line % 1024

/-- The cache's lines with room for one more in its set: a full set of 16 ways loses a line, which the spec does not name (R264).
DESIGN CHOICE, log 12. -/
def cdcRoom (cdc : List CdcLine) (x : CdcLine) (free : Nat) : List CdcLine :=
  let set := cdc.filter x.sameSet
  if set.length < 16 then cdc
  else
    match set[free % set.length]? with
    | some v => cdc.filter fun y => y != v
    | none => cdc

/-- CDC_FILL (R264, R356): a fill that no acquire has discarded is installed, in place of a line of its set where that is full.
DESIGN CHOICE, log 12. -/
def execCdcFill (cluster line : Nat) (s : State) : Out :=
  match s.fills.find? fun x => x.cluster == cluster && x.line == line with
  | none => .next s
  | some x =>
    let cdc := s.cdc.filter fun y => !(y.cluster == x.cluster && y.place == x.place && y.line == x.line)
    .next { s with
      fills := s.fills.filter fun y => y != x
      fresh := s.fresh + 1
      cdc := x :: cdcRoom cdc x (Config.freeWord s.fresh).toNat }

/-! ## Clearing and retirement (R358, R359, R363) -/

/-- A 4 KiB frame is retired (R359): no owner, score 255, and a record to the fault mailbox of a partition. -/
def State.retireFrame (s : State) (p frame : Nat) : State :=
  { s with owners := ⟨frame, frame + 1, 64⟩ :: s.owners, scores := Tab.set s.scores frame 255 }.pushMsg p
    (layBytes [(1, 6), (7, 0), (8, 4096 * frame), (1, 255), (47, 0)])

/-- The retirement score of a frame after an error in it: 64 for an uncorrectable one, 1 for a corrected one (R359). DESIGN CHOICE, log 102. -/
def State.scoreError (s : State) (frame points : Nat) : State :=
  if s.ownerAt (4096 * frame) = 64 then s
  else
    { s with
      scores := Tab.set s.scores frame (min 255 (Tab.get s.scores frame 0 + points))
      dirtyScores := if s.dirtyScores.contains frame then s.dirtyScores else frame :: s.dirtyScores }

/-- The retirement score of one frame after a `clr` (R359). DESIGN CHOICE, log 102. -/
def State.scoreClr (s : State) (p frame : Nat) (bad : Bool) : State :=
  if s.ownerAt (4096 * frame) = 64 then s
  else
    let old := Tab.get s.scores frame 0
    let new := if bad then min 255 (old + 64) else if s.dirtyScores.contains frame then old else old - 1
    let s := { s with dirtyScores := s.dirtyScores.filter (· != frame) }
    if bad ∨ 128 ≤ new then s.retireFrame p frame
    else if old = 0 then s else { s with scores := Tab.set s.scores frame new }

/-- The first bytes of a frame that a `clr` in progress has written when a context stop reaches it: whole lines (R390). -/
def State.clearPart (s : State) (pa lo hi owner : Nat) : State :=
  let t := s.doom .device (pa + lo) (hi - lo)
  { t with
    dev := t.dev.erase (pa + lo) (pa + hi)
    tags := ⟨(pa + lo) / 128, (pa + hi) / 128, owner, Tab.get t.epochs owner 0⟩ :: t.tags }.cdcPurge .device (pa + lo) (hi - lo)

/-- Makes a range of frames an owner's and its lines zero under the owner's key, from the first line on that is not clear yet; a retired frame stays retired (R358, R363, R364). -/
def State.clearRange (s : State) (pa done size owner : Nat) : State :=
  let lo := pa / 4096
  let hi := (pa + size) / 4096
  let retired := ((s.owners.filter fun r => r.owner == 64).filter fun r => ownerIn s.owners r.lo == 64 && decide (lo ≤ r.lo ∧ r.lo < hi))
  { s with
    dev := s.dev.erase (pa + done) (pa + size)
    owners := retired ++ ⟨lo, hi, owner⟩ :: s.owners
    tags := ⟨(pa + done) / 128, (pa + size) / 128, owner, Tab.get s.epochs owner 0⟩ :: s.tags }

/-- CLEAR_COMPLETE (R358, R359): the frame is cleared; `bad` lists the 4 KiB frames whose read-back failed. DEDUCED, log 104. -/
def execClearComplete (p ctx n : Nat) (bad : List Nat) (s : State) : Out :=
  match s.runningOp p ctx n with
  | some o =>
    (match o.kind with
      | .clr pa size owner =>
        let t := ((s.doom .device (pa + o.pos) (size - o.pos)).clearRange pa o.pos size owner).cdcPurge .device pa size
        let frames := ((bad ++ t.scores.map (·.1)).eraseDups).filter fun f => decide (pa / 4096 ≤ f ∧ f < (pa + size) / 4096)
        let t := frames.foldl (fun t f => t.scoreClr p f (bad.contains f)) t
        let t := t.modPart p fun x => { x with migUsed := x.migUsed.filter fun u => !(decide (u.1 < pa + size ∧ pa < u.1 + u.2)) }
        .next (t.finishOp p ctx n)
      | _ => .next s)
  | none => .next s

/-! ## Migration (R339, R340, R357) -/

/-- The target of a move is the page's place and home already. -/
def moveDone (t : Trans) (numa : Bool) (die : Nat) : Bool :=
  t.place == .device && pteNuma t.entry == numa && (!numa || pteDie t.entry == die)

/-- The first leaf of a page. -/
def firstLeaf (t : Trans) (va : Nat) : Nat := t.leaf - 8 * (va % t.page / 2 ^ (12 + 9 * pageLevel (pteSize t.entry)))

/-- A move of the page at a base. -/
def Move.of (m : Move) (p base : Nat) : Bool := m.part == p && m.va == base

/-- Queues a move of the page at an address, for an operation or of the engine's own accord; an address whose page is moving already joins that
move (R357), and so does a request for a target that a queued move has. -/
def State.queueMove (s : State) (p va : Nat) (t : Trans) (numa : Bool) (die : Nat) (ops : List (Nat × Nat)) : State :=
  let base := va / t.page * t.page
  match s.moves.find? fun m => m.of p base && (m.flying || (m.numa == numa && m.die == die)) with
  | some m => { s with moves := s.moves.map fun (x : Move) => if x.id = m.id then { x with ops := x.ops ++ ops } else x }
  | none =>
    { s with
      nextId := s.nextId + 1
      moves := s.moves ++ [{ id := s.nextId, part := p, va := base, leaf := firstLeaf t va, size := pteSize t.entry, oldPlace := t.place,
                             oldPa := t.pa - va % t.page, newPa := 0, numa := numa, die := die, flying := false, ops := ops }] }

/-- A `mig` whose page had no translation when it started, and that the pager lets go on (R337, R338): it has no move yet. DEDUCED, log 103. -/
def State.migRetries (s : State) (o : EngOp) : Bool :=
  match o.kind with
  | .mig _ _ _ => o.started && o.fault.isNone && !s.moves.any fun m => m.part == o.part && m.ops.contains (o.ctx, o.n)
  | _ => false

/-- The next operation of a context to start (R342): the first that has not started, unless a stop holds it. -/
def State.nextOp (s : State) (p ctx : Nat) : Option EngOp :=
  (s.ops.find? fun o => o.part == p && o.ctx == ctx && !o.started).filter fun o => !o.held

/-- ENGINE_OP_START (R342): operations of a context start in number order; a `mig` queues its move, stalls where its page has no translation any
more (R337), or ends at once where there is no move to make (R357). DEDUCED, log 103. -/
def execEngineOpStart (p ctx : Nat) (s : State) : Out :=
  match (s.nextOp p ctx).or
      (s.ops.find? fun o => o.part == p && o.ctx == ctx && !o.held && s.migRetries o) with
  | none => .next s
  | some o =>
    let s := s.modOp o fun x => { x with started := true }
    .next (match o.kind with
      | .mig va numa die =>
        (match s.lookUp p va with
          | (.ok t, s) =>
            if moveDone t numa die ∧ ¬s.moves.any (fun m => m.flying && m.of p (va / t.page * t.page)) then s.finishOp p ctx o.n
            else s.queueMove p va t numa die [(ctx, o.n)]
          | (.miss k _, s) => s.opFault o k va accRead
          | (.noncanon, s) => s.finishOp p ctx o.n)
      | _ => s)

/-- YIELD_RESUME (R349): the operation that a yielded warp waits for has completed. -/
def execYieldResume (w : Nat) (s : State) : Out :=
  match s.findWarp w with
  | some x =>
    (match x.wait with
      | .engine ctx n cont d =>
        if n ≤ (s.ctxOf x.ident.part ctx).t ∧ !x.evicted then
          .next ((s.acquireCluster (s.clusterOf x)).modPair w fun y => { y.sset d (BitVec.ofNat 64 n) with wait := .none, pc := cont })
        else .next s
      | _ => .next s)
  | none => .next s

/-- MIGRATION_THRESHOLD (R339): a page's counter has reached the threshold, and its move is queued, of a NUMA page to the die of the access that
reached it, which the event names. -/
def execMigrationThreshold (p : Nat) (va : VA) (die : Nat) (s : State) : Out :=
  match s.xlate p va.toNat with
  | .ok t =>
    let k := migKey p va.toNat t.page
    let th := (s.part p).cfg.migth
    let numa := t.place = .device ∧ pteNuma t.entry
    if th ≠ 0 ∧ t.page ≤ 2 ^ 21 ∧ th ≤ Tab.get s.migCounts k 0 ∧ (if numa then die = Tab.get s.migDies k 0 else t.place = .host) then
      .next ({ s with migCounts := Tab.del s.migCounts k }.queueMove p va.toNat t (decide numa) (if numa then die else 0) [])
    else .next s
  | _ => .next s

/-- MIGRATION_COUNTER_HALVING (R339). -/
def execMigrationCounterHalving (s : State) : Out := .next { s with migCounts := s.migCounts.map fun c => (c.1, c.2 / 2) }

/-- The frame that a move takes from its partition's migration pool: the lowest aligned one that is free and not retired. -/
def State.poolFrame (s : State) (p size : Nat) : Option Nat :=
  let x := s.part p
  let first := (x.cfg.migBase + size - 1) / size
  (List.range (x.cfg.migSize / size)).findSome? fun i =>
    let a := size * (first + i)
    if a + size ≤ x.cfg.migBase + x.cfg.migSize ∧ ¬(x.migUsed.any fun u => decide (u.1 < a + size ∧ a < u.1 + u.2)) ∧
        ¬((List.range (size / 4096)).any fun j => s.retiredAt (a + 4096 * j)) then some a else none

/-- The record of a move (R340). -/
def moveRecord (va old new : Nat) : List Byte := layBytes [(1, 7), (7, 0), (8, va), (8, old), (8, new), (32, 0)]

/-- A move is over: its operations complete, and the page's counter is cleared. -/
def State.moveOver (s : State) (m : Move) : State :=
  let s := { s with
    moves := s.moves.filter fun x => x.id != m.id
    migCounts := Tab.del s.migCounts (migKey m.part m.va (pageBytes m.size)) }
  m.ops.foldl (fun s o => s.finishOp m.part o.1 o.2) s

/-- No context stop holds a move or an operation that asked for it (R390). -/
def State.moveFree (s : State) (m : Move) : Bool :=
  (s.part m.part).stop.isNone && !s.ops.any fun o => o.held && o.part == m.part && m.ops.contains (o.ctx, o.n)

/-- MOVE_START (R340): the first queued move starts while fewer than 8 are in flight. DESIGN CHOICE, log 44; DEDUCED, log 103. -/
def execMoveStart (s : State) : Out :=
  if Config.movesInFlight ≤ (s.moves.filter (·.flying)).length then .next s
  else
    match s.moves.find? fun m => !m.flying && s.moveFree m && !s.moves.any (fun x => x.flying && x.of m.part m.va) with
    | none => .next s
    | some m =>
      match s.xlate m.part m.va with
      | .ok t =>
        if moveDone t m.numa m.die ∨ t.place = .remote ∨ 2 ^ 21 < t.page then .next (s.moveOver m)
        else
          (match s.poolFrame m.part t.page with
            | none => .next ((s.moveOver m).pushMsg m.part (moveRecord m.va (t.pa - m.va % t.page) 0))
            | some a =>
              let m := { m with leaf := firstLeaf t m.va, size := pteSize t.entry, oldPlace := t.place, oldPa := t.pa - m.va % t.page,
                                newPa := a, flying := true }
              let s := { s with moves := s.moves.map fun (x : Move) => if x.id = m.id then m else x }
              let s := s.modPart m.part fun x => { x with migUsed := x.migUsed ++ [(a, t.page)] }
              .next (s.setMoving m true))
      | _ => .next (s.moveOver m)

/-- Rewrites an address that lies in a moved page. -/
def Move.addr (m : Move) (p : Place) (pa : Nat) : Place × Nat :=
  if p = m.oldPlace ∧ m.oldPa ≤ pa ∧ pa < m.oldPa + pageBytes m.size then (.device, pa - m.oldPa + m.newPa) else (p, pa)

/-- A carrel entry of a moved page goes to its new place (R340). -/
def Move.entry (m : Move) : CarrelEnt → CarrelEnt
  | .store p a bs t l va => .store (m.addr p a).1 (m.addr p a).2 bs t l va
  | .atomic p a op ty y z r t l va => .atomic (m.addr p a).1 (m.addr p a).2 op ty y z r t l va
  | e => e

/-- The same of a store or atomic that waits for the shadow. -/
def Move.held (m : Move) : Held → Held
  | .mem e => .mem (m.entry e)
  | h => h

/-- What a warp keeps of physical addresses follows a move; a move is not a write (R319, R340). -/
def Move.warp (m : Move) (w : Warp) : Warp :=
  { w with
    carrel := w.carrel.map m.entry
    task := w.task.map fun (t : Task) =>
      { t with
        carrel := t.carrel.map m.entry
        readSet := t.readSet.map fun x => ((m.addr x.1 (128 * x.2)).1, (m.addr x.1 (128 * x.2)).2 / 128) } }

/-- A leaf of a moved page: the new frame, place and home, MOVING clear. -/
def movedLeaf (m : Move) (e : Nat) : Nat :=
  let e := BitVec.ofNat 64 e
  let keep := e &&& ~~~((0xFF#64 <<< 52 &&& 0x1F#64 <<< 52) ||| (0xFFFFFFFFFF#64 <<< 12) ||| (7#64 <<< 9))
  (keep ||| (BitVec.ofNat 64 m.newPa) ||| (BitVec.ofNat 64 (if m.numa then m.die else 0) <<< 53) ||| (BitVec.ofBool m.numa).setWidth 64 <<< 56).toNat

/-- MOVE_COMPLETE (R340): every line is copied with its poison, the leaves are rewritten, and the record goes out.
DESIGN CHOICE, log 44; DEDUCED, log 104. -/
def execMoveComplete (id : Nat) (s : State) : Out :=
  match s.moves.find? fun m => m.id == id && m.flying with
  | none => .next s
  | some m =>
    let n := pageBytes m.size
    let t := s.devWrite m.newPa (s.placeRead m.oldPlace m.oldPa n)
    let t := t.placeCleanse .device m.newPa n
    let t := (List.range (n / 8)).foldl (fun t i =>
      if s.placePoisoned m.oldPlace (m.oldPa + 8 * i) 8 then t.placeTaint .device (m.newPa + 8 * i) 8 else t) t
    let leaves := n / 2 ^ (12 + 9 * pageLevel m.size)
    let t := (List.range leaves).foldl (fun t i =>
      let a := m.leaf + 8 * i
      t.devWrite a (natToBytes 8 (movedLeaf m (leAt (t.devRead a 8) 0 8)))) t
    let t := (t.cdcPurge m.oldPlace m.oldPa n).cdcPurge .device m.newPa n
    let t := { t with
      warp := m.warp t.warp
      others := t.others.map m.warp
      shadows := t.shadows.map m.warp
      pairs := t.pairs.map fun (x : Nat × List Ahead) => (x.1, x.2.map fun (a : Ahead) => { a with stores := a.stores.map m.held }) }
    .next ((t.moveOver m).pushMsg m.part (moveRecord m.va m.oldPa m.newPa))

end Sys2Proof.Machine
end

