-- ==== Sys2Proof/Machine/Distributor.lean ====
section
/-! DEFINITION. The distributor's operations (R217, R219 to R221, R329, R380 to R384): blocking points and wake conditions, free cores, placement,
drains and eviction. -/

namespace Sys2Proof.Machine

/-! ## Blocking points (R218) and wake conditions (R220) -/

/-- The blocking points of R218. -/
def Wait.blocking : Wait → Bool
  | .barrier _ _ => true
  | .take _ _ _ => true
  | .remote _ => true
  | .twin _ => true
  | .engine _ _ _ _ => true
  | .link _ _ => true
  | .commit => true
  | _ => false

/-- The warp waits at a blocking point: each of its arms does or has joined. -/
def Warp.blocked (w : Warp) : Bool :=
  match w.fork with
  | none => w.wait.blocking
  | some f =>
    let still (x : Wait) : Bool := x.blocking || x == .joined
    still w.wait && (f.held || still f.other.wait) && (w.wait.blocking || f.other.wait.blocking)

/-- A translation fault has parked a stream. -/
def Wait.parked : Wait → Bool
  | .xlate _ => true
  | _ => false
/-- The warp is parked (R189): while it is forked, each arm is parked, waits at a blocking point, has joined or is held by a trap, and one is
parked (R188, R221). -/
def Warp.parked (w : Warp) : Bool :=
  match w.fork with
  | none => w.wait.parked
  | some f =>
    let still (x : Wait) : Bool := x.parked || x.blocking || x == .joined
    still w.wait && (f.held || still f.other.wait) && (w.wait.parked || f.other.wait.parked)

/-- The wake condition of a wait of a warp is met. -/
def State.waitMet (s : State) (w : Warp) (x : Wait) : Bool :=
  let s := { s with warp := w }
  match x with
  | .none => true
  | .order => true
  | .regroup _ _ => true
  | .regfile _ => true
  | .barrier _ t =>
    let b := s.bar w.ident.part (field t 0 14)
    t.extractLsb' 56 8 != b.gen || b.abandoned || b.left (t.extractLsb' 24 32)
  | .take grid _ _ =>
    (s.dequeOf w.ident.crew != []) || ((s.searchOrder grid).any fun k => s.dequeOf k.1 != []) || s.quiescent w.ident (some w.id) grid
  | .twin _ | .entry _ =>
    (match s.twinOf w with
      | some p => p.posted
      | none => true)
  | .engine ctx n _ _ => decide (n ≤ (s.ctxOf w.ident.part ctx).t)
  | .link c n =>
    (match s.timeline c with
      | some x => decide (n ≤ x.2)
      | none => true)
  | .firmware => true
  | _ => false

/-- The wake condition of a warp is met (R220); while it is forked, that of one of its arms. -/
def State.wakeMet (s : State) (w : Warp) : Bool := s.waitMet w w.wait || (w.fork.any fun f => s.waitMet w f.other.wait)

/-! ## Clusters and cores (R274, R279, R381) -/

/-- A compute die (R279). DEDUCED, log 59. -/
def State.die (s : State) (d : Nat) : Die := Tab.get s.dies d .blank
/-- Applies a function to a compute die. -/
def State.modDie (s : State) (d : Nat) (f : Die → Die) : State := { s with dies := Tab.set s.dies d (f (s.die d)) }

/-- The physical cluster of a catalogue entry, and whether the entry is valid (R274). -/
def entryCluster (e : W64) : Nat := field e 5 3 * 17 + field e 0 5
def entryValid (e : W64) : Bool := e.getLsbD 8

/-- A physical cluster may hold crews: its die is ACTIVE and it has passed its test. -/
def State.clusterUp (s : State) (c : Nat) : Bool := (s.die (c / 17)).state == .active && !(s.die (c / 17)).bad.contains (c % 17)

/-- The crew that a core holds. -/
def State.holder (s : State) (k : CoreId) : Option Crew := s.crews.find? fun c => c.core == some k

/-- A core is free: it holds no crew and is not fenced (R233, R381). DEDUCED, log 72. -/
def State.coreFree (s : State) (k : CoreId) : Bool := (s.holder k).isNone && !(s.die k.die).fencedCores.contains (4 * k.pcl + k.core)

/-- The free cores of a cluster, in ascending order. -/
def State.freeCores (s : State) (c : Nat) : List CoreId :=
  ((List.range 4).map fun i => (⟨c / 17, c % 17, i⟩ : CoreId)).filter s.coreFree

/-- The physical cluster of a core. -/
def clusterOfCore (k : CoreId) : Nat := 17 * k.die + k.pcl

/-- The valid cluster shelfmarks of a partition, ascending. -/
def Part.shelves (x : Part) : List Nat := (List.range 128).filter fun i => entryValid (Tab.get x.clusters i 0)
/-- The TCL clusters of the highest valid shelfmarks are reserved; the others are not (R381). -/
def Part.reserved (x : Part) : List Nat := x.shelves.drop (x.shelves.length - x.cfg.tcl)
def Part.unreserved (x : Part) : List Nat := x.shelves.take (x.shelves.length - x.cfg.tcl)

/-- A team of some crews fits the cluster of a shelfmark. -/
def State.fits (s : State) (p crews shelf : Nat) : Bool :=
  let c := entryCluster (Tab.get (s.part p).clusters shelf 0)
  s.clusterUp c && decide (crews ≤ (s.freeCores c).length)

/-- The cluster of a shelfmark holds no crew. -/
def State.emptyShelf (s : State) (p shelf : Nat) : Bool :=
  let c := entryCluster (Tab.get (s.part p).clusters shelf 0)
  !s.crews.any fun x => x.core.any fun k => clusterOfCore k == c

/-! ## Teams -/

/-- The crews of a team. -/
def State.teamCrews (s : State) (t : Team) : List Crew := s.crews.filter fun c => c.grid == t.grid && c.team == t.num
/-- The live warps of a team. -/
def State.teamWarps (s : State) (t : Team) : List Warp := s.warps.filter fun w => w.ident.grid == t.grid && w.ident.team == t.num
/-- The partition of a team. -/
def State.teamPart (s : State) (t : Team) : Nat := ((s.grid? t.grid).map (·.part)).getD 32

/-- A team waits for placement: it has never been placed, or it is saved and a wake condition of one of its warps is met (R380). -/
def State.teamWaits (s : State) (t : Team) : Bool :=
  t.cluster.isNone && ((s.teamCrews t).any (·.state == .waiting) ||
    ((s.teamCrews t).any (·.state == .saved) && (s.teamWarps t).any fun w => s.wakeMet w))

/-- The place of a team in the order of R381: `TIMED` first, then arrival, then team number. -/
def State.teamKey (s : State) (t : Team) : Nat × Nat × Nat :=
  match s.grid? t.grid with
  | some g => (if g.desc.timed then 0 else 1, g.arrival, t.num)
  | none => (2, 0, 0)

/-- Order of placement. -/
def keyLt (a b : Nat × Nat × Nat) : Bool :=
  decide (a.1 < b.1) || (a.1 == b.1 && (decide (a.2.1 < b.2.1) || (a.2.1 == b.2.1 && decide (a.2.2 < b.2.2))))

/-- The waiting teams of a partition. -/
def State.waitingTeams (s : State) (p : Nat) : List Team := s.teams.filter fun t => s.teamPart t == p && s.teamWaits t

/-- The first waiting team of a partition (R381). -/
def State.firstTeam (s : State) (p : Nat) : Option Team :=
  (s.waitingTeams p).foldl (fun r t =>
    match r with
    | none => some t
    | some u => if keyLt (s.teamKey t) (s.teamKey u) then some t else some u) none

/-! ## The part's share of the pool (R16, R219, R329) -/

/-- Bytes of the areas that one crew takes until it is DONE or KILLED. DESIGN CHOICE, log 61; DEDUCED, log 101. -/
def Desc.crewAreas (d : Desc) : Nat :=
  let regs := if Config.residentVregs < d.regs then 256 * d.regs else 0
  d.warps * (regs + 128 * Config.carrelLines) + d.wext + d.aext + d.cext + Config.saveAreaBytes d.warps
/-- Bytes of the areas that a team's crews take when it is placed. DESIGN CHOICE, log 61. -/
def Desc.areas (d : Desc) : Nat := d.crews * d.crewAreas

/-- The crew holds its areas (R329). -/
def CrewState.hasAreas : CrewState → Bool
  | .waiting => false
  | .placed => true
  | .marked => true
  | .saved => true
  | .held => true
  | .done => false
  | .killed => false

/-- The areas that a partition's crews hold. DEDUCED, log 101. -/
def State.areasHeld (s : State) (p : Nat) : Nat :=
  (s.crews.filter fun c => ((s.grid? c.grid).map (·.part)) == some p && c.state.hasAreas).foldl (fun n c => n + (s.descOf c.grid).crewAreas) 0

/-- A team that has never been placed finds room in the part's share; any other holds its areas already. DEDUCED, log 101. -/
def State.areasFit (s : State) (t : Team) : Bool :=
  let p := s.teamPart t
  !((s.teamCrews t).any (·.state == .waiting)) || decide (s.areasHeld p + (s.descOf t.grid).areas ≤ (s.part p).cfg.hwres)

/-! ## Placement (R217, R221, R381) -/

/-- A crew takes its core. -/
def Crew.seat (c : Crew) (k : CoreId) : Crew :=
  match c.state with
  | .waiting => { c with state := .placed, core := some k }
  | .saved => { c with state := .placed, core := some k }
  | .held => { c with core := some k }
  | _ => c

/-- A team is placed whole into the cluster of a shelfmark: the cluster's cache makes the acquire of a launch's start (R307) or, at a later
placement, the acquires that the team's warps have made elsewhere (R292), its crews take the free cores in ascending order, its held slips go
on, and its warps that need not wait become ready. A crew of no warp that was SAVED is DONE or HELD. DEDUCED, logs 65, 115. -/
def State.placeTeam (s : State) (t : Team) (shelf : Nat) : State :=
  let p := s.teamPart t
  let c := entryCluster (Tab.get (s.part p).clusters shelf 0)
  let n := (s.descOf t.grid).crews
  let cores := (s.freeCores c).take n
  let first := (s.teamCrews t).any (·.state == .waiting)
  let ready := (s.teamWarps t).filter fun w => first || s.wakeMet w || w.parked
  let s := (cores.zip (List.range n)).foldl (fun s k =>
    (s.modCrew t.grid (n * t.num + k.2) (·.seat k.1)).crewAfter t.grid (n * t.num + k.2)) (s.acquireCluster c)
  let s := s.modTeam t.grid t.num fun (x : Team) => { x with shelf := some shelf, cluster := some c }
  let s := { s with slips := s.slips.map fun (x : Slip) => if x.grid = t.grid ∧ x.team = t.num then { x with held := false, cluster := c } else x }
  ready.foldl (fun s w => s.modPair w.id fun (w : Warp) => { w with evicted := false }) s

/-- A write of the shelfmark's entry waits for the crews of the old cluster: no team is placed through the old entry (R385). -/
def Part.changing (x : Part) (shelf : Nat) : Bool := x.newCluster.any fun e => e.1 == shelf

/-- The shelfmark where a team is placed on the part (R381): for a `TIMED` team the first reserved cluster without a crew, else the first
unreserved one that it fits. -/
def State.shelfFor (s : State) (t : Team) : Option Nat :=
  let p := s.teamPart t
  let d := s.descOf t.grid
  if d.timed then (s.part p).reserved.find? fun i => !(s.part p).changing i && s.emptyShelf p i && s.fits p d.crews i
  else (s.part p).unreserved.find? fun i => !(s.part p).changing i && s.fits p d.crews i

/-- Places a team where it fits; nothing where it does not. -/
def State.tryPlace (s : State) (t : Team) : State :=
  match s.shelfFor t with
  | some i => if s.areasFit t then s.placeTeam t i else s
  | none => s

/-! ## Drains and eviction (R221, R383) -/

/-- What stays of a crew's buffers (R221): the bytes below the extents of its descriptor. -/
def Crew.trim (c : Crew) (d : Desc) : Crew :=
  { c with bufW := c.bufW.erase d.wext Config.bufBytes, bufA := c.bufA.erase d.aext Config.bufBytes, bufC := c.bufC.erase d.cext Config.bufBytes }

/-- A crew leaves its core for its save area. DEDUCED, log 64. -/
def Crew.leave (c : Crew) (d : Desc) : Crew :=
  match c.state with
  | .placed => { c.trim d with state := .saved, core := none }
  | .marked => { c.trim d with state := .saved, core := none }
  | .held => { c.trim d with core := none }
  | _ => c

/-- A team leaves its cluster (R221). -/
def State.evictTeam (s : State) (t : Team) : State :=
  let d := s.descOf t.grid
  let ids := (s.teamWarps t).map (·.id)
  let s := { s with crews := s.crews.map fun (c : Crew) => if c.grid = t.grid ∧ c.team = t.num then c.leave d else c }
  let s := s.modTeam t.grid t.num fun (x : Team) => { x with shelf := none, cluster := none }
  ids.foldl (fun s i => s.modPair i fun (w : Warp) => { w with evicted := true }) s

/-- A team may leave: every live warp of it is evicted or parked, with no word ahead of its shadow, and no slip or transfer of it is under way
(R221, R235, R262). -/
def State.teamIdle (s : State) (t : Team) : Bool :=
  ((s.teamWarps t).all fun w => (w.evicted || w.parked) && (Tab.get s.pairs w.id []).isEmpty) && !(s.slips.any fun x => x.grid == t.grid && x.team == t.num) &&
    (!s.transfers.any fun x => x.grid == t.grid && (x.team == t.num || x.dstTeam == t.num)) &&
    !s.ops.any fun o => (s.teamCrews t).any fun c => o.holds t.grid c.num

/-- No crew of a team is PLACED or MARKED, and nothing of it is under way: it may leave its cores though none of its crews is SAVED.
DEDUCED, log 64. -/
def State.teamLeft (s : State) (t : Team) : Bool :=
  t.cluster.isSome && !((s.teamCrews t).any fun c => c.state == .placed || c.state == .marked) && s.teamIdle t

/-! ## Killing (R197, R383) -/

/-- A crew is killed: its warps halt with `DRAIN`, and its deque is discarded. It stays on its core while an operation writes a buffer of it
(R347). -/
def State.killCrew (s : State) (g c : Nat) : State :=
  let s := (s.crewWarps g c).foldl (fun s w => s.haltAt w cDrain 0 0 0 w.ticket) s
  s.modCrew g c fun x => { x with state := .killed, core := if s.ops.any fun o => o.holds g c then x.core else none, deque := [] }

/-- A drain marks the crews of a team (R383), which leave only together (R221); a team that holds nothing but tokens leaves at once. A drain
limit of 0 applies DRAINACT at once (R362). DEDUCED, log 64. -/
def State.drainTeam (s : State) (t : Team) : State :=
  let cfg := (s.part (s.teamPart t)).cfg
  if (s.teamCrews t).any fun c => c.state == .placed || c.state == .marked then
    if cfg.drain = 0 ∧ cfg.flags = 1 then
      ((s.teamCrews t).filter fun c => c.state == .placed || c.state == .marked).foldl (fun s c => s.killCrew c.grid c.num) s
    else
    { s with crews := s.crews.map fun (c : Crew) =>
        if c.grid = t.grid ∧ c.team = t.num ∧ c.state = .placed then { c with state := .marked } else c }
  else if s.teamLeft t then s.evictTeam t
  else s

/-- The teams of a partition that stand in a cluster. -/
def State.placedTeams (s : State) (p : Nat) : List Team := s.teams.filter fun t => s.teamPart t == p && t.cluster.isSome

/-- Drains every placed team of a partition that a test selects. -/
def State.drainWhere (s : State) (p : Nat) (f : Team → Bool) : State := ((s.placedTeams p).filter f).foldl State.drainTeam s

/-- A drain that is no longer needed is withdrawn (R383): the crews are PLACED again, and one without a warp goes on from there (R380). -/
def State.undrain (s : State) (t : Team) : State :=
  let s' := { s with crews := s.crews.map fun (c : Crew) =>
      if c.grid = t.grid ∧ c.team = t.num ∧ c.state = .marked then { c with state := .placed } else c }
  let s' := (s.teamCrews t).foldl (fun s c => s.crewAfter c.grid c.num) s'
  (s.teamWarps t).foldl (fun s w => s.modPair w.id fun (w : Warp) => { w with evicted := false }) s'

/-- Crews of a partition are placed, PLACED or MARKED, in one cluster or in any. -/
def State.crewsOn (s : State) (p : Nat) (c : Option Nat) : Bool :=
  s.crews.any fun x => ((s.grid? x.grid).map (·.part)) == some p && (x.state == .placed || x.state == .marked) &&
    x.core.any fun k => c.isNone || c == some (clusterOfCore k)

/-- The teams of a partition that only hold tokens leave their cores. -/
def State.evictLeft (s : State) (p : Nat) : State := ((s.placedTeams p).filter s.teamLeft).foldl State.evictTeam s

end Sys2Proof.Machine
end

