-- ==== Sys2Proof/Machine/Range.lean ====
section
/-! DEFINITION. Accesses that the units of the base die make to virtual addresses of a partition (R337, R346, R348, R420). -/

namespace Sys2Proof.Machine

/-- A part of a range that lies in one 4 KiB page, or in one line of a remote module. -/
structure Chunk where
  t : Trans
  off : Nat
  len : Nat
  deriving DecidableEq, Repr

/-- The parts of a range of virtual addresses, up to the first that cannot be accessed; the fuel is a bound on their number. -/
def State.chunks (p va acc : Nat) : Nat → State → Nat → Nat → List Chunk → Hitch × List Chunk × State
  | 0, s, _, _, cs => (.none, cs, s)
  | k + 1, s, off, len, cs =>
    if len = 0 then (.none, cs, s)
    else
      let a := (va + off) % 2 ^ 64
      let n := min len (128 - a % 128)
      match s.access p a acc with
      | (.ok t, s) => State.chunks p va acc k s (off + n) (len - n) (cs ++ [⟨t, off, n⟩])
      | (.miss w, s) => (.miss w a acc, cs, s)
      | (.cause c d, s) => (.err c d a, cs, s)

/-- The lines of a range. -/
def State.range (s : State) (p va len acc : Nat) : Hitch × List Chunk × State := State.chunks p va acc (len / 128 + 2) s 0 len []

/-- The bytes of a range that this module holds, and whether one of them is poisoned or stands in another module. -/
def State.chunkRead (s : State) (cs : List Chunk) : List Byte × Bool :=
  (cs.flatMap fun c => s.placeRead c.t.place c.t.pa c.len, cs.any fun c => c.t.place == .remote || s.placePoisoned c.t.place c.t.pa c.len)

/-- Bytes go to a part of a range, with poison bits in a packet for another module; a host line that answers with an error makes a late error
(R420), and so does a group window (R429). `grp` names the step of a group whose result the bytes are. -/
def State.chunkPut (s : State) (p va : Nat) (c : Chunk) (xs : List Byte) (bits : BitVec 16) (k : Ticket) (grp : Option (Nat × Nat × Nat)) : State :=
  let a := (va + c.off) % 2 ^ 64
  match c.t.place with
  | .remote =>
    (match s.sendRemote p c.t 2 0 0 0 xs (maskBytes c.len) ⟨0, 0, 0, k, 0, BitVec.ofNat 64 a, false, false, none, grp, 0, 0, 0⟩ with
      | (none, s) => s.lateOpen k 0 a
      | (some _, s) =>
        { s with fabric := { s.fabric with
          outbox := s.fabric.outbox.dropLast ++ (s.fabric.outbox.getLast?.map fun x => { x with poison := bits }).toList } })
  | q => if s.hostErr q c.t.pa c.len then s.lateOpen k 0 a else s.put q c.t.pa xs

/-- Bytes go to the lines of a range; a granule with a poisoned byte becomes poisoned, one that good bytes cover loses its poison (R346). -/
def State.chunkWrite (s : State) (p va : Nat) (cs : List Chunk) (bs : List Byte) (bad : List Nat) (k : Ticket)
    (grp : Option (Nat × Nat × Nat)) : State :=
  cs.foldl (fun s c =>
    let mine := bad.filter fun i => decide (c.off ≤ i ∧ i < c.off + c.len)
    let bits := mine.foldl (fun x i => setBit x ((c.t.pa % 16 + i - c.off) / 8) true) (0#16)
    let t := s.chunkPut p va c ((bs.drop c.off).take c.len) bits k grp
    if s.hostErr c.t.place c.t.pa c.len then t
    else mine.foldl (fun t i => t.placeTaint c.t.place (c.t.pa + (i - c.off)) 1) (t.placeCleanse c.t.place c.t.pa c.len)) s

end Sys2Proof.Machine
end

