-- ==== Sys2Proof/Machine/Mailbox.lean ====
section
/-! DEFINITION. Mailboxes (R371 to R379, R387): arrivals, launches and completions of grids, binding, posts, and the fault mailbox's buffer and
replies (R193, R337, R338). -/

namespace Sys2Proof.Machine

/-! ## Privileged words (R366 to R369) -/

/-- A privileged word: `SPLIT_ACTIVE` while forked, `MODE` 34 inside a task, `PROT` without the level it needs, `MODE` 49 in a `DET`
launch. The order is that of R344 for `clr`; the spec orders them for no other word. DEDUCED, log 107. -/
def State.privGate (s : State) (level : Nat) (k : State → State) : State :=
  s.unforked 4 fun s => s.modeIf s.warp.task.isSome 34 fun s =>
    if s.holds s.warp level then s.modeIf s.warp.det 49 k else s.trapScalar cProt 0 4

/-- The word is complete with a status (R369). -/
def State.status (s : State) (d : SReg) (n : Nat) : State :=
  let (x, s) := s.viaLvq n
  (s.sset d (BitVec.ofNat 64 x)).adv 4

/-! ## Mailboxes (R373, R375) -/

/-- A mailbox of a partition. -/
def State.mbx (s : State) (p m : Nat) : Mbx := Tab.get (s.part p).mbxs m .blank
/-- Applies a function to a mailbox. -/
def State.modMbx (s : State) (p m : Nat) (f : Mbx → Mbx) : State :=
  s.modPart p fun x => { x with mbxs := Tab.set x.mbxs m (f (Tab.get x.mbxs m .blank)) }

/-- A descriptor or the binding service is bound. -/
def Mbx.bound (x : Mbx) : Bool := x.binding != .none

/-- The status word of a mailbox (R375). -/
def Mbx.word (x : Mbx) : W64 :=
  BitVec.ofNat 32 x.refused ++ (BitVec.ofNat 8 x.reason ++ (0#7 ++ (BitVec.ofBool x.bound ++ (BitVec.ofNat 8 (min 255 x.running) ++
    (0#3 ++ BitVec.ofNat 5 x.queue.length)))))

/-- A refusal (R375, R376). -/
def State.refuse (s : State) (p m reason : Nat) : State :=
  s.modMbx p m fun x => { x with refused := min (x.refused + 1) (2 ^ 32 - 1), reason := reason }

/-- A message joins a queue. -/
def State.enqueue (s : State) (p m : Nat) (msg : List Byte) : State :=
  let s := { s with arrivals := s.arrivals + 1 }
  s.modMbx p m fun x => { x with queue := x.queue ++ [(s.arrivals, msg)] }

/-! ## Launch (R24, R34, R376, R378) -/

/-- GRID_ID (R24). -/
def gridWord (p m launch : Nat) (d : Desc) : W64 :=
  0#4 ++ (BitVec.ofBool d.timed ++ (BitVec.ofBool d.twin ++ (BitVec.ofBool d.shadow ++ (BitVec.ofBool d.det ++
    (0#7 ++ (BitVec.ofNat 5 p ++ (BitVec.ofNat 12 m ++ BitVec.ofNat 32 launch)))))))

/-- The launch state of a warp (R24, R34, R378): crew `c` and rank `r`, with its number in this model. With more than `IC_RESIDENT_VREGS`
declared registers none is resident yet (R16). DESIGN CHOICE, log 105. -/
def Grid.warp (g : Grid) (c r id : Nat) : Warp :=
  let d := g.desc
  { Warp.blank with
    id := id
    alive := true
    ident := { grid := g.id, part := g.part, global := d.warps * c + r, rank := r, crew := c, core := c % d.crews, warps := d.warps,
               team := c / d.crews, crews := d.crews }
    gridId := gridWord g.part g.mbx g.launch d
    regs := d.regs
    h1 := d.h1
    h2 := d.h2
    debug := d.debug
    priv := d.priv
    pc := d.entry
    lcb := d.lcb
    origin := Vector.ofFn fun l => BitVec.ofNat 14 (256 * r + l.val)
    fpxEn := d.fpxEn
    qlen := BitVec.ofNat 32 d.qlen
    qlenNow := d.qlen
    evicted := true }

/-- The warp whose `WARP_ID`.GLOBAL is 0 receives the message in `s1` to `s8` (R34). -/
def Warp.message (w : Warp) (msg : List Byte) : Warp :=
  if w.ident.global = 0 then
    (List.range 8).foldl (fun w k => w.sset (BitVec.ofNat 6 (k + 1)) (BitVec.ofNat 64 (leAt msg (8 * k) 8))) w
  else w

/-- A crew at launch (R217, R229). -/
def Grid.crew (g : Grid) (c : Nat) : Crew :=
  { grid := g.id, num := c, team := c / g.desc.crews, state := .waiting, core := none, deque := [], bufW := .empty, bufA := .empty,
    bufC := .empty }
/-- A team at launch. -/
def Grid.team (g : Grid) (t : Nat) : Team :=
  { grid := g.id, num := t, shelf := none, cluster := none, started := Vector.replicate 4 0, out := Vector.replicate 4 0,
    inn := Vector.replicate 4 0 }

/-- A launch (R376): it takes the next launch number, and its crews enter into placement. -/
def State.launch (s : State) (p m arrival : Nat) (d : Desc) (msg : List Byte) : State :=
  let g : Grid :=
    { id := s.nextId, part := p, mbx := m, launch := (s.part p).launches, arrival := arrival, desc := d, msg := msg, halted := false,
      commits := 0 }
  let crews := d.teams * d.crews
  let warps := (List.range (crews * d.warps)).map fun i => (g.warp (i / d.warps) (i % d.warps) (s.nextId + 1 + i)).message msg
  let s := { s with
    nextId := s.nextId + 1 + crews * d.warps
    grids := s.grids ++ [g]
    teams := s.teams ++ (List.range d.teams).map g.team
    crews := s.crews ++ (List.range crews).map g.crew
    others := s.others ++ warps
    shadows := if d.shadow then s.shadows ++ warps else s.shadows }
  let s := s.modPart p fun x => { x with launches := (x.launches + 1) % 2 ^ 32 }
  s.modMbx p m fun x => { x with running := x.running + 1 }

/-! ## TIMED admission (R387) -/

/-- A `TIMED` arrival is admitted. -/
def State.admits (s : State) (p m : Nat) (d : Desc) : Bool :=
  s.runs p && decide ((s.mbx p m).running < d.conc) &&
    decide (d.teams ≤ ((s.part p).reserved.filter fun i => s.emptyShelf p i && s.fits p d.crews i).length)

/-- An admitted grid is launched and its teams are placed at once, one to a reserved cluster. -/
def State.launchTimed (s : State) (p m : Nat) (d : Desc) (msg : List Byte) : State :=
  let s := { s with arrivals := s.arrivals + 1 }
  let g := s.nextId
  let s := s.launch p m s.arrivals d msg
  (List.range d.teams).foldl (fun s t =>
    match s.team? g t with
    | some t => s.tryPlace t
    | none => s) s

/-! ## Arrivals (R376) -/

/-- The queue of a mailbox takes another message, or refuses it as full. -/
def State.queueOr (s : State) (p m : Nat) (msg : List Byte) : Nat × State :=
  if Config.mbxDepth ≤ (s.mbx p m).queue.length then (1, s.refuse p m 1) else (0, s.enqueue p m msg)

/-- An arrival at a mailbox (R376): the reason of its refusal, or 0. The fault-reply mailbox is served by the part (R338). DEDUCED, log 19. -/
def State.arrival (s : State) (p m : Nat) (msg : List Byte) : Nat × State :=
  let x := s.part p
  if x.state = .free then (5, s)
  else if x.cfg.mbx ≤ m then (2, s)
  else if m = x.cfg.replyMbx then s.queueOr p m msg
  else
    match (s.mbx p m).binding with
    | .none => (2, s.refuse p m 2)
    | .service => s.queueOr p m msg
    | .handler d =>
      if d.timed then (if s.admits p m d then (0, s.launchTimed p m d msg) else (3, s.refuse p m 3))
      else s.queueOr p m msg

/-- An arrival now would be refused because the queue is full. -/
def State.isFull (s : State) (p m : Nat) : Bool :=
  let x := s.part p
  let full := decide (Config.mbxDepth ≤ (s.mbx p m).queue.length)
  if m = x.cfg.replyMbx then full
  else
    match (s.mbx p m).binding with
    | .none => false
    | .service => full
    | .handler d => !d.timed && full

/-- A mailbox is the binding service's (R367). -/
def isService (p m : Nat) : Bool := p == 0 && m == 4095

/-- The message that arrives at a mailbox from a partition (R367, R379): the service learns the sender. -/
def stamp (p m src : Nat) (msg : List Byte) : List Byte :=
  if isService p m ∧ src ≠ 0 then msg.take 2 ++ natToBytes 2 src ++ msg.drop 4 else msg

/-! ## Handler descriptors and binding (R367, R374) -/

/-- The descriptor in a block. -/
def descOfBlock (b : List Byte) : Desc :=
  let attr := leAt b 40 2
  { entry := BitVec.ofNat 64 (leAt b 0 8), lcb := BitVec.ofNat 64 (leAt b 8 8), h1 := BitVec.ofNat 64 (leAt b 16 8),
    h2 := BitVec.ofNat 64 (leAt b 24 8), regs := leAt b 32 2, warps := leAt b 34 1, crews := leAt b 35 1, teams := leAt b 36 4,
    det := attr.testBit 0, shadow := attr.testBit 1, twin := attr.testBit 2, timed := attr.testBit 3, priv := attr.testBit 4,
    debug := attr.testBit 5, fpxEn := BitVec.ofNat 5 (leAt b 42 1), conc := leAt b 43 1, qlen := leAt b 44 4,
    seedLo := BitVec.ofNat 64 (leAt b 48 8), seedHi := BitVec.ofNat 64 (leAt b 56 8), wext := leAt b 64 4, aext := leAt b 68 4,
    cext := leAt b 72 4, doneMbx := if (leAt b 76 2).testBit 15 then some (leAt b 76 2 % 4096) else none, doneVa := leAt b 80 8 }

/-- A descriptor fails a check for a partition. -/
def descBad (p : Nat) (c : PartCfg) (b : List Byte) : Bool :=
  let d := descOfBlock b
  let ext (x : Nat) : Bool := x % 4096 != 0 || decide (Config.bufBytes < x)
  let dm := leAt b 76 2
  d.entry.toNat % 4 != 0 || d.lcb.toNat % 16 != 0 || d.h1.toNat % 4 != 0 || d.h2.toNat % 4 != 0 ||
    decide (d.regs < 2 ∨ 256 < d.regs ∨ d.regs % 2 = 1) || decide (d.warps = 0 ∨ 16 < d.warps) || (d.twin && d.warps % 2 == 1) ||
    (d.shadow && decide (8 < d.warps)) || decide (d.crews = 0 ∨ 4 < d.crews) || decide (d.teams = 0 ∨ 2 ^ 20 < d.teams) ||
    decide (64 ≤ leAt b 40 2) || decide (32 ≤ leAt b 42 1) || d.conc == 0 || (if d.det then decide (d.qlen < 64) else d.qlen != 0) ||
    ext d.wext || ext d.aext || ext d.cext || bitsOf dm 12 3 != 0 ||
    (d.doneMbx.any fun m => decide (c.mbx ≤ m) || m == c.replyMbx || isService p m) || d.doneVa % 8 != 0 || anyByte b 78 80 ||
    anyByte b 88 128

/-- A mailbox loses its binding (R193, R376). -/
def State.unbind (s : State) (p m : Nat) : State :=
  let q := (s.mbx p m).queue
  if m = (s.part p).cfg.faultMbx then
    (s.modPart p fun x => { x with
      msgs := q.map (·.2) ++ x.msgs
      overflow := x.overflow.map fun (o : Overflow) => { o with ahead := o.ahead + q.length } }).modMbx p m fun x => { x with binding := .none, queue := [] }
  else
    s.modMbx p m fun x =>
      { x with
        binding := .none
        queue := []
        refused := min (x.refused + q.length) (2 ^ 32 - 1)
        reason := if q.isEmpty then x.reason else 2 }

/-- Mailboxes that no `mbx.bind` changes (R374). -/
def State.fixedMbx (s : State) (p m : Nat) : Bool := m == (s.part p).cfg.replyMbx || isService p m

/-- The end of a binding once its descriptor is read. -/
def State.bindDesc (s : State) (p m : Nat) (b : List Byte) : Nat × State :=
  if descBad p (s.part p).cfg b then (3, s)
  else if s.fixedMbx p m then (4, s)
  else (0, s.modMbx p m fun x => { x with binding := .handler (descOfBlock b) })

/-- A read of a descriptor in another partition's address space (R374): its bytes, or that they are not readable or poisoned, or that a remote
module has not answered yet. -/
inductive Peek where
  | ok (bs : List Byte)
  | bad
  | wait
  deriving DecidableEq, Repr

/-- 64 bytes that another partition's address space holds at an address, as the current warp reads them. DEDUCED, log 56. -/
def State.peekPiece (s : State) (p va : Nat) : Peek × State :=
  match s.access p va accRead with
  | (.ok t, s) =>
    match t.place with
    | .remote =>
      let key := 2 ^ 64 * (p + 1) + va
      (match s.warp.fetched.find? fun x => x.1 == key with
        | some x => (if x.2.length = 64 then .ok x.2 else .bad, s)
        | none =>
          match s.sendRemote p t 1 0 0 0 [] (maskBytes 64) (s.warp.pendingAccess 0 va true false) with
          | (none, s) => (.bad, s)
          | (some (e, m), s) =>
            (.wait, s.upd fun w => { w with
              wait := .fetch
              remote := w.remote ++ [.ofUnit e m 65 64 key w] }))
    | q => (if s.placePoisoned q t.pa 64 then .bad else .ok (s.placeRead q t.pa 64), s)
  | (_, s) => (.bad, s)

/-- A descriptor in another partition's address space (R374). DEDUCED, log 56. -/
def State.peekDesc (s : State) (p va : Nat) : Peek × State :=
  if va % 64 ≠ 0 then (.bad, s)
  else
    match s.peekPiece p va with
    | (.ok x, s) =>
      (match s.peekPiece p ((va + 64) % 2 ^ 64) with
        | (.ok y, s) => (.ok (x ++ y), s)
        | r => r)
    | r => r

/-- A binding of another partition's mailbox (R367, R374): its status, or none while its descriptor is still on its way. DEDUCED, log 56. -/
def State.bindOther (s : State) (p m va : Nat) : Option Nat × State :=
  if 32 ≤ p ∨ (s.part p).state = .free then (some 1, s)
  else if (s.part p).cfg.mbx ≤ m then (some 3, s)
  else if va = 0 then (if s.fixedMbx p m then (some 4, s) else (some 0, s.unbind p m))
  else
    match s.peekDesc p va with
    | (.ok b, s) =>
      let (n, s) := s.bindDesc p m b
      (some n, s.upd fun w => { w with fetched := [] })
    | (.bad, s) => (some 3, s.upd fun w => { w with fetched := [] })
    | (.wait, s) => (none, s)

/-- `mbx.bind` (R366 to R369, R374, R376). -/
def State.bindWord (s : State) (d a b : SReg) : State :=
  let x := s.sget a
  let va := s.sget b
  let p := field x 12 5
  let m := field x 0 12
  s.privGate (if p = s.warp.ident.part then 1 else 2) fun s =>
    let s := s.item 6 [x.toNat, va.toNat]
    if (s.part p).state = .free then s.status d 1
    else if field x 17 47 ≠ 0 then s.status d 3
    else if p = s.warp.ident.part ∧ va ≠ 0 ∧ m < (s.part p).cfg.mbx then
      s.readBlock va.toNat 128 fun bs s =>
        let (n, s) := (s.item 6 (bs.map (·.toNat))).bindDesc p m bs
        s.status d n
    else
      match s.bindOther p m va.toNat with
      | (some n, s) => s.status d n
      | (none, s) => s

/-- `mbx.bind` with a descriptor (R374). -/
def execMbxBind (d a b : SReg) (s : State) : Out := .next (s.bindWord d a b)
/-- `mbx.bind` with a descriptor address of 0 (R376). -/
def execMbxUnbind (d a b : SReg) (s : State) : Out := .next (s.bindWord d a b)

/-! ## The binding service (R367) -/

/-- Eight bytes are stored in a partition's address space with a ticket where the pages of all of them take them; else nothing, and
the cause. -/
def State.storeWord (s : State) (p va : Nat) (x : W64) (k : Ticket) : Except Byte State :=
  match s.range p va 8 accWrite with
  | (.err c _ _, _, _) => .error c
  | (.miss _ _ _, _, _) => .error cXlate
  | (_, cs, s) => .ok (cs.foldl (fun s c => s.chunkPut p va c (((natToBytes 8 x.toNat).drop c.off).take c.len) 0 k none) s)

/-- The firmware's descriptor for the binding service (R367): one warp, and CONC 1. DESIGN CHOICE, log 58. -/
def serviceDesc : Desc := { Desc.blank with priv := true }

/-- The binding service's handler serves its message (R367): none while the descriptor that it names is still on its way. DESIGN CHOICE, log 58. -/
def State.serve (s : State) (msg : List Byte) : Option State :=
  let p := leAt msg 2 2
  let va := leAt msg 16 8
  match s.bindOther p (leAt msg 0 2) (leAt msg 8 8) with
  | (none, _) => none
  | (some n, s) =>
    if va = 0 ∨ 32 ≤ p ∨ (s.part p).state = .free then some s
    else
      match s.storeWord p va (BitVec.ofNat 64 n) s.warp.ticket with
      | .ok t => some t
      | .error _ => some s

/-! ## GRID_LAUNCH and GRID_COMPLETION (R376, R377) -/

/-- The message of a mailbox that may launch. -/
def State.launchable (s : State) (p m : Nat) : Option (Nat × List Byte) :=
  let x := s.mbx p m
  if s.runs p ∧ m < (s.part p).cfg.mbx ∧ m ≠ (s.part p).cfg.replyMbx then
    match x.binding with
    | .none => none
    | .service => if x.running < serviceDesc.conc then x.queue.head? else none
    | .handler d => if x.running < d.conc then x.queue.head? else none
  else none

/-- The launch of a grid of the binding service: its one warp runs the firmware (R367). -/
def State.launchService (s : State) (p m arrival : Nat) (msg : List Byte) : State :=
  (s.launch p m arrival serviceDesc msg).modWarp (s.nextId + 1) fun w => { w with wait := .firmware }

/-- GRID_LAUNCH (R376): the oldest message of a mailbox launches, where no message that may launch arrived before it. -/
def execGridLaunch (p m : Nat) (s : State) : Out :=
  match s.launchable p m with
  | none => .next s
  | some (n, msg) =>
    if (s.part p).mbxs.any fun k => (s.launchable p k.1).any fun q => decide (q.1 < n) then .next s
    else
      let t := s.modMbx p m fun x => { x with queue := x.queue.drop 1 }
      match (s.mbx p m).binding with
      | .handler d => .next (t.launch p m n d msg)
      | .service => .next (t.launchService p m n msg)
      | .none => .next s

/-- An access of a grid's warps that no remote module has answered (R307). -/
def State.gridAwaits (s : State) (g : Nat) : Bool :=
  (s.grid? g).any fun x => s.fabric.waiting.any fun o => o.ticket.part == x.part && o.ticket.launch == x.launch

/-- Every warp of a grid has ended, and so has every slip, transfer and engine operation that they issued (R377); every access of theirs is
performed (R307). -/
def State.gridOver (s : State) (g : Nat) : Bool :=
  (s.gridWarps g).isEmpty && (s.leavings g).isEmpty && !(s.slips.any fun x => x.grid == g) && !(s.transfers.any fun x => x.grid == g) &&
    !(s.ops.any fun o => o.grid == g) && !s.gridAwaits g

/-- The completion word (R377): a store of the grid, or a late error. DEDUCED, log 18. -/
def State.doneWord (s : State) (g : Grid) : State :=
  if g.desc.doneVa = 0 then s
  else
    let k : Ticket := ⟨g.part, g.launch, 2 ^ 32 - 1, 2 ^ 32 - 1, 0, none⟩
    match s.storeWord g.part g.desc.doneVa (BitVec.ofNat 64 (g.launch + if g.halted then 2 ^ 63 else 0)) k with
    | .ok t => t
    | .error c =>
      let code := if 2 ^ 57 ≤ g.desc.doneVa then cXlate else c
      s.lateError k code.toNat (if code = cProt then 1 else 0) 0 g.desc.doneVa

/-- The completion report (R377). -/
def State.doneReport (s : State) (g : Grid) : State :=
  match g.desc.doneMbx with
  | none => s
  | some m =>
    let c := (s.part g.part).cfg
    if c.mbx ≤ m ∨ m = c.replyMbx then s
    else (s.arrival g.part m (layBytes [(1, 8), (1, g.halted.toNat), (2, 0), (4, g.launch), (2, g.mbx), (54, 0)])).2

/-- The firmware of a grid of the binding service ends its work once its warp stands on a core: it serves its message and exits (R367).
DESIGN CHOICE, log 58. -/
def State.finishService (s : State) (x : Grid) : State :=
  match s.gridWarps x.id with
  | w :: _ =>
    if w.wait = .firmware ∧ !w.evicted then
      let t := s.focus w.id
      (match t.serve x.msg with
        | some u => u.exitWarp u.warp
        | none => (t.bindOther (leAt x.msg 2 2) (leAt x.msg 0 2) (leAt x.msg 8 8)).2.upd fun w => { w with wait := .firmware })
    else s
  | [] => s

/-- GRID_COMPLETION (R377): tokens left in its deques are discarded (R229). -/
def execGridCompletion (g : Nat) (s : State) : Out :=
  match s.grid? g with
  | none => .next s
  | some x =>
    let s := s.finishService x
    if s.gridOver g then
      let t := { s with
        grids := s.grids.filter fun y => y.id != g
        teams := s.teams.filter fun y => y.grid != g
        crews := s.crews.filter fun y => y.grid != g }
      let t := t.modMbx x.part x.mbx fun y => { y with running := y.running - 1 }
      .next ((t.doneWord x).doneReport x)
    else .next s

/-! ## mbx.post (R379) -/

/-- The arrival of a post of the current warp, and its status (R379). -/
def State.postArrival (s : State) (d : SReg) (p m : Nat) (msg : List Byte) : State :=
  let (r, s) := s.arrival p m (stamp p m s.warp.ident.part msg)
  s.status d r

/-- A `mbx.post.wait` that waits holds its message, and goes on once the queue has room (R379). -/
def State.postAgain (s : State) (d a : SReg) (msg : List Byte) : State :=
  let tw := s.sget a
  if s.isFull (field tw 12 5) (field tw 0 12) then s.waitOn .order
  else (s.upd fun w => { w with posting := none }).postArrival d (field tw 12 5) (field tw 0 12) msg

/-- A post of the current warp (R379). -/
def State.postWord (s : State) (d a b : SReg) (wt tl : Bool) : State :=
  s.unforked 4 fun s => s.modeIf s.warp.task.isSome 34 fun s =>
    let tw := s.sget a
    let p := field tw 12 5
    let m := field tw 0 12
    let own := s.warp.ident.part
    let s := s.item 6 [tw.toNat, (s.sget b).toNat]
    s.modeIf (field tw 17 3 != 0 || field tw 32 32 != 0 || (!tl && field tw 20 12 != 0)) 46 fun s =>
    if p ≠ own ∧ !isService p m ∧ !s.holds s.warp 2 then s.trapScalar cProt 0 4
    else
      s.modeIf s.warp.det 45 fun s =>
      if (s.part p).state = .free then s.status d 5
      else
        s.modeIf (decide ((s.part p).cfg.mbx ≤ m)) 46 fun s =>
        s.readBlock (s.sget b).toNat 64 fun bs s =>
          (s.item 6 (bs.map (·.toNat))).releasing .sys fun s =>
            if tl then
              let c := field tw 20 12
              let n := (s.sget d).toNat
              s.modeIf (decide ((s.part own).cfg.ectx ≤ c)) 36 fun s =>
              s.modeIf (decide ((s.ctxOf own c).s < n)) 37 fun s =>
              if Config.deferredPosts ≤ (s.ctxOf own c).deferred.length then s.status d 6
              else ((s.modCtx own c fun x => { x with deferred := x.deferred ++ [⟨n, m, p, own, bs⟩] }).item 6 [n]).status d 0
            else if wt && s.isFull p m then (s.upd fun w => { w with posting := some bs }).waitOn .order
            else s.postArrival d p m bs

/-- `mbx.post` (R379). -/
def execMbxPost (d a b : SReg) (s : State) : Out := .next (s.postWord d a b false false)
/-- `mbx.post.wait` (R379). -/
def execMbxPostWait (d a b : SReg) (s : State) : Out :=
  .next (match s.warp.posting with
    | some msg => s.postAgain d a msg
    | none => s.postWord d a b true false)
/-- `mbx.post.tl` (R379). -/
def execMbxPostTl (d a b : SReg) (s : State) : Out := .next (s.postWord d a b false true)

/-- DEFERRED_POST (R379): the first deferred post whose operation has completed is delivered. -/
def execDeferredPost (p ctx : Nat) (s : State) : Out :=
  let c := s.ctxOf p ctx
  match c.deferred.find? fun x => decide (x.n ≤ c.t) with
  | none => .next s
  | some x =>
    let t := s.modCtx p ctx fun c => { c with deferred := c.deferred.erase x }
    .next (t.arrival x.part x.mbx (stamp x.part x.mbx x.src x.msg)).2

/-! ## Host writes to slots (R371) -/

/-- The binding of a virtual function, if it is bound. -/
def State.vf? (s : State) (vf : Nat) : Option Vf := (s.vfs.find? fun x => x.1 == vf).map (·.2)

/-- A byte of a function's mailbox window as the host reads it (R371): the status words of the slots below COUNT; everything else is zero. -/
def State.windowByte (s : State) (vf a : Nat) : Byte :=
  match s.vf? vf with
  | none => 0
  | some f =>
    let i := (a - 0x40000) / 8
    if 0x40000 ≤ a ∧ i < f.count then (natToBytes 8 (s.mbx f.part (f.base + i)).word.toNat).getD (a % 8) 0 else 0
/-- A host read of n bytes of a function's BAR 0 (R371). -/
def State.bar0Read (s : State) (vf a n : Nat) : List Byte := (List.range n).map fun i => s.windowByte vf (a + i)

/-- A write of the host to the binding service through a function: `exact` says that it is one aligned 64-byte write. -/
def State.serviceWrite (s : State) (f : Vf) (vf : Nat) (exact' : Bool) (bytes : List Byte) : State :=
  if exact' then
    (s.arrival 0 4095 (if vf = 0 then bytes else bytes.take 2 ++ natToBytes 2 f.part ++ bytes.drop 4)).2
  else if (s.part 0).state = .free then s
  else s.refuse 0 4095 4

/-- HOST_SLOT_WRITE (R371). -/
def execHostSlotWrite (vf off : Nat) (bytes : List Byte) (s : State) : Out :=
  match s.vf? vf with
  | none => .next s
  | some f =>
    if 0x7FFC0 ≤ off ∧ off < 0x80000 then .next (s.serviceWrite f vf (off == 0x7FFC0 && bytes.length == 64) bytes)
    else if 0x40000 ≤ off ∨ f.count ≤ off / 64 then .next s
    else
      let m := f.base + off / 64
      if off % 64 = 0 ∧ bytes.length = 64 then .next (s.arrival f.part m bytes).2
      else if (s.part f.part).state = .free ∨ (s.part f.part).cfg.mbx ≤ m then .next s
      else .next (s.refuse f.part m 4)

/-- SERVICE_SLOT_WRITE (R367, R371). -/
def execServiceSlotWrite (vf : Nat) (bytes : List Byte) (s : State) : Out :=
  match s.vf? vf with
  | none => .next s
  | some f => .next (s.serviceWrite f vf (bytes.length == 64) bytes)

/-! ## The fault mailbox (R193, R337) -/

/-- A message of the fault-message buffer arrives at the fault mailbox, if the mailbox takes it now. -/
def State.deliverFault (s : State) (p : Nat) (msg : List Byte) : Option State :=
  let m := (s.part p).cfg.faultMbx
  if !s.runs p then none
  else
    match (s.mbx p m).binding with
    | .none => none
    | .service => none
    | .handler d =>
      if d.timed then (if s.admits p m d then some (s.launchTimed p m d msg) else none)
      else if Config.mbxDepth ≤ (s.mbx p m).queue.length then none
      else some (s.enqueue p m msg)

/-- FAULT_MESSAGE_DELIVERY (R193): the overflow record leaves after every message that entered before it. -/
def execFaultMessageDelivery (p : Nat) (s : State) : Out :=
  let x := s.part p
  match x.msgs, x.overflow.filter (fun o => o.ahead == 0 || x.msgs.isEmpty) with
  | _, some o =>
    (match s.deliverFault p o.bytes with
      | some t => .next (t.modPart p fun y => { y with overflow := none })
      | none => .next s)
  | m :: r, none =>
    (match s.deliverFault p m with
      | some t => .next (t.modPart p fun y => { y with
          msgs := r
          overflow := y.overflow.map fun (o : Overflow) => { o with ahead := o.ahead - 1 } })
      | none => .next s)
  | [], none => .next s

/-- Streams and operations that wait with one token wait with another. -/
def Warp.retoken (old new : W64) (w : Warp) : Warp :=
  let f (x : Wait) : Wait := if x = .xlate old then .xlate new else x
  { w with wait := f w.wait, fork := w.fork.map fun (k : Fork) => { k with other := { k.other with wait := f k.other.wait } } }

/-- A waiting fault joins the entry of its page and access (R337). -/
def State.joinFault (s : State) (p : Nat) (f e : FaultEnt) : State :=
  let s := s.modPart p fun x => { x with
    faultWait := x.faultWait.filter fun y => y.token != f.token
    faults := x.faults.map fun y => if y.token = e.token then { y with warps := y.warps ++ f.warps, ops := y.ops ++ f.ops } else y }
  let s := f.warps.foldl (fun s k => s.modPair k.1 (Warp.retoken f.token e.token)) s
  { s with ops := s.ops.map fun (o : EngOp) => if o.part = p ∧ o.fault = some f.token then { o with fault := some e.token } else o }

/-- FAULT_RECORD_RETRY (R193, R337): a record that found no room is sent; or a fault that found the buffer full joins the entry that its page
and access have by now, or enters the buffer when there is room. -/
def execFaultRecordRetry (p : Nat) (s : State) : Out :=
  let x := s.part p
  match x.faults.find? fun f => !f.sent with
  | some f =>
    if x.msgRoom then
      .next (s.setPart p { x with
        faults := x.faults.map fun y => if y.token = f.token then { y with sent := true } else y
        msgs := x.msgs ++ [f.record] })
    else .next s
  | none =>
    match x.faultWait with
    | [] => .next s
    | f :: r =>
      match x.faults.find? fun e => e.page == f.page && e.access == f.access with
      | some e => .next (s.joinFault p f e)
      | none =>
      if Config.faultEntries ≤ x.faults.length then .next s
      else
        .next (s.setPart p { x with
          faultWait := r
          faults := x.faults ++ [{ f with sent := x.msgRoom }]
          msgs := if x.msgRoom then x.msgs ++ [f.record] else x.msgs })

/-- A reply keeps the layout of R338. -/
def replyOk (b : List Byte) : Bool :=
  !anyByte b 1 4 && !anyByte b 16 64 && ((leAt b 0 1 == 1 && leAt b 4 4 == 0) || (leAt b 0 1 == 2 && leAt b 4 4 != 0))

/-- The cause that a stream has pending is raised, not only held in case the pager refuses (R188, R189). -/
def raisedNow (x : Wait) (c : Option Cause) : Bool := c.isSome && x == .none

/-- A stream parked with a token goes on: its word replays, or takes `XLATE` with the pager's code (R189). -/
def unparkStream (token : W64) (code : Nat) (x : Wait) (c : Option Cause) : Wait × Option Cause :=
  if x = .xlate token then
    (.none, if code = 0 then none else c.map fun (c : Cause) => { c with detail := BitVec.ofNat 32 code })
  else (x, c)
/-- Every stream of a warp that the token names goes on. -/
def Warp.unpark (token : W64) (code : Nat) (w : Warp) : Warp :=
  let r := unparkStream token code w.wait w.pending
  { w with
    wait := r.1
    pending := r.2
    fork := w.fork.map fun (f : Fork) =>
      let o := unparkStream token code f.other.wait f.other.pending
      { f with other := { f.other with wait := o.1, pending := o.2 } } }

/-- One stream of a warp that the token names goes on; the first arm whose cause is raised is the first to trap (R188). -/
def Warp.unparkArm (token : W64) (code : Nat) (arm : Nat) (w : Warp) : Warp :=
  let w := w.unpark token code
  { w with fork := w.fork.map fun (f : Fork) =>
      if f.first.isSome then f
      else if f.cur = arm ∧ raisedNow w.wait w.pending ∨ f.cur ≠ arm ∧ f.raised then { f with first := some arm }
      else f }

/-- An attached engine operation goes on, or ends with the pager's refusal (R338, R350). -/
def State.unstall (s : State) (p code : Nat) (k : Nat × Nat) : State :=
  match s.ops.find? fun o => o.part == p && o.ctx == k.1 && o.n == k.2 with
  | none => s
  | some o => if code = 0 then s.modOp o fun x => { x with fault := none } else s.opError o cXlate code o.faultVa

/-- PAGER_REPLY (R338): the oldest reply at the fault-reply mailbox. -/
def execPagerReply (p : Nat) (s : State) : Out :=
  let m := (s.part p).cfg.replyMbx
  match (s.mbx p m).queue with
  | [] => .next s
  | (_, b) :: r =>
    let t := s.modMbx p m fun x => { x with queue := r }
    let token := BitVec.ofNat 64 (leAt b 8 8)
    match (t.part p).faults.find? fun f => f.token == token with
    | none => .next t
    | some f =>
      if replyOk b then
        let code := leAt b 4 4
        let t := t.modPart p fun x => { x with faults := x.faults.filter fun y => y.token != token }
        let t := f.warps.foldl (fun t k => t.modPair k.1 (Warp.unparkArm token code k.2)) t
        .next (f.ops.foldl (fun t k => t.unstall p code k) t)
      else .next t

end Sys2Proof.Machine
end

