-- ==== Sys2Proof/Machine/Agent.lean ====
section
/-! DEFINITION. The event queue toward the host (R284, R395, R396, R400). -/

namespace Sys2Proof.Machine

/-! ## The event queue (R284, R395, R396) -/

/-- Replaces bytes of a record. -/
def patch (b : List Byte) (off : Nat) (x : List Byte) : List Byte := b.take off ++ x ++ b.drop (off + x.length)

/-- Records that the host has not taken. -/
def EventQ.level (q : EventQ) : Nat := (q.produced - q.consumed).toNat
/-- The queue takes records that need no reserved slot. -/
def EventQ.open (q : EventQ) : Bool := decide (q.level < Config.eqShared)

/-- A record enters the queue; an MSI-X vector is raised where that turns the queue non-empty (R416). -/
def EventQ.enter (q : EventQ) (b : List Byte) : EventQ :=
  { q with
    entries := Tab.set q.entries (q.produced.toNat % Config.eqEntries) b
    produced := q.produced + 1
    vectors := if q.level = 0 then q.vectors + 1 else q.vectors }

/-- Records leave their reserved slots while the queue is open (R396). -/
def EventQ.flush : Nat → EventQ → EventQ
  | 0, q => q
  | k + 1, q =>
    match q.slots with
    | [] => q
    | x :: r => if q.open then EventQ.flush k ({ q with slots := r }.enter x.bytes) else q

/-- A later record coalesces into the record of a reserved slot (R284): only the records of die and repair events have these fields.
DEDUCED, log 69. -/
def coalesce (old new : List Byte) : List Byte :=
  if leAt old 0 1 = 17 then old
  else
    let b := patch old 4 (natToBytes 4 (leAt old 4 4 + 1))
    let b := if leAt old 2 1 = leAt new 2 1 then b else patch b 3 [1]
    patch b 16 ((new.drop 16).take 8)

/-- A record of a source (R396). -/
def EventQ.push (q : EventQ) (source : Nat) (b : List Byte) : EventQ :=
  let q := EventQ.flush q.slots.length q
  match q.slots.find? fun x => x.source == source with
  | some x => { q with slots := q.slots.map fun (y : SlotRec) => if y.source = source then { y with bytes := coalesce x.bytes b } else y }
  | none => if q.open then q.enter b else { q with slots := q.slots ++ [⟨source, b⟩] }

/-- A record enters the event queue from a source. -/
def State.event (s : State) (source : Nat) (b : List Byte) : State := { s with events := s.events.push source b }

/-- A die event (R284): die type 0 for a compute die and 1 for a weight die, its number, the event, and what it concerns. -/
def State.dieEvent (s : State) (ty n ev : Nat) (what : Nat) : State :=
  let (t, s) := s.now
  s.event (8 * ty + n) (layBytes [(1, 16), (1, n + 16 * ty), (1, ev), (1, 0), (4, 1), (8, t.toNat), (8, t.toNat), (8, what), (32, 0)])

/-- A repair event (R400): UNIT, EVENT, OLD, NEW. DESIGN CHOICE, log 120. -/
def State.repairEvent (s : State) (unit ev old new : Nat) : State :=
  let (t, s) := s.now
  s.event 0x300 (layBytes [(1, 18), (1, unit), (1, ev), (1, 0), (4, 1), (8, t.toNat), (8, t.toNat), (8, old), (8, new), (24, 0)])

/-- EQ_TAIL_WRITE (R395, R396): a write that would exceed PRODUCED is ignored. -/
def execEqTailWrite (v : W64) (s : State) : Out :=
  let q := s.events
  let x : W32 := v.setWidth 32
  if (x - q.consumed).toNat ≤ q.level then
    let q := { q with consumed := x }
    .next { s with events := EventQ.flush q.slots.length q }
  else .next s

end Sys2Proof.Machine
end

