-- ==== Sys2Proof/Machine/Stops.lean ====
section
/-! DEFINITION. Context stops (R389, R392, R407, R408): the raise, and running again; the words `brk`, `halt` and `stop`. -/

namespace Sys2Proof.Machine

/-! ## The raise (R389, R390, R392) -/

/-- The bank and PART of the sources that no partition owns (R393, R394). -/
def moduleBank : Nat := 32

/-- The sources that no partition owns, which a module stop reaches (R390, R394): the security block, the host port, the fabric block, and the HBM
controllers. DEDUCED, log 66. -/
def moduleSources : List Nat := [0x062, 0x063, 0x064] ++ (List.range 12).map (0x070 + ·)

/-- The sources of a partition that write stop records (R390, R394): its clusters, the engines, the barrier units, the mailbox unit and the
distributor. DEDUCED, log 66. -/
def State.stopSources (s : State) (p : Nat) : List Nat :=
  (s.part p).shelves.map (0xF000 + ·) ++ (List.range 64).map (0x010 + ·) ++ (List.range 4).map (0x050 + ·) ++
    (List.range 8).map (0x058 + ·) ++ [0x060, 0x061]

/-- The index of a source's record in its bank (R394). -/
def recordIndex (source : Nat) : Nat := if 0xF000 ≤ source then source - 0xF000 else 128 + source
/-- The place of a source's record in the stop buffer. -/
def recordKey (p source : Nat) : Nat := 384 * p + recordIndex source

/-- A further stop adds 1 to COUNT, in the records of a bank that have been written already too (R392). -/
def State.recount (s : State) (p : Nat) (x : Stop) : State :=
  (x.reached.filter fun i => !x.left.contains i).foldl (fun s i =>
    let k := recordKey p i
    { s with stopBuf := Tab.set s.stopBuf k (patch (Tab.get s.stopBuf k []) 28 (natToBytes 4 (x.count + 1))) }) s
/-- A further stop of a partition. -/
def State.restop (s : State) (p : Nat) (x : Stop) : State :=
  (s.modPart p fun y => { y with stop := some { x with count := x.count + 1 } }).recount p x

/-- A stop begins: its reason and code, its source with the partition of that, the `clk` of its raise, and the sources that it reaches. -/
def Stop.begin (reason code source srcPart : Nat) (t : W64) (reached : List Nat) : Stop :=
  { reason := reason, code := code, source := source, srcPart := srcPart, raise := t, count := 1, reached := reached, left := reached, records := 0,
    latest := t, wasRunning := false, runAfter := false, brk := none }

/-- The halt line of a partition is raised: no word of it issues any more. -/
def State.raiseOne (s : State) (b : Stop) (p : Nat) : State :=
  match (s.part p).stop with
  | some x => s.restop p x
  | none =>
    let l := s.stopSources p
    let s := s.modPart p fun y => { y with stop := some { b with reached := l, left := l, wasRunning := y.state == .running } }
    (s.warps.filter fun w => w.ident.part == p).foldl (fun s w => s.modPair w.id fun (w : Warp) => { w with evicted := true }) s

/-- A context stop of some partitions, in one `clk` (R389, R392). -/
def State.raise (s : State) (ps : List Nat) (reason code source srcPart : Nat) (brk : Option (W64 × Nat)) : State :=
  let (t, s) := s.now
  ps.foldl (fun s p => s.raiseOne { Stop.begin reason code source srcPart t [] with brk := brk } p) s

/-- The partitions that are not FREE. -/
def State.partsHeld (s : State) : List Nat := (List.range 32).filter fun p => (s.part p).state != .free

/-- The sources that no partition owns stop with the module. -/
def State.raiseModule (s : State) (reason code source srcPart : Nat) : State :=
  match s.moduleStop with
  | some x => { s with moduleStop := some { x with count := x.count + 1 } }.recount moduleBank x
  | none =>
    let (t, s) := s.now
    { s with moduleStop := some (Stop.begin reason code source srcPart t moduleSources) }

/-- A module stop: every partition that is not FREE, and the sources that no partition owns. -/
def State.raiseAll (s : State) (reason code source srcPart : Nat) : State :=
  (s.raise s.partsHeld reason code source srcPart none).raiseModule reason code source srcPart

/-! ## Causes that a warp has pending (R188, R189, R392) -/

/-- The arm of a warp whose raised cause is to be taken next (R188); of two arms the current one comes first. -/
def Warp.causeArm (w : Warp) : Option Nat :=
  match w.fork with
  | none => if raisedNow w.wait w.pending then some 0 else none
  | some f =>
    let own := if raisedNow w.wait w.pending then some f.cur else none
    if f.held then own
    else
      match f.first with
      | some k => some k
      | none => own.or (if raisedNow f.other.wait f.other.pending then some (1 - f.cur) else none)

/-- The cause that a warp has pending is taken, by its shadow too, once that has executed every word before it. -/
def State.takeTrap (s : State) (w : Nat) : State :=
  let t := s.focus w
  match t.warp.causeArm.bind t.warp.select with
  | none => s
  | some x =>
    match x.pending with
    | some c =>
      if t.warp.id = w ∧ x.alive ∧ x.wait = .none ∧ t.ahead.isEmpty then
        nextOf (pairTurn (fun u => .next (u.takePending c)) { t with
          warp := x }) s
      else s
    | none => s

/-- The source of a stop that a warp's word raises: its cluster. -/
def State.sourceOf (s : State) (w : Warp) : Nat := 0xF000 + ((s.team? w.ident.grid w.ident.team).bind (·.shelf)).getD 0

/-! ## Running again (R391, R408) -/

/-- A partition runs: what a stop held of it goes on, with its scratchpad addresses to be resolved again, and its warps resume when their teams
are placed. -/
def State.runPart (s : State) (p : Nat) : State :=
  let s := { s with ops := s.ops.map fun (o : EngOp) => if o.part = p ∧ o.held then { o with held := false, core := none } else o }
  s.modPart p fun x => { x with
    state := .running
    autoRun := none
    groups := x.groups.map fun g => (g.1, { g.2 with steps := g.2.steps.map fun (y : GStep) => { y with held := false } }) }

/-- A `ckpt` or `rest` is accepted on a partition and not completed (R413). -/
def State.folioOn (s : State) (p : Nat) : Bool := s.ops.any fun o =>
  match o.kind with
  | .ckpt t _ _ _ => t == p
  | .rest t _ _ _ => t == p
  | _ => false

/-! ## The end of a wait -/

/-- Words that waited for something of a partition are complete with status 0. -/
def State.configDone (s : State) (what : ConfigWait) (p : Nat) : State :=
  let done (w : Warp) : Warp :=
    match w.wait with
    | .config k q d => if k = what ∧ q = p then { w.sset d 0 with wait := .none, pc := w.pc + 4 } else w
    | _ => w
  (s.warps.filter fun w => w.wait != .none).foldl (fun s w => s.modPair w.id done) s

/-! ## brk (R187) -/

/-- `brk` (R187): a program trap, or under the debug attribute a debug stop behind the word. -/
def execBrk (code : BitVec 14) (s : State) : Out :=
  let w := s.warp
  .next (if w.debug then (s.adv 4).raise [w.ident.part] 3 0 (s.sourceOf w) w.ident.part (some (w.pc, w.ident.global))
    else s.trapScalar cBreak code.toNat 4)

/-! ## halt and stop (R406, R407) -/

/-- `stop` of the current partition: the status is written first, and the warp stops before its next word. -/
def State.stopOwn (s : State) (d : SReg) (code : Nat) : State :=
  (s.status d 0).raise [s.warp.ident.part] 1 code (s.sourceOf s.warp) s.warp.ident.part none

/-- `halt` (R407). -/
def execHalt (d a : SReg) (s : State) : Out :=
  .next (s.privGate 2 fun s =>
    let x := s.sget a
    let s := s.item 6 [x.toNat]
    if field x 0 16 ≠ 0 ∨ field x 32 32 ≠ 0 then s.status d 3
    else (s.status d 0).raiseAll 2 (field x 16 16) (s.sourceOf s.warp) s.warp.ident.part)

/-- `stop` (R407). -/
def execStop (d a : SReg) (s : State) : Out :=
  let x := s.sget a
  let p := field x 0 5
  let own := p = s.warp.ident.part
  .next (s.privGate (if own then 1 else 2) fun s =>
    let s := s.item 6 [x.toNat]
    if (s.part p).state = .free then s.status d 1
    else if field x 5 11 ≠ 0 ∨ field x 32 32 ≠ 0 then s.status d 3
    else if own then s.stopOwn d (field x 16 16)
    else (s.raise [p] 1 (field x 16 16) (s.sourceOf s.warp) s.warp.ident.part none).waitOn (.config .stop p d))

/-! ## PART_RUN (R408) -/

/-- A partition runs as a write to `PART_RUN` asks: at once where it is SUSPENDED and no folio word is accepted on it, or when the stop under way
ends. -/
def State.askRun (s : State) (p : Nat) : State :=
  let x := s.part p
  match x.stop with
  | some y => s.setPart p { x with stop := some { y with runAfter := true } }
  | none => if x.state = .suspended ∧ ¬s.folioOn p then s.runPart p else s

/-- `PART_RUN` as the host reads it (R408): bit p is 1 while partition p is RUNNING. -/
def State.partRun (s : State) : W64 :=
  (List.range 32).foldl (fun x p => if (s.part p).state = .running then setBit x p true else x) 0

/-- PART_RUN_WRITE (R408). -/
def execPartRunWrite (v : W64) (s : State) : Out :=
  .next (((List.range 32).filter fun p => v.getLsbD p).foldl State.askRun s)

/-- The part itself runs a partition again after a stop of REASON 7 or 8 (R408, R414, R415): one that is SUSPENDED since, once no sensor is beyond
its limit and no firmware is being activated. A `ckpt` or `rest` accepted on it does not keep it from running, as it does with `PART_RUN`. -/
def State.runDue (s : State) (p : Nat) : State :=
  let x := s.part p
  if x.state = .suspended ∧ x.stop.isNone ∧ x.autoRun.isSome ∧ s.limits.isEmpty ∧ s.security.activating = false then s.runPart p else s

/-- Every partition that is due runs again. -/
def State.runAgain (s : State) : State := (List.range 32).foldl State.runDue s

end Sys2Proof.Machine
end

