-- ==== Sys2Proof/Machine/Flits.lean ====
section
/-! DEFINITION. Flits, packets and slots as bytes on the links (R282, R283, R421, R422): their layout, what a receiver takes, and what a sender
keeps for replay. -/

namespace Sys2Proof.Machine

/-! ## Sequence numbers and replay (R283, R422) -/

/-- What an acknowledgement leaves in a sender: the numbers after it; numbers wrap at `size`. -/
def Link.acked (x : Link) (size ack : Nat) : Link :=
  let later (n : Nat) : Bool := decide (size / 2 ≤ (size + ack - n) % size)
  { x with unacked := x.unacked.filter fun u => later u.1, sent := x.sent.filter fun u => later u.1 }

/-- The number that a sender acknowledges: that of the last good flit taken. -/
def Link.ack (x : Link) (size : Nat) : Nat := (x.expect + size - 1) % size

/-- The next flit is taken, once: the credits that it returns count, and those of its n units or slots are to be returned. -/
def Link.taken (x : Link) (size credit n : Nat) : Link :=
  { x with expect := (x.expect + 1) % size, credit := x.credit + credit, owed := x.owed + n, asking := false }

/-- The lanes of a port that carry its flits. -/
def Link.liveLanes (x : Link) : List Nat := [0, 1].filter fun i => !x.badLanes.contains i

/-- Parts of a flit go out on some lanes in turn. -/
def Link.onWire (x : Link) (lanes : List Nat) (parts : List (List Byte)) : Link :=
  parts.zipIdx.foldl (fun x p =>
    let l := lanes.getD (p.2 % lanes.length) 0
    { x with wire := Tab.set x.wire l (Tab.get x.wire l [] ++ [p.1]) }) x

/-- A flit goes out: the 64 bytes of a port's flit in alternate halves over its lanes (R421), a die flit whole. -/
def Link.goes (x : Link) (flit : List Byte) : Link :=
  if flit.length = 64 then x.onWire x.liveLanes [flit.take 32, flit.drop 32] else x.onWire [0] [flit]

/-- The replay buffer goes out again, from its oldest flit on (R283, R422). -/
def Link.replay (x : Link) : Link :=
  if x.unacked.isEmpty then x else x.unacked.foldl (fun x u => x.goes u.2) { x with replays := x.replays + 1 }

/-- A flit of n units or slots leaves, with some receive credits that it returns: it stays in the replay buffer until it is acknowledged. -/
def Link.emit (x : Link) (size n credits : Nat) (flit : List Byte) : Link :=
  { x with next := (x.next + 1) % size, used := x.used + n, owed := x.owed - credits, unacked := x.unacked ++ [(x.next, flit)] }.goes flit

/-- A flit's number is that of a flit that has not been taken. -/
def Link.ahead (x : Link) (size seq : Nat) : Bool := decide ((size + seq - x.expect) % size < size / 2)

/-- The replay buffer and the credits of a sender admit some flits with n units or slots. -/
def Link.admits (x : Link) (depth link flits n : Nat) : Bool :=
  decide (x.unacked.length + flits ≤ depth ∧ x.used + n ≤ Config.linkCredits link + x.credit)

/-! ## UFL flits (R421) -/

/-- The header of a UFL flit. -/
structure UflHead where
  seq : Nat
  ack : Nat
  credit : Nat
  vc : Nat
  units : List Nat
  deriving DecidableEq, Repr

/-- The header in a flit's first 8 bytes; UNITS gives the first unit's kind in its low bits. DESIGN CHOICE, log 94. -/
def uflHead (f : List Byte) : UflHead :=
  let w := leAt f 0 8
  ⟨bitsOf w 48 16, bitsOf w 32 16, bitsOf w 20 12, bitsOf w 18 2, (List.range 3).map fun i => bitsOf w (12 + 2 * i) 2⟩

/-- A flit whose CRC, UNITS and reserved bits are good. -/
def uflGood (f : List Byte) : Bool :=
  f.length == 64 && Config.crc64 (f.take 56) == BitVec.ofNat 64 (leAt f 56 8) && bitsOf (leAt f 0 8) 0 12 == 0 && (uflHead f).units.all (· != 3)

/-- The units of a flit, each with its kind. -/
def uflUnits (f : List Byte) : List (Nat × List Byte) := (uflHead f).units.zip ((List.range 3).map fun i => (f.drop (8 + 16 * i)).take 16)

/-- A flit of some units. -/
def uflFlit (seq ack credit vc : Nat) (us : List (Nat × List Byte)) : List Byte :=
  let kinds := us.zipIdx.foldl (fun n u => n + u.1.1 * 2 ^ (12 + 2 * u.2)) 0
  let body := natToBytes 8 (seq * 2 ^ 48 + ack * 2 ^ 32 + credit * 2 ^ 20 + vc * 2 ^ 18 + kinds) ++ us.flatMap (·.2)
  let body := body ++ List.replicate (56 - body.length) 0
  body ++ natToBytes 8 (Config.crc64 body).toNat

/-! ## Packets (R421) -/

/-- The virtual channel of a packet. -/
def packetVc (k : Packet) : Nat := if k.kind.toNat ≤ 4 then 0 else if k.kind.toNat ≤ 8 then 1 else 2

/-- A packet whose LEN counts data units that follow its header; that of a read counts the units that it asks for. DESIGN CHOICE, log 94. -/
def hasData (kind : Nat) : Bool := kind != 1 && kind != 6 && kind != 8

/-- LEN of a packet. -/
def packetLen (k : Packet) : Nat := ((if k.kind = 1 then maskLength k.byteMask else k.bytes.length) + 15) / 16

/-- The 32 bytes of a packet's header. -/
def packetHeader (k : Packet) : List Byte :=
  layBytes [(1, k.kind.toNat), (1, packetLen k), (2, k.dst.toNat), (2, k.src.toNat), (1, k.spart.toNat), (1, k.atomOp.toNat + 16 * k.atomTy.toNat),
    (2, k.eseq.toNat), (2, k.poison.toNat), (4, 0), (8, k.index.toNat * 2 ^ 54 + k.offset.toNat), (8, k.opnd.toNat)]

/-- The units of a packet: header, mask and data. DESIGN CHOICE, log 94. -/
def packetUnits (k : Packet) : List (Nat × List Byte) :=
  let h := packetHeader k
  [(1, h.take 16), (1, h.drop 16)] ++ (if k.kind = 3 then [(1, natToBytes 16 k.byteMask.toNat)] else []) ++
    if hasData k.kind.toNat then
      (List.range (packetLen k)).map fun i => let d := (k.bytes.drop (16 * i)).take 16; (2, d ++ List.replicate (16 - d.length) 0)
    else []

/-- The header units of a packet that begins with some unit. -/
def headerUnits (us : List (List Byte)) : Nat := if leAt (us.headD []) 0 1 = 3 then 3 else 2
/-- The units of a packet that begins with some units, once its first one is there. -/
def packetSize (us : List (List Byte)) : Nat :=
  headerUnits us + if hasData (leAt (us.headD []) 0 1) then leAt (us.headD []) 1 1 % 16 else 0

/-- The packet that units make. DESIGN CHOICE, log 94. -/
def packetOf (us : List (List Byte)) : Packet :=
  let h := (us.take 2).flatMap id
  let kind := leAt h 0 1
  let len := leAt h 1 1 % 16
  { kind := BitVec.ofNat 8 kind, dst := BitVec.ofNat 14 (leAt h 2 2), src := BitVec.ofNat 14 (leAt h 4 2), spart := BitVec.ofNat 5 (leAt h 6 1),
    atomOp := BitVec.ofNat 4 (leAt h 7 1), atomTy := BitVec.ofNat 2 (leAt h 7 1 / 16), eseq := BitVec.ofNat 16 (leAt h 8 2),
    poison := BitVec.ofNat 16 (leAt h 10 2), index := BitVec.ofNat 10 (leAt h 16 8 / 2 ^ 54), offset := BitVec.ofNat 40 (leAt h 16 8),
    opnd := BitVec.ofNat 64 (leAt h 24 8), bytes := (us.drop (headerUnits us)).flatMap id,
    byteMask := if kind = 3 then BitVec.ofNat 128 (leAt (us.getD 2 []) 0 16) else maskBytes (16 * len) }

/-- A unit joins what has arrived of a packet: the packet where it is whole now. A data unit without a header is dropped, and a header unit in place
of data begins a packet. DESIGN CHOICE, log 94. -/
def addUnit (us : List (List Byte)) (u : Nat × List Byte) : List (List Byte) × Option Packet :=
  if u.1 = 0 then (us, none)
  else
    let wantsHeader := us.isEmpty || decide (us.length < headerUnits us)
    if u.1 = 2 ∧ wantsHeader then ([], none)
    else
      let us := if u.1 = 1 ∧ !wantsHeader then [u.2] else us ++ [u.2]
      if us.length = packetSize us then ([], some (packetOf us)) else (us, none)

/-- Units join what has arrived, one after another: the packets that are whole now. -/
def addUnits (us : List (List Byte)) (l : List (Nat × List Byte)) : List (List Byte) × List Packet :=
  l.foldl (fun r u => let x := addUnit r.1 u; (x.1, r.2 ++ x.2.toList)) (us, [])

/-- A port asks the other end for a replay after a bad flit, by a link-control flit, which repeats the latest number and is not replayed itself
(R421, R422). DESIGN CHOICE, log 94. -/
def Link.askUfl (x : Link) : Link := { x with asking := true }.goes (uflFlit ((x.next + 65535) % 65536) (x.ack 65536) 0 3 [])

/-- A flit is received at a port (R421, R422): a good one gives its acknowledgement, and one that is next in order its credits and units, once; a
link-control flit makes the port replay. A flit that is bad or out of order is not taken: the port asks for it, and it comes again.
DESIGN CHOICE, log 94. -/
def Link.receive (x : Link) (f : List Byte) : Link × List Packet :=
  if uflGood f then
    let h := uflHead f
    let x := x.acked 65536 h.ack
    if h.vc = 3 then (if x.asking then x.replay.askUfl else x.replay, [])
    else if h.seq = x.expect then
      let x := x.taken 65536 h.credit ((uflUnits f).filter fun u => u.1 != 0).length
      let (us, ks) := addUnits (Tab.get x.units h.vc []) (uflUnits f)
      ({ x with units := Tab.set x.units h.vc us }, ks)
    else (if x.ahead 65536 h.seq ∧ !x.asking then x.askUfl else x, [])
  else (x.askUfl, [])

/-- Units in groups of three, one to a flit; the fuel is their number. -/
def inThrees : Nat → List (Nat × List Byte) → List (List (Nat × List Byte))
  | 0, _ => []
  | k + 1, us => if us.isEmpty then [] else us.take 3 :: inThrees k (us.drop 3)

/-- A flit of some units leaves a port, and returns the credits of what has arrived (R421). -/
def Link.sendUfl (x : Link) (vc : Nat) (us : List (Nat × List Byte)) : Link :=
  let c := min 4095 x.owed
  x.emit 65536 us.length c (uflFlit x.next (x.ack 65536) c vc us)

/-- A packet leaves over a port in flits of three units (R421, R422). -/
def Link.sendPacket (x : Link) (k : Packet) : Link :=
  let x := (inThrees (packetUnits k).length (packetUnits k)).foldl (fun x us => x.sendUfl (packetVc k) us) x
  { x with sent := x.sent ++ [((x.next + 65535) % 65536, k)] }

/-- Credits that no packet returns leave in a flit without units. DESIGN CHOICE, log 94. -/
def Link.returnUfl (x : Link) : Link :=
  if x.lost ∨ x.owed = 0 ∨ Config.replayFlits ≤ x.unacked.length then x else x.sendUfl 0 []

/-- A port has room for a packet. -/
def Link.hasRoom (x : Link) (port : Nat) (k : Packet) : Bool :=
  !x.lost && x.admits Config.replayFlits port (((packetUnits k).length + 2) / 3) (packetUnits k).length

/-! ## Die flits (R282, R283) -/

/-- The kinds of the three slots of a die flit, and whether its CRC and its reserved bits are good. -/
def dieSlots (f : List Byte) : List Nat := (List.range 3).map fun i => bitsOf (leAt f 0 8) (24 + 2 * i) 2
def dieGood (f : List Byte) : Bool :=
  f.length == 256 && Config.crc64 (f.take 248) == BitVec.ofNat 64 (leAt f 248 8) && bitsOf (leAt f 0 8) 0 24 == 0

/-- The slots of a flit that are not empty. -/
def flitSlots (f : List Byte) : List (Nat × List Byte) :=
  ((dieSlots f).zip ((List.range 3).map fun i => (f.drop (8 + 80 * i)).take 80)).filter fun u => u.1 != 0

/-- A flit of some slots, each of a kind and 80 bytes; SLOTS gives the first slot's kind in its low bits. DESIGN CHOICE, log 95. -/
def dieFlit (seq ack credit : Nat) (us : List (Nat × List Byte)) : List Byte :=
  let kinds := us.zipIdx.foldl (fun n u => n + u.1.1 * 2 ^ (24 + 2 * u.2)) 0
  let body := natToBytes 8 (seq * 2 ^ 52 + ack * 2 ^ 40 + credit * 2 ^ 30 + kinds) ++
    us.flatMap fun u => (u.2 ++ List.replicate (80 - u.2.length) 0).take 80
  let body := body ++ List.replicate (248 - body.length) 0
  body ++ natToBytes 8 (Config.crc64 body).toNat

/-- A module asks the other end for a replay after a bad flit, by an empty flit that repeats the latest number (R283). DESIGN CHOICE, log 95. -/
def Link.askDie (x : Link) : Link := { x with asking := true }.goes (dieFlit ((x.next + 4095) % 4096) (x.ack 4096) 0 [])

/-- A die flit is received (R282, R283): a good one gives its acknowledgement, and one that is next in order its credits and its request and data
slots, once; an empty one that repeats a number makes the module replay. DESIGN CHOICE, log 95. -/
def Link.receiveDie (x : Link) (f : List Byte) : Link × List (List Byte) :=
  if dieGood f then
    let w := leAt f 0 8
    let us := flitSlots f
    let x := x.acked 4096 (bitsOf w 40 12)
    if bitsOf w 52 12 = x.expect then
      (x.taken 4096 (bitsOf w 30 10) us.length, us.filterMap fun u => if u.1 = 1 ∨ u.1 = 2 then some u.2 else none)
    else if x.ahead 4096 (bitsOf w 52 12) then (if x.asking then x else x.askDie, [])
    else if us.isEmpty then (if x.asking then x.replay.askDie else x.replay, [])
    else (x, [])
  else (x.askDie, [])

/-- The slots that a module has sent and that have not been acknowledged, then those that wait (R283). -/
def Link.pending (x : Link) : List (List Byte) := (x.unacked.flatMap fun u => (flitSlots u.2).map (·.2)) ++ x.queue

/-- A flit of some slots leaves a module, and returns the credits of what has arrived (R282). -/
def Link.sendDie (x : Link) (us : List (Nat × List Byte)) : Link :=
  let c := min 1023 x.owed
  x.emit 4096 us.length c (dieFlit x.next (x.ack 4096) c us)

/-- Credits that no slot returns leave in an empty flit. DESIGN CHOICE, log 95. -/
def Link.returnDie (x : Link) : Link :=
  if x.lost ∨ x.owed = 0 ∨ Config.dieReplayFlits ≤ x.unacked.length then x else x.sendDie []

/-- Slots that wait for a module of a die link leave, three to a flit, while its replay buffer has room; the fuel is their number.
DESIGN CHOICE, log 95. -/
def Link.sendSlots (link : Nat) : Nat → Link → Link
  | 0, x => x
  | k + 1, x =>
    let us := (x.queue.take 3).map fun u => (3, u)
    if us.isEmpty ∨ !x.admits Config.dieReplayFlits link 1 us.length then x
    else Link.sendSlots link k (({ x with queue := x.queue.drop 3 } : Link).sendDie us)

end Sys2Proof.Machine
end

