-- ==== Sys2Proof/Machine/Groups.lean ====
section
/-! DEFINITION. Collectives and multicast (R60, R428 to R432): the steps of a group, the packets they send and receive, and the failure of a
group. -/

namespace Sys2Proof.Machine

/-! ## Values -/

/-- The format and the size in bytes of a group's elements (R428 TYPE). -/
def groupFmt (ty : Nat) : Fmt := if ty = 0 then .f32 else if ty = 1 then .bf16 else if ty = 2 then .e4m3 else .e5m2
def groupSize (ty : Nat) : Nat := if ty = 0 then 4 else if ty = 1 then 2 else 1

/-- An FP32 value that arithmetic has made: every NaN is the canonical one (R41, R53). -/
def plainF32 (x : Nat) : Nat := if (fval .f32 x).isNaN then canonNaN .f32 else x
/-- An element as an exact FP32 value (R60): a widening keeps the sign and fraction of a NaN (R41). -/
def groupUp (ty x : Nat) : Nat := if ty = 0 then x else (cvtFF (groupFmt ty) .f32 .rne 0 false x).1
/-- A sum converted to the type of the group: RNE, non-saturating (R60, R430). -/
def groupDown (ty x : Nat) : Nat := if ty = 0 then plainF32 x else (cvtFF .f32 (groupFmt ty) .rne 0 false x).1

/-- The elements of a contribution. -/
def elements (size : Nat) (bs : List Byte) : List Nat := (List.range (bs.length / size)).map fun i => leAt bs (size * i) size

/-- The sums of a step (R430): own value first, then the child ports in ascending shelfmark, each addition rounded RNE to FP32. DEDUCED, log 76. -/
def GStep.sums (x : GStep) (ty : Nat) (children : List Nat) : List Nat :=
  let own := elements (groupSize ty) (x.own.getD [])
  (own.zip (List.range own.length)).map fun e =>
    children.foldl (fun acc q =>
      match x.partials.find? fun p => p.1 == q with
      | some p => addF32 acc (p.2.1.getD e.2 0).toNat
      | none => acc) (groupUp ty e.1)

/-- The elements of a step's sums that a poisoned own byte or a poisoned partial goes into: the sum carries the poison on. DEDUCED, log 76. -/
def GStep.badSums (x : GStep) (ty : Nat) (children : List Nat) : List Nat :=
  ((x.bad.map (· / groupSize ty)) ++ (x.partials.filter fun p => children.contains p.1).flatMap fun p => p.2.2).eraseDups

/-- The bytes of some elements. -/
def elementBytes (size : Nat) (es : List Nat) : List Nat := es.flatMap fun e => (List.range size).map (size * e + ·)

/-! ## Packets (R421) -/

/-- One packet of a group toward the port of a shelfmark (R421, R430, R431). -/
def State.groupPack (s : State) (p g port kind off : Nat) (bs : List Byte) (bits : BitVec 16) : State :=
  let m := Config.portModule port
  let n := Tab.get s.fabric.sendSeq m 0 % 65536
  let k : Packet :=
    { kind := BitVec.ofNat 8 kind, dst := BitVec.ofNat 14 m, src := BitVec.ofNat 14 s.moduleNo, spart := BitVec.ofNat 5 p, atomOp := 0,
      atomTy := 0, eseq := BitVec.ofNat 16 n, poison := bits, index := BitVec.ofNat 10 g, offset := BitVec.ofNat 40 off, opnd := 0,
      bytes := bs, byteMask := maskBytes 128 }
  { s with fabric := { s.fabric with sendSeq := Tab.set s.fabric.sendSeq m (n + 1), groupOut := s.fabric.groupOut ++ [(port, k)] } }

/-- Packets of a group's data to the port of a shelfmark: 128 bytes each, with the poison of their granules. DEDUCED, log 76. -/
def State.sendGroup (s : State) (p g port kind : Nat) (bs : List Byte) (bad : List Nat) : State :=
  (List.range ((bs.length + 127) / 128)).foldl (fun s i =>
    s.groupPack p g port kind (128 * i) ((bs.drop (128 * i)).take 128)
      ((bad.filter fun j => j / 128 == i).foldl (fun x j => setBit x (j % 128 / 8) true) (0#16))) s

/-- Word that the group has failed goes to a neighbour in its tree (R432): a packet without data. DESIGN CHOICE, log 75. -/
def State.tellFailed (s : State) (p g port kind : Nat) : State := s.groupPack p g port kind 0 [] 0

/-! ## Steps -/

/-- The first unfinished step of a group. -/
def Group.first (g : Group) : Option GStep :=
  g.steps.foldl (fun r x =>
    match r with
    | none => some x
    | some y => if x.n < y.n then some x else some y) none
/-- Applies a function to a step of a group. -/
def State.modStep (s : State) (p g n : Nat) (f : GStep → GStep) : State :=
  let x := s.group p g
  s.setGroup p g { x with steps := x.steps.map fun (y : GStep) => if y.n = n then f y else y }

/-- STEP of an entry, written (R428). -/
def Group.withStep (g : Group) (n : W32) : Group :=
  { g with entry := (g.entry &&& ~~~((BitVec.ofNat 512 (2 ^ 32 - 1)) <<< 320)) ||| (n.setWidth 512 <<< 320) }

/-- The report of a step (R430, R432). -/
def State.stepReport (s : State) (p g n status : Nat) : State :=
  (s.arrival p (s.group p g).doneMbx (layBytes [(1, 9), (1, status), (2, 0), (4, n), (56, 0)])).2

/-- A write of a step's RESULT awaits its acknowledgement from another module (R430). -/
def State.resultAwaits (s : State) (p g n : Nat) : Bool := s.fabric.waiting.any fun o => o.grp == some (p, g, n)

/-- The ticket of what a group writes: no warp's. -/
def groupTicket (p : Nat) : Ticket := ⟨p, 0, 0, 0, 0, none⟩

/-- A step is over: it leaves the group, STEP rises, and its report is posted (R430). -/
def State.stepDone (s : State) (p g n : Nat) : State :=
  let x := s.group p g
  let x := { x with steps := x.steps.filter fun y => y.n != n }
  (s.setGroup p g (x.withStep (x.step + 1))).stepReport p g n 0

/-- The value of a step reaches RESULT and the child ports (R430, R431); the report follows the acknowledgement of a RESULT in another module. An
address that misses makes a fault and the step waits; an access that is refused, one in a group window too (R429), belongs to no operation, and
stops the partition (R350, R389). DEDUCED, log 74. -/
def State.deliver (s : State) (p g : Nat) (x : GStep) (bs : List Byte) : State :=
  let y := s.group p g
  match s.range p y.result bs.length accWrite with
  | (.none, cs, t) =>
    if cs.any fun c => c.t.place == .remote && s.inGroup p c.t.pa then t.raise [p] 4 0 0x053 p none
    else
      let t := t.chunkWrite p y.result cs bs x.bad (groupTicket p) (some (p, g, x.n))
      let t := y.children.foldl (fun t q => t.sendGroup p g q 10 bs x.bad) t
      if t.resultAwaits p g x.n then t.modStep p g x.n fun z => { z with written := true } else t.stepDone p g x.n
  | (.miss w a k, _, t) => (t.fault p a k [] [] (engineRecord ⟨p, 0, 0, 0, 0, none⟩ k w 0 x.n a)).2
  | (.err _ _ _, _, t) => t.raise [p] 4 0 0x053 p none
  | (.hold, _, _) => s

/-- GROUP_STEP (R430, R431): the first unfinished step is summed once everything is present; the root's value and the value from the parent are
delivered once their buffer space is reserved. -/
def execGroupStep (p g : Nat) (s : State) : Out :=
  let y := s.group p g
  match y.first with
  | none => .next s
  | some x =>
    if x.held ∨ ¬y.valid ∨ y.broken then .next s
    else
      match x.result with
      | some bs =>
        if x.written then (if s.resultAwaits p g x.n then .next s else .next (s.stepDone p g x.n))
        else if x.reserved then .next (s.deliver p g x bs) else .next s
      | none =>
        let full := x.own.isSome && (y.children.all fun q => x.partials.any fun z => z.1 == q)
        if y.multicast then
          (match x.own with
            | some bs => .next (s.modStep p g x.n fun z => { z with result := some bs })
            | none => .next s)
        else if !full then .next s
        else
          let sums := x.sums y.ty y.children
          if y.root then
            let out := sums.flatMap fun v => natToBytes (groupSize y.ty) (groupDown y.ty v)
            .next (s.modStep p g x.n fun z => { z with result := some out, bad := elementBytes (groupSize y.ty) (x.badSums y.ty y.children) })
          else if x.sentUp then .next s
          else
            let bad := elementBytes 4 (x.badSums y.ty y.children)
            .next ((s.sendGroup p g y.parent 9 (sums.flatMap (natToBytes 4)) bad).modStep p g x.n fun z => { z with sentUp := true })

/-- MULTICAST_RESERVE_RETRY (R431): space for every child port and for the local path is reserved in one step, or none of it. -/
def execMulticastReserveRetry (p g : Nat) (space : Bool) (s : State) : Out :=
  match (s.group p g).first with
  | some x => if x.result.isSome && !x.held && space then .next (s.modStep p g x.n fun z => { z with reserved := true }) else .next s
  | none => .next s

/-- The numbers of the elements that carry poison. -/
def poisonedAt {α : Type} (l : List (α × Bool)) : List Nat := (l.zipIdx.filter fun e => e.1.2).map (·.2)

/-! ## Failure (R432) -/

/-- The granules of a part of RESULT become poisoned: those of another module by a masked write of no byte, with their poison bits. -/
def State.poisonChunk (s : State) (p : Nat) (c : Chunk) : State :=
  match c.t.place with
  | .remote =>
    match s.sendRemote p c.t 3 0 0 0 (List.replicate c.len 0) 0 ⟨0, 0, 0, groupTicket p, 0, 0, false, false, none, none, 0, 0, 0⟩ with
    | (none, s) => s
    | (some _, s) =>
      { s with fabric := { s.fabric with
        outbox := s.fabric.outbox.dropLast ++ (s.fabric.outbox.getLast?.map fun x => { x with poison := BitVec.ofNat 16 (2 ^ ((c.len + 7) / 8) - 1) }).toList } }
  | q => s.placeTaint q c.t.pa c.len

/-- The granules of RESULT become poisoned where they are mapped, and the report says so. -/
def State.failStep (s : State) (p g n : Nat) : State :=
  let y := s.group p g
  let (_, cs, t) := s.range p y.result y.len accWrite
  let t := cs.foldl (fun t c => t.poisonChunk p c) t
  (t.setGroup p g { t.group p g with steps := (t.group p g).steps.filter fun x => x.n != n }).stepReport p g n 2

/-- A group whose tree has lost a part: every unfinished step fails, its neighbours in the tree hear of it, and contributions are errors until the
entry is written again. DEDUCED, log 75. -/
def State.failGroup (s : State) (p g : Nat) : State :=
  let y := s.group p g
  if y.broken then s
  else
    let s := s.setGroup p g { y with broken := true, inbox := [] }
    let s := (y.steps.map (·.n)).foldl (fun s n => s.failStep p g n) s
    let s := if y.root then s else s.tellFailed p g y.parent 9
    y.children.foldl (fun s q => s.tellFailed p g q 10) s

/-- The valid groups of a partition. -/
def State.validGroups (s : State) (p : Nat) : List Nat := ((s.part p).groups.filter fun g => g.2.valid).map (·.1)

/-- A partition no longer runs: its groups fail. DEDUCED, log 54. -/
def State.failGroups (s : State) (p : Nat) : State := (s.validGroups p).foldl (fun s g => s.failGroup p g) s

/-- The sums of a child port for a step of a group, with the poisoned elements (R430); no sums are word that the tree below the port has failed
(R432). DEDUCED, logs 75, 76. -/
def State.partialIn (s : State) (p g port step : Nat) (values : List W32) (bad : List Nat) : State :=
  let y := s.group p g
  if y.valid ∧ ¬y.broken ∧ y.children.contains port ∧ y.step.toNat ≤ step then
    if values.isEmpty then s.failGroup p g
    else if y.multicast then s
    else
      let t := s.setGroup p g (y.withStepAt step !(s.runs p))
      t.modStep p g step fun x =>
        if x.partials.any fun z => z.1 == port then x else { x with partials := x.partials ++ [(port, values, bad)] }
  else s

/-- GROUP_PARTIAL (R430, R432): sums of a child port arrive, each with its poison, or word that the tree below it has failed.
DESIGN CHOICE, log 94; DEDUCED, logs 75, 76. -/
def execGroupPartial (p g port step : Nat) (values : List (W32 × Bool)) (s : State) : Out :=
  .next (s.partialIn p g port step (values.map (·.1)) (poisonedAt values))

/-- A value from the parent with its poisoned bytes, or word that the step has failed (R430 to R432). DEDUCED, log 75. -/
def State.valueIn (s : State) (p g step : Nat) (bytes : List Byte) (bad : List Nat) (failed : Bool) : State :=
  let y := s.group p g
  if y.valid ∧ ¬y.root ∧ ¬y.broken ∧ y.step.toNat ≤ step then
    let t := s.setGroup p g (y.withStepAt step !(s.runs p))
    if failed then t.failGroup p g
    else t.modStep p g step fun x => { x with result := some bytes, bad := bad }
  else s

/-- GROUP_DATA (R430 to R432): a value from the parent arrives, each byte with its poison, or word that the step has failed.
DESIGN CHOICE, log 94; DEDUCED, logs 75, 76. -/
def execGroupData (p g step : Nat) (bytes : List (Byte × Bool)) (failed : Bool) (s : State) : Out :=
  .next (s.valueIn p g step (bytes.map (·.1)) (poisonedAt bytes) failed)

/-! ## Packets of KIND 9 and 10 (R421, R430, R431) -/

/-- The bytes of a packet's data that are poisoned, counted from an offset. -/
def poisonedBytes (k : Packet) (off : Nat) : List Nat :=
  ((List.range k.bytes.length).filter fun i => k.poison.getLsbD (i / 8)).map (off + ·)

/-- The oldest packet of each offset of a value of some packets of 128 bytes, where all are there. -/
def wholeValue (l : List (Nat × List Byte × Nat)) (n : Nat) : Option (List (Nat × List Byte × Nat)) :=
  (List.range n).mapM fun i => l.find? fun x => x.1 == 128 * i

/-- Data of a value of a group, at the offset that its packet says: what has arrived, and the value once it is whole, with its poisoned bytes. -/
def Group.collect (g : Group) (key need : Nat) (k : Packet) : Group × Option (List Byte × List Nat) :=
  let l := Tab.get g.inbox key [] ++ [(k.offset.toNat, k.bytes, k.poison.toNat)]
  match wholeValue l ((need + 127) / 128) with
  | none => ({ g with inbox := Tab.set g.inbox key l }, none)
  | some xs =>
    ({ g with inbox := Tab.set g.inbox key (xs.foldl (fun l x => l.erase x) l) },
     some (xs.flatMap (·.2.1), xs.flatMap fun x => ((List.range x.2.1.length).filter fun i => x.2.2.testBit (i / 8)).map (x.1 + ·)))

/-- A packet of KIND 9 from a child port, or of KIND 10 from the parent: values come in the order of their steps, and act when they are whole; one
without data says that the tree beyond has failed (R432). DESIGN CHOICE, logs 75, 94. -/
def State.groupPacket (s : State) (port : Nat) (k : Packet) : State :=
  let p := k.spart.toNat
  let g := k.index.toNat
  let y := s.group p g
  if k.bytes.isEmpty then
    (if k.kind = 9 then s.partialIn p g port y.step.toNat [] [] else s.valueIn p g y.step.toNat [] [] true)
  else if k.kind = 9 then
    match y.collect port (4 * (y.len / groupSize y.ty)) k with
    | (z, none) => s.setGroup p g z
    | (z, some v) =>
      (s.setGroup p g z).partialIn p g port (y.step.toNat + (y.steps.filter fun x => x.partials.any fun q => q.1 == port).length)
        ((elements 4 v.1).map (BitVec.ofNat 32)) ((v.2.map (· / 4)).eraseDups)
  else
    match y.collect 128 y.len k with
    | (z, none) => s.setGroup p g z
    | (z, some v) => (s.setGroup p g z).valueIn p g (y.step.toNat + (y.steps.filter fun x => x.result.isSome).length) v.1 v.2 false

/-! ## Entries (R428) -/

/-- The bits of a group entry that a write sets. -/
def groupMask : BitVec 512 :=
  ((BitVec.ofNat 512 (2 ^ 57 - 1)) <<< 256) ||| ((BitVec.ofNat 512 (2 ^ 96 - 1)) <<< 128) ||| ((BitVec.ofNat 512 (2 ^ 24 - 1)) <<< 40) |||
    BitVec.ofNat 512 (2 ^ 32 - 1)

/-- A group entry, written (R428): ignored while a step is in progress; read-only fields stay. -/
def State.writeGroup (s : State) (p g : Nat) (v : BitVec 512) : State :=
  let y := s.group p g
  if 32 ≤ p ∨ 64 ≤ g ∨ ¬y.steps.isEmpty then s
  else s.setGroup p g ⟨(v &&& groupMask) ||| (y.entry &&& ~~~groupMask), y.step.toNat, [], false, []⟩

/-- GROUP_ENTRY_WRITE (R428). -/
def execGroupEntryWrite (p g : Nat) (v : BitVec 512) (s : State) : Out := .next (s.writeGroup p g v)

end Sys2Proof.Machine
end

