-- ==== Sys2Proof/Machine/Partition.lean ====
section
/-! DEFINITION. Partitions (R361 to R370), virtual functions (R372) and the catalogue (R385): the words `part.new`, `part.set`, `part.bind`,
`vf.bind` and `cat.set`. -/

namespace Sys2Proof.Machine

/-! ## The configuration block (R362, R363, R365) -/

/-- The configuration in a block. -/
def cfgOf (b : List Byte) : PartCfg :=
  { root := leAt b 0 8, poolBase := leAt b 8 8, poolSize := leAt b 16 8, migBase := leAt b 24 8, migSize := leAt b 32 8, mbx := leAt b 40 2,
    faultMbx := leAt b 42 2, replyMbx := leAt b 44 2, barq := leAt b 46 2, ectx := leAt b 48 2, level := leAt b 50 1, flags := leAt b 51 1,
    drain := leAt b 52 4, slice := leAt b 56 4, clq := leAt b 60 2, hbmq := leAt b 62 2, engq := leAt b 64 2, tcl := leAt b 66 1,
    migth := leAt b 68 2, hwres := leAt b 72 8 }

/-- Every frame from `lo` to below `hi` has one owner. -/
def allOwned (o : Nat) : List OwnerRange → Nat → Nat → Bool
  | [], lo, hi => decide (hi ≤ lo) || o == 63
  | r :: l, lo, hi =>
    decide (hi ≤ lo) ||
      ((decide (hi ≤ r.lo ∨ r.hi ≤ lo ∨ r.hi ≤ r.lo) || r.owner == o) && allOwned o l lo (min hi r.lo) && allOwned o l (max lo r.hi) hi)

/-- A range of device memory consists of frames that a partition owns. -/
def State.ownsRange (s : State) (p base size : Nat) : Bool :=
  decide (base + size ≤ Config.deviceBytes) && allOwned p s.owners (base / 4096) ((base + size + 4095) / 4096)

/-- Two ranges of bytes share one. -/
def overlap (a n b m : Nat) : Bool := decide (a < b + m ∧ b < a + n ∧ 0 < n ∧ 0 < m)

/-- The pools of a configuration. -/
def PartCfg.pools (c : PartCfg) : List (Nat × Nat) := [(c.poolBase, c.poolSize), (c.migBase, c.migSize)]

/-- A field of the block is out of range (status 3). -/
def cfgBad (b : List Byte) : Bool :=
  let c := cfgOf b
  let mib := 2 ^ 21
  decide (c.root % 4096 ≠ 0 ∨ c.poolBase % mib ≠ 0 ∨ c.poolSize % mib ≠ 0 ∨ c.poolSize = 0 ∨ c.migBase % mib ≠ 0 ∨ c.migSize % mib ≠ 0 ∨
      c.mbx = 0 ∨ 4096 < c.mbx ∨ c.mbx ≤ c.faultMbx ∨ c.mbx ≤ c.replyMbx ∨ c.faultMbx = c.replyMbx ∨ 16384 < c.barq ∨ 2048 < c.ectx ∨
      2 < c.level ∨ 1 < c.flags) ||
    decide ((c.slice ≠ 0 ∧ c.slice < 65536) ∨ c.clq < 64 ∨ 2048 < c.clq ∨ 36864 < c.hbmq ∨ c.engq < 64 ∨ 16384 < c.engq ∨ 128 < c.tcl ∨
      c.hwres % mib ≠ 0 ∨ c.hwres < mib ∨ c.poolSize ≤ c.hwres) ||
    anyByte b 67 68 || anyByte b 70 72 || anyByte b 80 128

/-- The frames and pools of a configuration do not suit a partition (status 3). -/
def State.poolsBad (s : State) (p : Nat) (c : PartCfg) : Bool :=
  let share := c.poolBase + c.poolSize - c.hwres
  !s.ownsRange p c.root 4096 || overlap c.root 4096 share c.hwres || !s.ownsRange p c.poolBase c.poolSize ||
    (c.migSize != 0 && !s.ownsRange p c.migBase c.migSize) || overlap c.poolBase c.poolSize c.migBase c.migSize ||
    s.parts.any fun q => q.1 != p && q.2.state != .free &&
      q.2.cfg.pools.any fun x => c.pools.any fun y => overlap x.1 x.2 y.1 y.2

/-- A sum over the other partitions that are not FREE. -/
def State.others' (s : State) (p : Nat) (f : PartCfg → Nat) : Nat :=
  s.parts.foldl (fun n q => if q.1 ≠ p ∧ q.2.state ≠ .free then n + f q.2.cfg else n) 0

/-- A module total would be exceeded (status 2). -/
def State.totalsBad (s : State) (p : Nat) (c : PartCfg) : Bool :=
  decide (16384 < s.others' p (·.barq) + c.barq ∨ 2048 < s.others' p (·.ectx) + c.ectx ∨ 36864 < s.others' p (·.hbmq) + c.hbmq)

/-! ## Runs of barrier objects (R365) -/

/-- The runs of the other partitions. -/
def State.barRuns (s : State) (p : Nat) : List (Nat × Nat) :=
  (s.parts.filter fun q => q.1 != p && q.2.state != .free && q.2.cfg.barq != 0).map fun q => (q.2.barBase, q.2.cfg.barq)
/-- A run of objects is free. -/
def State.runFree (s : State) (p base n : Nat) : Bool := decide (base + n ≤ 16384) && !(s.barRuns p).any fun r => overlap base n r.1 r.2
/-- The lowest-numbered run of free objects that is long enough. -/
def State.findRun (s : State) (p n : Nat) : Option Nat :=
  let starts := 0 :: (s.barRuns p).map fun r => r.1 + r.2
  (starts.filter fun b => s.runFree p b n).min?

/-! ## Crews that leave (R370, R385) -/

/-- A cluster entry is written once no crew is placed in its old cluster; a suspend with no crew placed any more is complete, and the teams that
only hold tokens leave with either. DEDUCED, logs 54, 64. -/
def State.settle (s : State) (p : Nat) : State :=
  let s := if (s.part p).suspending || (s.part p).newCluster.isSome then s.evictLeft p else s
  let x := s.part p
  let s := match x.newCluster with
    | some (i, v) =>
      if s.crewsOn p (some (entryCluster (Tab.get x.clusters i 0))) then s
      else (s.setPart p { x with clusters := Tab.set x.clusters i v, newCluster := none }).configDone .cluster p
    | none => s
  if (s.part p).suspending && !s.crewsOn p none then
    ((s.modPart p fun y => { y with state := .suspended, suspending := false }).failGroups p).configDone .suspend p
  else s

/-- A live grid of a partition exists. -/
def State.liveGrid (s : State) (p : Nat) : Bool := s.grids.any fun g => g.part == p

/-! ## part.new and part.set (R370) -/

/-- The partition that a word names, or none where the number is out of range. -/
def partNo (x : W64) : Option Nat := if x.toNat < 32 then some x.toNat else none

/-- Makes a partition from a checked configuration. DEDUCED, log 53. -/
def State.makePart (s : State) (p : Nat) (c : PartCfg) (base : Nat) : State :=
  let old := s.part p
  s.setPart p { Part.blank with state := .suspended, cfg := c, barBase := base, windows := old.windows, groups := old.groups }

/-- `part.new` once its block is read (R369, R370). -/
def State.partCreate (s : State) (p : Nat) (b : List Byte) : Nat × State :=
  let c := cfgOf b
  if cfgBad b || s.poolsBad p c then (3, s)
  else
    match s.findRun p c.barq with
    | none => (2, s)
    | some base => if s.totalsBad p c then (2, s) else (0, s.makePart p c base)

/-- `part.new` (R370). DEDUCED, log 50. -/
def execPartNew (d a b : SReg) (s : State) : Out :=
  .next (s.privGate 2 fun s =>
    let x := s.sget a
    let va := s.sget b
    let s := s.item 6 [x.toNat, va.toNat]
    match partNo x with
    | none => s.status d 1
    | some p =>
      if (s.part p).state ≠ .free then s.status d 1
      else
        s.readBlock va.toNat 128 fun bs s =>
          let (n, s) := (s.item 6 (bs.map (·.toNat))).partCreate p bs
          s.status d n)

/-- A wait on a barrier that no longer exists is complete with `BAR_ABANDONED` (R370). -/
def Warp.barGone (w : Warp) (p q : Nat) : Warp :=
  match w.wait with
  | .barrier d t => if w.ident.part = p ∧ q ≤ field t 0 14 then { w.sset d 0x29 with wait := .none, pc := w.pc + 4, qdone := false } else w
  | _ => w

/-- The mailboxes of a partition that exist from a number up. DEDUCED, log 52. -/
def State.mbxsFrom (s : State) (p n : Nat) : List Nat := ((s.part p).mbxs.filter fun m => decide (n ≤ m.1) && m.2.bound).map (·.1)

/-- Applies a checked configuration in place of the old one. DEDUCED, log 52. -/
def State.applyCfg (s : State) (p : Nat) (c : PartCfg) (base : Nat) : State :=
  let s := (s.mbxsFrom p c.mbx).foldl (fun s m => s.unbind p m) s
  let s := (s.warps.filter fun w => w.ident.part == p).foldl (fun s w => s.modPair w.id fun w => w.barGone p c.barq) s
  s.modPart p fun x => { x with cfg := c, barBase := base, bars := x.bars.filter fun o => decide (o.1 < c.barq) }

/-- A context at or above a number has operations that are not complete. -/
def State.ctxBusy (s : State) (p n : Nat) : Bool := s.ops.any fun o => o.part == p && decide (n ≤ o.ctx)

/-- Where the run of a partition stands after a change of its quota: none where it cannot be extended (R365). DEDUCED, log 51. -/
def State.moveRun (s : State) (p n : Nat) : Option Nat :=
  let x := s.part p
  if n ≤ x.cfg.barq then some x.barBase
  else if x.cfg.barq = 0 then s.findRun p n
  else if s.runFree p x.barBase n then some x.barBase else none

/-- `part.set` once its block is read (R369, R370). -/
def State.partChange (s : State) (p : Nat) (b : List Byte) : Nat × State :=
  let c := cfgOf b
  let x := s.part p
  let o := x.cfg
  if cfgBad b || s.poolsBad p c then (3, s)
  else
    match s.moveRun p c.barq with
    | none => (2, s)
    | some base =>
      let fixedChange := c.root != o.root || c.pools != o.pools || c.level != o.level
      if s.totalsBad p c then (2, s)
      else if (fixedChange && (x.state != .suspended || s.liveGrid p)) || s.ctxBusy p c.ectx || (s.mbx p c.replyMbx).bound then (4, s)
      else (0, s.applyCfg p c base)

/-- `part.set` (R370). DEDUCED, log 50. -/
def execPartSet (d a b : SReg) (s : State) : Out :=
  .next (s.privGate 2 fun s =>
    let x := s.sget a
    let va := s.sget b
    let s := s.item 6 [x.toNat, va.toNat]
    match partNo x with
    | none => s.status d 1
    | some p =>
      if (s.part p).state = .free then s.status d 1
      else
        s.readBlock va.toNat 128 fun bs s =>
          let (n, s) := (s.item 6 (bs.map (·.toNat))).partChange p bs
          s.status d n)

/-! ## part.bind (R370) -/

/-- The checks that the three operations of `part.bind` share. -/
def State.bindPart (s : State) (d a b : SReg) (k : Nat → State → State) : State :=
  s.privGate 2 fun s =>
    let x := s.sget a
    let s := s.item 6 [x.toNat, (s.sget b).toNat]
    match partNo x with
    | none => s.status d 1
    | some p => k p s

/-- `part.bind` run (R370, R408, R413); an operation that does not exist is refused with status 3 where some operation suits the partition's
state, and with 1 on a FREE partition, which none suits. DEDUCED, log 49. -/
def execPartBindRun (d a b : SReg) (s : State) : Out :=
  .next (s.bindPart d a b fun p s =>
    let fit := (s.part p).state == .suspended && (s.part p).stop.isNone
    if (s.part p).state = .free ∨ (s.sget b = 1 ∧ ¬fit) then s.status d 1
    else if s.sget b ≠ 1 then s.status d 3
    else if s.folioOn p then s.status d 4
    else (s.runPart p).status d 0)

/-- `part.bind` suspend (R370): every placed crew is drained, and the word is complete when none is placed. DEDUCED, log 49. -/
def execPartBindSuspend (d a b : SReg) (s : State) : Out :=
  .next (s.bindPart d a b fun p s =>
    if p = s.warp.ident.part then s.status d 4
    else if (s.part p).state ≠ .running then s.status d 1
    else
      let s := (s.modPart p fun x => { x with suspending := true }).drainWhere p fun _ => true
      (s.waitOn (.config .suspend p d)).settle p)

/-- What a partition leaves behind when it is freed (R370, R402): its functions, and its key, which is replaced. DEDUCED, log 53. -/
def State.freePart (s : State) (p : Nat) : State :=
  let s := s.failGroups p
  let s := (s.moves.filter fun m => m.part == p).foldl (fun s m =>
    if m.flying then s.abortMove m else { s with moves := s.moves.filter fun x => x.id != m.id }) s
  let x := s.part p
  let s := { s with
    ops := s.ops.filter fun o => o.part != p
    vfs := s.vfs.filter fun f => f.2.part != p
    epochs := Tab.set s.epochs p (Tab.get s.epochs p 0 + 1) }
  s.setPart p { Part.blank with windows := x.windows, groups := x.groups }

/-- `part.bind` free (R370). DEDUCED, log 49. -/
def execPartBindFree (d a b : SReg) (s : State) : Out :=
  .next (s.bindPart d a b fun p s =>
    if p = s.warp.ident.part then s.status d 4
    else if (s.part p).state ≠ .suspended ∨ (s.part p).stop.isSome then s.status d 1
    else if s.liveGrid p then s.status d 4
    else (s.freePart p).status d 0)

/-! ## vf.bind (R372) -/

/-- The binding that a word describes. -/
def vfOf (x : W64) : Vf := ⟨field x 48 5, field x 32 13, field x 16 12, field x 0 8⟩

/-- `vf.bind` of a function: its status and what it leaves (R369, R372). -/
def State.vfWrite (s : State) (n : Nat) (x : W64) : Nat × State :=
  let f := vfOf x
  let enable := x.getLsbD 63
  if 1024 ≤ n ∨ (enable ∧ (s.part f.part).state = .free) then (1, s)
  else if field x 53 10 ≠ 0 ∨ field x 45 3 ≠ 0 ∨ field x 28 4 ≠ 0 ∨ field x 8 8 ≠ 0 ∨
      (enable ∧ (f.count = 0 ∨ 4096 < f.count ∨ f.weight = 0 ∨ (s.part f.part).cfg.mbx < f.base + f.count)) then (3, s)
  else if n = 0 ∨ (enable ∧ s.vfs.any fun g => g.1 != n && g.2.part == f.part && overlap g.2.base g.2.count f.base f.count) then (4, s)
  else if enable then (0, { s with vfs := Tab.set s.vfs n f })
  else (0, { s with vfs := Tab.del s.vfs n })

/-- `vf.bind` (R372). -/
def execVfBind (d a b : SReg) (s : State) : Out :=
  .next (s.privGate 2 fun s =>
    let x := s.sget a
    let y := s.sget b
    let (n, s) := (s.item 6 [x.toNat, y.toNat]).vfWrite x.toNat y
    s.status d n)

/-! ## cat.set (R231, R232, R274, R385) -/

/-- The lane map of a core: every SKIP is 16 at reset (R231). PRESUMED, log 78. -/
def State.laneMap (s : State) (i : Nat) : W64 := Tab.get s.laneMaps i 0x84210

/-- A lane map entry with a reserved bit or a SKIP above 16. -/
def laneMapBad (v : W64) : Bool := field v 20 44 != 0 || (List.range 4).any fun g => decide (16 < field v (5 * g) 5)

/-- The core of a lane map index. -/
def coreOfIndex (i : Nat) : CoreId := ⟨i / 68, i % 68 / 4, i % 4⟩

/-- A bank is valid in another partition's catalogue. -/
def State.bankElsewhere (s : State) (p : Nat) (v : W64) : Bool :=
  s.parts.any fun q => q.1 != p && q.2.state != .free && q.2.banks.any fun e => entryValid e.2 && field e.2 0 8 == field v 0 8
/-- A physical cluster is valid in another partition's catalogue, or at another shelfmark of this one; an entry that a write under way will leave
counts too. -/
def State.clusterElsewhere (s : State) (p i : Nat) (v : W64) : Bool :=
  s.parts.any fun q => q.2.state != .free && (q.2.clusters ++ q.2.newCluster.toList).any fun e =>
    entryValid e.2 && entryCluster e.2 == entryCluster v && !(q.1 == p && e.1 == i)

/-- The outcome of a catalogue write: a status, or a wait for crews to leave the old cluster, or a wait for an earlier such wait. -/
inductive CatOut where
  | done (n : Nat) (s : State)
  | drain (s : State)
  | later

/-- A cluster entry with a reserved bit set or a PCL above 16 (R274). -/
def clusterBad (v : W64) : Bool := field v 9 55 != 0 || decide (16 < field v 0 5)

/-- A write of a cluster entry (R385): one that leaves VALID, DIE and PCL as they were, or whose old cluster no crew is placed in, is made at once.
DEDUCED, log 55. -/
def State.clusterWrite (s : State) (p i : Nat) (v : W64) : CatOut :=
  let x := s.part p
  let old := Tab.get x.clusters i 0
  if clusterBad v ∨ (entryValid v ∧ (s.die (field v 5 3)).bad.contains (field v 0 5)) then .done 3 s
  else if entryValid v && s.clusterElsewhere p i v then .done 4 s
  else if v = old then .done 0 s
  else if x.newCluster.any fun e => e.1 == i then .later
  else if entryValid old && s.crewsOn p (some (entryCluster old)) then
    if x.newCluster.isSome then .later
    else .drain ((s.setPart p { x with newCluster := some (i, v) }).drainWhere p fun t => t.cluster == some (entryCluster old))
  else .done 0 (s.setPart p { x with clusters := Tab.set x.clusters i v })

/-- A catalogue write (R369, R385). -/
def State.catWrite (s : State) (sel v : W64) : CatOut :=
  let t := field sel 60 4
  let p := field sel 48 5
  let i := field sel 0 16
  let x := s.part p
  if t ≤ 2 ∧ x.state = .free then .done 1 s
  else if field sel 53 7 ≠ 0 ∨ field sel 16 32 ≠ 0 ∨ 3 < t ∨ (t = 3 ∧ p ≠ 0) then .done 3 s
  else
    match t with
    | 0 => if 128 ≤ i then .done 3 s else s.clusterWrite p i v
    | 1 =>
      if 256 ≤ i ∨ field v 9 55 ≠ 0 then .done 3 s
      else if entryValid v && s.bankElsewhere p v then .done 4 s
      else .done 0 (s.setPart p { x with banks := Tab.set x.banks i v })
    | 2 => if 512 ≤ i ∨ field v 3 61 ≠ 0 then .done 3 s else .done 0 (s.setPart p { x with links := Tab.set x.links i v })
    | _ =>
      if 544 ≤ i ∨ laneMapBad v then .done 3 s
      else if (s.holder (coreOfIndex i)).isSome then .done 4 s
      else .done 0 { s with laneMaps := Tab.set s.laneMaps i v }

/-- `cat.set` (R385). DEDUCED, log 55. -/
def execCatSet (d a b : SReg) (s : State) : Out :=
  .next (s.privGate 2 fun s =>
    let x := s.sget a
    let v := s.sget b
    let s := s.item 6 [x.toNat, v.toNat]
    match s.catWrite x v with
    | .done n s => s.status d n
    | .drain s => (s.waitOn (.config .cluster (field x 48 5) d)).settle (field x 48 5)
    | .later => s.waitOn .order)

end Sys2Proof.Machine
end

