-- ==== Sys2Proof/Machine/Schedule.lean ====
section
/-! DEFINITION. The events of the distributor (R219 to R221, R380 to R386) and those that befall a warp (R16, R17, R183, R191, R195). -/

namespace Sys2Proof.Machine

/-! ## Eviction and placement -/

/-- The crew of a warp. -/
def State.crewOfWarp (s : State) (w : Warp) : Option Crew := s.crew? w.ident.grid w.ident.crew
/-- The team of a crew. -/
def State.teamOfCrew (s : State) (c : Crew) : Option Team := s.team? c.grid c.team
/-- The crew with a place in the list of crews. -/
def State.crewAt (s : State) (k : Nat) : Option Crew := s.crews[k]?

/-- WARP_EVICTION (R219, R235): a warp of a marked crew waits at a blocking point, and its slips have completed. -/
def execWarpEviction (w : Nat) (s : State) : Out :=
  match s.findWarp w with
  | none => .next s
  | some x =>
    match s.crewOfWarp x with
    | none => .next s
    | some c =>
      if c.state = .marked ∧ x.blocked ∧ ¬x.evicted ∧ ¬(s.slips.any fun y => y.warp == w || y.twin == some w) then
        .next (s.modPair w fun y => { y with evicted := true })
      else .next s

/-- The number of a core on its die. -/
def coreNumber (k : CoreId) : Nat := 4 * k.pcl + k.core

/-- The defective lanes of a group of a core. -/
def Die.defects (x : Die) (core group : Nat) : List Nat := (x.lanes.filter fun l => l.1 == core && l.2.1 == group).map (·.2.2)

/-- A core has one defective lane in a group that its lane map does not bypass. -/
def State.unbypassed (s : State) (k : CoreId) : Bool :=
  (s.die k.die).lanes.any fun l => l.1 == coreNumber k && field (s.laneMap (68 * k.die + coreNumber k)) (5 * l.2.1) 5 != l.2.2

/-- A drain of a team is still needed (R279, R370, R382, R384, R385): teams wait, crews must leave, or the team's cluster takes no crew. -/
def State.drainNeeded (s : State) (p : Nat) (t : Team) : Bool :=
  !(s.waitingTeams p).isEmpty || (s.part p).suspending || (s.part p).state != .running ||
    (t.shelf.any fun i => t.cluster != some (entryCluster (Tab.get (s.part p).clusters i 0))) ||
    (match (s.part p).newCluster with
      | some (i, _) => t.cluster == some (entryCluster (Tab.get (s.part p).clusters i 0))
      | none => false) ||
    !(t.cluster.any fun c => s.clusterUp c) || (s.teamCrews t).any fun c => c.core.any fun k =>
      (s.die k.die).fencedCores.contains (coreNumber k) || s.unbypassed k

/-- CREW_EVICTION (R221): a marked crew leaves its core with every crew of its team; so does one that only holds tokens, where its team has no crew
placed and must leave. DEDUCED, log 64. -/
def execCrewEviction (k : Nat) (s : State) : Out :=
  match s.crewAt k with
  | none => .next s
  | some c =>
    match s.teamOfCrew c with
    | none => .next s
    | some t =>
      if (c.state = .marked ∧ s.teamIdle t ∧ ¬((s.teamCrews t).any fun y => y.state == .placed)) ∨
          (c.state = .held ∧ s.teamLeft t ∧ s.drainNeeded (s.teamPart t) t) then
        .next ((s.evictTeam t).settle (s.teamPart t))
      else .next s

/-! ## Defective lanes (R233) -/

/-- Writes one SKIP field of a lane map (R231). -/
def withSkip (v : W64) (group phys : Nat) : W64 :=
  (v &&& ~~~((31 : W64) <<< (5 * group))) ||| (BitVec.ofNat 64 phys <<< (5 * group))

/-- The lane map of a core without a crew bypasses the defective lane of a group. -/
def State.bypass (s : State) (k : CoreId) (group : Nat) : State :=
  let i := 68 * k.die + coreNumber k
  match (s.die k.die).defects (coreNumber k) group with
  | [phys] =>
    if (s.holder k).isNone ∧ field (s.laneMap i) (5 * group) 5 ≠ phys then
      { s with laneMaps := Tab.set s.laneMaps i (withSkip (s.laneMap i) group phys) }.repairEvent 1 1 (17 * group + phys) (field (s.laneMap i) (5 * group) 5)
    else s
  | _ => s

/-- Every lane defect of a core without a crew is bypassed before the core takes the next crew. -/
def State.bypassAll (s : State) : State :=
  (List.range 8).foldl (fun s d =>
    (s.die d).lanes.foldl (fun s l => s.bypass ⟨d, l.1 / 4, l.1 % 4⟩ l.2.1) s) s

/-- Withdraws the drains of a partition that are no longer needed (R383). -/
def State.withdraw (s : State) (p : Nat) : State :=
  ((s.placedTeams p).filter fun t => (s.teamCrews t).any (·.state == .marked) && !s.drainNeeded p t).foldl State.undrain s

/-- TEAM_PLACEMENT (R381): the first waiting team is placed where it fits; later ones wait behind it. -/
def execTeamPlacement (p : Nat) (s : State) : Out :=
  let s := (s.settle p).bypassAll
  let s := if s.runs p then
      (match s.firstTeam p with
        | some t => s.tryPlace t
        | none => s)
    else s
  .next (s.withdraw p)

/-- WARP_WAKE (R220): an evicted warp whose wake condition is met, and whose crew stands on a core, is ready again. DEDUCED, log 65. -/
def execWarpWake (w : Nat) (s : State) : Out :=
  match s.findWarp w with
  | none => .next s
  | some x =>
    if x.evicted ∧ s.wakeMet x ∧ (s.part x.ident.part).stop.isNone ∧ (s.crewOfWarp x).any fun c => c.core.isSome && c.state == .placed then
      .next (s.modPair w fun y => { y with evicted := false })
    else .next s

/-! ## Drains (R382 to R384) -/

/-- Every live warp of a placed crew waits at a blocking point. -/
def State.crewBlocked (s : State) (c : Crew) : Bool :=
  c.state == .placed && !(s.crewWarps c.grid c.num).isEmpty && (s.crewWarps c.grid c.num).all Warp.blocked

/-- A crew comes later in the choice of R382: a later launch, then a higher number. Grids are numbered as they launch. -/
def State.later (_ : State) (a b : Crew) : Bool := decide (b.grid < a.grid) || (a.grid == b.grid && decide (b.num < a.num))

/-- The crew of the latest launch and the highest number among some. DEDUCED, log 63. -/
def State.latest (s : State) (cs : List Crew) : Option Crew :=
  cs.foldl (fun r c =>
    match r with
    | none => some c
    | some x => if s.later c x then some c else some x) none

/-- The crews of a partition whose grids are not `TIMED`. -/
def State.untimed (s : State) (p : Nat) : List Crew :=
  s.crews.filter fun c => (s.grid? c.grid).any fun g => g.part == p && !g.desc.timed

/-- Marks the team of a crew. -/
def State.drainCrew (s : State) (c : Crew) : State :=
  match s.teamOfCrew c with
  | some t => s.drainTeam t
  | none => s

/-- BLOCKED_CREW_DRAIN (R382): while a team waits, a crew that has been blocked long enough is drained. DESIGN CHOICE, log 79. -/
def execBlockedCrewDrain (p : Nat) (s : State) : Out :=
  if (s.waitingTeams p).isEmpty then .next s
  else
    match s.latest ((s.untimed p).filter s.crewBlocked) with
    | some c => .next (s.drainCrew c)
    | none => .next s

/-- The function that a grid belongs to (R372): a virtual function, or the partition itself. -/
def State.funcOf (s : State) (g : Grid) : Nat :=
  match s.vfs.find? fun f => f.2.part == g.part && decide (f.2.base ≤ g.mbx ∧ g.mbx < f.2.base + f.2.count) with
  | some f => f.1
  | none => 1024 + g.part
/-- The weight of a function. -/
def State.weight (s : State) (f : Nat) : Nat := ((s.vf? f).map (·.weight)).getD 255

/-- The function with the largest core-time over weight among some, and the one with the smallest. -/
def State.greediest (s : State) (fs : List Nat) : Option Nat :=
  fs.foldl (fun r f =>
    match r with
    | none => some f
    | some g => if Tab.get s.coreTime g 0 * s.weight f < Tab.get s.coreTime f 0 * s.weight g then some f else some g) none
def State.neediest (s : State) (fs : List Nat) : Option Nat :=
  fs.foldl (fun r f =>
    match r with
    | none => some f
    | some g => if Tab.get s.coreTime f 0 * s.weight g < Tab.get s.coreTime g 0 * s.weight f then some f else some g) none

/-- The functions of a partition's grids. -/
def State.funcs (s : State) (p : Nat) : List Nat := ((s.grids.filter fun g => g.part == p).map s.funcOf).eraseDups

/-- Drains crews, the latest first, until enough cores are freed; the fuel bounds their number. DEDUCED, log 63. -/
def State.drainSome (s : State) : Nat → List Crew → Nat → State
  | 0, _, _ => s
  | k + 1, cs, n =>
    if n = 0 then s
    else
      match s.latest cs with
      | none => s
      | some c => (s.drainCrew c).drainSome k (cs.filter fun x => !(x.grid == c.grid && x.team == c.team)) (n - (s.descOf c.grid).crews)

/-- SLICE_END (R384): the core-time of each function is a free value. DESIGN CHOICE, log 62. -/
def execSliceEnd (p : Nat) (s : State) : Out :=
  if (s.part p).cfg.slice = 0 then .next s
  else
    let fs := s.funcs p
    let t : State := { s with
      fresh := s.fresh + fs.length
      coreTime := (fs.zip (List.range fs.length)).foldl (fun (c : Tab Nat) (f : Nat × Nat) => Tab.set c f.1 (Config.coreTimeOf (s.fresh + f.2))) s.coreTime }
    let of (g : Nat) : Nat := ((t.grid? g).map t.funcOf).getD 0
    let waiting := (t.waitingTeams p).filter fun x => decide (of x.grid < 1024)
    let placed := (t.untimed p).filter fun c => c.state == .placed
    match t.neediest (waiting.map fun x => of x.grid), t.greediest (placed.map fun c => of c.grid) with
    | some f, some g =>
      if f = g then .next t
      else
        let need := (waiting.filter fun x => of x.grid == f).foldl (fun n x => n + (t.descOf x.grid).crews) 0
        let crews := placed.filter fun c => of c.grid == g
        .next (t.drainSome crews.length crews need)
    | _, _ => .next t

/-- DRAIN_LIMIT_EXPIRY (R383). -/
def execDrainLimitExpiry (k : Nat) (s : State) : Out :=
  match s.crewAt k with
  | none => .next s
  | some c =>
    let p := ((s.grid? c.grid).map (·.part)).getD 32
    if c.state = .marked ∧ (s.part p).cfg.flags = 1 then .next ((s.killCrew c.grid c.num).settle p) else .next s

/-- FRAME_START (R386). -/
def execFrameStart (s : State) : Out := .next { s with frame := s.frame + 1 }

/-! ## Warps (R16, R17, R183, R191, R195) -/

/-- TRAP_ENTRY (R183): the cause that a warp has pending is taken. -/
def execTrapEntry (w : Nat) (s : State) : Out :=
  match s.findWarp w with
  | some x => if x.evicted ∨ ¬(x.causeArm.bind x.select).any Warp.lanesDone then .next s else .next (s.takeTrap w)
  | none => .next s

/-- The code of a warp-fatal cause (R181). -/
def Fatal.code : Fatal → Nat
  | .poison => cPoison
  | .sdc => cSdc
  | .drain => cDrain

/-- A DETAIL that a warp-fatal event of no word carries (R181, R200): data that an access meets as poison or an uncorrectable read of the register
file, a residue error, or a drain. -/
def Fatal.lists (f : Fatal) (detail : Nat) : Bool :=
  match f with
  | .poison => detail == 1 || detail == 4
  | .sdc => detail == 9
  | .drain => detail == 0

/-- WARP_HALT (R191): a warp-fatal event that no word of the warp causes; only those of R181 occur. -/
def execWarpHalt (w : Nat) (cause : Fatal) (info : FatalInfo) (s : State) : Out :=
  match s.findWarp w with
  | some x =>
    .next (if Fatal.lists cause info.detail.toNat then s.haltAt x (Fatal.code cause) info.detail.toNat info.mask info.va.toNat x.ticket else s)
  | none => .next s

/-- The fill of the registers that a word names: the least recently used ones that it does not name make room (R17). -/
def Warp.fill (w : Warp) (regs : List Nat) : Warp :=
  let need := regs.filter fun r => !w.resident.contains r
  let out := w.resident.length + need.length - Config.residentVregs
  let victims := (w.resident.filter fun r => !regs.contains r).take out
  { w with resident := (w.resident.filter fun r => !victims.contains r) ++ need, wait := .none }

/-- The stream of a warp that waits for register fills is the current one. -/
def Warp.filling (w : Warp) : Option (Warp × List Nat) :=
  match w.wait with
  | .regfile l => some (w, l)
  | _ =>
    match w.swapArm.wait with
    | .regfile l => some (w.swapArm, l)
    | _ => none

/-- REGFILE_FILL (R16, R17): the word replays, or a poisoned fill halts the warp. -/
def execRegfileFill (w : Nat) (poisoned : Bool) (s : State) : Out :=
  match (s.findWarp w).bind Warp.filling with
  | none => .next s
  | some (x, _) =>
    if poisoned then .next (s.haltAt x cPoison 2 0 0 x.ticket)
    else
      .next (s.modPair w fun y =>
        match y.filling with
        | some (y, l) => y.fill l
        | none => y)

/-- An access of a partition meets an uncorrectable write error at an address: the location becomes poisoned (R195), and one in device memory counts
in the frame's retirement score (R359). DEDUCED, log 77. -/
def State.spoil (s : State) (p va : Nat) : State :=
  match s.xlate p va with
  | .ok t =>
    let u := s.placeTaint t.place t.pa 1
    if t.place = Place.device then u.scoreError (t.pa / 4096) 64 else u
  | _ => s

/-- A DETAIL that R181 lists with a code of an access. DEDUCED, log 77. -/
def detailListed (code : Byte) (d : Nat) : Bool :=
  if code = cXlate then true
  else if code.toNat = cPoison then decide (1 ≤ d ∧ d ≤ 4)
  else decide (d / 256 < 64) && decide (d % 256 < if code = cProt then 8 else 1)

/-- LATE_ERROR (R195): an error that an access meets after acceptance, built from its ticket, whether or not its warp still lives; only the codes and
DETAILs that R181 lists for accesses occur. DEDUCED, log 77. -/
def execLateError (t : Ticket) (code : Byte) (detail : W32) (mask : Mask) (va : VA) (s : State) : Out :=
  if t.part < 32 ∧ accessCodes.contains code ∧ detailListed code detail.toNat then
    .next ((if code.toNat = cPoison then s.spoil t.part va.toNat else s).lateError t code.toNat detail.toNat mask va.toNat)
  else .next s

end Sys2Proof.Machine
end

