-- ==== Sys2Proof/Machine/Reliability.lean ====
section
/-! DEFINITION. Errors and repair in service (R233, R277 to R284, R397 to R400), module reset (R402), firmware, power and cooling
(R414, R415). -/

namespace Sys2Proof.Machine

/-! ## Cores (R231 to R233) -/

/-- A die leaves ACTIVE for FENCED (R279): its crews are drained, whatever partition they are of. Each action of the repair controller sends a repair
event (R397); R400 has no UNIT for a die, and its clusters stand for it. DESIGN CHOICE, log 120. -/
def State.fenceDie (s : State) (d : Nat) : State :=
  if (s.die d).state = .active then
    let s := s.modDie d fun x => { x with state := .fenced }
    let s := (s.teams.filter fun t => t.cluster.any fun c => c / 17 == d).foldl State.drainTeam s
    (s.dieEvent 0 d 6 0).repairEvent 2 3 (17 * d) 0
  else s

/-- A core is fenced, and its die with it (R233, R279). DEDUCED, log 72. -/
def State.fenceCore (s : State) (k : CoreId) : State :=
  (s.modDie k.die fun x => { x with fencedCores := if x.fencedCores.contains (coreNumber k) then x.fencedCores else coreNumber k :: x.fencedCores }).fenceDie
    k.die

/-- LANE_DEFECT (R233, R397): one defect in a group is bypassed once the core holds no crew; a second one fences the core. -/
def execLaneDefect (core : CoreId) (group phys : Nat) (s : State) : Out :=
  let n := coreNumber core
  let x := s.die core.die
  let s := if x.lanes.contains (n, group, phys) then s else s.modDie core.die fun x => { x with lanes := (n, group, phys) :: x.lanes }
  if 1 < ((s.die core.die).defects n group).length then .next (s.fenceCore core)
  else
    match s.holder core with
    | some c => .next (s.drainCrew c)
    | none => .next (s.bypass core group)

/-- CORE_PARITY_ERROR (R233, R389): a context stop of the crew's partition, and the core is fenced. An error in the deque, one of the three places
of it, loses the tokens, so that none that might be wrong is delivered. DESIGN CHOICE, log 122. -/
def execCoreParityError (core : CoreId) (s : State) : Out :=
  let s := match s.holder core with
    | some c =>
      let src := 0xF000 + ((s.teamOfCrew c).bind (·.shelf)).getD 0
      (match s.grid? c.grid with
        | some g =>
          let s := if (Config.freeWord s.fresh).getLsbD 0 then s.modCrew c.grid c.num fun x => { x with deque := [] } else s
          { s with fresh := s.fresh + 1 }.raise [g.part] 5 0 src g.part none
        | none => s)
    | none => s
  .next (s.fenceCore core)

/-! ## Compute dies (R279, R280) -/

/-- Every valid cluster entry that names a die is cleared. -/
def State.clearDieEntries (s : State) (d : Nat) : State :=
  { s with parts := s.parts.map fun p => (p.1, { p.2 with
      clusters := p.2.clusters.map fun (e : Nat × W64) => if entryValid e.2 ∧ field e.2 5 3 = d then (e.1, 0) else e }) }

/-- Engine and link writes into the typed buffers of a lost crew are discarded: their timelines advance, and each is a late error (R280). -/
def State.loseOps (s : State) (g c : Nat) : State :=
  (s.ops.filter fun o => o.holds g c).foldl (fun s o => (s.lateError o.ticket cPoison 1 0 0).finishOp o.part o.ctx o.n) s

/-- A crew on a lost die (R280): its warps halt with `DRAIN`, without an address, and its deque and buffers are gone. -/
def State.loseCrew (s : State) (c : Crew) : State :=
  let s := (s.crewWarps c.grid c.num).foldl (fun s w => s.haltAt w cDrain 0 0 0 { w.ticket with pc := 0, word := none }) s
  let s := s.loseOps c.grid c.num
  let s := s.modCrew c.grid c.num fun x => { x with state := .killed, core := none, deque := [], bufW := .empty, bufA := .empty, bufC := .empty }
  { s with slips := s.slips.filter fun x => !(x.grid == c.grid && x.crew == c.num) }

/-- Both ends of a transfer. -/
def Transfer.touches (x : Transfer) (d : Nat) : Bool := x.cluster / 17 == d || (Config.linkFar x.cluster x.plink).1 / 17 == d

/-- The links of a die go down (R279): what they held is gone, and they begin anew when the die is reset. DESIGN CHOICE, log 95. -/
def State.linksDown (s : State) (d : Nat) : State :=
  { s with dieLinks := s.dieLinks.map fun (x : Nat × Link) =>
      if x.1 / 16 = d then (x.1, { Link.blank with replays := x.2.replays, wire := x.2.wire, lanes := x.2.lanes, lost := x.2.lost }) else x }

/-- A die enters DROPPED: what stands on it is lost, and every entry that names it is cleared. DEDUCED, log 73. -/
def State.dropDie (s : State) (d : Nat) : State :=
  let s := (s.transfers.filter fun x => x.touches d).foldl State.linkFail s
  let s := (s.crews.filter fun c => c.core.any fun k => k.die == d).foldl State.loseCrew s
  let s := { s with
    teams := s.teams.map fun (t : Team) => if t.cluster.any fun c => c / 17 == d then { t with shelf := none, cluster := none } else t }
  let s := ((s.cdcDrop fun x => x.cluster / 17 == d).clearDieEntries d).linksDown d
  ((s.modDie d fun x => { x with state := .dropped }).dieEvent 0 d 8 0).repairEvent 2 4 (17 * d) 0

/-- DIE_FENCE (R279). -/
def execDieFence (die : Nat) (s : State) : Out := .next (s.fenceDie die)

/-- DIE_RESET (R279): a fenced die without a crew, or a dropped one, enters RESET. -/
def execDieReset (die : Nat) (s : State) : Out :=
  let x := s.die die
  let empty := !s.crews.any fun c => c.core.any fun k => k.die == die
  if (x.state = .fenced ∧ empty) ∨ x.state = .dropped then
    .next ((s.cdcDrop fun y => y.cluster / 17 == die).modDie die fun y => { y with state := .reset })
  else .next s

/-- The die's one spare physical cluster, the last of its 17, while it is good and no partition's entry names it (R397). DEDUCED, log 59. -/
def State.spareCluster (s : State) (d : Nat) : Option Nat :=
  if (s.die d).bad.contains 16 ∨ s.parts.any fun p => p.2.clusters.any fun e => entryValid e.2 && entryCluster e.2 == 17 * d + 16 then none
  else some 16

/-- The entry of a shelfmark whose cluster has failed its test moves to the spare, or is cleared where none is left (R279). -/
def State.spareEntry (s : State) (p i d k : Nat) : State :=
  let set (s : State) (v : W64) : State := s.modPart p fun x => { x with clusters := Tab.set x.clusters i v }
  match s.spareCluster d with
  | some n => ((set s (BitVec.ofNat 64 (256 + 32 * d + n))).dieEvent 0 d 9 k).repairEvent 2 2 (17 * d + k) (17 * d + n)
  | none => ((set s 0).dieEvent 0 d 9 k).repairEvent 2 4 (17 * d + k) 0

/-- Every entry that names a failed cluster of a die. -/
def State.failedEntries (s : State) (d : Nat) : List (Nat × Nat × Nat) :=
  s.parts.flatMap fun p => (p.2.clusters.filter fun e => entryValid e.2 && field e.2 5 3 == d && (s.die d).bad.contains (field e.2 0 5)).map fun e =>
    (p.1, e.1, field e.2 0 5)

/-- DIE_BIST_COMPLETE (R279): the die is ACTIVE again, with the failed clusters spared, or DROPPED. DEDUCED, log 59. -/
def execDieBistComplete (die : Nat) (pass : Bool) (failed : List Nat) (s : State) : Out :=
  if (s.die die).state ≠ .reset then .next s
  else if pass then
    let s := s.modDie die fun x => { x with state := .active, bad := failed, fencedCores := [] }
    let s := (s.failedEntries die).foldl (fun s e => s.spareEntry e.1 e.2.1 die e.2.2) s
    .next ((s.dieEvent 0 die 7 0).repairEvent 2 1 (17 * die) 0)
  else .next (s.dropDie die)

/-- DIE_DROP (R279): a fenced die is dropped on request. DEDUCED, log 73. -/
def execDieDrop (die : Nat) (s : State) : Out := if (s.die die).state = .fenced then .next (s.dropDie die) else .next s

/-- DIE_LOST (R280). -/
def execDieLost (die : Nat) (s : State) : Out :=
  if (s.die die).state = .active ∨ (s.die die).state = .fenced then .next (s.dropDie die) else .next s

/-! ## Die links (R281 to R283) -/

/-- The number of a die link in this model. -/
def linkNumber (l : DieLink) : Nat := 256 * l.weight.toNat + 16 * l.die + l.module

/-- What OLD of a repair event holds for a module of a die link, and for a port (R400). DESIGN CHOICE, log 120. -/
def linkUnit (n : Nat) : Nat := 2 ^ 32 + n
def portUnit (n : Nat) : Nat := 2 ^ 33 + n

/-- A module of a die link. -/
def State.dieLink (s : State) (n : Nat) : Link := Tab.get s.dieLinks n .blank
/-- Writes a module of a die link. -/
def State.setDieLink (s : State) (n : Nat) (x : Link) : State := { s with dieLinks := Tab.set s.dieLinks n x }

/-- The partner of a module, which carries its lines while it cannot (R283). DESIGN CHOICE, log 81. -/
def partner (n : Nat) : Nat := if n % 2 = 0 then n + 1 else n - 1
/-- The module of a die that a line belongs to, by number: one of the 16 of a compute die or the 8 of a weight die (R281, R283). -/
def moduleOf (l : DieLink) (line : Nat) : Nat :=
  linkNumber l / 16 * 16 + Config.dieModule (linkNumber l / 16) line % (if l.weight then 8 else 16)
/-- The module that carries the lines of a module: its partner while that has its line set (R283). -/
def State.carrier (s : State) (n : Nat) : Nat := if (s.dieLink n).lost ∨ (s.dieLink n).away ≠ [] then partner n else n

/-- An answer joins the module that carries the line of the slot that it answers (R283). -/
def State.answerSlot (s : State) (l : DieLink) (u : List Byte) : State :=
  let n := moduleOf l (Config.slotLine u)
  let m := s.carrier n
  let us := Config.slotAnswer u
  let s := s.setDieLink m { s.dieLink m with queue := (s.dieLink m).queue ++ us }
  if (s.dieLink n).away = [] then s else s.setDieLink n { s.dieLink n with away := (s.dieLink n).away ++ us }

/-- A module's line set returns once its partner holds none of its slots any more (R283). -/
def State.returnLines (s : State) (n : Nat) : State :=
  let x := s.dieLink n
  if x.away = [] then s
  else
    let p := (s.dieLink (partner n)).pending
    s.setDieLink n { x with away := x.away.filter p.contains }

/-- What waits for the modules of a die leaves, then the receive credits that no slot has returned. -/
def State.sendDie (s : State) (l : DieLink) : State :=
  let ns := (List.range 16).map (linkNumber l / 16 * 16 + ·)
  let s := ns.foldl (fun s n =>
    let x := s.dieLink n
    if x.lost ∨ (x.queue = [] ∧ x.owed = 0) then s else s.setDieLink n (Link.sendSlots n x.queue.length x).returnDie) s
  ns.foldl State.returnLines s

/-- The links of a DROPPED compute die are held down (R279). -/
def State.linkDown (s : State) (l : DieLink) : Bool := !l.weight && (s.die l.die).state == .dropped

/-- DIE_FLIT_RECEIVE (R283): a good flit that is next in order is taken, and its slots are answered; the accesses that they carry are performed in the
steps of the words that make them. DESIGN CHOICE, log 95. -/
def execDieFlitReceive (link : DieLink) (flit : List Byte) (s : State) : Out :=
  if s.linkDown link ∨ (s.dieLink (linkNumber link)).lost then .next s
  else
    let n := linkNumber link
    let (x, us) := (s.dieLink n).receiveDie flit
    .next ((us.foldl (fun s u => s.answerSlot link u) (s.setDieLink n x)).sendDie link)

/-- A module's line set moves to its partner (R283): the slots of its replay buffer, then those that wait, follow what the partner has to send,
in order, and leave as its replay buffer and credits admit. Where the partner is lost too, they stay. DESIGN CHOICE, log 81. -/
def State.moveLines (s : State) (n : Nat) : State :=
  let m := partner n
  let x := s.dieLink n
  let y := s.dieLink m
  if y.lost then s.setDieLink n x.replay
  else
    (s.setDieLink m { y with queue := y.queue ++ x.pending, away := [] }).setDieLink n
      { x with unacked := [], queue := [], used := x.used - (x.unacked.flatMap fun u => flitSlots u.2).length, away := x.pending }

/-- A module is repaired (R283): its line set moves to its partner, it retrains, and its line set returns once its partner has sent what it took over.
DESIGN CHOICE, log 81. -/
def State.repairModule (s : State) (n : Nat) (degraded : Bool) : State :=
  let s := s.moveLines n
  s.setDieLink n { s.dieLink n with lanes := if degraded then 1 else (s.dieLink n).lanes }

/-- UCIE_MODULE_REPAIR (R283, R284, R397): the link keeps its order; degradation leaves 32 of its 64 lanes. A lost module, or one of a die whose
links are held down (R279), is not repaired. DESIGN CHOICE, logs 81, 120. -/
def execUcieModuleRepair (link : DieLink) (degraded : Bool) (s : State) : Out :=
  let n := linkNumber link
  if s.linkDown link ∨ (s.dieLink n).lost then .next s
  else
    .next (((((s.repairModule n degraded).sendDie link).dieEvent link.weight.toNat link.die (if degraded then 2 else 1) link.module)).repairEvent 1
      (if degraded then 3 else 1) (linkUnit n) 0)

/-! ## Weight banks and weight dies (R277, R278, R397) -/

/-- Every bank entry that a test of its physical bank selects is cleared. -/
def State.clearBanks (s : State) (f : Nat → Bool) : State :=
  { s with parts := s.parts.map fun p => (p.1, { p.2 with
      banks := p.2.banks.map fun (e : Nat × W64) => if entryValid e.2 ∧ f (field e.2 0 8) then (e.1, 0) else e }) }

/-- The slip reads a bank that a test selects. -/
def Slip.readsBank (x : Slip) (f : Nat → Bool) : Bool :=
  match x.op with
  | .weight _ _ _ b _ => f b
  | _ => false

/-- BANK_FAILURE (R278): slips that read the bank write poisoned outputs. DEDUCED, log 70. -/
def execBankFailure (wdie pbank : Nat) (s : State) : Out :=
  let b := 64 * wdie + pbank
  let s := s.clearBanks (· == b)
  let s := { s with slips := s.slips.map fun (x : Slip) => if x.readsBank (· == b) then { x with failed := true } else x }
  .next (s.repairEvent 6 4 b 0)

/-- WEIGHT_DIE_FENCE (R397). DESIGN CHOICE, log 120. -/
def execWeightDieFence (wdie : Nat) (s : State) : Out :=
  .next (({ s.clearBanks (· / 64 == wdie) with wdies := Tab.set s.wdies wdie true }.dieEvent 1 wdie 6 0).repairEvent 6 3 (64 * wdie) 0)

/-- WEIGHT_DIE_RESET (R277): every bank byte of the die is zero and carries no poison. -/
def execWeightDieReset (wdie : Nat) (s : State) : Out :=
  let n := 64 * Config.bankBytes
  .next ({ s with bankMem := s.bankMem.erase (n * wdie) (n * (wdie + 1)), wdies := Tab.set s.wdies wdie false }.dieEvent 1 wdie 7 0
    |>.repairEvent 6 1 (64 * wdie) 0)

/-! ## LLC slices and HBM (R398, R399) -/

/-- The slice entry of a shelfmark (R385): at first shelfmark i names physical slice i. PRESUMED, log 78. -/
def State.sliceEntry (s : State) (i : Nat) : W64 := Tab.get s.slices i (BitVec.ofNat 64 (512 + i))

/-- The spare physical slice beneath the compute die of a shelfmark (R326, R397), until a shelfmark names it: a slice that has been replaced is no
spare. PRESUMED, log 78. -/
def State.spareSlice (s : State) (i : Nat) : Option Nat :=
  let k := 256 + i / 32
  if (List.range 256).any fun i => (s.sliceEntry i).getLsbD 9 && field (s.sliceEntry i) 0 9 == k then none else some k

/-- A slice is replaced by a spare: every result is that of an unrepaired part. -/
def State.spareOut (s : State) (i : Nat) : State :=
  let old := field (s.sliceEntry i) 0 9
  match s.spareSlice i with
  | some k => { s with slices := Tab.set s.slices i (BitVec.ofNat 64 (512 + k)) }.repairEvent 3 2 old k
  | none => s.repairEvent 3 4 old 0

/-- SLICE_SPARE (R398). -/
def execSliceSpare (slice : Nat) (s : State) : Out := .next (s.spareOut slice)

/-- The lines that may have their home at a slice (R327). -/
def homedAt (slice line : Nat) : Bool := homeSlice (128 * line) false 0 == slice || homeSlice (128 * line) true (slice / 32) == slice

/-- A fill whose line has not returned from its slice comes poisoned (R194, R398). -/
def CdcLine.lost (x : CdcLine) (slice : Nat) : CdcLine :=
  if x.home = slice then { x with poison := (List.range 16).map (16 * x.line + ·) } else x

/-- SLICE_FAILURE (R398): the lines that the slice held dirty, which the model does not know, are poisoned, and the fills that have not returned from
it; without the duplicate tags the module stops. -/
def execSliceFailure (slice : Nat) (tagsLost : Bool) (s : State) : Out :=
  if tagsLost then .next (s.raiseAll 6 0 0x300 32)
  else
    let lines := (Config.dirtyLines s.fresh).filter fun l => homedAt slice l && decide (128 * l < Config.deviceBytes)
    let t := lines.foldl (fun t l => { t with dev := t.dev.taint (128 * l) 128 }) { s with fresh := s.fresh + 1 }
    .next ({ t with fills := t.fills.map fun (x : CdcLine) => x.lost slice }.spareOut slice)

/-- HBM_ROW_REPAIR (R399): a retired frame whose rows are repaired and pass their test returns to the free pool, cleared and with score 0.
DESIGN CHOICE, log 120. -/
def execHbmRowRepair (frame : Nat) (pass : Bool) (s : State) : Out :=
  if s.ownerAt (4096 * frame) ≠ 64 then .next s
  else
    let g := Config.bankGroup frame
    let left := Tab.get s.rowsLeft g (Config.repairRows g)
    if left = 0 then .next (s.repairEvent 4 4 (4096 * frame) 0)
    else
      let t := { s with rowsLeft := Tab.set s.rowsLeft g (left - 1), softRepairs := s.softRepairs ++ [frame] }
      if pass then
        .next ({ t with
          dev := t.dev.erase (4096 * frame) (4096 * frame + 4096)
          owners := ⟨frame, frame + 1, 63⟩ :: t.owners
          tags := ⟨32 * frame, 32 * frame + 32, 63, Tab.get t.epochs 63 0⟩ :: t.tags
          scores := Tab.set t.scores frame 0 }.repairEvent 4 1 (4096 * frame) 0)
      else .next (t.repairEvent 4 3 (4096 * frame) 0)

/-- HBM_CHANNEL_FAILURE (R399): the pair code carries one channel of a pair; the lines of a second one, which the spec does not list, are
poisoned and count in the retirement scores of their frames (R359). -/
def execHbmChannelFailure (stack chan : Nat) (s : State) : Out :=
  let other := if chan % 2 = 0 then chan + 1 else chan - 1
  let t := { s with channels := if s.channels.contains (stack, chan) then s.channels else (stack, chan) :: s.channels }
  if s.channels.contains (stack, other) then
    let lines := (Config.channelLines s.fresh).filter fun l => stackOf (128 * l) == stack && decide (128 * l < Config.deviceBytes)
    let t := lines.foldl (fun t l => { t with dev := t.dev.taint (128 * l) 128 }.scoreError (l / 32) 64) { t with fresh := t.fresh + 1 }
    .next (t.repairEvent 5 4 (32 * stack + chan) 0)
  else .next (t.repairEvent 5 3 (32 * stack + chan) 0)

/-! ## Reset and power loss (R277, R399, R402, R403) -/

/-- The module at reset, with what a reset does not clear: the replay-protected store and the firmware, host memory, the turns to come, and what
is broken. Every key is made afresh (R402). DESIGN CHOICE, log 25; DEDUCED, log 60. -/
def State.afterReset (s : State) : State :=
  { State.reset with
    agenda := s.agenda
    fresh := s.fresh
    nextId := s.nextId
    hostMem := s.hostMem
    hostErrs := s.hostErrs
    epochs := (63 :: List.range 32).map fun o => (o, Tab.get s.epochs o 0 + 1)
    channels := s.channels
    rowsLeft := s.rowsLeft
    lostLinks := s.lostLinks
    security := { s.security with transport := s.security.transport + 1, activating := false } }

/-- MODULE_RESET (R399, R402): device memory keeps its lines under the keys that are gone; soft repairs are made hard. -/
def execModuleReset (s : State) : Out :=
  .next { s.afterReset with
    dev := s.dev
    tags := s.tags ++ [⟨0, Config.deviceBytes / 128, 65, 0⟩] }

/-- POWER_LOSS (R403): the replay-protected store keeps its values, since every write to it is one step; memory is lost. -/
def execPowerLoss (s : State) : Out := .next s.afterReset

/-! ## Cooling and supply (R415) -/

/-- A sensor joins a list. -/
def addSensor (l : List Nat) (x : Nat) : List Nat := if l.contains x then l else x :: l

/-- THERMAL_WARNING (R415). -/
def execThermalWarning (sensor : Nat) (s : State) : Out :=
  .next ({ s with sensors := addSensor s.sensors sensor }.repairEvent 7 5 sensor 0)

/-- A sensor is beyond its limit: a module stop with REASON 7. DEDUCED, log 68. -/
def State.overLimit (s : State) (sensor : Nat) : State :=
  { s with sensors := addSensor s.sensors sensor, limits := addSensor s.limits sensor }.raiseAll 7 0 0x300 32

/-- THERMAL_LIMIT (R415). DESIGN CHOICE, log 79. -/
def execThermalLimit (sensor : Nat) (s : State) : Out := .next (s.overLimit sensor)
/-- SUPPLY_LIMIT (R415). -/
def execSupplyLimit (sensor : Nat) (s : State) : Out := .next (s.overLimit sensor)

/-- THERMAL_RECOVERY (R408, R415): once no sensor that stopped the module is beyond its warning level, the partitions run again. -/
def execThermalRecovery (sensor : Nat) (s : State) : Out :=
  let t := { s with sensors := s.sensors.filter (· != sensor), limits := s.limits.filter (· != sensor) }
  if s.limits.contains sensor then .next t.runAgain else .next t

/-- BASE_DIE_UNCORRECTABLE_ERROR (R389). DEDUCED, log 68. -/
def execBaseDieUncorrectableError (s : State) : Out := .next (s.raiseAll 6 0 0x300 32)

/-! ## Firmware (R414) -/

/-- MANAGEMENT_WINDOW_WRITE (R414, R441): kind 0 stages an image, its version in the first 4 bytes; kind 1 gives the configuration block of
partition 0, and kind 2 one of its cluster entries, as shelfmark and entry, before bring-up. DESIGN CHOICE, log 80. -/
def execManagementWindowWrite (kind : Nat) (bytes : List Byte) (signed : Bool) (s : State) : Out :=
  match kind with
  | 0 =>
    let v : W32 := BitVec.ofNat 32 (leAt bytes 0 4)
    if signed ∧ s.security.floor ≤ v then
      .next { s with security := { s.security with staged := some (v, bytes.drop 4) } }
    else .next s
  | 1 => if s.up then .next s else .next { s with mgmtConfig := some (bytes ++ List.replicate (128 - bytes.length) 0) }
  | 2 =>
    if s.up then .next s
    else .next { s with mgmtClusters := Tab.set s.mgmtClusters (leAt bytes 0 2) (BitVec.ofNat 64 (leAt bytes 8 8)) }
  | _ => .next s

/-- FIRMWARE_ACTIVATION (R414): a module stop with REASON 8. DEDUCED, log 68. -/
def execFirmwareActivation (s : State) : Out :=
  if s.security.staged.isSome then
    .next ({ s with security := { s.security with activating := true } }.raiseAll 8 0 0x062 32)
  else .next s

/-- No context stop is under way. -/
def State.allStopped (s : State) : Bool := s.moduleStop.isNone && s.parts.all fun p => p.2.stop.isNone

/-- FIRMWARE_ACTIVATION_DONE (R408, R414): once the module stop has ended, the staged image runs, unless a floor raised since is above its version. -/
def execFirmwareActivationDone (s : State) : Out :=
  if s.security.activating ∧ s.allStopped then
    let x := { s.security with activating := false, staged := none }
    .next ({ s with security := match s.security.staged with
        | some (v, i) => if s.security.floor ≤ v then { x with fwVersion := v, fwImage := some i } else x
        | none => x }.runAgain)
  else .next s

/-- FIRMWARE_FLOOR_UPDATE (R414): a signed update raises the floor and never lowers it. -/
def execFirmwareFloorUpdate (version : W32) (signed : Bool) (s : State) : Out :=
  if signed ∧ s.security.floor < version then .next { s with security := { s.security with floor := version } } else .next s

end Sys2Proof.Machine
end

