-- ==== Sys2Proof/Machine/Xmss.lean ====
section
/-! DEFINITION. XMSS^MT with SHAKE256, n = 32, h = 40, d = 4 (R402), as RFC 8391 and NIST SP 800-208 define it. PRESUMED, log 121. -/

namespace Sys2Proof.Machine

/-- A number as n bytes, the most significant first. -/
def beBytes (n x : Nat) : List Byte := (natToBytes n x).reverse
/-- A number from bytes, the most significant first. -/
def beNat (b : List Byte) : Nat := bytesToNat b.reverse
/-- Thirty-two bytes of a list. -/
def node32 (b : List Byte) (i : Nat) : List Byte := (b.drop (32 * i)).take 32

/-- A hash with a domain number. -/
def xmssHash (dom : Nat) (key m : List Byte) : List Byte := shake256 (beBytes 32 dom ++ key ++ m) 32

/-- A hash address: layer, tree, type, and the four words that the type names. -/
structure XAddr where
  layer : Nat
  tree : Nat
  type : Nat
  a : Nat
  b : Nat
  c : Nat
  deriving DecidableEq, Repr

/-- Its bytes, with a last word that says which key or mask is made. -/
def XAddr.bytes (x : XAddr) (last : Nat) : List Byte :=
  beBytes 4 x.layer ++ beBytes 8 x.tree ++ beBytes 4 x.type ++ beBytes 4 x.a ++ beBytes 4 x.b ++ beBytes 4 x.c ++ beBytes 4 last

/-- The pseudorandom value of an address. -/
def XAddr.prf (x : XAddr) (seed : List Byte) (last : Nat) : List Byte := xmssHash 3 seed (x.bytes last)

/-- Two lists of bytes, added. -/
def addBytes (a b : List Byte) : List Byte := a.zipWith (· ^^^ ·) b

/-- The hash of two nodes. -/
def xmssPair (l r seed : List Byte) (x : XAddr) : List Byte :=
  xmssHash 1 (x.prf seed 0) (addBytes l (x.prf seed 1) ++ addBytes r (x.prf seed 2))

/-! ## One-time signatures -/

/-- A chain from one step on. -/
def xmssChain (seed : List Byte) (x : XAddr) : Nat → Nat → List Byte → List Byte
  | 0, _, v => v
  | k + 1, i, v => let y := { x with c := i }; xmssChain seed x k (i + 1) (xmssHash 0 (y.prf seed 0) (addBytes v (y.prf seed 1)))

/-- The digits of a message of 32 bytes, and of its checksum. -/
def wotsDigits (m : List Byte) : List Nat :=
  let ds := m.flatMap fun x => [x.toNat / 16, x.toNat % 16]
  let sum := ds.foldl (fun n d => n + (15 - d)) 0
  ds ++ [sum / 256, sum / 16 % 16, sum % 16]

/-- The secret value of a chain. -/
def wotsSecret (sk seed : List Byte) (x : XAddr) : List Byte := xmssHash 4 sk (seed ++ { x with c := 0 }.bytes 0)

/-- The address of a chain of a leaf. -/
def wotsAddr (layer tree leaf i : Nat) : XAddr := ⟨layer, tree, 0, leaf, i, 0⟩

/-- The ends of the chains of a leaf. -/
def wotsEnds (sk seed : List Byte) (layer tree leaf : Nat) : List (List Byte) :=
  (List.range 67).map fun i => let x := wotsAddr layer tree leaf i; xmssChain seed x 15 0 (wotsSecret sk seed x)
/-- The one-time signature of a message. -/
def wotsSign (sk seed m : List Byte) (layer tree leaf : Nat) : List (List Byte) :=
  (wotsDigits m).zipIdx.map fun d => let x := wotsAddr layer tree leaf d.2; xmssChain seed x d.1 0 (wotsSecret sk seed x)
/-- The ends of the chains that a signature of a message leads to. -/
def wotsFrom (seed m : List Byte) (sig : List (List Byte)) (layer tree leaf : Nat) : List (List Byte) :=
  ((wotsDigits m).zip sig).zipIdx.map fun d => xmssChain seed (wotsAddr layer tree leaf d.2) (15 - d.1.1) d.1.1 d.1.2

/-- One level of the tree over the ends of a leaf's chains. -/
def ltreeLevel (seed : List Byte) (layer tree leaf height : Nat) (ns : List (List Byte)) : List (List Byte) :=
  ((List.range (ns.length / 2)).map fun i => xmssPair (ns.getD (2 * i) []) (ns.getD (2 * i + 1) []) seed ⟨layer, tree, 1, leaf, height, i⟩) ++
    (if ns.length % 2 = 1 then ns.getLast?.toList else [])
/-- The leaf over the ends of its chains: 67 of them make 7 levels. -/
def ltree (seed : List Byte) (layer tree leaf : Nat) (ns : List (List Byte)) : List Byte :=
  ((List.range 7).foldl (fun ns h => ltreeLevel seed layer tree leaf h ns) ns).headD []

/-! ## Trees of height 10, four of them one above another -/

/-- A node of a tree. -/
def xmssNode (sk seed : List Byte) (layer tree : Nat) : Nat → Nat → List Byte
  | 0, i => ltree seed layer tree i (wotsEnds sk seed layer tree i)
  | h + 1, i => xmssPair (xmssNode sk seed layer tree h (2 * i)) (xmssNode sk seed layer tree h (2 * i + 1)) seed ⟨layer, tree, 2, 0, h, i⟩

/-- The signature of a message by a leaf of a tree: the one-time signature and the nodes beside its path. -/
def treeSign (sk seed m : List Byte) (layer tree leaf : Nat) : List Byte :=
  (wotsSign sk seed m layer tree leaf).flatMap id ++
    (List.range 10).flatMap fun h => let i := leaf / 2 ^ h; xmssNode sk seed layer tree h (if i % 2 = 0 then i + 1 else i - 1)

/-- The root that a tree's signature of a message leads to. -/
def treeRoot (seed m sig : List Byte) (layer tree leaf : Nat) : List Byte :=
  (List.range 10).foldl (fun n h =>
    let s := node32 sig (67 + h)
    let x : XAddr := ⟨layer, tree, 2, 0, h, leaf / 2 ^ (h + 1)⟩
    if leaf / 2 ^ h % 2 = 0 then xmssPair n s seed x else xmssPair s n seed x)
    (ltree seed layer tree leaf (wotsFrom seed m ((List.range 67).map (node32 sig)) layer tree leaf))

/-- The leaf and the tree of a signature index at a layer. -/
def leafAt (idx layer : Nat) : Nat := idx / 2 ^ (10 * layer) % 2 ^ 10
def treeAt (idx layer : Nat) : Nat := idx / 2 ^ (10 * (layer + 1))

/-- The seeds of a private key: for the one-time keys, for the randomiser, and the public seed. -/
structure XmssKey where
  secret : List Byte
  random : List Byte
  seed : List Byte
  deriving DecidableEq, Repr

/-- The root of a key. -/
def XmssKey.root (k : XmssKey) : List Byte := xmssNode k.secret k.seed 3 0 10 0
/-- A public key: the root, then the public seed. -/
def XmssKey.pub (k : XmssKey) : List Byte := k.root ++ k.seed

/-- The hash of a message that is signed. -/
def xmssMessage (r root : List Byte) (idx : Nat) (m : List Byte) : List Byte := xmssHash 2 (r ++ root ++ beBytes 32 idx) m

/-- The signature of a message under an index: 9,893 bytes. -/
def XmssKey.sign (k : XmssKey) (idx : Nat) (m : List Byte) : List Byte :=
  let r := xmssHash 3 k.random (beBytes 32 idx)
  let sig (layer : Nat) (m : List Byte) : List Byte := treeSign k.secret k.seed m layer (treeAt idx layer) (leafAt idx layer)
  beBytes 5 idx ++ r ++ sig 0 (xmssMessage r k.root idx m) ++
    [1, 2, 3].flatMap fun layer => sig layer (xmssNode k.secret k.seed (layer - 1) (treeAt idx (layer - 1)) 10 0)

/-- A signature of a message verifies under a public key. PRESUMED, log 121. -/
def xmssVerifies (pub m sig : List Byte) : Bool :=
  let root := pub.take 32
  let seed := pub.drop 32
  let idx := beNat (sig.take 5)
  let r := (sig.drop 5).take 32
  let part (layer : Nat) : List Byte := (sig.drop (37 + 2464 * layer)).take 2464
  let top := (List.range 4).foldl (fun n layer => treeRoot seed n (part layer) layer (treeAt idx layer) (leafAt idx layer)) (xmssMessage r root idx m)
  sig.length == 9893 && decide (idx < 2 ^ 40) && top == root

end Sys2Proof.Machine
end

