-- ==== Sys2Proof/Machine/Security.lean ====
section
/-! DEFINITION. The security block (R402 to R413, R442, R443): attestation reports, `keyld`, and folios with `ckpt` and `rest`. -/

namespace Sys2Proof.Machine

/-! ## The replay-protected store and the report (R403, R404) -/

/-- V(t): the recorded value of a tenant's accession counter, 0 without an entry. -/
def Security.v (x : Security) (t : W64) : W64 := ((x.tenants.find? fun e => e.1 == t).map (·.2)).getD 0
/-- A tenant has an entry. -/
def Security.knows (x : Security) (t : W64) : Bool := x.tenants.any fun e => e.1 == t
/-- Writes V(t). -/
def Security.setV (x : Security) (t v : W64) : Security :=
  { x with tenants := if x.knows t then x.tenants.map fun e => if e.1 = t then (t, v) else e else x.tenants ++ [(t, v)] }

/-- `n` bytes of a function of the byte number. -/
def bytesFrom (f : Nat → Byte) (n : Nat) : List Byte := (List.range n).map f
/-- Zero bytes. -/
def zeros (n : Nat) : List Byte := List.replicate n 0

/-- A key of three seeds. -/
def seedKey (f : Nat → Byte) : XmssKey :=
  ⟨bytesFrom f 32, bytesFrom (fun i => f (32 + i)) 32, bytesFrom (fun i => f (64 + i)) 32⟩
/-- The identity key and the Damcor root (R402). -/
def idKey : XmssKey := seedKey Config.identitySeed
def rootKey : XmssKey := seedKey Config.rootSeed
/-- IDPUB, CERT and DEVID (R404). -/
def idPub : List Byte := idKey.pub
def idCert : List Byte := rootKey.sign (Config.certIndex % Config.identitySigs) idPub
def devId : List Byte := shake256 idPub 32
/-- The running firmware, and FWMEAS (R404). -/
def Security.firmware (x : Security) : List Byte := x.fwImage.getD Config.firmware
def Security.fwMeas (x : Security) : List Byte := shake256 x.firmware 64
/-- The seeds d and z of the transport key of an epoch, and its encapsulation key (R402, R404). -/
def transportD (epoch : Nat) : List Byte := bytesFrom (Config.transportSeed epoch) 32
def transportZ (epoch : Nat) : List Byte := bytesFrom (fun i => Config.transportSeed epoch (32 + i)) 32
def transportKey (epoch : Nat) : List Byte := (kemPair (transportD epoch)).2

/-- The bytes of a report that its signature covers (R404). -/
def State.reportBody (s : State) (p : Nat) (nonce : List Byte) : List Byte :=
  let c := s.security
  let t := ((s.part p).bound.map (·.1)).getD 0
  layBytes [(4, 0x52414B55), (2, 1), (2, 0), (8, t.toNat), (8, (c.v t).toNat)] ++ devId ++ c.fwMeas ++
    natToBytes 4 c.fwVersion.toNat ++ [BitVec.ofNat 8 p] ++ zeros 3 ++ ((s.part p).bound.map (·.2)).getD (zeros 64) ++ nonce ++ zeros 32 ++
    transportKey c.transport ++ zeros 224 ++ idPub ++ idCert ++ zeros 3
/-- A report (R404): 21,904 bytes, signed under the identity key's next signature index. -/
def State.report (s : State) (p : Nat) (nonce : List Byte) : List Byte :=
  let b := s.reportBody p nonce
  b ++ idKey.sign s.security.sigIndex b ++ zeros 3

/-- Bytes of a block from one offset to before another. -/
def slice (b : List Byte) (lo hi : Nat) : List Byte := (b.drop lo).take (hi - lo)

/-- A report is accepted (R404). -/
def State.accepts (s : State) (r : List Byte) : Bool :=
  xmssVerifies rootKey.pub (slice r 2048 2112) (slice r 2112 12005) && xmssVerifies (slice r 2048 2112) (slice r 0 12008) (slice r 12008 21901) &&
    decide (s.security.floor.toNat ≤ leAt r 120 4)

/-! ## keyld (R409) -/

/-- Bytes 40 to 69 of a configuration block (R362). -/
def PartCfg.measured (c : PartCfg) : List Byte :=
  layBytes [(2, c.mbx), (2, c.faultMbx), (2, c.replyMbx), (2, c.barq), (2, c.ectx), (1, c.level), (1, c.flags), (4, c.drain), (4, c.slice),
    (2, c.clq), (2, c.hbmq), (2, c.engq), (1, c.tcl), (1, 0), (2, c.migth)]

/-- The contents of a 4 KiB page of device memory as the part reads it; what a poisoned byte reads as is free. DESIGN CHOICE, log 83. -/
def State.frameBytes (s : State) (pa : Nat) : List Byte :=
  if s.placePoisoned .device pa 4096 then
    (List.range 4096).map fun i => if s.placePoisoned .device (pa + i) 1 then Config.poisonedRead (s.fresh + i) else s.devByte (pa + i)
  else s.devRead pa 4096

/-- The physical pages of a range of sealed device-memory pages, or none where one is not. -/
def State.sealedPages (s : State) (p va len : Nat) : Option (List Nat) :=
  if va % 4096 ≠ 0 ∨ len % 4096 ≠ 0 ∨ len = 0 ∨ 2 ^ 57 < va + len then none
  else
    (List.range (len / 4096)).mapM fun i =>
      match s.xlate p (va + 4096 * i) with
      | .ok t => if t.place = .device ∧ pteSealed t.entry then some t.pa else none
      | _ => none

/-- The bytes that a range adds to the measurement. -/
def State.measureRange (s : State) (p : Nat) (b : List Byte) (i : Nat) : Option (List Byte) :=
  let va := leAt b (32 + 16 * i) 8
  let len := leAt b (40 + 16 * i) 8
  (s.sealedPages p va len).map fun l => natToBytes 8 va ++ natToBytes 8 len ++ l.flatMap s.frameBytes

/-- `keyld` OP 1 once its block is read: its status and what it leaves (R369, R405, R409). DEDUCED, log 82. -/
def State.measure (s : State) (p : Nat) (b : List Byte) : Nat × State :=
  let x := s.part p
  let t := BitVec.ofNat 64 (leAt b 0 8)
  let n := leAt b 8 8
  if t = 0 ∨ n = 0 ∨ 14 < n then (3, s)
  else
    match (List.range n).mapM (s.measureRange p b) with
    | none => (3, s)
    | some l =>
      if !s.security.knows t && decide (Config.tenants ≤ s.security.tenants.length) then (2, s)
      else if x.bound.isSome then (4, s)
      else
        let m := shake256 (x.cfg.measured ++ l.flatMap id) 64
        let s := { s with security := if s.security.knows t then s.security else s.security.setV t 0 }
        (0, s.setPart p { x with bound := some (t, m) })

/-- A report is stored by the current warp. -/
def State.storeReport (s : State) (cs : List Chunk) (va : Nat) (bs : List Byte) : State :=
  cs.foldl (fun s c => (s.store s.warp.ident.part ((va + c.off) % 2 ^ 64) c.t ((bs.drop c.off).take c.len) 0 true).s) s

/-- `keyld` OP 2 once its block is read (R405, R409). DEDUCED, log 84. -/
def State.attest (s : State) (d : SReg) (p : Nat) (b : List Byte) : State :=
  let va := leAt b 32 8
  if va % 8 ≠ 0 then s.status d 3
  else
    match s.range s.warp.ident.part va 21904 accWrite with
    | (.none, cs, t) =>
      if cs.any fun c => pteMoving c.t.entry then s.waitOn .order
      else if Config.identitySigs ≤ s.security.sigIndex then s.status d 12
      else
        let t := t.storeReport cs va (s.report p (b.take 32))
        { t with security := { t.security with sigIndex := t.security.sigIndex + 1 } }.status d 0
    | _ => s.status d 3

/-- `keyld` (R366 to R369, R405, R406, R409). DEDUCED, logs 50, 82. -/
def State.keyldWord (s : State) (d a b : SReg) : State :=
  s.privGate 2 fun s =>
    let x := s.sget a
    let va := s.sget b
    let p := field x 0 5
    let s := s.item 6 [x.toNat, va.toNat]
    match field x 60 4 with
    | 1 =>
      if (s.part p).state = .free then s.status d 1
      else if field x 5 55 ≠ 0 then s.status d 3
      else
        s.readBlock va.toNat 256 fun bs s =>
          let (n, s) := (s.item 6 (bs.map (·.toNat))).measure p bs
          s.status d n
    | 2 =>
      if field x 5 55 ≠ 0 then s.status d 3
      else s.readBlock va.toNat 64 fun bs s => (s.item 6 (bs.map (·.toNat))).attest d p bs
    | 3 =>
      if field x 5 55 ≠ 0 ∨ va ≠ 0 then s.status d 3
      else if s.folioOn p then s.status d 4
      else (s.modPart p fun x => { x with bound := none }).status d 0
    | _ => s.status d 3

/-- `keyld` OP 1 (R409); an OP that does not exist returns 3. -/
def execKeyldMeasure (d a b : SReg) (s : State) : Out := .next (s.keyldWord d a b)
/-- `keyld` OP 2 (R409). -/
def execKeyldReport (d a b : SReg) (s : State) : Out := .next (s.keyldWord d a b)
/-- `keyld` OP 3 (R409). -/
def execKeyldUnbind (d a b : SReg) (s : State) : Out := .next (s.keyldWord d a b)

/-! ## ckpt and rest as words (R411 to R413) -/

/-- The status that acceptance settles: 3 for reserved bits of `s[sa]`, 4 for a target that has a `ckpt` or `rest` accepted on it already.
DEDUCED, log 85. -/
def State.folioEarly (s : State) (x : W64) : Nat := if field x 5 47 ≠ 0 then 3 else if s.folioOn (field x 0 5) then 4 else 0

/-- `ckpt` and `rest` (R366, R367, R411, R412): accepted as an operation of an engine context. DEDUCED, log 85. -/
def State.folioWord (s : State) (d a b : SReg) (level : Nat) (kind : Nat → List Byte → Nat → Nat → EngKind) : State :=
  s.privGate level fun s =>
    let x := s.sget a
    let va := s.sget b
    s.control x false fun ctx s =>
    let s := s.item 6 [x.toNat, va.toNat]
    s.readBlock va.toNat 64 fun bs s =>
      (s.item 6 (bs.map (·.toNat))).acceptOp ctx (kind (field x 0 5) bs va.toNat (s.folioEarly x)) d none

/-- `ckpt` (R411). -/
def execCkpt (d a b : SReg) (s : State) : Out :=
  .next (s.folioWord d a b (if field (s.sget a) 0 5 = s.warp.ident.part then 1 else 2) .ckpt)
/-- `rest` (R412). -/
def execRest (d a b : SReg) (s : State) : Out := .next (s.folioWord d a b 2 .rest)

/-! ## What the folio engine reads and writes -/

/-- The lines of remote modules in a range that no answer has brought, each with its virtual address. -/
def chunkNeeds (o : EngOp) (va : Nat) (cs : List Chunk) : List (Nat × Nat) :=
  ((cs.filter fun c => c.t.place == .remote).map fun c => (c.t.pa / 128 * 128, va + c.off)).filter fun a => !o.data.any fun d => d.1 == a.1

/-- The bytes of a range, each with its poison. -/
def State.folioBytes (s : State) (o : EngOp) (cs : List Chunk) : List (Byte × Bool) := cs.flatMap fun c => s.spotRead o (.mem c.t.place c.t.pa) c.len

/-- How far the engine is in a range when a context stop reaches it (R390): from a byte on, a free number of lines is done. DESIGN CHOICE, log 67. -/
def State.lineStop (s : State) (cs : List Chunk) (pos len : Nat) : Nat :=
  let todo := (cs.filter fun c => decide (pos ≤ c.off)).map (·.off)
  (todo ++ [len]).getD ((Config.freeWord s.fresh).toNat % (todo.length + 1)) len

/-- The parts of a range between two bytes of it. -/
def chunksIn (cs : List Chunk) (a b : Nat) : List Chunk := cs.filter fun c => decide (a ≤ c.off ∧ c.off < b)

/-- Good bytes are written to a range as engine writes (R346). -/
def State.folioPut (s : State) (o : EngOp) (va : Nat) (cs : List Chunk) (bs : List Byte) : State :=
  cs.foldl (fun s c =>
    (s.spotPut o (.mem c.t.place c.t.pa) (((bs.drop c.off).take c.len).map fun b => (b, false)) (va + c.off)).placeCleanse c.t.place c.t.pa
      c.len) s

/-- A range of the issuing partition as the folio engine needs it: not mapped so, lines to fetch first, or its lines. -/
inductive FolioSpan where
  | bad
  | fetch (ls : List (Nat × Nat))
  | ok (cs : List Chunk) (s : State)

/-- A range that the folio engine reads (R411, R412): it translates by itself, and a miss makes no fault. -/
def State.spanRead (s : State) (o : EngOp) (va len : Nat) : FolioSpan :=
  match s.range o.part va len accRead with
  | (.none, cs, t) =>
    if o.refused.isSome then .bad
    else
      (match chunkNeeds o va cs with
        | [] => .ok cs t
        | ls => .fetch ls)
  | _ => .bad

/-- A range that the folio engine writes: writable, not sealed, and no group window. DEDUCED, log 91. -/
def State.spanWrite (s : State) (o : EngOp) (va len : Nat) : FolioSpan :=
  match s.range o.part va len accWrite with
  | (.none, cs, t) => if cs.any fun c => c.t.place == .remote && s.inGroup o.part c.t.pa then .bad else .ok cs t
  | _ => .bad

/-! ## Records (R410) -/

/-- A valid leaf as a TYPE 7 record holds it. -/
structure FolioLeaf where
  va : Nat
  size : Nat
  mode : Nat
  isSealed : Bool
  numa : Bool
  die : Nat
  x : Bool
  w : Bool
  r : Bool
  a : Bool
  d : Bool
  /-- one poison bit for each granule of the page -/
  poison : List Bool
  bytes : List Byte
  deriving DecidableEq, Repr

/-- A SAVED crew as a TYPE 6 record holds it: the crew with its deque and buffers, its team's counters, its warps and their shadows, and its
held slips. -/
structure FolioCrew where
  crew : Crew
  warps : List Warp
  shadows : List Warp
  slips : List Slip
  deriving DecidableEq, Repr

/-- The records of a folio body (R410). -/
inductive FolioRec where
  | cfg (bytes : Vector Byte 30) (launches : Nat)
  | mbx (m : Nat) (x : Mbx)
  | bar (n : Nat) (x : Bar)
  | ctx (n s : Nat)
  | grid (g : Grid) (teams : List Team) (crews : List Crew)
  | crew (c : FolioCrew)
  | leaf (l : FolioLeaf)
  | fin
  deriving DecidableEq, Repr

/-- The TYPE of a record. -/
def FolioRec.type : FolioRec → Nat
  | .cfg _ _ => 1
  | .mbx _ _ => 2
  | .bar _ _ => 3
  | .ctx _ _ => 4
  | .grid _ _ _ => 5
  | .crew _ => 6
  | .leaf _ => 7
  | .fin => 8

/-- A leaf. -/
def cFolioLeaf : Codec FolioLeaf :=
  Codec.iso (fun x => (x.va, x.size, x.mode, x.isSealed, x.numa, x.die, x.x, x.w, x.r, x.a, x.d, x.poison, x.bytes))
    (fun (a0, a1, a2, a3, a4, a5, a6, a7, a8, a9, a10, a11, a12) => ⟨a0, a1, a2, a3, a4, a5, a6, a7, a8, a9, a10, a11, a12⟩) <|
    cNat.pair <| cNat.pair <| cNat.pair <| cBool.pair <| cBool.pair <| cNat.pair <| cBool.pair <| cBool.pair <| cBool.pair <| cBool.pair <|
    cBool.pair <| (cList cBool).pair <| cList (cBits 8)
/-- A SAVED crew. -/
def cFolioCrew : Codec FolioCrew :=
  Codec.iso (fun x => (x.crew, x.warps, x.shadows, x.slips)) (fun (a0, a1, a2, a3) => ⟨a0, a1, a2, a3⟩) <|
    cCrew.pair <| (cList cWarp).pair <| (cList cWarp).pair <| cList cSlip
/-- The content of the records of a TYPE (R410): the fields of its table, in its order. DESIGN CHOICE, log 88. -/
def cRecord : Nat → Codec FolioRec
  | 1 => Codec.branch (fun x => match x with
      | .cfg b n => some (b, n)
      | _ => none) (fun (b, n) => .cfg b n) <| (cVec 30 (cBits 8)).pair cNat
  | 2 => Codec.branch (fun x => match x with
      | .mbx m y => some (m, y)
      | _ => none) (fun (m, y) => .mbx m y) <| cNat.pair cMbx
  | 3 => Codec.branch (fun x => match x with
      | .bar n y => some (n, y)
      | _ => none) (fun (n, y) => .bar n y) <| cNat.pair cBar
  | 4 => Codec.branch (fun x => match x with
      | .ctx n k => some (n, k)
      | _ => none) (fun (n, k) => .ctx n k) <| cNat.pair cNat
  | 5 => Codec.branch (fun x => match x with
      | .grid g t c => some (g, t, c)
      | _ => none) (fun (g, t, c) => .grid g t c) <| cGrid.pair <| (cList cTeam).pair <| cList cCrew
  | 6 => Codec.branch (fun x => match x with
      | .crew c => some c
      | _ => none) (fun c => .crew c) cFolioCrew
  | 7 => Codec.branch (fun x => match x with
      | .leaf l => some l
      | _ => none) (fun l => .leaf l) cFolioLeaf
  | _ => Codec.unit .fin

/-- The bytes of a record's content. DESIGN CHOICE, log 88. -/
def recordBytes (r : FolioRec) : List Byte := (cRecord r.type).enc r
/-- The record that a TYPE and a content make: what follows it pads it to a multiple of 16 with zero bytes. DESIGN CHOICE, log 88. -/
def recordOf (ty : Nat) (b : List Byte) : Option FolioRec :=
  (((cRecord ty).dec b).filter fun x => decide (x.2.length < 16) && x.2.all (· == 0)).map (·.1)

/-- A record as it stands in the body: its header, and its content padded to a multiple of 16. -/
def FolioRec.bytes (r : FolioRec) : List Byte :=
  let b := recordBytes r
  let b := b ++ zeros ((16 - b.length % 16) % 16)
  layBytes [(4, r.type), (4, 16 + b.length), (8, 0)] ++ b

/-- The records of a body (R412 check 7): none where it is no well-formed run. The fuel is a bound on their number. -/
def parseRecords : Nat → List Byte → Option (List FolioRec)
  | 0, _ => none
  | k + 1, b =>
    let ty := leAt b 0 4
    let len := leAt b 4 4
    if b.length < 16 ∨ len < 16 ∨ len % 16 ≠ 0 ∨ b.length < len ∨ ty = 0 ∨ 8 < ty ∨ anyByte b 8 16 then none
    else
      match recordOf ty (slice b 16 len) with
      | none => none
      | some r =>
        if r.type ≠ ty then none
        else if ty = 8 then (if b.length = len then some [r] else none)
        else (parseRecords k (b.drop len)).map (r :: ·)

/-- A well-formed run of records: a TYPE 1 record comes first and no other is one. -/
def recordsOf (b : List Byte) : Option (List FolioRec) :=
  match parseRecords (b.length / 16 + 1) b with
  | some (r :: l) => if r.type = 1 ∧ l.all (fun x => x.type != 1) then some (r :: l) else none
  | _ => none

/-! ## The leaves of a partition -/

/-- The valid, well-formed leaves below a table at a level: the address and entry of each page, in ascending virtual address. -/
def State.leavesIn (s : State) : Nat → Nat → Nat → List (Nat × Nat)
  | level, table, va =>
    (List.range 512).flatMap fun i =>
      let e := leAt (s.devRead (table + 8 * i) 8) 0 8
      let a := va + i * 2 ^ (12 + 9 * level)
      if !pteV e then []
      else if pteLeaf e then (if leafBad e level || a % pageBytes (pteSize e) != 0 then [] else [(a, e)])
      else if tableBad e level then []
      else
        match level with
        | 0 => []
        | k + 1 => s.leavesIn k (pteFrame e) a

/-- The leaves of a partition. -/
def State.leaves (s : State) (p : Nat) : List (Nat × Nat) := s.leavesIn 4 (s.part p).cfg.root 0

/-- The record of a leaf. -/
def State.leafRecord (s : State) (x : Nat × Nat) : FolioRec :=
  let e := x.2
  let n := pageBytes (pteSize e)
  .leaf
    { va := x.1, size := pteSize e, mode := pteMode e, isSealed := pteSealed e, numa := pteNuma e, die := pteDie e, x := pteX e, w := pteW e,
      r := pteR e, a := e.testBit 8, d := e.testBit 7,
      poison := (List.range (n / 8)).map fun i => s.placePoisoned .device (pteFrame e + 8 * i) 8
      bytes := s.devRead (pteFrame e) n }

/-! ## The records of a partition -/

/-- A crew whose state a TYPE 6 record holds: it is SAVED, holds tokens, or has not been placed. DEDUCED, log 89. -/
def CrewState.recorded : CrewState → Bool
  | .saved => true
  | .held => true
  | .waiting => true
  | _ => false

/-- The record of a crew. -/
def State.crewRecord (s : State) (c : Crew) : FolioRec :=
  let mine (w : Warp) : Bool := w.ident.grid == c.grid && w.ident.crew == c.num
  .crew ⟨c.trim (s.descOf c.grid), s.crewWarps c.grid c.num, s.shadows.filter mine,
    s.slips.filter fun x => x.grid == c.grid && x.crew == c.num⟩

/-- The body records of a partition (R410). DEDUCED, log 89. -/
def State.records (s : State) (p : Nat) : List FolioRec :=
  let x := s.part p
  let gs := s.grids.filter fun g => g.part == p
  let crews := s.crews.filter fun c => gs.any fun g => g.id == c.grid
  [.cfg (Vector.ofFn fun i => x.cfg.measured.getD i.val 0) x.launches] ++
    (x.mbxs.filter fun m => m.2.bound && m.2.binding != .service).map (fun m => .mbx m.1 m.2) ++
    (x.bars.filter fun b => b.2 != Bar.blank).map (fun b => .bar b.1 b.2) ++
    x.ctxs.map (fun c => .ctx c.1 c.2.s) ++
    gs.map (fun g => .grid g (s.teams.filter fun t => t.grid == g.id) ((crews.filter fun c => c.grid == g.id).map fun c => { c with
      deque := [], bufW := .empty, bufA := .empty, bufC := .empty })) ++
    (crews.filter fun c => c.state.recorded).map s.crewRecord ++
    (s.leaves p).map s.leafRecord ++ [.fin]

/-! ## Sealing (R410) -/

/-- The folio key. -/
def folioKey (secret hdr : List Byte) : List Byte := shake256 (secret ++ hdr.take 256) 32

/-- Segments of a body. -/
def segCount (n : Nat) : Nat := (n + 2 ^ 30 - 1) / 2 ^ 30
/-- The IV of a segment. -/
def segIv (nonce : List Byte) (k : Nat) : List Byte := nonce ++ natToBytes 4 k
/-- A segment of a body. -/
def segment (b : List Byte) (k : Nat) : List Byte := (b.drop (2 ^ 30 * k)).take (2 ^ 30)

/-- The header of a folio (R410). -/
def folioHeader (bodyLen : Nat) (tenant counter : W64) (dst measure nonce ct : List Byte) : List Byte :=
  layBytes [(4, 0x494C4F46), (2, 1), (2, 0), (8, bodyLen), (4, segCount bodyLen), (4, 0), (8, tenant.toNat), (8, counter.toNat)] ++ devId ++ dst ++
    measure ++ nonce ++ zeros 80 ++ ct ++ zeros 224

/-- A folio: header, sealed segments, tags. -/
def sealFolio (hdr secret body : List Byte) : List Byte :=
  let key := folioKey secret hdr
  let nonce := slice hdr 168 176
  let cts := (List.range (segCount body.length)).map fun k => gcmCrypt key (segIv nonce k) (segment body k)
  hdr ++ cts.flatMap id ++ cts.zipIdx.flatMap fun x => gcmTag key (segIv nonce x.2) hdr x.1

/-- The length of a folio. -/
def folioLength (bodyLen : Nat) : Nat := 2048 + bodyLen + 16 * segCount bodyLen

/-! ## CKPT_COMPLETE (R411) -/

/-- A target holds no placed crew, and every context of it has S = T. -/
def State.quiet (s : State) (p : Nat) : Bool :=
  (s.part p).state == .suspended && (s.part p).stop.isNone && !s.crewsOn p none && (s.part p).ctxs.all fun c => c.2.s == c.2.t

/-- The outcome of a `ckpt` or `rest`: lines to fetch first, or a status with the state and the folio length to report. -/
inductive FolioOut where
  | fetch (ls : List (Nat × Nat))
  | done (status : Nat) (len : Option Nat) (s : State)

/-- What a `ckpt` comes to before its folio is written: lines to fetch first, a status, or the bytes of the folio and the lines that take them. -/
inductive FolioPlan where
  | fetch (ls : List (Nat × Nat))
  | refuse (status : Nat) (s : State)
  | image (f : List Byte) (cs : List Chunk) (s : State)

/-- A folio is sealed; V(t) is committed first. -/
def State.sealOut (s : State) (t : W64) (report measure body : List Byte) (cs : List Chunk) : FolioPlan :=
  let c : W64 := BitVec.ofNat 64 (max (s.security.v t).toNat (leAt report 16 8))
  let ek := slice report 256 1824
  let enc := kemEncaps ek (bytesFrom (Config.randomByte s.fresh) 32)
  let nonce := bytesFrom (fun i => Config.randomByte s.fresh (32 + i)) 8
  let s := { s with fresh := s.fresh + 1, security := s.security.setV t (c + 1) }
  let hdr := folioHeader body.length t c (slice report 24 56) measure nonce enc.2
  .image (sealFolio hdr enc.1 body) cs s

/-- A warp of a partition awaits a remote module's answer; a folio is written once it has come. DESIGN CHOICE, log 90. -/
def State.awaits (s : State) (p : Nat) : Bool := s.others.any fun w => w.ident.part == p && w.alive && !w.remote.isEmpty

/-- The checks of a `ckpt` in their order, and the folio that it seals (R411). -/
def State.ckptSeal (s : State) (o : EngOp) (p : Nat) (b : List Byte) (early : Nat) : FolioPlan :=
  if early = 3 then .refuse 3 s
  else if early = 4 ∨ ¬s.quiet p then .refuse 4 s
  else
    match s.spanRead o (leAt b 0 8) 21904 with
    | .bad => .refuse 11 s
    | .fetch ls => .fetch ls
    | .ok cs t =>
      let rep := t.folioBytes o cs
      let r := rep.map (·.1)
      if (rep.any (·.2)) || !s.accepts r then .refuse 11 t
      else
        match (t.part p).bound with
        | none => .refuse 9 t
        | some (ten, m) =>
          if BitVec.ofNat 64 (leAt r 8 8) ≠ ten ∨ slice r 128 192 ≠ m then .refuse 9 t
          else
            let leaves := t.leaves p
            let body := (t.records p).flatMap FolioRec.bytes
            if (leaves.any fun l => ptePlace l.2 != 0) || decide (leAt b 16 8 < folioLength body.length) then .refuse 3 t
            else
              match t.spanWrite o (leAt b 8 8) (folioLength body.length) with
              | .ok cs t => if Config.identitySigs ≤ t.security.sigIndex then .refuse 12 t else t.sealOut ten r m body cs
              | _ => .refuse 3 t

/-- A `ckpt` that a stop has held goes on with the folio sealed before it (R391); OUT no longer writable then is status 3. DESIGN CHOICE, log 90. -/
def State.ckptPlan (s : State) (o : EngOp) (p : Nat) (b : List Byte) (early : Nat) : FolioPlan :=
  if o.folio.isEmpty then s.ckptSeal o p b early
  else
    match s.spanWrite o (leAt b 8 8) o.folio.length with
    | .ok cs t => .image (o.folio.map (·.1)) cs t
    | _ => .refuse 3 s

/-- A `ckpt` runs to its end (R411): what of the folio is not written yet is written. -/
def State.ckptRun (s : State) (o : EngOp) (p : Nat) (b : List Byte) (early : Nat) : FolioOut :=
  match s.ckptPlan o p b early with
  | .fetch ls => .fetch ls
  | .refuse n t => .done n none t
  | .image f cs t => .done 0 (some f.length) (t.folioPut o (leAt b 8 8) (chunksIn cs o.pos f.length) f)

/-- A context stop reaches a `ckpt` in progress (R390): the lines done are written and the rest of its folio is held; one that has no line done, or
writes no folio, has changed nothing yet, nor has one on a partition that the part will run again (R408). DESIGN CHOICE, log 67. -/
def State.pauseCkpt (s : State) (o : EngOp) (p : Nat) (b : List Byte) (early : Nat) : State :=
  match if (s.part p).autoRun.isSome then .refuse 4 s else s.ckptPlan o p b early with
  | .image f cs t =>
    let n := s.lineStop cs o.pos f.length
    if n = 0 then { s with fresh := s.fresh + 1 }
    else
      ({ t with fresh := t.fresh + 1 }.folioPut o (leAt b 8 8) (chunksIn cs o.pos n) f).modOp o fun x =>
        { x with folio := f.map fun y => (y, false), pos := n }
  | _ => s

/-- A status or length of 8 bytes is written in the issuing partition; none where its page misses (R337). -/
inductive Reply where
  | miss (walk : Nat)
  | ok (s : State)
  | late (code : Byte) (kind : Nat) (s : State)

/-- Writes 8 bytes for an operation. DEDUCED, log 86. -/
def State.reply (s : State) (o : EngOp) (va n : Nat) : Reply :=
  match s.access o.part va accWrite with
  | (.miss k, _) => .miss k
  | (.cause c k, s) => .late c k s
  | (.ok t, s) => .ok ((s.spotPut o (.mem t.place t.pa) ((natToBytes 8 n).map fun b => (b, false)) va).placeCleanse t.place t.pa 8)

/-- Writes several values one after another; an address that does not take its value is a late error of the operation. -/
def State.replies (s : State) (o : EngOp) : List (Nat × Nat) → Except (Nat × Nat) State
  | [] => .ok s
  | (va, n) :: r =>
    match s.reply o va n with
    | .miss k => .error (k, va)
    | .late c k s => (s.lateError o.ticket c.toNat k 0 va).replies o r
    | .ok s => s.replies o r

/-- The end of a folio operation: FOLIOLEN and STATUS are written into the request block, STATUS last, then the operation completes once remote modules have acknowledged. A miss stalls the
operation before any effect. DEDUCED, log 86. -/
def State.folioEnd (s : State) (o : EngOp) (statusVa : Nat) (lenVa : Option Nat) (r : FolioOut) : State :=
  match r with
  | .fetch ls => s.fetchLines o ls
  | .done n len t =>
    let ws := (match len, lenVa with
      | some x, some va => [(va, x)]
      | _, _ => []) ++ [(statusVa, n)]
    match t.replies o ws with
    | .error (k, va) => s.opFault o k va accWrite
    | .ok t => if t.opAwaits o then t.modOp o fun x => { x with sent := true } else t.finishOp o.part o.ctx o.n

/-- A folio operation runs once no remote answer is awaited. -/
def State.folioRun (s : State) (o : EngOp) (k : State → State) : State :=
  if s.opAwaits o then s
  else if o.sent then
    (match o.refused with
      | some va => s.lateOpen o.ticket 0 va
      | none => s).finishOp o.part o.ctx o.n
  else k s

/-- CKPT_COMPLETE (R411). DESIGN CHOICE, log 90. -/
def execCkptComplete (p ctx n : Nat) (s : State) : Out :=
  match s.runningOp p ctx n with
  | some o =>
    (match o.kind with
      | .ckpt t b va e => if s.awaits t then .next s else .next (s.folioRun o fun s => s.folioEnd o (va + 24) (some (va + 32)) (s.ckptRun o t b e))
      | _ => .next s)
  | none => .next s

/-! ## The layout of a restore (R443) -/

/-- The lowest multiple of a size at or above an address. -/
def roundUp (a size : Nat) : Nat := if size = 0 then a else (a + size - 1) / size * size

/-- The leaves among records, in ascending virtual address. -/
def leavesOf (rs : List FolioRec) : List FolioLeaf :=
  (rs.filterMap fun r => match r with
    | .leaf l => some l
    | _ => none).mergeSort fun a b => decide (a.va ≤ b.va)

/-- The pages of leaves and the end of the last one. -/
def placePages (base : Nat) (ls : List FolioLeaf) : List (FolioLeaf × Nat) × Nat :=
  ls.foldl (fun r l => let a := roundUp r.2 (pageBytes l.size); (r.1 ++ [(l, a)], a + pageBytes l.size)) ([], base)

/-- The tables that leaves need, each by its level and prefix, in the order in which a walk first needs them; the root is first. -/
def tablesOf (ls : List FolioLeaf) : List (Nat × Nat) :=
  ls.foldl (fun ts l =>
    ((List.range (4 - pageLevel l.size)).map fun i => (3 - i, l.va / 2 ^ (12 + 9 * (4 - i)))).foldl
      (fun ts k => if ts.contains k then ts else ts ++ [k]) ts) [(4, 0)]

/-- The address of a table. -/
def tableAddr (base : Nat) (ts : List (Nat × Nat)) (k : Nat × Nat) : Nat := base + 4096 * (ts.idxOf k)

/-- A leaf is one that the walk can reach: its size exists and its address is aligned. -/
def FolioLeaf.ok (l : FolioLeaf) : Bool :=
  decide (l.size < 10 ∧ l.mode < 3 ∧ l.die < 8 ∧ l.va % pageBytes l.size = 0 ∧ l.va + pageBytes l.size ≤ 2 ^ 57) &&
    l.bytes.length == pageBytes l.size && l.poison.length == pageBytes l.size / 8

/-- No leaf overlaps the next. -/
def disjointLeaves : List FolioLeaf → Bool
  | a :: b :: r => decide (a.va + pageBytes a.size ≤ b.va) && disjointLeaves (b :: r)
  | _ => true

/-- TABLE and FRAME suit the leaves of a folio (check 7). -/
def State.rangesOk (s : State) (p : Nat) (ls : List FolioLeaf) (tb ts fb fs : Nat) : Bool :=
  let c := (s.part p).cfg
  let share := c.poolBase + c.poolSize - c.hwres
  tb % 4096 == 0 && fb % 4096 == 0 && s.ownsRange p tb ts && s.ownsRange p fb fs && !overlap tb ts share c.hwres && !overlap fb fs share c.hwres &&
    decide (4096 * (tablesOf ls).length ≤ ts ∧ (placePages fb ls).2 ≤ fb + fs)

/-- A range of a partition's frames becomes zero bytes without poison under its key, and no cluster keeps a copy. DEDUCED, log 104. -/
def State.zeroRange (s : State) (p lo hi : Nat) : State :=
  let s := { s with
    dev := s.dev.erase lo hi
    tags := ⟨lo / 128, (hi + 127) / 128, p, Tab.get s.epochs p 0⟩ :: s.tags }
  s.cdcDrop fun x => x.place == .device && decide (lo / 128 ≤ x.line ∧ x.line < (hi + 127) / 128)

/-- The dies on which a partition's catalogue maps a valid cluster. -/
def Part.diesMapped (x : Part) : List Nat := (x.clusters.filter fun e => entryValid e.2).map fun e => field e.2 5 3

/-- The entry of a restored leaf; a NUMA leaf whose home is a die without a cluster of the partition loses both (R412). -/
def FolioLeaf.entry (l : FolioLeaf) (dies : List Nat) (pa : Nat) : Nat :=
  let lost := l.numa && !dies.contains l.die
  let numa := l.numa && !lost
  let bit (b : Bool) (i : Nat) : Nat := if b then 2 ^ i else 0
  1 + bit l.r 1 + bit l.w 2 + bit l.x 3 + 2 ^ 4 + bit l.d 7 + bit l.a 8 + pa + (if lost then 0 else l.die * 2 ^ 53) + bit numa 56 +
    bit l.isSealed 57 + l.mode * 2 ^ 58 + l.size * 2 ^ 60

/-- Writes one leaf: its page with its poison, and its entries. -/
def State.restoreLeaf (s : State) (base : Nat) (ts : List (Nat × Nat)) (dies : List Nat) (x : FolioLeaf × Nat) : State :=
  let l := x.1
  let n := pageBytes l.size
  let v := pageLevel l.size
  let s := s.devWrite x.2 l.bytes
  let s := l.poison.zipIdx.foldl (fun s g => if g.1 then s.placeTaint .device (x.2 + 8 * g.2) 8 else s) s
  let t := tableAddr base ts (v, l.va / 2 ^ (12 + 9 * (v + 1)))
  (List.range (n / 2 ^ (12 + 9 * v))).foldl (fun s i =>
    s.devWrite (t + 8 * (bitsOf l.va (12 + 9 * v) 9 + i)) (natToBytes 8 (l.entry dies x.2))) s

/-- Tables and pages are built (R443). -/
def State.buildTables (s : State) (p : Nat) (ls : List FolioLeaf) (tb fb : Nat) : State :=
  let ts := tablesOf ls
  let ps := placePages fb ls
  let s := (s.zeroRange p tb (tb + 4096 * ts.length)).zeroRange p fb ps.2
  let s := (ts.drop 1).foldl (fun s k =>
    let up := tableAddr tb ts (k.1 + 1, k.2 / 512)
    s.devWrite (up + 8 * (k.2 % 512)) (natToBytes 8 (1 + tableAddr tb ts k))) s
  ps.1.foldl (fun s x => s.restoreLeaf tb ts (s.part p).diesMapped x) s

/-! ## The records replace the state of a partition (R412 step 8) -/

/-- A parked stream replays its word, since no folio holds the fault that parked it. -/
def Wait.replayed : Wait → Wait
  | .xlate _ => .none
  | x => x

/-- A carrel entry of a restored warp stands at the place that its address has now. DEDUCED, log 89. -/
def CarrelEnt.restored (s : State) (p : Nat) (e : CarrelEnt) : CarrelEnt :=
  let at' (q : Place) (pa va : Nat) : Place × Nat := match s.xlate p va with
    | .ok t => (t.place, t.pa)
    | _ => (q, pa)
  match e with
  | .store q pa bs t m va => .store (at' q pa va).1 (at' q pa va).2 bs { t with part := p } m va
  | .atomic q pa op ty y z r t m va => .atomic (at' q pa va).1 (at' q pa va).2 op ty y z r { t with part := p } m va
  | x => x

/-- A restored warp: its numbers in this model move, it belongs to the target partition, it is evicted, and a task of it is doomed, since every
page is written anew. DEDUCED, log 89. -/
def Warp.restored (s : State) (w : Warp) (p base : Nat) : Warp :=
  { w with
    carrel := w.carrel.map (CarrelEnt.restored s p)
    task := w.task.map fun (t : Task) => { t with carrel := t.carrel.map (CarrelEnt.restored s p), doomed := true }
    id := base + w.id
    ident := { w.ident with grid := base + w.ident.grid, part := p }
    gridId := (w.gridId &&& ~~~(31#64 <<< 44)) ||| (BitVec.ofNat 64 p <<< 44)
    wait := w.wait.replayed
    pending := if w.wait.parked then none else w.pending
    fork := w.fork.map fun (f : Fork) => { f with other := { f.other with
      wait := f.other.wait.replayed, pending := if f.other.wait.parked then none else f.other.pending } }
    evicted := true }

/-- A restored slip is held. -/
def Slip.restored (x : Slip) (p base order : Nat) : Slip :=
  { x with
    order := order + x.order
    warp := base + x.warp
    grid := base + x.grid
    twin := x.twin.map (base + ·)
    ticket := { x.ticket with part := p }
    started := false
    held := true }

/-- A restored crew holds no core. -/
def Crew.restored (c : Crew) (base : Nat) : Crew := { c with grid := base + c.grid, core := none }

/-- A number beyond every number that a folio's records use for grids and warps, and for arrivals. -/
def recordMax (rs : List FolioRec) : Nat :=
  rs.foldl (fun n r =>
    match r with
    | .grid g _ _ => max n g.id
    | .crew c => (c.warps ++ c.shadows).foldl (fun n w => max n (max w.id w.ident.grid)) (max n c.crew.grid)
    | .bar _ b => (b.arr0 ++ b.arr1 ++ b.members).foldl max n
    | _ => n) 0 + 1
def arrivalMax (rs : List FolioRec) : Nat :=
  rs.foldl (fun n r =>
    match r with
    | .grid g _ _ => max n g.arrival
    | .mbx _ x => x.queue.foldl (fun n q => max n q.1) n
    | _ => n) 0 + 1

/-- A restored mailbox; only the firmware's own one is the binding service's. -/
def Mbx.restored (x : Mbx) (arr : Nat) : Mbx :=
  { x with
    binding := if x.binding = .service then .none else x.binding
    queue := x.queue.map fun q => (arr + q.1, q.2) }

/-- One record takes effect on a partition. -/
def State.restoreRecord (s : State) (p base arr order : Nat) (r : FolioRec) : State :=
  match r with
  | .cfg _ n => s.modPart p fun x => { x with launches := n }
  | .mbx m x => s.modPart p fun y => { y with mbxs := Tab.set y.mbxs m (x.restored arr) }
  | .bar n b =>
    s.modPart p fun y => { y with bars := Tab.set y.bars n { b with
      arr0 := b.arr0.map (base + ·), arr1 := b.arr1.map (base + ·), members := b.members.map (base + ·) } }
  | .ctx n k => s.modPart p fun y => { y with ctxs := Tab.set y.ctxs n { Ctx.blank with s := k, t := k } }
  | .grid g ts cs =>
    { s with
      grids := s.grids ++ [{ g with id := base + g.id, part := p, arrival := arr + g.arrival }]
      teams := s.teams ++ ts.map fun (t : Team) => { t with grid := base + t.grid, shelf := none, cluster := none }
      crews := s.crews ++ cs.map (·.restored base) }
  | .crew c =>
    let k := c.crew.restored base
    { s with
      crews := s.crews.map fun (x : Crew) => if x.grid = k.grid ∧ x.num = k.num then k else x
      others := s.others ++ c.warps.map fun w => w.restored s p base
      shadows := s.shadows ++ c.shadows.map fun w => w.restored s p base
      slips := s.slips ++ c.slips.map (·.restored p base order) }
  | .leaf _ => s
  | .fin => s

/-- The records replace the state of a partition wholly. DEDUCED, log 89. -/
def State.restoreAll (s : State) (p : Nat) (rs : List FolioRec) (tb fb : Nat) : State :=
  let s := s.buildTables p (leavesOf rs) tb fb
  let s := s.modPart p fun x => { x with
    cfg := { x.cfg with root := tb }
    mbxs := if p = 0 then x.mbxs.filter fun m => m.1 == 4095 && m.2.binding == .service else []
    bars := []
    ctxs := [] }
  let base := s.nextId
  let arr := s.arrivals
  let order := s.slipOrder
  let s := { s with
    nextId := base + recordMax rs
    arrivals := arr + arrivalMax rs
    slipOrder := order + rs.foldl (fun n r => match r with
      | .crew c => c.slips.foldl (fun n x => max n x.order) n
      | _ => n) 0 + 1 }
  rs.foldl (fun s r => s.restoreRecord p base arr order r) s

/-! ## REST_COMPLETE (R412) -/

/-- Check 1 on a header. -/
def headerBad (h : List Byte) (len : Nat) : Bool :=
  leAt h 0 4 != 0x494C4F46 || leAt h 4 2 != 1 || anyByte h 6 8 || anyByte h 20 24 || anyByte h 176 256 || anyByte h 1824 2048 ||
    leAt h 8 8 % 16 != 0 || len != 2048 + leAt h 8 8 + 16 * leAt h 16 4

/-- The opened body of a folio, or none where a tag fails or a byte is poisoned (check 6). DEDUCED, log 87. -/
def State.openFolio (s : State) (f : List (Byte × Bool)) : Option (List Byte) :=
  let hdr := (f.take 2048).map (·.1)
  let n := leAt hdr 8 8
  let rest := f.drop 2048
  let epoch := s.security.transport
  let key := folioKey (kemDecaps (transportD epoch) (transportZ epoch) (slice hdr 256 1824)) hdr
  let nonce := slice hdr 168 176
  let body := (rest.take n).map (·.1)
  let tags := (rest.drop n).map (·.1)
  let good (k : Nat) : Bool := slice tags (16 * k) (16 * k + 16) == gcmTag key (segIv nonce k) hdr (segment body k)
  if (rest.any (·.2)) || leAt hdr 16 4 != segCount n || !(List.range (segCount n)).all good then none
  else some ((List.range (segCount n)).flatMap fun k => gcmCrypt key (segIv nonce k) (segment body k))

/-- Checks 7 to 9 of a `rest`. -/
def State.restWrite (s t : State) (p : Nat) (b body : List Byte) (tenant counter : W64) (writeError : Bool) : FolioOut :=
  let tb := leAt b 16 8
  let fb := leAt b 32 8
  match recordsOf body with
  | none => .done 3 none t
  | some rs =>
    let ls := leavesOf rs
    if !(ls.all FolioLeaf.ok) || !disjointLeaves ls || !s.rangesOk p ls tb (leAt b 24 8) fb (leAt b 40 8) then .done 3 none t
    else if writeError then .done 10 none t
    else
      let u := t.restoreAll p rs tb fb
      .done 0 none { u with security := u.security.setV tenant (counter + 1) }

/-- The checks of a `rest` in their order, and its effect (R412, R413). -/
def State.restRun (s : State) (o : EngOp) (p : Nat) (b : List Byte) (early : Nat) (writeError : Bool) : FolioOut :=
  let len := leAt b 8 8
  if early = 3 ∨ len < 2048 then .done 3 none s
  else
    match s.spanRead o (leAt b 0 8) len with
    | .bad => .done 3 none s
    | .fetch ls => .fetch ls
    | .ok cs t =>
      let f := o.folio ++ t.folioBytes o (chunksIn cs o.pos len)
      let hdr := (f.take 2048).map (·.1)
      let tenant := BitVec.ofNat 64 (leAt hdr 24 8)
      let counter := BitVec.ofNat 64 (leAt hdr 32 8)
      if ((f.take 2048).any (·.2)) || headerBad hdr len then .done 3 none t
      else if slice hdr 72 104 ≠ devId then .done 7 none t
      else if early = 4 ∨ s.liveGrid p ∨ ¬s.quiet p then .done 4 none t
      else if (s.part p).bound ≠ some (tenant, slice hdr 104 168) then .done 9 none t
      else if counter < s.security.v tenant then .done 0x28 none t
      else
        match s.openFolio f with
        | none => .done 8 none t
        | some body => s.restWrite t p b body tenant counter writeError

/-- A context stop reaches a `rest` in progress (R390): it is held with the lines of the folio that it has read. DESIGN CHOICE, log 67. -/
def State.pauseRest (s : State) (o : EngOp) (b : List Byte) (early : Nat) : State :=
  if early = 3 ∨ leAt b 8 8 < 2048 then s
  else
    match s.spanRead o (leAt b 0 8) (leAt b 8 8) with
    | .ok cs t =>
      let n := s.lineStop cs o.pos (leAt b 8 8)
      { t with fresh := t.fresh + 1 }.modOp o fun x => { x with folio := x.folio ++ t.folioBytes o (chunksIn cs o.pos n), pos := n }
    | _ => s

/-- REST_COMPLETE (R412): `writeError` says that an uncorrectable error met the writing of step 8. DESIGN CHOICE, log 90. -/
def execRestComplete (p ctx n : Nat) (writeError : Bool) (s : State) : Out :=
  match s.runningOp p ctx n with
  | some o =>
    (match o.kind with
      | .rest t b va e => .next (s.folioRun o fun s => s.folioEnd o (va + 48) none (s.restRun o t b e writeError))
      | _ => .next s)
  | none => .next s

end Sys2Proof.Machine
end

