-- ==== Sys2Proof/Machine/StopPoint.lean ====
section
/-! DEFINITION. The stop points of a context stop, the stop records, and the end of a stop (R390 to R394). -/

namespace Sys2Proof.Machine

/-! ## Stop points (R390) -/

/-- The teams that stand at a shelfmark of a partition. -/
def State.shelfTeams (s : State) (p shelf : Nat) : List Team := (s.placedTeams p).filter fun t => t.shelf == some shelf

/-- A word that a warp of a team has issued has not completed: a remote module owes it a value, or a shadow its confirmation. -/
def State.unfinished (s : State) (t : Team) : Bool :=
  (s.teamWarps t).any fun w => (w.remote.any fun r => decide (r.lane < 64)) || !(Tab.get s.pairs w.id []).isEmpty

/-- A slip of a stopped cluster: a running one finishes its K-block, and is held where it has more; one not started is held. -/
def State.stopSlip (s : State) (x : Slip) : State :=
  if x.held then s else if x.started then s.pauseSlip x else s.modSlip x.order fun y => { y with held := true }

/-- The cores, matrix engine and links of a cluster stop: pending traps are taken, slips are held, and transfers complete. -/
def State.stopCluster (s : State) (p shelf : Nat) : State :=
  (s.shelfTeams p shelf).foldl (fun s t =>
    let s := (s.teamWarps t).foldl (fun s w => s.takeTrap w.id) s
    let s := (s.slips.filter fun x => x.grid == t.grid && x.team == t.num).foldl State.stopSlip s
    (s.transfers.filter fun x => x.grid == t.grid && x.team == t.num).foldl
      (fun s x => ((s.dropTransfer x).linkCopy x).linkCount x) s) s

/-- The engine that runs an operation: a copy or gather context belongs to the engine of its number modulo 32; migration, clearing and folio
have one engine each. DEDUCED, log 66. -/
def EngOp.source (o : EngOp) : Nat :=
  match o.kind with
  | .cpy _ => 0x010 + o.ctx % 32
  | .gath _ => 0x030 + o.ctx % 32
  | .pref _ _ _ _ _ => 0x030 + o.ctx % 32
  | .mig _ _ _ => 0x050
  | .clr _ _ _ => 0x051
  | .ckpt _ _ _ _ => 0x052
  | .rest _ _ _ _ => 0x052

/-- Bytes that an operation of whole lines has done when a stop reaches it: the spec leaves the number open. DESIGN CHOICE, log 67. -/
def State.linesDone (s : State) (o : EngOp) (size : Nat) : Nat :=
  min size (o.pos + 128 * (1 + (Config.freeWord s.fresh).toNat % ((size - o.pos) / 128 + 1)))

/-- An operation in progress finishes its unit or line (R390). A fetch ahead, which writes nothing, shows only how far it is. DESIGN CHOICE, log 67. -/
def State.pauseOp (s : State) (o : EngOp) : State :=
  match o.kind with
  | .cpy d => s.pauseLegs o d.legs fun _ _ s => s
  | .gath d =>
    let (_, hs, h) := s.haul o (d.indexLegs.drop (o.pos / d.row))
    if h = .none ∧ (remoteNeeds o hs).isEmpty then s.gatherRows o d fun s ls wrote => s.pauseLegs o ls wrote else s
  | .clr pa size owner =>
    let n := s.linesDone o size
    ({ s with fresh := s.fresh + 1 }.clearPart pa o.pos n owner).modOp o fun x => { x with pos := n }
  | .pref _ len _ _ _ => { s with fresh := s.fresh + 1 }.modOp o fun x => { x with pos := min len (s.linesDone o len) }
  | .ckpt t b _ e => if s.opAwaits o ∨ o.sent ∨ s.awaits t then s else s.pauseCkpt o t b e
  | .rest _ b _ e => if s.opAwaits o ∨ o.sent then s else s.pauseRest o b e
  | .mig _ _ _ => s

/-- An operation stops: its unit in progress is finished, and the rest of it is held. -/
def State.stopOp (s : State) (o : EngOp) : State :=
  (if o.started ∧ o.fault.isNone ∧ ¬o.held then s.pauseOp o else s).modOp o fun x => { x with held := true }

/-- A unit of a partition stops (R390). -/
def State.stopUnit (s : State) (p source : Nat) : State :=
  if 0xF000 ≤ source then s.stopCluster p (source - 0xF000)
  else
    let s := (s.ops.filter fun o => o.part == p && o.source == source).foldl State.stopOp s
    if source = 0x050 then (s.moves.filter fun m => m.part == p && m.flying).foldl State.abortMove s
    else if source = 0x053 then
      s.modPart p fun x => { x with
        groups := x.groups.map fun g => (g.1, { g.2 with steps := g.2.steps.map fun (y : GStep) => { y with held := true } }) }
    else s

/-! ## Stop records (R393, R394) -/

/-- An entry of a stop record. -/
def stopEntry (kind ctx warp n progress va : Nat) : List Byte :=
  layBytes [(1, kind), (1, 0), (2, ctx), (4, warp), (8, n), (8, progress), (8, va)]

/-- The address that a held operation has reached: that of the next byte of its destination. DESIGN CHOICE, log 67. -/
def State.reachedVa (s : State) (o : EngOp) : Nat :=
  match o.kind with
  | .cpy d =>
    (match skipLegs o.pos d.legs with
      | l :: _ => s.sideAddr o l.dst
      | [] => 0)
  | .gath d => s.sideAddr o (.buf d.dcrew 1 (d.dst % 2 ^ 19 + o.pos / d.row * d.dpitch + o.pos % d.row))
  | .pref va _ _ _ _ => va + o.pos
  | .mig va _ _ => va
  | .clr pa _ _ => pa + o.pos
  | .ckpt _ b _ _ => leAt b 8 8 + o.pos
  | .rest _ b _ _ => leAt b 0 8 + o.pos

/-- The source raised the stop (R393). -/
def Stop.by (x : Stop) (p source : Nat) : Bool := source == x.source && (decide (source < 0xF000) || p == x.srcPart)

/-- The entries of a source's record: the debug-stopped warp, and held slips or operations; a slip reaches no virtual address, and that field of it
is free. DESIGN CHOICE, log 67. -/
def State.stopEntries (s : State) (p source : Nat) (x : Stop) : List (List Byte) :=
  if 0xF000 ≤ source then
    let ts := s.shelfTeams p (source - 0xF000)
    let slips := s.slips.filter fun y => ts.any fun t => t.grid == y.grid && t.num == y.team
    (match x.brk with
      | some (pc, w) => if x.by p source then [stopEntry 3 0 w 0 0 pc.toNat] else []
      | none => []) ++
      slips.map fun y => stopEntry 1 0 y.ticket.warp y.order y.blocks (Config.freeWord (s.fresh + y.order)).toNat
  else
    (s.ops.filter fun o => o.part == p && o.source == source).map fun o =>
      stopEntry 2 o.ctx o.ticket.warp o.n o.pos (s.reachedVa o)

/-- A stop record (R393). -/
def stopRecord (p source : Nat) (x : Stop) (t : W64) (es : List (List Byte)) : List Byte :=
  let flags := (if 7 < es.length then 1 else 0) + if x.by p source then 2 else 0
  let head := layBytes [(1, 17), (1, x.reason), (2, source), (1, p), (1, flags), (1, min 7 es.length), (1, 0), (8, x.raise.toNat), (8, t.toNat),
    (2, x.code), (2, 0), (4, x.count)]
  let body := (es.take 7).flatMap id
  head ++ body ++ List.replicate (224 - body.length) 0

/-- The stop event (R394). -/
def stopEvent (p : Nat) (x : Stop) : List Byte :=
  layBytes [(1, 17), (1, x.reason), (2, x.code), (1, p), (3, 0), (8, x.raise.toNat), (8, x.latest.toNat), (2, x.records), (38, 0)]

/-! ## The end of a stop (R391, R408) -/

/-- The part's own restart of a partition after a stop: a stop of REASON 7 or 8 runs again what was RUNNING before it, and a stop of a partition
that was SUSPENDED already changes nothing of that (R408). -/
def Stop.autoRun (x : Stop) (old : Option Nat) : Option Nat :=
  if x.wasRunning then (if x.reason = 7 ∨ x.reason = 8 then some x.reason else none) else old

/-- The last stop record is written: the partition is SUSPENDED and its crews are SAVED (R391); then it runs again where that has been asked
for (R408). -/
def State.endStop (s : State) (p : Nat) (x : Stop) : State :=
  let s := (s.placedTeams p).foldl State.evictTeam s
  let s := s.modPart p fun y => { y with
    state := .suspended, stop := none, suspending := false, newCluster := none,
    clusters := match y.newCluster with
      | some (i, v) => Tab.set y.clusters i v
      | none => y.clusters
    autoRun := x.autoRun y.autoRun }
  let s := s.event 0x061 (stopEvent p x)
  let s := ((s.configDone .stop p).configDone .suspend p).configDone .cluster p
  if x.runAfter && !s.folioOn p then s.runPart p else s.runDue p

/-- A source has reached its stop point at a time. -/
def Stop.arrive (x : Stop) (source : Nat) (t : W64) : Stop :=
  { x with left := x.left.filter (· != source), latest := t, records := x.records + 1 }

/-- A source writes its record into its bank (R393, R394). -/
def State.writeRecord (s : State) (p source : Nat) (x : Stop) : W64 × State :=
  let (t, s) := s.now
  (t, { s with
    stopBuf := Tab.set s.stopBuf (recordKey p source) (stopRecord p source x t (s.stopEntries p source x)), fresh := s.fresh + 1 })

/-- The words issued in a cluster have completed, which its stop point follows; another unit waits for none. -/
def State.mayStop (s : State) (p source : Nat) : Bool :=
  decide (source < 0xF000) || (s.shelfTeams p (source - 0xF000)).all fun t => !s.unfinished t

/-- A source that no partition owns reaches its stop point; the stop event of the module's bank follows the last one. DEDUCED, log 66. -/
def State.moduleStopPoint (s : State) (source : Nat) : State :=
  match s.moduleStop with
  | none => s
  | some x =>
    if x.left.contains source then
      let (t, s) := s.writeRecord moduleBank source x
      let y := x.arrive source t
      if y.left.isEmpty then { s with moduleStop := none }.event 0x061 (stopEvent moduleBank y) else { s with moduleStop := some y }
    else s

/-- STOP_POINT (R390, R393): a unit of a partition, or with partition 32 one that no partition owns, reaches its stop point and writes its
record. -/
def execStopPoint (p : Nat) (source : BitVec 16) (s : State) : Out :=
  let n := source.toNat
  if p = moduleBank then .next (s.moduleStopPoint n)
  else
    match (s.part p).stop with
    | none => .next s
    | some x =>
      if x.left.contains n ∧ s.mayStop p n then
        let (t, s) := (s.stopUnit p n).writeRecord p n x
        let y := x.arrive n t
        if y.left.isEmpty then .next (s.endStop p y) else .next (s.modPart p fun q => { q with stop := some y })
      else .next s

end Sys2Proof.Machine
end

