-- ==== Sys2Proof/Machine/BringUp.lean ====
section
/-! DEFINITION. Bring-up (R367, R441): the configuration that the firmware applies, and partition 0 as it creates it. -/

namespace Sys2Proof.Machine

/-- The default configuration of partition 0 (R441). -/
def defaultCfg : PartCfg :=
  { root := 0x8E00000000, poolBase := 0x8E00000000, poolSize := 2 ^ 33, migBase := 0, migSize := 0, mbx := 4096, faultMbx := 4093,
    replyMbx := 4094, barq := 256, ectx := 64, level := 2, flags := 0, drain := 1100000, slice := 0, clq := 1024, hbmq := 2048, engq := 4096,
    tcl := 0, migth := 0, hwres := 2 ^ 31 }
/-- The default cluster catalogue of partition 0 (R441): shelfmarks 0 and 1 map die 7, physical clusters 14 and 15. -/
def defaultClusters : Tab W64 := [(0, 0x1EE), (1, 0x1EF)]

/-- The frames of a configuration's pools belong to partition 0, every other frame to the free pool. -/
def PartCfg.owners (c : PartCfg) : List OwnerRange :=
  [⟨c.poolBase / 4096, (c.poolBase + c.poolSize) / 4096, 0⟩, ⟨c.migBase / 4096, (c.migBase + c.migSize) / 4096, 0⟩]

/-- Cluster entries that the firmware refuses: a shelfmark that does not exist, a value that R274 does not allow, or two shelfmarks of one
cluster (R274, R385). -/
def clustersBad (l : Tab W64) : Bool :=
  (l.any fun e => decide (127 < e.1) || clusterBad e.2) || decide (¬((l.filter fun e => entryValid e.2).map fun e => entryCluster e.2).Nodup)

/-- The configuration that the firmware applies: the host's, with LEVEL 2, or the default where it refuses that. -/
def State.bringUpCfg (s : State) : PartCfg × Tab W64 :=
  match s.mgmtConfig with
  | none => (defaultCfg, defaultClusters)
  | some b =>
    let c := { cfgOf b with level := 2 }
    let t := { s with owners := c.owners }
    if cfgBad (patch b 50 [2]) || t.poolsBad 0 c || t.totalsBad 0 c || clustersBad s.mgmtClusters then (defaultCfg, defaultClusters) else (c, s.mgmtClusters)

/-- Bring-up (R367, R441): the firmware creates partition 0 and runs it, and binds virtual function 0 and the binding service; the compute dies
await the end of their first RESET. PRESUMED, log 57; DESIGN CHOICE, log 58; DEDUCED, log 60. -/
def State.bring (s : State) : State :=
  let (c, cl) := s.bringUpCfg
  let t := { s with up := true, owners := c.owners, bankMem := .empty, vfs := Tab.set s.vfs 0 ⟨0, c.mbx, 0, 255⟩ }
  let t := { t with
    dev := t.dev.erase c.poolBase (c.poolBase + c.poolSize)
    tags := ⟨c.poolBase / 128, (c.poolBase + c.poolSize) / 128, 0, Tab.get t.epochs 0 0⟩ :: t.tags }
  t.modPart 0 fun x => { Part.blank with
    state := .running
    cfg := c
    clusters := cl
    windows := x.windows
    groups := x.groups
    mbxs := [(4095, { Mbx.blank with binding := .service })] }

/-- The leaves of the binding service's code and data (R441): the spec gives neither their addresses nor their bytes. DESIGN CHOICE, log 58. -/
def serviceLeaves : List FolioLeaf :=
  ((Config.servicePages.map fun e => (e.1 % 2 ^ 45, e.2)).mergeSort fun a b => decide (a.1 ≤ b.1)).map fun e =>
    { va := 4096 * e.1, size := 0, mode := 0, isSealed := false, numa := false, die := 0, x := e.2, w := !e.2, r := true, a := false, d := false,
      poison := List.replicate 512 false, bytes := bytesFrom (Config.serviceByte e.1) 4096 }

/-- Partition 0's page tables at ROOT map the service's pages, which follow them in the pool (R441). DESIGN CHOICE, log 58. -/
def State.mapService (s : State) : State :=
  let c := (s.part 0).cfg
  let fb := c.root + 4096 * (tablesOf serviceLeaves).length
  if disjointLeaves serviceLeaves && s.rangesOk 0 serviceLeaves c.root (fb - c.root) fb (4096 * serviceLeaves.length) then
    s.buildTables 0 serviceLeaves c.root fb
  else s

/-- BRING_UP (R367, R441). PRESUMED, log 57; DESIGN CHOICE, log 58; DEDUCED, log 60. -/
def execBringUp (s : State) : Out := if s.up then .next s else .next s.bring.mapService

end Sys2Proof.Machine
end

