-- ==== Sys2Proof/Machine/Fabric.lean ====
section
/-! DEFINITION. The fabric (R421 to R427, R432): requests of other modules, their answers, ports, and the tables of BAR 4. -/

namespace Sys2Proof.Machine

/-! ## Exports (R425, R426) -/

/-- Bytes that a packet of KIND 1 to 4 touches. -/
def packetSpan (k : Packet) : Nat :=
  match k.kind.toNat with
  | 1 => maskLength k.byteMask
  | 4 => if k.atomTy = 1 then 8 else 4
  | _ => k.bytes.length

/-- The type of an atomic in a packet (R421). -/
def atomTyOf (c : BitVec 2) : Option ATy :=
  match c.toNat with
  | 0 => some .b32
  | 1 => some .n64
  | 2 => some .f32
  | _ => none

/-- An export entry (R425): its fields. -/
def exportValid (e : BitVec 128) : Bool := e.getLsbD 127
def exportRo (e : BitVec 128) : Bool := e.getLsbD 126
def exportPart (e : BitVec 128) : Nat := (e.extractLsb' 121 5).toNat
def exportSpart (e : BitVec 128) : Nat := (e.extractLsb' 116 5).toNat
def exportSmod (e : BitVec 128) : Nat := (e.extractLsb' 102 14).toNat
def exportBase (e : BitVec 128) : Nat := (e.extractLsb' 12 52).toNat * 4096
def exportLen (e : BitVec 128) : Nat := (e.extractLsb' 0 12).toNat * 2 ^ 30

/-- The export entry that a request names. -/
def State.exportOf (s : State) (k : Packet) : BitVec 128 := Tab.get s.fabric.exports k.index.toNat 0

/-- The exporting module refuses an access (R426). -/
def State.refuses (s : State) (k : Packet) : Bool :=
  let e := s.exportOf k
  !exportValid e || k.src.toNat != exportSmod e || k.spart.toNat != exportSpart e ||
    decide (exportLen e < k.offset.toNat + max 1 (packetSpan k)) || (exportRo e && k.kind != 1) ||
    !s.ownsRange (exportPart e) (exportBase e + k.offset.toNat) (packetSpan k)

/-! ## Packets between modules (R423) -/

/-- The end-to-end numbers that a receiver remembers of a module: half of their range. DESIGN CHOICE, log 92. -/
def seenDepth : Nat := 32768

/-- What a packet does is done once (R423): a packet with a number that its module has used already is a duplicate. -/
def State.once (s : State) (k : Packet) (f : State → State) : State :=
  let m := k.src.toNat
  let seen := Tab.get s.fabric.seen m []
  if seen.contains k.eseq.toNat then s
  else f { s with fabric := { s.fabric with seen := Tab.set s.fabric.seen m ((k.eseq.toNat :: seen).take seenDepth) } }

/-! ## Requests (R423, R426) -/

/-- An answer to a request, under the next number toward its module (R423); index and offset say what it answers. DESIGN CHOICE, log 92. -/
def State.answer (s : State) (k : Packet) (kind : Nat) (bytes : List Byte) (poison : BitVec 16) (opnd : W64) : State :=
  let m := k.src.toNat
  let n := Tab.get s.fabric.sendSeq m 0 % 65536
  let a : Packet :=
    { kind := BitVec.ofNat 8 kind, dst := k.src, src := BitVec.ofNat 14 s.moduleNo, spart := k.spart, atomOp := k.atomOp, atomTy := k.atomTy,
      eseq := BitVec.ofNat 16 n, poison := poison, index := k.index, offset := k.offset, opnd := opnd, bytes := bytes, byteMask := k.byteMask }
  { s with fabric := { s.fabric with sendSeq := Tab.set s.fabric.sendSeq m (n + 1), outbox := s.fabric.outbox ++ [a] } }

/-- Poison bits of bytes of device memory, one per granule of a packet's data. -/
def State.poisonBits (s : State) (pa n : Nat) : BitVec 16 :=
  (List.range ((n + 7) / 8)).foldl (fun x i => if s.dev.poisoned (pa + 8 * i) (min 8 (n - 8 * i)) then setBit x i true else x) 0

/-- A write of another module: the bytes that the mask selects, then their poison. A write of more than 8 bytes is an engine's, and clears
the poison of the granules that it covers whole with good data (R346). DEDUCED, log 93. -/
def State.remoteWrite (s : State) (k : Packet) (pa : Nat) : State :=
  let n := k.bytes.length
  let on (i : Nat) : Bool := k.kind == 2 || k.byteMask.getLsbD i
  let engine := decide (8 < ((List.range n).filter on).length)
  let s := if k.kind = 2 then s.put .device pa k.bytes
    else (List.range n).foldl (fun s i => if on i then s.put .device (pa + i) [k.bytes.getD i 0] else s) s
  (List.range ((n + 7) / 8)).foldl (fun s i =>
    if k.poison.getLsbD i then s.placeTaint .device (pa + 8 * i) (min 8 (n - 8 * i))
    else if engine ∧ 8 * i + 8 ≤ n ∧ (List.range 8).all fun j => on (8 * i + j) then s.placeCleanse .device (pa + 8 * i) 8
    else s) s

/-- An atomic of another module is performed at the home (R164, R172, R427): a poisoned location keeps its value. -/
def State.remoteAtomic (s : State) (k : Packet) (pa : Nat) (op : AOp) (ty : ATy) : State :=
  let n := atyBytes ty
  let old := s.devRead pa n
  if s.dev.poisoned pa n then s.answer k 7 old 1 0
  else
    let new := atomNew op ty (bytesToNat old) k.opnd.toNat (bytesToNat (k.bytes.take n))
    (s.put .device pa (natToBytes n (new % 2 ^ (8 * n)))).answer k 7 old 0 0

/-- A request is refused; the reason's codes are not stated. DESIGN CHOICE, log 92. -/
def State.refuseRequest (s : State) (k : Packet) : State :=
  { s with fresh := s.fresh + 1 }.answer k 8 [] 0 (Config.freeWord s.fresh)

/-- A request of another module is performed or refused (R426). -/
def State.serveRequest (s : State) (k : Packet) : State :=
  if s.refuses k then s.refuseRequest k
  else
    let pa := exportBase (s.exportOf k) + k.offset.toNat
    match k.kind.toNat with
    | 1 => s.answer k 5 (s.devRead pa (packetSpan k)) (s.poisonBits pa (packetSpan k)) 0
    | 4 =>
      (match AOp.ofCode k.atomOp, atomTyOf k.atomTy with
        | some op, some ty => s.remoteAtomic k pa op ty
        | _, _ => s.refuseRequest k)
    | _ => (s.remoteWrite k pa).answer k 6 [] 0 0

/-- REMOTE_REQUEST (R423, R426). DESIGN CHOICE, log 99. -/
def execRemoteRequest (k : Packet) (s : State) : Out :=
  if 1 ≤ k.kind.toNat ∧ k.kind.toNat ≤ 4 then .next (s.once k fun s => s.serveRequest k) else .next s

/-! ## Answers (R178, R195, R426, R427) -/

/-- A loaded value as a lane's registers hold it. -/
def RemoteLoad.value (r : RemoteLoad) (x : Nat) : Nat :=
  if r.signed ∧ r.bytes < 4 ∧ 2 ^ (8 * r.bytes - 1) ≤ x then x + (2 ^ 32 - 2 ^ (8 * r.bytes)) else x

/-- What a wait becomes once an answer has come (R178, R183): it ends with the last value that it names. -/
def Wait.answered (x : Wait) (r : RemoteLoad) : Wait :=
  match x with
  | .remote on => if on.all fun y => y == (r.eseq, r.mod) then .none else .remote (on.filter fun y => y != (r.eseq, r.mod))
  | .values on => if on.all fun y => y == (r.eseq, r.mod) then .none else .values (on.filter fun y => y != (r.eseq, r.mod))
  | y => y

/-- A scalar register of a trap level's bank (R13), whatever level the warp has now. -/
def Warp.ssetAt (w : Warp) (level : Fin 3) (d : SReg) (x : W64) : Warp := { { w with level := level }.sset d x with level := w.level }

/-- The destination of an answer is written, in the arm that the warp's own fields hold and in the bank of the word's level; code and blocks are
kept. DEDUCED, log 22. -/
def Warp.settle (w : Warp) (r : RemoteLoad) (bytes : List Byte) : Warp :=
  if 64 ≤ r.lane then { w with fetched := w.fetched ++ [(r.pa, bytes)], wait := if w.wait = .fetch then .none else w.wait }
  else
    let x := bytesToNat bytes
    match r.sreg with
    | some d => w.ssetAt r.level d (extendLoad r.signed r.bytes x)
    | none => w.deliver r.lane r.dest (if r.bytes = 8 then 2 else 1) r.wbs r.latch (r.value x)

/-- Both arms hear of an answer: a word of either may wait for it (R178, R183). -/
def Warp.heard (w : Warp) (r : RemoteLoad) : Warp :=
  { w with
    remote := w.remote.filter fun y => !(y.eseq == r.eseq && y.mod == r.mod)
    wait := w.wait.answered r
    fork := w.fork.map fun (f : Fork) => { f with other := { f.other with wait := f.other.wait.answered r } } }

/-- An answer reaches a warp, in the arm whose word awaits it. -/
def Warp.answered (r : RemoteLoad) (bytes : List Byte) (w : Warp) : Warp := (w.heard r).inArm r.arm fun w => w.settle r bytes

/-- The bytes of a value in its answer, with the carrel as the word found it before memory (R311), and whether one of their granules is poisoned. An
answer holds whole units, so the eight bytes around a value are there. -/
def RemoteLoad.taken (r : RemoteLoad) (k : Packet) : List Byte × Bool :=
  let off := if k.kind = 7 then 0 else r.pa % 16
  let plain := (k.bytes.drop off).take r.bytes
  let seen := overlay r.own .remote (r.pa / 8 * 8) ((k.bytes.drop (off / 8 * 8)).take 8)
  (if r.own.isEmpty then plain else (seen.drop (r.pa % 8)).take r.bytes,
   (List.range 16).any fun i => k.poison.getLsbD i && decide (off / 8 ≤ i ∧ 8 * i < off + r.bytes))

/-- A value of the load value queue that an answer brings. -/
def LvqVal.fill (e m x : Nat) (y : LvqVal) : LvqVal := if y = .awaited e m then .known x else y
/-- A word that runs ahead awaits the value of a remote access. -/
def Ahead.awaits (a : Ahead) (e m : Nat) : Bool := a.vals.contains (.awaited e m)

/-- An answer reaches a warp and its shadow: where the shadow has still to execute the word, the value goes to the load value queue (R198). -/
def State.deliverAnswer (s : State) (id : Nat) (r : RemoteLoad) (bytes : List Byte) : State :=
  let l := Tab.get s.pairs id []
  if l.any fun a => a.awaits r.eseq r.mod then
    { s with pairs := Tab.set s.pairs id (l.map fun (a : Ahead) => { a with vals := a.vals.map (LvqVal.fill r.eseq r.mod (bytesToNat bytes)) }) }.modWarp
      id (Warp.answered r bytes)
  else s.modPair id (Warp.answered r bytes)

/-- An answer for an access that returns a value: the value, with the acquire that follows it (R165), or poison or a refusal, which halts the warp
(R194, R426); a descriptor that cannot be read is none (R374). DEDUCED, log 56. -/
def State.answerWarp (s : State) (o : Outstanding) (k : Packet) : State :=
  match s.findWarp o.warp with
  | none => s
  | some w =>
    match w.remote.find? fun r => r.eseq == o.eseq && r.mod == o.mod with
    | none => s
    | some r =>
      let (bs, bad) := r.taken k
      let bad := bad || k.kind == 8
      if bad ∧ r.lane ≠ 65 then s.haltAt w cPoison (if r.lane = 64 ∧ r.bytes ≤ 12 then 3 else 1) o.mask o.va.toNat o.ticket
      else
        let s := s.deliverAnswer o.warp r (if bad then [] else bs)
        if r.acq.any Scope.beyondTeam then s.acquireCluster (s.clusterOf w) else s

/-- An answer for an engine operation: a line, an acknowledgement, or a refusal (R350). -/
def State.answerOp (s : State) (o : Outstanding) (key : Nat × Nat × Nat) (k : Packet) : State :=
  match s.ops.find? fun x => (x.part, x.ctx, x.n) == key with
  | none => s
  | some x =>
    match k.kind.toNat with
    | 5 => s.modOp x fun y => { y with data := y.data ++ [(o.offset, k.bytes, k.poison.toNat)] }
    | 8 => s.modOp x (·.refuse o.va.toNat)
    | _ => s

/-- An answer is the one that an outstanding access awaits: its module, what it accessed, and the KIND of its answer or a refusal. Answers to
accesses of one place come in the order of the accesses. DESIGN CHOICE, log 92. -/
def Outstanding.awaits (o : Outstanding) (k : Packet) : Bool :=
  o.mod == k.src.toNat && o.index == k.index.toNat && o.offset % 2 ^ 40 == k.offset.toNat && (k.kind.toNat == o.ans || k.kind == 8)

/-- An answer is taken by the oldest access that awaits it. -/
def State.takeResponse (s : State) (k : Packet) : State :=
  match s.fabric.waiting.find? (·.awaits k) with
  | none => s
  | some o =>
    let s := { s with fabric := { s.fabric with waiting := s.fabric.waiting.erase o } }
    match o.eng with
    | some key => s.answerOp o key k
    | none =>
      if o.returns then s.answerWarp o k
      else if k.kind = 8 ∧ o.grp.isSome then s.raise [o.ticket.part] 4 0 0x053 o.ticket.part none
      else if k.kind = 8 then s.lateOpen o.ticket o.mask o.va.toNat
      else if k.poison ≠ 0 then s.lateError o.ticket cPoison 1 o.mask o.va.toNat
      else s

/-- REMOTE_RESPONSE (R178, R427). DESIGN CHOICE, log 99. -/
def execRemoteResponse (k : Packet) (s : State) : Out :=
  if 5 ≤ k.kind.toNat ∧ k.kind.toNat ≤ 8 then .next (s.once k fun s => s.takeResponse k) else .next s

/-! ## Ports (R422, R423, R432) -/

/-- The state of a port. -/
def State.port (s : State) (n : Nat) : Link := Tab.get s.fabric.ports n .blank
/-- Writes a port. -/
def State.setPort (s : State) (n : Nat) (x : Link) : State := { s with fabric := { s.fabric with ports := Tab.set s.fabric.ports n x } }

/-- The port entry of a shelfmark (R385): at first shelfmark i names physical port i. PRESUMED, log 78. -/
def State.portEntry (s : State) (i : Nat) : W64 := Tab.get s.portMap i (BitVec.ofNat 64 (128 + i))

/-- The shelfmarks of a physical port. -/
def State.portShelves (s : State) (port : Nat) : List Nat :=
  (List.range 96).filter fun i => (s.portEntry i).getLsbD 7 && field (s.portEntry i) 0 7 == port

/-- The child port of a group that a packet arrives at. -/
def State.childPort (s : State) (port : Nat) (k : Packet) : Nat :=
  ((s.portShelves port).find? fun i => (s.group k.spart.toNat k.index.toNat).children.contains i).getD 128

/-- A packet that has arrived takes effect, once. -/
def State.takePacket (s : State) (port : Nat) (k : Packet) : State :=
  s.once k fun s =>
    if 1 ≤ k.kind.toNat ∧ k.kind.toNat ≤ 4 then s.serveRequest k
    else if 5 ≤ k.kind.toNat ∧ k.kind.toNat ≤ 8 then s.takeResponse k
    else if k.kind = 9 ∨ k.kind = 10 then s.groupPacket (s.childPort port k) k
    else s

/-- One of some ports by a hash, and another one of them where that is lost, so that the lines of a lost port alone move (R423); the fuel is their
number. -/
def State.pickPort (s : State) (hash : Nat) : Nat → List Nat → Option Nat
  | 0, _ => none
  | k + 1, l =>
    match l[hash % l.length]? with
    | none => none
    | some p => if (s.port p).lost then s.pickPort hash k (l.filter (· != p)) else some p

/-- The port that carries a packet: one of those that reach its module and are not lost, by its line (R423). -/
def State.carries (s : State) (k : Packet) : Option Nat :=
  s.pickPort (Config.portHash k.dst.toNat (k.offset.toNat / 128)) Config.ports
    ((List.range Config.ports).filter fun p => Config.portReaches p k.dst.toNat)
/-- A packet goes over a port (R423). -/
def State.goesOver (s : State) (port : Nat) (k : Packet) : Bool := s.carries k == some port

/-- Packets that wait for a port leave in order while it has room (R421, R422); one without room holds those after it. -/
def State.sendFrom (port : Nat) : List Packet → State → State
  | [], s => s
  | k :: r, s =>
    if s.goesOver port k then
      if (s.port port).hasRoom port k then
        State.sendFrom port r
          ({ s with fabric := { s.fabric with outbox := s.fabric.outbox.erase k } }.setPort port ((s.port port).sendPacket k))
      else s
    else State.sendFrom port r s

/-- The same of the packets of groups, which leave by the port of their shelfmark (R430, R431). -/
def State.sendGroups (port : Nat) : List (Nat × Packet) → State → State
  | [], s => s
  | k :: r, s =>
    if (s.portShelves port).contains k.1 then
      if (s.port port).hasRoom port k.2 then
        State.sendGroups port r
          ({ s with fabric := { s.fabric with groupOut := s.fabric.groupOut.erase k } }.setPort port ((s.port port).sendPacket k.2))
      else s
    else State.sendGroups port r s

/-- What waits for a port leaves, then the receive credits that no packet has returned. -/
def State.sendWaiting (s : State) (port : Nat) : State :=
  let t := State.sendGroups port s.fabric.groupOut (State.sendFrom port s.fabric.outbox s)
  if (t.port port).owed = 0 then t else t.setPort port (t.port port).returnUfl

/-- UFL_FLIT_RECEIVE (R421, R422): the packets that a good flit next in order completes take effect; what the flit acknowledges leaves the
replay buffer, and packets that wait for the port leave. -/
def execUflFlitReceive (port : Nat) (flit : List Byte) (s : State) : Out :=
  if (s.port port).lost then .next s
  else
    let (x, ks) := (s.port port).receive flit
    .next ((ks.foldl (fun s k => s.takePacket port k) (s.setPort port x)).sendWaiting port)

/-- The tree of a group uses one of some port shelfmarks. -/
def Group.usesPort (g : Group) (l : List Nat) : Bool := l.any fun i => g.children.contains i || (!g.root && g.parent == i)

/-- A packet of a group. -/
def ofGroup (k : Packet) : Bool := k.kind == 9 || k.kind == 10

/-- A port is lost (R397, R423, R432): its unacknowledged packets are sent again over other ports, but for those of groups; its shelfmarks map
nothing, and the groups whose trees use it fail. DESIGN CHOICE, log 120. -/
def State.losePort (s : State) (port : Nat) : State :=
  let x := s.port port
  let shelves := s.portShelves port
  let s := s.setPort port { x with lost := true, unacked := [], sent := [] }
  let s := { s with
    portMap := shelves.foldl (fun t i => Tab.set t i 0) s.portMap
    fabric := { s.fabric with
      outbox := ((x.sent.map fun (u : Nat × Packet) => u.2).filter fun (k : Packet) => !ofGroup k) ++ s.fabric.outbox
      groupOut := s.fabric.groupOut.filter fun (k : Nat × Packet) => !shelves.contains k.1 } }
  let s := (((s.fabric.ports.map (·.1)).filter fun q => q != port).foldl State.sendWaiting s).repairEvent 1 4 (portUnit port) 0
  let gs := s.parts.flatMap fun (p : Nat × Part) => (p.2.groups.filter fun (g : Nat × Group) => g.2.valid && g.2.usesPort shelves).map fun (g : Nat × Group) => (p.1, g.1)
  gs.foldl (fun s (g : Nat × Nat) => s.failGroup g.1 g.2) s

/-- PORT_LANE_FAILURE (R397, R422): the port replays its unacknowledged flits and goes on over the other lane; one without a lane is lost. A lane
that has failed already changes nothing. DESIGN CHOICE, log 120. -/
def execPortLaneFailure (port lane : Nat) (s : State) : Out :=
  let x := s.port port
  if x.lost ∨ !x.liveLanes.contains lane then .next s
  else if x.lanes ≤ 1 then .next (s.losePort port)
  else .next ((s.setPort port { x with lanes := x.lanes - 1, badLanes := lane :: x.badLanes }.replay).repairEvent 1 3 (portUnit port) 0)

/-- PORT_LOST (R423, R432). -/
def execPortLost (port : Nat) (s : State) : Out := if (s.port port).lost then .next s else .next (s.losePort port)

/-! ## The tables of BAR 4 and the registers of BAR 2 (R8, R395, R418, R424, R425) -/

/-- A host-memory owner entry, written (R418). -/
def State.writeOwnerEntry (s : State) (g : Nat) (v : W64) : State :=
  if g < 576 then { s with fabric := { s.fabric with hdm := Tab.set s.fabric.hdm g (v &&& 0x9F) } } else s

/-- MODULE, written (R424): it no longer changes once a window has been valid. -/
def State.writeModule (s : State) (v : W64) : State :=
  if s.fabric.fixed then s else { s with fabric := { s.fabric with module := v &&& 0x3FFF } }

/-- A window entry, written. -/
def State.writeWindow (s : State) (p i : Nat) (v : W64) : State :=
  let v := v &&& 0xFFFFFFFF00000000
  let s := s.modPart p fun x => { x with windows := Tab.set x.windows i v }
  if v.getLsbD 63 then { s with fabric := { s.fabric with fixed := true } } else s

/-- A half of an export entry, written: the low half, or the high one with its read-only bits. -/
def State.writeExport (s : State) (i : Nat) (high : Bool) (v : W64) : State :=
  let e := Tab.get s.fabric.exports i 0
  let x : BitVec 128 :=
    if high then ((v &&& 0xFFFFFFC000000000).setWidth 128 <<< 64) ||| (e.setWidth 64).setWidth 128
    else ((e >>> 64) <<< 64) ||| v.setWidth 128
  { s with fabric := { s.fabric with exports := Tab.set s.fabric.exports i x } }

/-- MODULE_REGISTER_WRITE (R424). -/
def execModuleRegisterWrite (v : W64) (s : State) : Out := .next (s.writeModule v)

/-- Eight bytes of a group entry, written (R428). -/
def State.writeGroupWord (s : State) (p g i : Nat) (v : W64) : State :=
  let e := (s.group p g).entry
  s.writeGroup p g ((e &&& ~~~((BitVec.ofNat 512 (2 ^ 64 - 1)) <<< (64 * i))) ||| (v.setWidth 512 <<< (64 * i)))

/-- A write of 8 bytes to BAR 4 (R424). -/
def State.writeBar4 (s : State) (off : Nat) (x : W64) : State :=
  if off % 8 ≠ 0 then s
  else if off < 0x100000 then s.writeWindow (off / 0x8000) (off % 0x8000 / 8) x
  else if off < 0x104000 then s.writeExport ((off - 0x100000) / 16) (off % 16 = 8) x
  else if off < 0x124000 then s.writeGroupWord ((off - 0x104000) / 0x1000) ((off - 0x104000) % 0x1000 / 64) (off % 64 / 8) x
  else if off = 0x124000 then s.writeModule x
  else if 0x128000 ≤ off ∧ off < 0x128000 + 8 * 576 then s.writeOwnerEntry ((off - 0x128000) / 8) x
  else s

/-- The eight bytes from an offset, rounded down to a multiple of 8, of a value that is `n` words long. -/
def wordAt (v : Nat) (off : Nat) : W64 := BitVec.ofNat 64 (v / 2 ^ (8 * (off / 8 * 8)))

/-- A read of BAR 2 (R395): the 8 bytes at an offset. It changes nothing. -/
def State.bar2Read (s : State) (off : Nat) : W64 :=
  let recs (t : Tab (List Byte)) (k i n : Nat) : W64 := BitVec.ofNat 64 (leAt (Tab.get t k (zeros n)) (i / 8 * 8) 8)
  if off < 0x20000 then recs s.events.entries (off / 64) (off % 64) 64
  else if off = 0x20000 then s.events.produced.setWidth 64
  else if off = 0x20008 then s.events.consumed.setWidth 64
  else if off = 0x20010 then s.partRun
  else if 0x100000 ≤ off ∧ off < 0x100000 + 33 * 0x18000 then recs s.stopBuf ((off - 0x100000) / 256) (off % 256) 256
  else 0

/-- A read of BAR 4 (R424): the 8 bytes at an offset. It changes nothing. -/
def State.bar4Read (s : State) (off : Nat) : W64 :=
  if off < 0x100000 then Tab.get (s.part (off / 0x8000)).windows (off % 0x8000 / 8) 0
  else if off < 0x104000 then wordAt (Tab.get s.fabric.exports ((off - 0x100000) / 16) 0).toNat (off % 16)
  else if off < 0x124000 then wordAt (s.group ((off - 0x104000) / 0x1000) ((off - 0x104000) % 0x1000 / 64)).entry.toNat (off % 64)
  else if off = 0x124000 then s.fabric.module
  else if 0x128000 ≤ off ∧ off < 0x128000 + 8 * 576 then Tab.get s.fabric.hdm ((off - 0x128000) / 8) 0
  else 0

/-- REGISTER_WRITE (R8, R395, R424): a host write of 8 bytes of an entry or register; other offsets are ignored, and read-only fields stay. -/
def execRegisterWrite (bar off : Nat) (v : W64) (s : State) : Out :=
  match bar with
  | 2 => if off = 0x20008 then execEqTailWrite v s else if off = 0x20010 then execPartRunWrite v s else .next s
  | 4 => .next (s.writeBar4 off v)
  | _ => .next s

end Sys2Proof.Machine
end

