-- ==== Sys2Proof/Machine/HostPort.lean ====
section
/-! DEFINITION. The host link (R416 to R420): accesses through the HDM decoder, its owner table, and the host's own line accesses. -/

namespace Sys2Proof.Machine

/-- The host may access the frame of a device address (R417, R418): the entry of its GiB is valid, and its partition owns the frame. -/
def State.hostOpen (s : State) (pa : Nat) : Bool :=
  let e := Tab.get s.fabric.hdm (pa / 2 ^ 30) 0
  e.getLsbD 7 && s.ownerAt pa == field e 0 5

/-- What a read of the host returns (R417): bytes, and the CXL poison indication. -/
def State.hostRead (s : State) (pa len : Nat) : List Byte × Bool :=
  if (List.range len).all fun i => s.hostOpen (pa + i) then (s.devRead pa len, s.dev.poisoned pa len)
  else (List.replicate len 0xFF, true)

/-- A write of the host, one 4 KiB frame after another: discarded in a frame that is not open to it. Granules written whole lose their poison. -/
def State.hostWrite (s : State) (pa : Nat) (bytes : List Byte) : State :=
  (List.range ((pa + bytes.length + 4095) / 4096 - pa / 4096)).foldl (fun s i =>
    let f := 4096 * (pa / 4096 + i)
    let lo := max pa f
    let x := (bytes.drop (lo - pa)).take (f + 4096 - lo)
    if s.hostOpen f then (s.put .device lo x).placeCleanse .device lo x.length else s) s

/-- Bytes that the HDM decoder maps: 1 GiB to 576 GiB, in whole GiB (R417). DESIGN CHOICE, log 96. -/
def hdmBytes : Nat := 2 ^ 30 * (1 + Config.hdmGib % 576)

/-- HOST_MEM_ACCESS (R417): a read changes nothing of the module; what it returns is `hostRead`. The decoder maps no address beyond its range.
DESIGN CHOICE, log 96. -/
def execHostMemAccess (hpa : Nat) (bytes : Option (List Byte)) (len : Nat) (s : State) : Out :=
  match bytes with
  | some b => if hdmBytes < hpa + b.length then .fault .outsideDecoder else .next (s.hostWrite hpa b)
  | none => if hdmBytes < hpa + len then .fault .outsideDecoder else .next s

/-- HOST_OWNER_TABLE_WRITE (R418). -/
def execHostOwnerTableWrite (g : Nat) (v : W64) (s : State) : Out := .next (s.writeOwnerEntry g v)

/-- HOST_CACHE_SNOOP (R264, R420): the host takes a 128-byte line of its memory, and with bytes it writes it. The home holds one value of the line;
cluster data caches are not snooped. DEDUCED, log 97. -/
def execHostCacheSnoop (line : Nat) (bytes : Option (List Byte)) (s : State) : Out :=
  match bytes with
  | some b =>
    let x := b.take 128
    .next ((s.put .host (128 * line) x).placeCleanse .host (128 * line) x.length)
  | none => .next s

/-- HOST_LINK_DEGRADE (R416): the link trains to fewer lanes, and never to more. DESIGN CHOICE, log 123. -/
def execHostLinkDegrade (width : Nat) (s : State) : Out :=
  if (width = 8 ∨ width = 4) ∧ width < s.hostWidth then .next { s with hostWidth := width } else .next s

end Sys2Proof.Machine
end

