-- ==== Sys2Proof/Machine/LaneFloat.lean ====
section
/-! DEFINITION. Lane instructions: floating point, conversion, special functions and packed forms (R137 to R150). -/

namespace Sys2Proof

/-- The format of a lane float type. -/
def FTy.fmt : FTy → Fmt
  | .f32 => .f32
  | .f64 => .f64

/-- The element format of `pkfma`. -/
def PTy.fmt : PTy → Fmt
  | .f16 => .f16
  | .bf16 => .bf16

/-- The two element types of `dp4` (R150). -/
def D4Ty.partner : D4Ty → D4Ty
  | .i8 => .n8
  | .n8 => .i8
  | .e4m3 => .e5m2
  | .e5m2 => .e4m3

end Sys2Proof

namespace Sys2Proof.Machine

/-! ## The shared operations -/

/-- Draws of a word that delivers `n` results per lane (R48). -/
def drawsOf (rm : RMode) (n : Nat) : Nat := if rm = .sto then n else 0
/-- The draw for result k of lane l, where the mode needs one. -/
def LaneCx.drawIf (c : LaneCx) (rm : RMode) (l k : Nat) : Nat := if rm = .sto then c.draw l k else 0

/-- A result of bits and flags. -/
def bitsRes (x : Nat × Flags) : W64 × Flags := (BitVec.ofNat 64 x.1, x.2)

/-- A float operand as its value, its sign turned first where asked (R137). -/
def LaneCx.flt (c : LaneCx) (t : FTy) (neg : Bool) (x : Src) (l : Nat) : FVal :=
  let v := fval t.fmt (c.src t.wide x l).toNat
  if neg then v.neg else v

/-- A two-operand arithmetic word (R137). -/
def fltWord2 (i : Instr) (s : State) (t : FTy) (rm : RMode) (nega negb : Bool) (f : Nat → FVal → FVal → Nat × Flags) : Out :=
  laneWord i s (drawsOf rm 1) fun c l => bitsRes (f (c.drawIf rm l 0) (c.flt t nega c.h.a l) (c.flt t negb c.h.b l))

/-- A word on one FP32 value (R145). -/
def specialWord (i : Instr) (s : State) (f : W32 → Nat × Flags) : Out := laneWord i s 0 fun c l => bitsRes (f (c.src32 c.h.a l))

/-- The conversion of an element (R143). -/
def convert (k : CvtArgs) (draw : Nat) (x : Nat) : Nat × Flags :=
  match k.src, k.dst with
  | .flt a, .flt b => cvtFF a b k.rm draw k.sat x
  | .flt a, .int t => cvtFI a t.wide (t == .i32 || t == .i64) k.rm draw x
  | .int t, .flt b => cvtIF (t.val (BitVec.ofNat 64 x)) b k.rm draw k.sat
  | .int t, .int _ => (x % 2 ^ t.bits, 0)

/-- The placing of a converted element (R143): the whole, or m bits at m × k of zero or of the second source. -/
def placeElem (m k : Nat) (old r : Nat) : Nat := old - bitsOf old (m * k) m * 2 ^ (m * k) + r % 2 ^ m * 2 ^ (m * k)

/-- The value of a packed element of n bits at index e. -/
def elem (x : W32) (n e : Nat) : Nat := bitsOf x.toNat (n * e) n

/-- An integer element of n bits under a signedness. -/
def elemInt (signed : Bool) (x : W32) (n e : Nat) : Int :=
  let v := elem x n e
  if signed && v.testBit (n - 1) then (v : Int) - 2 ^ n else v

/-- The integer dot product (R150): `n` elements of `b` bits. -/
def dotInt (sa sb sat : Bool) (b n : Nat) (x y z : W32) : W64 :=
  let t : ITy := if sa || sb then .i32 else .n32
  let e := (List.range n).foldl (fun acc i => acc + elemInt sa x b i * elemInt sb y b i) (t.val (z.setWidth 64))
  t.deliver sat e

/-- The FP8 dot product (R150): invalid cases before the sum, one rounding of the exact sum. A quiet NaN beside opposite infinities raises no
INV. DEDUCED, log 118. -/
def dotFp8 (fa fb : Fmt) (rm : RMode) (draw : Nat) (x y z : W32) : Nat × Flags :=
  let ps := (List.range 4).map fun i => (fval fa (elem x 8 i), fval fb (elem y 8 i))
  let vc := fval .f32 z.toNat
  let sf := ps.foldl (fun f p => f ||| p.1.sigFlag ||| p.2.sigFlag) vc.sigFlag
  let zi := ps.any fun p => zeroTimesInf p.1 p.2
  let nan := vc.isNaN || ps.any fun p => p.1.isNaN || p.2.isNaN
  let terms := ps.map fun p => prodV p.1 p.2
  let pinf := vc == .inf false || terms.any fun t => t.1 == some false
  let ninf := vc == .inf true || terms.any fun t => t.1 == some true
  if zi then (canonNaN .f32, sf ||| flagInv)
  else if nan then (canonNaN .f32, sf)
  else if pinf && ninf then (canonNaN .f32, flagInv)
  else if pinf then (infBits .f32 false, 0)
  else if ninf then (infBits .f32 true, 0)
  else
    match vc with
    | .fin n m e => (terms.foldl (fun acc t => Dy.add rm acc t.2) ⟨n, m, e⟩).round .f32 rm draw
    | _ => (canonNaN .f32, sf)

/-! ## The meanings -/

/-- `fadd` (R137). -/
def execFadd (h : LaneHdr) (t : FTy) (rm : RMode) (nega negb : Bool) (s : State) : Out :=
  fltWord2 (.fadd h t rm nega negb) s t rm nega negb (addV t.fmt rm)
/-- `fsub` (R137): x − y is x + (−y) on exact values. -/
def execFsub (h : LaneHdr) (t : FTy) (rm : RMode) (nega negb : Bool) (s : State) : Out :=
  fltWord2 (.fsub h t rm nega negb) s t rm nega negb fun d x y => addV t.fmt rm d x y.neg
/-- `fmul` (R137). -/
def execFmul (h : LaneHdr) (t : FTy) (rm : RMode) (nega negb : Bool) (s : State) : Out :=
  fltWord2 (.fmul h t rm nega negb) s t rm nega negb (mulV t.fmt rm)
/-- `ffma` (R137). -/
def execFfma (h : LaneHdr) (t : FTy) (rm : RMode) (nega negc : Bool) (s : State) : Out :=
  laneWord (.ffma h t rm nega negc) s (drawsOf rm 1) fun c l =>
    bitsRes (fmaV t.fmt rm (c.drawIf rm l 0) (c.flt t nega c.h.a l) (c.flt t false c.h.b l) (c.flt t negc c.h.c l))
/-- `fmin` (R138). -/
def execFmin (h : LaneHdr) (t : FTy) (nan : Bool) (s : State) : Out :=
  laneWord (.fmin h t nan) s 0 fun c l =>
    bitsRes (minmaxV t.fmt false nan (c.src t.wide c.h.a l).toNat (c.src t.wide c.h.b l).toNat)
/-- `fmax` (R138). -/
def execFmax (h : LaneHdr) (t : FTy) (nan : Bool) (s : State) : Out :=
  laneWord (.fmax h t nan) s 0 fun c l =>
    bitsRes (minmaxV t.fmt true nan (c.src t.wide c.h.a l).toNat (c.src t.wide c.h.b l).toNat)
/-- `fset` (R139). -/
def execFset (h : LaneHdr) (t : FTy) (cc : FCond) (s : State) : Out :=
  laneWord (.fset h t cc) s 0 fun c l =>
    let r := fsetV t.fmt cc (c.src t.wide c.h.a l).toNat (c.src t.wide c.h.b l).toNat
    (bitW r.1, r.2)
/-- `frnd` (R140). -/
def execFrnd (h : LaneHdr) (t : FTy) (rm : RMode) (exact : Bool) (s : State) : Out :=
  laneWord (.frnd h t rm exact) s (drawsOf rm 1) fun c l =>
    bitsRes (frndV t.fmt rm (c.drawIf rm l 0) exact (c.src t.wide c.h.a l).toNat)
/-- `fclass` (R141). -/
def execFclass (h : LaneHdr) (t : FTy) (s : State) : Out :=
  laneWord (.fclass h t) s 0 fun c l => bitsRes (fclassV t.fmt (c.src t.wide c.h.a l).toNat, 0)
/-- `cvt` (R142, R143). -/
def execCvt (h : LaneHdr) (k : CvtArgs) (s : State) : Out :=
  laneWord (.cvt h k) s (drawsOf k.rm 1) fun c l =>
    let n := k.src.bits
    let m := k.dst.bits
    let v := if n = 64 then (c.src64 c.h.a l).toNat else elem (c.src32 c.h.a l) n k.se.toNat
    let r := convert k (c.drawIf k.rm l 0) v
    if m = 64 then bitsRes r
    else bitsRes (placeElem m k.de.toNat (if k.insert then (c.src32 c.h.b l).toNat else 0) r.1, r.2)
/-- `rcp` (R146, R147). -/
def execRcp (h : LaneHdr) (s : State) : Out := specialWord (.rcp h) s rcpV
/-- `rsq` (R146, R147). -/
def execRsq (h : LaneHdr) (s : State) : Out := specialWord (.rsq h) s rsqV
/-- `sqrt` (R146, R147). -/
def execSqrt (h : LaneHdr) (s : State) : Out := specialWord (.sqrt h) s sqrtV
/-- `exp2` (R146, R147). -/
def execExp2 (h : LaneHdr) (s : State) : Out := specialWord (.exp2 h) s exp2V
/-- `log2` (R146, R147). -/
def execLog2 (h : LaneHdr) (s : State) : Out := specialWord (.log2 h) s log2V
/-- `sin` (R146, R147). -/
def execSin (h : LaneHdr) (s : State) : Out := specialWord (.sin h) s (trigV false)
/-- `cos` (R146, R147). -/
def execCos (h : LaneHdr) (s : State) : Out := specialWord (.cos h) s (trigV true)
/-- `tanh` (R146, R147). -/
def execTanh (h : LaneHdr) (s : State) : Out := specialWord (.tanh h) s tanhV
/-- `pkfma` (R149). -/
def execPkfma (h : LaneHdr) (t : PTy) (rm : RMode) (nega negc : Bool) (s : State) : Out :=
  laneWord (.pkfma h t rm nega negc) s (drawsOf rm 2) fun c l =>
    let v (neg : Bool) (x : Src) (e : Nat) : FVal :=
      let y := fval t.fmt (elem (c.src32 x l) 16 e)
      if neg then y.neg else y
    let r (e : Nat) := fmaV t.fmt rm (c.drawIf rm l e) (v nega c.h.a e) (v false c.h.b e) (v negc c.h.c e)
    bitsRes ((r 0).1 + 2 ^ 16 * (r 1).1, (r 0).2 ||| (r 1).2)
/-- `dp4` (R150). -/
def execDp4 (h : LaneHdr) (t : D4Ty) (rm : RMode) (mix sat : Bool) (s : State) : Out :=
  let u := if mix then t.partner else t
  let isFp := t == .e4m3 || t == .e5m2
  laneWord (.dp4 h t rm mix sat) s (if isFp then drawsOf rm 1 else 0) fun c l =>
    let x := c.src32 c.h.a l
    let y := c.src32 c.h.b l
    let z := c.src32 c.h.c l
    match t with
    | .e4m3 => bitsRes (dotFp8 .e4m3 (if u = .e4m3 then .e4m3 else .e5m2) rm (c.drawIf rm l 0) x y z)
    | .e5m2 => bitsRes (dotFp8 .e5m2 (if u = .e4m3 then .e4m3 else .e5m2) rm (c.drawIf rm l 0) x y z)
    | .i8 => (dotInt true (u == .i8) sat 8 4 x y z, 0)
    | .n8 => (dotInt false (u == .i8) sat 8 4 x y z, 0)
/-- `dp8` (R150). -/
def execDp8 (h : LaneHdr) (signed mix sat : Bool) (s : State) : Out :=
  laneWord (.dp8 h signed mix sat) s 0 fun c l =>
    (dotInt signed (signed != mix) sat 4 8 (c.src32 c.h.a l) (c.src32 c.h.b l) (c.src32 c.h.c l), 0)

end Sys2Proof.Machine
end

