-- ==== Sys2Proof/Machine/LaneCross.lean ====
section
/-! DEFINITION. Cross-lane words (R151 to R157). -/

namespace Sys2Proof.Machine

/-! ## The shared operations -/

/-- The source lane that `shfl` names (R153). -/
def shflLane (mode : ShMode) (o l : Nat) : Int :=
  match mode with
  | .idx => o
  | .up => (l : Int) - o
  | .down => (l : Int) + o
  | .xor => (l ^^^ o : Nat)

/-- The identity of an operation (R154). -/
def redUnit (t : XTy) (op : ROp) : Nat :=
  match op, t with
  | .add, .f32 => 0x80000000
  | .add, _ => 0
  | .min, .i32 => 0x7FFFFFFF
  | .min, .n32 => 0xFFFFFFFF
  | .min, .f32 => infBits .f32 false
  | .max, .i32 => 0x80000000
  | .max, .n32 => 0
  | .max, .f32 => infBits .f32 true
  | .conj, _ => 0xFFFFFFFF
  | .disj, _ => 0
  | .xor, _ => 0

/-- The combination of two values (R154). -/
def redOp (t : XTy) (op : ROp) (nan : Bool) (a b : Nat) : Nat × Flags :=
  let ity : ITy := if t = .i32 then .i32 else .n32
  let v (x : Nat) : Int := ity.val (BitVec.ofNat 64 x)
  let r (x : Int) : Nat × Flags := ((ity.wrap x).toNat, 0)
  match t, op with
  | .f32, .add => addV .f32 .rne 0 (fval .f32 a) (fval .f32 b)
  | .f32, .min => minmaxV .f32 false nan a b
  | .f32, .max => minmaxV .f32 true nan a b
  | _, .add => r (v a + v b)
  | _, .min => r (min (v a) (v b))
  | _, .max => r (max (v a) (v b))
  | _, .conj => (Nat.land a b, 0)
  | _, .disj => (Nat.lor a b, 0)
  | _, .xor => (Nat.xor a b, 0)

/-- The source values of the lanes, with the identity in a lane that is not a source lane. -/
def LaneCx.laneVals (c : LaneCx) (unit : Nat) : Lanes Nat :=
  Vector.ofFn fun l => if c.act.getLsbD l.val then (c.src32 c.h.a l.val).toNat else unit

/-- One step of the reduction tree (R57): the lower half combined with the upper. -/
def redStep (f : Nat → Nat → Nat × Flags) (v : List Nat) (fl : Flags) : List Nat × Flags :=
  let n := v.length / 2
  let rs := List.zipWith f (v.take n) (v.drop n)
  (rs.map (·.1), rs.foldl (fun g r => g ||| r.2) fl)
/-- The tree of R57 in `k` steps. -/
def redTree (f : Nat → Nat → Nat × Flags) : Nat → List Nat → Flags → Nat × Flags
  | 0, v, fl => (v.headD 0, fl)
  | k + 1, v, fl => let (v', fl') := redStep f v fl; redTree f k v' fl'

/-- One step of `xscan` at distance d (R154): lane l becomes op(v[l−d], v[l]). -/
def scanStep (f : Nat → Nat → Nat × Flags) (d : Nat) (v : List Nat) (fl : Flags) : List Nat × Flags :=
  let rs := List.zipWith f v (v.drop d)
  (v.take d ++ rs.map (·.1), rs.foldl (fun g r => g ||| r.2) fl)
/-- The scan at distances d, 2d, 4d, … in `k` steps. -/
def scanTree (f : Nat → Nat → Nat × Flags) : Nat → Nat → List Nat → Flags → List Nat × Flags
  | 0, _, v, fl => (v, fl)
  | k + 1, d, v, fl => let (v', fl') := scanStep f d v fl; scanTree f k (2 * d) v' fl'

/-- A cross-lane word: `f` computes from all lanes what each active lane receives (R151). -/
def crossWord (i : Instr) (s : State) (f : LaneCx → Nat → W64 × Flags) : Out := laneWord i s 0 f

/-! ## The meanings -/

/-- `shfl` (R153). DEDUCED, log 26. -/
def execShfl (h : LaneHdr) (t : BTy) (mode : ShMode) (wrel : Bool) (s : State) : Out :=
  crossWord (.shfl h t mode wrel) s fun c l =>
    let o := if wrel then 64 / 2 ^ (c.h.imm.toNat % 8) else (c.src32 c.h.b l).toNat
    let k := shflLane mode o l
    if 0 ≤ k ∧ k < 64 ∧ c.act.getLsbD k.toNat then (c.src t.wide c.h.a k.toNat, 0) else (c.src t.wide c.h.a l, 0)
/-- `xred` (R154). -/
def execXred (h : LaneHdr) (t : XTy) (op : ROp) (nan : Bool) (s : State) : Out :=
  .next (laneGate (.xred h t op nan) s fun c s =>
    let r := bitsRes (redTree (redOp t op nan) 6 (c.laneVals (redUnit t op)).toList 0)
    frameRun .v32 0 (fun _ _ => r) c s)
/-- `xscan` (R154). -/
def execXscan (h : LaneHdr) (t : XTy) (op : ROp) (excl nan : Bool) (s : State) : Out :=
  .next (laneGate (.xscan h t op excl nan) s fun c s =>
    let u := redUnit t op
    let r := scanTree (redOp t op nan) 6 1 (c.laneVals u).toList 0
    let v := if excl then u :: r.1 else r.1
    frameRun .v32 0 (fun _ l => bitsRes (v.getD l 0, r.2)) c s)
/-- `vote` (R155). -/
def execVote (h : LaneHdr) (mode : VMode) (s : State) : Out :=
  .next (laneGate (.vote h mode) s fun c s =>
    let t := laneMask fun l => c.act.getLsbD l && c.src32 c.h.a l != 0
    let vals := (List.range 64).filterMap fun l => if c.act.getLsbD l then some (c.src32 c.h.a l) else none
    let r : W64 := match mode with
      | .ballot => t
      | .any => bitW (t != 0)
      | .all => bitW (t == c.act)
      | .eq => bitW (vals.all fun x => x == vals.headD 0)
    frameRun (if mode = .ballot then .v64 else .v32) 0 (fun _ _ => (r, 0)) c s)
/-- `match` (R156). -/
def execMatchLanes (h : LaneHdr) (t : BTy) (s : State) : Out :=
  crossWord (.matchLanes h t) s fun c l =>
    let x := c.src t.wide c.h.a l
    (laneMask fun j => c.act.getLsbD j && c.src t.wide c.h.a j == x, 0)
/-- `laneid` (R157). -/
def execLaneid (h : LaneHdr) (sel : LSel) (s : State) : Out :=
  crossWord (.laneid h sel) s fun c l =>
    let n := match sel with
      | .id => l
      | .orig => (vget c.w.origin l 0).toNat
      | .rank => popBits c.act l
      | .cnt => popBits c.act 64
    (BitVec.ofNat 64 n, 0)

end Sys2Proof.Machine
end

