-- ==== Sys2Proof/Machine/LaneMem.lean ====
section
/-! DEFINITION. Lane memory words (R158 to R178). -/

namespace Sys2Proof

/-- The bytes of a memory type (R163, R166). -/
def MTy.bytes : MTy → Nat
  | .i8 => 1
  | .n8 => 1
  | .i16 => 2
  | .n16 => 2
  | .b32 => 4
  | .n64 => 8

/-- The registers that a loaded value of a type fills. -/
def MTy.regs (t : MTy) : Nat := if t.wide then 2 else 1

/-- A loaded value as its registers hold it (R167). -/
def MTy.extend (t : MTy) (x : Nat) : Nat :=
  match t with
  | .i8 => if x < 2 ^ 7 then x else x + (2 ^ 32 - 2 ^ 8)
  | .i16 => if x < 2 ^ 15 then x else x + (2 ^ 32 - 2 ^ 16)
  | _ => x

/-- The scale of an index (R166). -/
def Scale.factor : Scale → Nat
  | .x1 => 1
  | .x2 => 2
  | .x4 => 4
  | .x8 => 8
  | .x16 => 16

/-- The count of an own-buffer word (R168). -/
def Cnt.num : Cnt → Nat
  | .x1 => 1
  | .x2 => 2
  | .x4 => 4

/-- The buffer code (R159, R168). -/
def Buf.num : Buf → Nat
  | .w => 0
  | .a => 1
  | .c => 2

/-- The bits of an index width (R166). -/
def IdxW.bits : IdxW → Nat
  | .w8 => 8
  | .w16 => 16
  | .w32 => 32
  | .w64 => 64

/-- Orders of an atomic (R171). -/
def AtomArgs.acquires (k : AtomArgs) : Bool := k.ord == .acq || k.ord == .acqrel
def AtomArgs.releases (k : AtomArgs) : Bool := k.ord == .rel || k.ord == .acqrel

end Sys2Proof

namespace Sys2Proof.Machine

/-! ## Addresses (R167, R168) -/

/-- The address of `ld`, `st` and `pref`. -/
def LaneCx.va (c : LaneCx) (l : Nat) : Nat := (c.src64 c.h.a l + c.h.imm.signExtend 64).toNat

/-- The index of `ldx` and `stx`, extended from its width. -/
def LaneCx.index (c : LaneCx) (x : IdxArgs) (l : Nat) : W64 :=
  let i := c.src (x.width == .w64) c.h.b l
  match x.width with
  | .w64 => i
  | _ => if x.signed then BitVec.ofInt 64 (BitVec.ofNat x.width.bits i.toNat).toInt else BitVec.ofNat 64 (i.toNat % 2 ^ x.width.bits)
/-- The address of `ldx` and `stx`. -/
def LaneCx.vax (c : LaneCx) (x : IdxArgs) (l : Nat) : Nat :=
  (c.src64 c.h.a l + c.index x l * BitVec.ofNat 64 x.scale.factor + x.off.signExtend 64).toNat

/-- The 32-bit address of scratchpad and own-buffer words. -/
def LaneCx.sa (c : LaneCx) (l : Nat) : Nat := (c.src32 c.h.a l + c.h.imm.signExtend 32).toNat

/-- The address of `atom` and `ared`, of 64 or 32 bits. -/
def LaneCx.atomAddr (c : LaneCx) (k : AtomArgs) (l : Nat) : Nat :=
  if k.spad then (c.src32 c.h.a l + k.off.signExtend 32).toNat else (c.src64 c.h.a l + k.off.signExtend 64).toNat

/-! ## The shared words -/

/-- Where a remote answer goes for a lane of a word, and the acquire that the word makes at its return (R165). -/
def LaneCx.remoteDest (c : LaneCx) (signed : Bool) (acq : Option Scope) (l : Nat) : RemoteLoad :=
  ⟨0, 0, l, c.h.dest, 0, signed, c.h.wbs, c.h.latch, none, 0, 0, 0, [], acq⟩

/-- No higher lane that the word still has to perform has the same address (R162). -/
def LaneCx.prevails (c : LaneCx) (va : Nat → Nat) (l : Nat) : Bool := c.todo.all fun j => j ≤ l || va j != va l

/-- Extends a delivered value. -/
def Perf.map (f : Perf) (g : Nat → Nat) : Perf := { f with val := f.val.map g }

/-- A generic load word (R161, R167); an acquire invalidates the cache once the word has completed. -/
def genericLoad (i : Instr) (s : State) (t : MTy) (hint : LaneCx → Nat) (acq : Option Scope) (va : LaneCx → Nat → Nat) : Out :=
  .next (laneGate i s fun c s =>
    c.before s accRead t.bytes (va c) fun s =>
      laneMem c s t.regs accRead (va c) (fun s l => s.genericCheck c.w.ident.part accRead t.bytes (va c l))
        (fun s l k =>
          match k with
          | .page tr =>
            (s.load c.w.ident.part (va c l) tr t.bytes (hint c) (lanesOf [l]) (c.remoteDest (t == .i8 || t == .i16) acq l)).map t.extend
          | _ => ⟨s, none, false, false⟩)
        (fun s => match acq with
          | some sc => s.acquire sc
          | none => s))

/-- A generic store word (R161, R167); a release waits as R427 gives. -/
def genericStore (i : Instr) (s : State) (t : MTy) (rel : Option Scope) (va : LaneCx → Nat → Nat) (data : LaneCx → Src) : Out :=
  .next (laneGate i s fun c s =>
    if (match rel with
      | some sc => s.releaseReady sc
      | none => true) then
      c.before s accWrite t.bytes (va c) fun s =>
        laneMem c s 0 accWrite (va c) (fun s l => s.genericCheck c.w.ident.part accWrite t.bytes (va c l))
          (fun s l k =>
            match k with
            | .page tr =>
              s.store c.w.ident.part (va c l) tr (natToBytes t.bytes (c.src t.wide (data c) l).toNat) (lanesOf [l]) (c.prevails (va c) l)
            | _ => ⟨s, none, false, false⟩)
          id
    else s.waitOn .order)

/-- A word on typed buffers waits for the warp's earlier slips (R170, R236): a write for those that read or write its bytes, a read for those
that write them. A load waits for atomics that a shadow has still to confirm (R199). -/
def LaneCx.afterSlips (c : LaneCx) (s : State) (writes : Bool) (n : Nat) (check : Nat → LChk) (k : State → State) : State :=
  if s.behind then k s
  else if (!writes && s.unconfirmed.any Held.isAtomic) || c.todo.any fun l =>
      match check l with
      | .buffer b => s.slips.any fun x => x.ofWarp c.w.id && x.marks.any (·.meets ⟨b.crew, b.buf, b.off, b.off + n, writes⟩)
      | _ => false
  then s.waitOn .order else k s

/-- A scratchpad or own-buffer word (R161, R168, R170). -/
def bufferWord (c : LaneCx) (s : State) (regs acc n : Nat) (va : Nat → Nat) (check : State → Nat → LChk × State)
    (perform : State → Nat → BufAddr → Perf) : State :=
  c.afterSlips s (acc != accRead) n (fun l => (check s l).1) fun s =>
    laneMem c s regs acc va check
      (fun s l k => match k with
        | .buffer b => perform s l b
        | _ => ⟨s, none, false, false⟩) id

/-- A word that a task does not permit (R177, R318). -/
def LaneCx.noTask (c : LaneCx) (s : State) (k : State → State) : State :=
  if s.warp.task.isSome then s.trapLane cMode 5 0 (destInfo c.h) else k s

/-- The mode checks of an atomic (R174, R177), at check 5 of R66: the DETAIL of its `MODE` trap, in the order of R174's table. DEDUCED,
log 113. -/
def atomMode (w : Warp) (k : AtomArgs) : Option Nat :=
  if k.spad then (if w.task.isSome then some 5 else none)
  else if k.use = .qtm then (if w.det then none else some 1)
  else if w.det then some 2
  else if k.use = .spc then (if w.task.isSome then none else some 3)
  else if w.task.isSome then some 4
  else none

/-- `atom` and `ared` (R171 to R175). -/
def atomWord (i : Instr) (s : State) (t : ATy) (k : AtomArgs) (returns : Bool) : Out :=
  .next (laneGate i s fun c s =>
    let va := c.atomAddr k
    let n := atyBytes t
    let g := c.w.ident.grid
    let y (l : Nat) := c.src t.wide c.h.b l
    let z (l : Nat) := c.src t.wide c.h.c l
    match atomMode c.w k with
    | some d => s.trapLane cMode d 0 (destInfo c.h)
    | none =>
      if k.releases && !s.releaseReady k.scope then s.waitOn .order
      else if k.spad then
        bufferWord c s (if returns then (if t.wide then 2 else 1) else 0) accAtomic n va
          (fun s l => s.scratchCheck c.w n (va l) true true)
          (fun s l b => s.bufAtomic g b k.op t (y l) (z l) returns (lanesOf [l]) (va l))
      else
        c.before s accAtomic n va fun s =>
          laneMem c s (if returns then (if t.wide then 2 else 1) else 0) accAtomic va
            (fun s l => s.genericCheck c.w.ident.part accAtomic n (va l))
            (fun s l x => match x with
              | .page tr => s.atomic c.w.ident.part (va l) tr k.op t (y l) (z l) returns (lanesOf [l])
                  (c.remoteDest false (if k.acquires then some k.scope else none) l)
              | _ => ⟨s, none, false, false⟩)
            (fun s =>
              let s := if k.acquires then s.acquire k.scope else s
              if c.w.det && returns then s.quantumEnd else s))

/-! ## The meanings -/

/-- `ld` (R166, R167). -/
def execLd (h : LaneHdr) (t : MTy) (acq : Option Scope) (s : State) : Out :=
  genericLoad (.ld h t acq) s t (fun c => c.h.hint.toNat) acq LaneCx.va
/-- `st` (R166, R167). -/
def execSt (h : LaneHdr) (t : MTy) (rel : Option Scope) (s : State) : Out :=
  genericStore (.st h t rel) s t rel LaneCx.va fun c => c.h.b
/-- `ldx` (R166, R167). -/
def execLdx (h : LaneHdr) (t : MTy) (x : IdxArgs) (s : State) : Out :=
  genericLoad (.ldx h t x) s t (fun c => c.h.hint.toNat) none fun c => c.vax x
/-- `stx` (R166, R167). -/
def execStx (h : LaneHdr) (t : MTy) (x : IdxArgs) (s : State) : Out :=
  genericStore (.stx h t x) s t none (fun c => c.vax x) fun c => c.h.c
/-- `lds` (R168). -/
def execLds (h : LaneHdr) (t : MTy) (s : State) : Out :=
  .next (laneGate (.lds h t) s fun c s =>
    bufferWord c s t.regs accRead t.bytes c.sa (fun s l => s.scratchCheck c.w t.bytes (c.sa l) false false)
      fun s l b => (s.bufLoad c.w.ident.grid b t.bytes (lanesOf [l]) (c.sa l)).map t.extend)
/-- `sts` (R168). -/
def execSts (h : LaneHdr) (t : MTy) (s : State) : Out :=
  .next (laneGate (.sts h t) s fun c s =>
    c.noTask s fun s =>
      bufferWord c s 0 accWrite t.bytes c.sa (fun s l => s.scratchCheck c.w t.bytes (c.sa l) true false)
        fun s l b => s.bufStore c.w.ident.grid b (natToBytes t.bytes (c.src t.wide c.h.b l).toNat) (lanesOf [l]) (c.sa l))
/-- `ldb` (R168). -/
def execLdb (h : LaneHdr) (t : MTy) (buf : Buf) (cnt : Cnt) (s : State) : Out :=
  let n := t.bytes * cnt.num
  .next (laneGate (.ldb h t buf cnt) s fun c s =>
    bufferWord c s ((bufRun t cnt).getD 1) accRead n c.sa (fun s l => s.ownCheck c.w buf.num n (c.sa l))
      fun s l b => (s.bufLoad c.w.ident.grid b n (lanesOf [l]) (c.sa l)).map fun x => if cnt = .x1 then t.extend x else x)
/-- The data that `stb` stores in a lane: one operand, or a run of registers (R168). -/
def stbData (c : LaneCx) (t : MTy) (cnt : Cnt) (l : Nat) : List Byte :=
  match cnt, c.h.b with
  | .x1, x => natToBytes t.bytes (c.src t.wide x l).toNat
  | _, .v r => (List.range ((bufRun t cnt).getD 1)).flatMap fun j => natToBytes 4 (c.w.vlane (r.toNat + j) l).toNat
  | _, _ => []
/-- `stb` (R168). -/
def execStb (h : LaneHdr) (t : MTy) (buf : Buf) (cnt : Cnt) (s : State) : Out :=
  let n := t.bytes * cnt.num
  .next (laneGate (.stb h t buf cnt) s fun c s =>
    c.noTask s fun s =>
      bufferWord c s 0 accWrite n c.sa (fun s l => s.ownCheck c.w buf.num n (c.sa l))
        fun s l b => s.bufStore c.w.ident.grid b (stbData c t cnt l) (lanesOf [l]) (c.sa l))
/-- `atom` (R171 to R175). -/
def execAtom (h : LaneHdr) (t : ATy) (k : AtomArgs) (s : State) : Out := atomWord (.atom h t k) s t k true
/-- `ared` (R171 to R175). -/
def execAred (h : LaneHdr) (t : ATy) (k : AtomArgs) (s : State) : Out := atomWord (.ared h t k) s t k false
/-- `pref` (R176): lines are requested into the cluster data cache; a lane that is misaligned, would miss, lacks permission or meets poison
ends silently, and no walk is made, so A and D stay. DEDUCED, log 24. -/
def execPref (h : LaneHdr) (s : State) : Out :=
  .next (laneGate (.pref h) s fun c s =>
    let s := ((List.range 64).filter fun l => c.act.getLsbD l).foldl (fun s l =>
      if c.va l % 4 ≠ 0 then s else
      match permCheck accRead (s.xlate c.w.ident.part (c.va l)) with
      | .ok t => if s.placePoisoned t.place t.pa 1 || !cdcHolds t c.h.hint.toNat then s else s.cdcTouch t c.h.hint.toNat
      | _ => s) s
    s.upd Warp.laneDone)

end Sys2Proof.Machine
end

