-- ==== Sys2Proof/Machine/Dispatch.lean ====
section
/-! DEFINITION. The dispatch: one arm per instruction, each a call of its meaning. -/

namespace Sys2Proof.Machine

/-- What one instruction does: the word of the warp `s.warp`, or an event of the module. -/
def exec (i : Instr) (s : State) : Host.Outcome State Fault Refusal :=
  match i with
  | .sadd d a b => Sys2Proof.Machine.execSadd d a b s
  | .saddImm d a imm => Sys2Proof.Machine.execSaddImm d a imm s
  | .saddX d a e x => Sys2Proof.Machine.execSaddX d a e x s
  | .ssub d a b => Sys2Proof.Machine.execSsub d a b s
  | .smul d a b => Sys2Proof.Machine.execSmul d a b s
  | .smulh d a b => Sys2Proof.Machine.execSmulh d a b s
  | .sand d a b => Sys2Proof.Machine.execSand d a b s
  | .sandImm d a imm => Sys2Proof.Machine.execSandImm d a imm s
  | .sandX d a e x => Sys2Proof.Machine.execSandX d a e x s
  | .sor d a b => Sys2Proof.Machine.execSor d a b s
  | .sorImm d a imm => Sys2Proof.Machine.execSorImm d a imm s
  | .sorX d a e x => Sys2Proof.Machine.execSorX d a e x s
  | .sxor d a b => Sys2Proof.Machine.execSxor d a b s
  | .sxorImm d a imm => Sys2Proof.Machine.execSxorImm d a imm s
  | .sxorX d a e x => Sys2Proof.Machine.execSxorX d a e x s
  | .sandn d a b => Sys2Proof.Machine.execSandn d a b s
  | .sshl d a b => Sys2Proof.Machine.execSshl d a b s
  | .sshlImm d a n => Sys2Proof.Machine.execSshlImm d a n s
  | .sshr d a b => Sys2Proof.Machine.execSshr d a b s
  | .sshrImm d a n => Sys2Proof.Machine.execSshrImm d a n s
  | .ssar d a b => Sys2Proof.Machine.execSsar d a b s
  | .ssarImm d a n => Sys2Proof.Machine.execSsarImm d a n s
  | .smin d a b => Sys2Proof.Machine.execSmin d a b s
  | .smax d a b => Sys2Proof.Machine.execSmax d a b s
  | .sminn d a b => Sys2Proof.Machine.execSminn d a b s
  | .smaxn d a b => Sys2Proof.Machine.execSmaxn d a b s
  | .smov d a => Sys2Proof.Machine.execSmov d a s
  | .scmp cc c a b => Sys2Proof.Machine.execScmp cc c a b s
  | .scmpImm cc c a imm => Sys2Proof.Machine.execScmpImm cc c a imm s
  | .scmpX cc c a e x => Sys2Proof.Machine.execScmpX cc c a e x s
  | .ssel d p a b => Sys2Proof.Machine.execSsel d p a b s
  | .sli d imm => Sys2Proof.Machine.execSli d imm s
  | .sliX d e x => Sys2Proof.Machine.execSliX d e x s
  | .sldN8 d a imm => Sys2Proof.Machine.execSldN8 d a imm s
  | .sldN16 d a imm => Sys2Proof.Machine.execSldN16 d a imm s
  | .sldN32 d a imm => Sys2Proof.Machine.execSldN32 d a imm s
  | .sldN64 d a imm => Sys2Proof.Machine.execSldN64 d a imm s
  | .sldI8 d a imm => Sys2Proof.Machine.execSldI8 d a imm s
  | .sldI16 d a imm => Sys2Proof.Machine.execSldI16 d a imm s
  | .sldI32 d a imm => Sys2Proof.Machine.execSldI32 d a imm s
  | .sldc d a imm => Sys2Proof.Machine.execSldc d a imm s
  | .sldN8X d a x => Sys2Proof.Machine.execSldN8X d a x s
  | .sldN16X d a x => Sys2Proof.Machine.execSldN16X d a x s
  | .sldN32X d a x => Sys2Proof.Machine.execSldN32X d a x s
  | .sldN64X d a x => Sys2Proof.Machine.execSldN64X d a x s
  | .sldI8X d a x => Sys2Proof.Machine.execSldI8X d a x s
  | .sldI16X d a x => Sys2Proof.Machine.execSldI16X d a x s
  | .sldI32X d a x => Sys2Proof.Machine.execSldI32X d a x s
  | .sldcX d a x => Sys2Proof.Machine.execSldcX d a x s
  | .sstN8 d a imm => Sys2Proof.Machine.execSstN8 d a imm s
  | .sstN16 d a imm => Sys2Proof.Machine.execSstN16 d a imm s
  | .sstN32 d a imm => Sys2Proof.Machine.execSstN32 d a imm s
  | .sstN64 d a imm => Sys2Proof.Machine.execSstN64 d a imm s
  | .sstN8X d a x => Sys2Proof.Machine.execSstN8X d a x s
  | .sstN16X d a x => Sys2Proof.Machine.execSstN16X d a x s
  | .sstN32X d a x => Sys2Proof.Machine.execSstN32X d a x s
  | .sstN64X d a x => Sys2Proof.Machine.execSstN64X d a x s
  | .bc p neg disp => Sys2Proof.Machine.execBc p neg disp s
  | .call p neg disp => Sys2Proof.Machine.execCall p neg disp s
  | .loop d imm => Sys2Proof.Machine.execLoop d imm s
  | .ret => Sys2Proof.Machine.execRet s
  | .jr a => Sys2Proof.Machine.execJr a s
  | .exit => Sys2Proof.Machine.execExit s
  | .yield => Sys2Proof.Machine.execYield s
  | .join => Sys2Proof.Machine.execJoin s
  | .rett => Sys2Proof.Machine.execRett s
  | .rettSkip => Sys2Proof.Machine.execRettSkip s
  | .split m els jn => Sys2Proof.Machine.execSplit m els jn s
  | .lx k d => Sys2Proof.Machine.execLx k d s
  | .srd d n => Sys2Proof.Machine.execSrd d n s
  | .swr n a => Sys2Proof.Machine.execSwr n a s
  | .regroup m a => Sys2Proof.Machine.execRegroup m a s
  | .loc d a => Sys2Proof.Machine.execLoc d a s
  | .mma h a b lr z => Sys2Proof.Machine.execMma h a b lr z s
  | .mmg h a b z => Sys2Proof.Machine.execMmg h a b z s
  | .mmt h a b lr fold z => Sys2Proof.Machine.execMmt h a b lr fold z s
  | .mmtSolo h a b lr z => Sys2Proof.Machine.execMmtSolo h a b lr z s
  | .mmw h a b z => Sys2Proof.Machine.execMmw h a b z s
  | .tskip => Sys2Proof.Machine.execTskip s
  | .accZero h a => Sys2Proof.Machine.execAccZero h a s
  | .accLd h a b => Sys2Proof.Machine.execAccLd h a b s
  | .accSt h b => Sys2Proof.Machine.execAccSt h b s
  | .accCvt h b sat rm => Sys2Proof.Machine.execAccCvt h b sat rm s
  | .nnPush d a b dir => Sys2Proof.Machine.execNnPush d a b dir s
  | .nnPull d a b dir => Sys2Proof.Machine.execNnPull d a b dir s
  | .cpy d a b yld => Sys2Proof.Machine.execCpy d a b yld s
  | .gath d a b yld => Sys2Proof.Machine.execGath d a b yld s
  | .mig d a b => Sys2Proof.Machine.execMig d a b s
  | .prefS d a b cdc => Sys2Proof.Machine.execPrefS d a b cdc s
  | .fence sc => Sys2Proof.Machine.execFence sc s
  | .arv d a drop => Sys2Proof.Machine.execArv d a drop s
  | .wait d a test => Sys2Proof.Machine.execWait d a test s
  | .barInit a b => Sys2Proof.Machine.execBarInit a b s
  | .tlw d a b => Sys2Proof.Machine.execTlw d a b s
  | .tlr d a acq => Sys2Proof.Machine.execTlr d a acq s
  | .qend => Sys2Proof.Machine.execQend s
  | .tspec a => Sys2Proof.Machine.execTspec a s
  | .tabort => Sys2Proof.Machine.execTabort s
  | .seal a b => Sys2Proof.Machine.execSeal a b s
  | .unseal a b => Sys2Proof.Machine.execUnseal a b s
  | .mbxPost d a b => Sys2Proof.Machine.execMbxPost d a b s
  | .mbxPostWait d a b => Sys2Proof.Machine.execMbxPostWait d a b s
  | .mbxPostTl d a b => Sys2Proof.Machine.execMbxPostTl d a b s
  | .dqPush c a => Sys2Proof.Machine.execDqPush c a s
  | .dqPop d c => Sys2Proof.Machine.execDqPop d c s
  | .dqTake d c wt grid => Sys2Proof.Machine.execDqTake d c wt grid s
  | .tcommit disp => Sys2Proof.Machine.execTcommit disp s
  | .partNew d a b => Sys2Proof.Machine.execPartNew d a b s
  | .partSet d a b => Sys2Proof.Machine.execPartSet d a b s
  | .partBindRun d a b => Sys2Proof.Machine.execPartBindRun d a b s
  | .partBindSuspend d a b => Sys2Proof.Machine.execPartBindSuspend d a b s
  | .partBindFree d a b => Sys2Proof.Machine.execPartBindFree d a b s
  | .vfBind d a b => Sys2Proof.Machine.execVfBind d a b s
  | .catSet d a b => Sys2Proof.Machine.execCatSet d a b s
  | .mbxBind d a b => Sys2Proof.Machine.execMbxBind d a b s
  | .mbxUnbind d a b => Sys2Proof.Machine.execMbxUnbind d a b s
  | .halt d a => Sys2Proof.Machine.execHalt d a s
  | .stop d a => Sys2Proof.Machine.execStop d a s
  | .clr d a b => Sys2Proof.Machine.execClr d a b s
  | .ckpt d a b => Sys2Proof.Machine.execCkpt d a b s
  | .rest d a b => Sys2Proof.Machine.execRest d a b s
  | .keyldMeasure d a b => Sys2Proof.Machine.execKeyldMeasure d a b s
  | .keyldReport d a b => Sys2Proof.Machine.execKeyldReport d a b s
  | .keyldUnbind d a b => Sys2Proof.Machine.execKeyldUnbind d a b s
  | .trap code => Sys2Proof.Machine.execTrap code s
  | .brk code => Sys2Proof.Machine.execBrk code s
  | .iadd h t sat => Sys2Proof.Machine.execIadd h t sat s
  | .isub h t sat => Sys2Proof.Machine.execIsub h t sat s
  | .imul h t => Sys2Proof.Machine.execImul h t s
  | .imulh h t => Sys2Proof.Machine.execImulh h t s
  | .imad h t sat => Sys2Proof.Machine.execImad h t sat s
  | .imin h t => Sys2Proof.Machine.execImin h t s
  | .imax h t => Sys2Proof.Machine.execImax h t s
  | .iabs h t sat => Sys2Proof.Machine.execIabs h t sat s
  | .and h t => Sys2Proof.Machine.execAnd h t s
  | .or h t => Sys2Proof.Machine.execOr h t s
  | .xor h t => Sys2Proof.Machine.execXor h t s
  | .not h t => Sys2Proof.Machine.execNot h t s
  | .shl h t clamp => Sys2Proof.Machine.execShl h t clamp s
  | .shr h t clamp => Sys2Proof.Machine.execShr h t clamp s
  | .sar h t clamp => Sys2Proof.Machine.execSar h t clamp s
  | .bfe h signed => Sys2Proof.Machine.execBfe h signed s
  | .bfi h => Sys2Proof.Machine.execBfi h s
  | .popc h t => Sys2Proof.Machine.execPopc h t s
  | .clz h t => Sys2Proof.Machine.execClz h t s
  | .brev h t => Sys2Proof.Machine.execBrev h t s
  | .iset h t cc comb => Sys2Proof.Machine.execIset h t cc comb s
  | .sel h t inv k => Sys2Proof.Machine.execSel h t inv k s
  | .mov h t => Sys2Proof.Machine.execMov h t s
  | .fadd h t rm nega negb => Sys2Proof.Machine.execFadd h t rm nega negb s
  | .fsub h t rm nega negb => Sys2Proof.Machine.execFsub h t rm nega negb s
  | .fmul h t rm nega negb => Sys2Proof.Machine.execFmul h t rm nega negb s
  | .ffma h t rm nega negc => Sys2Proof.Machine.execFfma h t rm nega negc s
  | .fmin h t nan => Sys2Proof.Machine.execFmin h t nan s
  | .fmax h t nan => Sys2Proof.Machine.execFmax h t nan s
  | .fset h t cc => Sys2Proof.Machine.execFset h t cc s
  | .frnd h t rm exact => Sys2Proof.Machine.execFrnd h t rm exact s
  | .fclass h t => Sys2Proof.Machine.execFclass h t s
  | .cvt h k => Sys2Proof.Machine.execCvt h k s
  | .rcp h => Sys2Proof.Machine.execRcp h s
  | .rsq h => Sys2Proof.Machine.execRsq h s
  | .sqrt h => Sys2Proof.Machine.execSqrt h s
  | .exp2 h => Sys2Proof.Machine.execExp2 h s
  | .log2 h => Sys2Proof.Machine.execLog2 h s
  | .sin h => Sys2Proof.Machine.execSin h s
  | .cos h => Sys2Proof.Machine.execCos h s
  | .tanh h => Sys2Proof.Machine.execTanh h s
  | .pkfma h t rm nega negc => Sys2Proof.Machine.execPkfma h t rm nega negc s
  | .dp4 h t rm mix sat => Sys2Proof.Machine.execDp4 h t rm mix sat s
  | .dp8 h signed mix sat => Sys2Proof.Machine.execDp8 h signed mix sat s
  | .shfl h t mode wrel => Sys2Proof.Machine.execShfl h t mode wrel s
  | .xred h t op nan => Sys2Proof.Machine.execXred h t op nan s
  | .xscan h t op excl nan => Sys2Proof.Machine.execXscan h t op excl nan s
  | .vote h mode => Sys2Proof.Machine.execVote h mode s
  | .matchLanes h t => Sys2Proof.Machine.execMatchLanes h t s
  | .laneid h sel => Sys2Proof.Machine.execLaneid h sel s
  | .ld h t acq => Sys2Proof.Machine.execLd h t acq s
  | .st h t rel => Sys2Proof.Machine.execSt h t rel s
  | .ldx h t x => Sys2Proof.Machine.execLdx h t x s
  | .stx h t x => Sys2Proof.Machine.execStx h t x s
  | .lds h t => Sys2Proof.Machine.execLds h t s
  | .sts h t => Sys2Proof.Machine.execSts h t s
  | .ldb h t buf cnt => Sys2Proof.Machine.execLdb h t buf cnt s
  | .stb h t buf cnt => Sys2Proof.Machine.execStb h t buf cnt s
  | .atom h t k => Sys2Proof.Machine.execAtom h t k s
  | .ared h t k => Sys2Proof.Machine.execAred h t k s
  | .pref h => Sys2Proof.Machine.execPref h s
  | .hostSlotWrite vf off bytes => Sys2Proof.Machine.execHostSlotWrite vf off bytes s
  | .serviceSlotWrite vf bytes => Sys2Proof.Machine.execServiceSlotWrite vf bytes s
  | .gridLaunch p m => Sys2Proof.Machine.execGridLaunch p m s
  | .gridCompletion g => Sys2Proof.Machine.execGridCompletion g s
  | .trapEntry w => Sys2Proof.Machine.execTrapEntry w s
  | .warpHalt w cause info => Sys2Proof.Machine.execWarpHalt w cause info s
  | .faultMessageDelivery p => Sys2Proof.Machine.execFaultMessageDelivery p s
  | .faultRecordRetry p => Sys2Proof.Machine.execFaultRecordRetry p s
  | .pagerReply p => Sys2Proof.Machine.execPagerReply p s
  | .regfileFill w poisoned => Sys2Proof.Machine.execRegfileFill w poisoned s
  | .lateError t code detail mask va => Sys2Proof.Machine.execLateError t code detail mask va s
  | .slipStart cluster => Sys2Proof.Machine.execSlipStart cluster s
  | .slipAging slip => Sys2Proof.Machine.execSlipAging slip s
  | .slipComplete slip residueFails => Sys2Proof.Machine.execSlipComplete slip residueFails s
  | .twinMatch w => Sys2Proof.Machine.execTwinMatch w s
  | .linkTransferComplete team dir => Sys2Proof.Machine.execLinkTransferComplete team dir s
  | .linkLost die pcl plink => Sys2Proof.Machine.execLinkLost die pcl plink s
  | .engineOpStart p ctx => Sys2Proof.Machine.execEngineOpStart p ctx s
  | .copyComplete p ctx n => Sys2Proof.Machine.execCopyComplete p ctx n s
  | .gatherComplete p ctx n => Sys2Proof.Machine.execGatherComplete p ctx n s
  | .prefetchComplete p ctx n => Sys2Proof.Machine.execPrefetchComplete p ctx n s
  | .clearComplete p ctx n bad => Sys2Proof.Machine.execClearComplete p ctx n bad s
  | .ckptComplete p ctx n => Sys2Proof.Machine.execCkptComplete p ctx n s
  | .restComplete p ctx n writeError => Sys2Proof.Machine.execRestComplete p ctx n writeError s
  | .yieldResume w => Sys2Proof.Machine.execYieldResume w s
  | .deferredPost p ctx => Sys2Proof.Machine.execDeferredPost p ctx s
  | .migrationThreshold p va die => Sys2Proof.Machine.execMigrationThreshold p va die s
  | .migrationCounterHalving => Sys2Proof.Machine.execMigrationCounterHalving s
  | .moveStart => Sys2Proof.Machine.execMoveStart s
  | .moveComplete id => Sys2Proof.Machine.execMoveComplete id s
  | .quantumCommit g => Sys2Proof.Machine.execQuantumCommit g s
  | .qlenQuantumEnd w => Sys2Proof.Machine.execQlenQuantumEnd w s
  | .warpEviction w => Sys2Proof.Machine.execWarpEviction w s
  | .crewEviction k => Sys2Proof.Machine.execCrewEviction k s
  | .teamPlacement p => Sys2Proof.Machine.execTeamPlacement p s
  | .warpWake w => Sys2Proof.Machine.execWarpWake w s
  | .blockedCrewDrain p => Sys2Proof.Machine.execBlockedCrewDrain p s
  | .sliceEnd p => Sys2Proof.Machine.execSliceEnd p s
  | .drainLimitExpiry k => Sys2Proof.Machine.execDrainLimitExpiry k s
  | .frameStart => Sys2Proof.Machine.execFrameStart s
  | .cdcFill cluster line => Sys2Proof.Machine.execCdcFill cluster line s
  | .laneDefect core group phys => Sys2Proof.Machine.execLaneDefect core group phys s
  | .coreParityError core => Sys2Proof.Machine.execCoreParityError core s
  | .dieFence die => Sys2Proof.Machine.execDieFence die s
  | .dieReset die => Sys2Proof.Machine.execDieReset die s
  | .dieBistComplete die pass failed => Sys2Proof.Machine.execDieBistComplete die pass failed s
  | .dieDrop die => Sys2Proof.Machine.execDieDrop die s
  | .dieLost die => Sys2Proof.Machine.execDieLost die s
  | .dieFlitReceive link flit => Sys2Proof.Machine.execDieFlitReceive link flit s
  | .ucieModuleRepair link degraded => Sys2Proof.Machine.execUcieModuleRepair link degraded s
  | .bankFailure wdie pbank => Sys2Proof.Machine.execBankFailure wdie pbank s
  | .stopPoint p source => Sys2Proof.Machine.execStopPoint p source s
  | .sliceSpare slice => Sys2Proof.Machine.execSliceSpare slice s
  | .sliceFailure slice tagsLost => Sys2Proof.Machine.execSliceFailure slice tagsLost s
  | .hbmRowRepair frame pass => Sys2Proof.Machine.execHbmRowRepair frame pass s
  | .hbmChannelFailure stack chan => Sys2Proof.Machine.execHbmChannelFailure stack chan s
  | .moduleReset => Sys2Proof.Machine.execModuleReset s
  | .bringUp => Sys2Proof.Machine.execBringUp s
  | .thermalWarning sensor => Sys2Proof.Machine.execThermalWarning sensor s
  | .thermalLimit sensor => Sys2Proof.Machine.execThermalLimit sensor s
  | .supplyLimit sensor => Sys2Proof.Machine.execSupplyLimit sensor s
  | .thermalRecovery sensor => Sys2Proof.Machine.execThermalRecovery sensor s
  | .firmwareActivation => Sys2Proof.Machine.execFirmwareActivation s
  | .firmwareFloorUpdate version signed => Sys2Proof.Machine.execFirmwareFloorUpdate version signed s
  | .partRunWrite v => Sys2Proof.Machine.execPartRunWrite v s
  | .eqTailWrite v => Sys2Proof.Machine.execEqTailWrite v s
  | .hostMemAccess hpa bytes len => Sys2Proof.Machine.execHostMemAccess hpa bytes len s
  | .hostOwnerTableWrite g v => Sys2Proof.Machine.execHostOwnerTableWrite g v s
  | .moduleRegisterWrite v => Sys2Proof.Machine.execModuleRegisterWrite v s
  | .groupEntryWrite p g v => Sys2Proof.Machine.execGroupEntryWrite p g v s
  | .registerWrite bar off v => Sys2Proof.Machine.execRegisterWrite bar off v s
  | .remoteRequest k => Sys2Proof.Machine.execRemoteRequest k s
  | .remoteResponse k => Sys2Proof.Machine.execRemoteResponse k s
  | .uflFlitReceive port flit => Sys2Proof.Machine.execUflFlitReceive port flit s
  | .portLaneFailure port lane => Sys2Proof.Machine.execPortLaneFailure port lane s
  | .portLost port => Sys2Proof.Machine.execPortLost port s
  | .groupPartial p g port step values => Sys2Proof.Machine.execGroupPartial p g port step values s
  | .groupData p g step bytes failed => Sys2Proof.Machine.execGroupData p g step bytes failed s
  | .groupStep p g => Sys2Proof.Machine.execGroupStep p g s
  | .multicastReserveRetry p g space => Sys2Proof.Machine.execMulticastReserveRetry p g space s
  | .weightDieFence wdie => Sys2Proof.Machine.execWeightDieFence wdie s
  | .weightDieReset wdie => Sys2Proof.Machine.execWeightDieReset wdie s
  | .baseDieUncorrectableError => Sys2Proof.Machine.execBaseDieUncorrectableError s
  | .firmwareActivationDone => Sys2Proof.Machine.execFirmwareActivationDone s
  | .hostCacheSnoop line bytes => Sys2Proof.Machine.execHostCacheSnoop line bytes s
  | .hostLinkDegrade width => Sys2Proof.Machine.execHostLinkDegrade width s
  | .powerLoss => Sys2Proof.Machine.execPowerLoss s
  | .managementWindowWrite kind bytes signed => Sys2Proof.Machine.execManagementWindowWrite kind bytes signed s

end Sys2Proof.Machine
end

