-- ==== Sys2Proof/Machine/Mishap.lean ====
section
/-! DEFINITION. What happens to the hardware without a row of its own in the opcode table: errors in stored bits, host access errors, errors of
engines, and losses of link modules (R194, R216, R233, R278, R284, R326, R350, R359, R389, R420). DESIGN CHOICE, log 119. -/

namespace Sys2Proof.Machine

/-- A granule of a crew's buffer, by the buffer's number: 0 W, 1 A, 2 C. -/
def Crew.taintBuf (c : Crew) (buf off : Nat) : Crew :=
  match buf with
  | 0 => { c with bufW := c.bufW.taint off 1 }
  | 1 => { c with bufA := c.bufA.taint off 1 }
  | _ => { c with bufC := c.bufC.taint off 1 }

/-- An uncorrectable error in a granule of the typed buffer of a placed crew: the granule becomes poisoned (R216), and the die reports it (R284). -/
def State.bufferError (s : State) (g c buf off : Nat) : State :=
  match (s.crew? g c).bind (·.core) with
  | some k =>
    if off < Config.bufBytes ∧ buf < 3 then (s.modCrew g c (·.taintBuf buf off)).dieEvent 0 k.die 5 k.pcl else s
  | none => s

/-- An uncorrectable error in a granule of a weight bank (R278). -/
def State.bankError (s : State) (wdie off : Nat) : State :=
  if wdie < 4 ∧ off < 64 * Config.bankBytes then
    { s with bankMem := s.bankMem.taint (wdie * 64 * Config.bankBytes + off) 1 }.dieEvent 1 wdie 5 (off / Config.bankBytes)
  else s

/-- An uncorrectable error in a granule of device memory (R326, R359). -/
def State.memoryError (s : State) (pa : Nat) : State :=
  if pa < Config.deviceBytes then (s.placeTaint .device pa 1).scoreError (pa / 4096) 64 else s

/-- A module of a die link is lost: its partner carries its line set (R283, R284, R397). On a die whose links are held down nothing more can be
lost (R279). DESIGN CHOICE, logs 81, 120. -/
def State.loseModule (s : State) (l : DieLink) : State :=
  let n := linkNumber l
  if s.linkDown l ∨ (s.dieLink n).lost then s
  else
    let s := s.moveLines n
    let s := (s.setDieLink n { s.dieLink n with lost := true, away := [], lanes := 0 }).sendDie l
    (s.dieEvent l.weight.toNat l.die 3 l.module).repairEvent 1 4 (linkUnit n) 0

/-- What a mishap does. DESIGN CHOICE, logs 102, 119. -/
def State.mishap (s : State) (m : Mishap) : State :=
  match m with
  | .corrected pa => if pa < Config.deviceBytes then s.scoreError (pa / 4096) 1 else s
  | .memory pa => s.memoryError pa
  | .buffer g c b off => s.bufferError g c b off
  | .bank w off => s.bankError w off
  | .hostError ls => { s with hostErrs := ls }
  | .engine source (some p) => if (s.part p).state = .free then s else s.raise [p] 4 0 source 0 none
  | .engine source none => s.raiseAll 4 0 source 32
  | .module l true => s.loseModule l
  | .module l false => s.dieEvent l.weight.toNat l.die 4 l.module

end Sys2Proof.Machine
end

