-- ==== Sys2Proof/Machine/Turn.lean ====
section
/-! DEFINITION. What one turn of the module does, the turn that follows an empty agenda, and the placing of one instruction where the next step
fetches it. -/

namespace Sys2Proof.Machine

/-- The instruction is an event of the module: it has no encoding. DESIGN CHOICE, log 2. -/
def isEvent (i : Instr) : Bool := (encode i).isNone

/-- One turn: a stream of a warp issues its word, a shadow follows its warp, or an event happens. A word is no event. DESIGN CHOICE, logs 1, 2. -/
def runTurn (t : Turn) (s : State) : Out :=
  match t with
  | .issue w arm => issue exec w arm s
  | .shadow w => issueShadow exec w s
  | .event i => if isEvent i then exec i s else .next s
  | .mishap m => .next (s.mishap m)

/-- The shadow of the first warp that is ahead of its own. -/
def State.shadowTurn? (s : State) : Option Turn :=
  (s.warps.find? fun w => !(Tab.get s.pairs w.id []).isEmpty).map fun w => .shadow w.id

/-- The first stream that may issue, by warp and arm; a shadow that is behind comes before every other stream. -/
def State.readyTurn (s : State) : Option Turn :=
  s.shadowTurn? <|> (s.warps.flatMap fun w => [(w, 0), (w, 1)]).findSome? fun x =>
    match x.1.select x.2 with
    | some w => if w.ready then some (.issue x.1.id x.2) else none
    | none => none

/-- The turn of a module whose agenda is empty: bring-up, then the first stream that may issue, if any. -/
def State.idleTurn (s : State) : Option Turn := if s.up then s.readyTurn else some (.event .bringUp)

/-- The turn that comes next, and the state that it begins in. DESIGN CHOICE, log 1. -/
def State.nextTurn (s : State) : Option Turn × State :=
  match s.agenda with
  | t :: r => (some t, { s with agenda := r })
  | [] => (s.idleTurn, s)

/-! ## A program in place -/

/-- The warp and the virtual address at which the next turn fetches a word of a kind: scalar, or lane. -/
def State.fetchVa (s : State) (lane : Bool) : Option (Warp × Nat) :=
  match s.nextTurn with
  | (some (.issue id arm), s) =>
    let t := s.focus id
    if t.warp.id ≠ id then none
    else
      match t.warp.select arm with
      | none => none
      | some w =>
        if w.ready ∧ w.pending = none ∧ w.remote = [] ∧ w.lanesDone ∧ ¬w.isShadowed then
          (match w.block, lane with
            | some b, true => some (w, b.wordAddr)
            | none, false => some (w, w.pc.toNat)
            | _, _ => none)
        else none
  | _ => none

/-- The device address behind a fetch of the next turn, where its bytes lie in one page that may be executed. DESIGN CHOICE, log 4. -/
def State.fetchPa (s : State) (lane : Bool) : Option Nat :=
  match s.fetchVa lane with
  | none => none
  | some (w, va) =>
    if 4096 < va % 4096 + 12 then none
    else
      match permCheck accFetch (s.xlate w.ident.part va) with
      | .ok t => if t.place = .device then some t.pa else none
      | _ => none

/-- The virtual address, the frame and the page tables of a loaded program: one page of partition 0, readable, writable and executable. -/
def loadVa : Nat := 0x1000
def loadRoot : Nat := 0x8E00000000
def loadFrame : Nat := 0x8E00005000
/-- The words of the page tables of a loaded program: four tables below one another, and the leaf. -/
def loadTables : List (Nat × Nat) :=
  (List.range 4).map (fun i => (loadRoot + 4096 * i, loadRoot + 4096 * (i + 1) + 1)) ++ [(loadRoot + 4 * 4096 + 8, loadFrame + 0x1F)]

/-- The handler of a loaded program: one warp with 64 registers and privilege. -/
def loadDesc : Desc := { Desc.blank with entry := 0x1000, lcb := 0x1000, regs := 64, priv := true }

/-- The module with a program loaded: partition 0 as bring-up leaves it with compute die 7 ACTIVE and one page mapped, one grid of one warp launched
and placed, and that warp's turn next; for a lane word its block is open. DESIGN CHOICE, log 4. -/
def State.loaded (s : State) (lane : Bool) : State :=
  let s := { s with up := false, mgmtConfig := none }.bring
  let s := s.modDie 7 fun x => { x with state := .active, bad := [], fencedCores := [], lanes := [] }
  let s := loadTables.foldl (fun s e => s.devWrite e.1 (natToBytes 8 e.2)) s
  let s := { s with grids := [], teams := [], crews := [], others := [], shadows := [], pairs := [], warp := .blank }
  let id := s.nextId
  let s := s.launch 0 0 0 loadDesc (zeros 64)
  let s := (s.teams.foldl (fun s t => s.placeTeam t 0) s).focus (id + 1)
  { s with
    warp := if lane then s.warp.openBlock 0 1 else s.warp
    agenda := .issue (id + 1) 0 :: s.agenda }

/-- Bytes of an instruction, up to the longest one, written where a fetch reads them, free of poison. DESIGN CHOICE, log 4. -/
def State.placeCode (s : State) (pa : Nat) (lane : Bool) (w : Nat) : State :=
  (s.devWrite pa (natToBytes (if lane then 12 else 8) w)).placeCleanse .device (pa / 8 * 8) 24

end Sys2Proof.Machine
end

