-- ==== Sys2Proof/Machine/Step.lean ====
section
/-! DEFINITION. One step of the module: the next turn. -/

namespace Sys2Proof.Machine

/-- One step: the turn at the head of the agenda, or the one of an empty agenda. DESIGN CHOICE, log 1. -/
def step (s : State) : Host.Outcome State Fault Refusal :=
  match s.nextTurn with
  | (some t, s) => runTurn t s
  | (none, s) => .next s

/-- The state with one instruction stored where the next step fetches it. Where no stream of a warp is to fetch such a word next, a program of one
page is loaded first. DESIGN CHOICE, log 4. -/
def State.withFetchWord (s : State) (nbits w : Nat) : State :=
  let lane := decide (64 < nbits)
  let v := w % 2 ^ nbits
  match s.fetchPa lane with
  | some pa => s.placeCode pa lane v
  | none => (s.loaded lane).placeCode loadFrame lane v

end Sys2Proof.Machine
end

