-- ==== Sys2Proof/Safety.lean ====
section
/-! DEFINITION. What counts as a safe state and a safe run, and the terms in which the statements speak: what an instruction writes, where it goes
on, and that it leaves everything else as it was. -/

namespace Sys2Proof

open Sys2Proof.Machine

/-- Every memory of the module is in canonical form. -/
def memOk (s : State) : Bool := s.dev.wf && s.hostMem.wf && s.bankMem.wf && s.crews.all fun c => c.bufW.wf && c.bufA.wf && c.bufC.wf

/-- A step goes on: it neither faults nor is refused. -/
def goesOn (s : State) : Prop := ∃ t, step s = .next t

/-- An instruction answers a next state, and that state has a property. -/
def completes (i : Instr) (s : State) (P : State → Prop) : Prop := ∃ t, exec i s = .next t ∧ P t

/-- Nothing has changed but the current warp. -/
def onlyWarp (t s : State) : Prop := { t with warp := s.warp } = s

/-- A warp with its trap level replaced: its scalar registers are then those of that level's bank (R13). -/
def atLevel (w : Warp) (k : Fin 3) : Warp := { w with level := k }

/-- The scalar registers of a warp are those of another, in every bank, but for one register of the current stream, which holds `v`. A write of
`s0` leaves no trace (R13). -/
def regsWith (t s : Warp) (d : SReg) (v : W64) : Prop :=
  ∀ (k : Fin 3) (r : SReg), (atLevel t k).sget r = if r = d ∧ d ≠ 0 ∧ (r.toNat < 56 ∨ k = s.level) then v else (atLevel s k).sget r

/-- A warp is another but for its scalar registers and its program counter. -/
def onlyRegs (t s : Warp) : Prop := { t with pc := s.pc, s := s.s, banks := s.banks } = s

/-- An instruction answers a next state in which a scalar register of the current stream holds `v` and the program counter stands at `pc`, and
nothing else has changed. -/
def writesRegAt (i : Instr) (s : State) (d : SReg) (v pc : W64) : Prop :=
  completes i s fun t => t.warp.pc = pc ∧ regsWith t.warp s.warp d v ∧ onlyRegs t.warp s.warp ∧ onlyWarp t s

/-- The same, with the program counter behind an instruction of `n` bytes. -/
def writesReg (i : Instr) (s : State) (d : SReg) (v : W64) (n : Nat) : Prop := writesRegAt i s d v (s.warp.pc + BitVec.ofNat 64 n)

/-- Items that a word of a `SHADOW` launch logs for comparison (R199); in every other launch none are. -/
def logged (s : State) (l : List Item) : List Item := if s.warp.isShadowed = true then s.items ++ l else s.items

/-- Nothing has changed but the current warp, and the items that a `SHADOW` launch logs. -/
def onlyWarpLog (t s : State) (l : List Item) : Prop := { t with warp := s.warp, items := s.items } = s ∧ t.items = logged s l

/-- What a shadow takes for a value: the oldest one of its queue where that is known, which leaves the queue (R198). -/
def lvqTaken (s : State) (x : Nat) : Nat × List LvqVal :=
  match s.lvq with
  | .known y :: r => (y, r)
  | l => (x, l)

/-- An instruction answers a next state in which a scalar register holds `v` and the program counter is behind an instruction of `n` bytes; `u` is
as it leaves everything else. In a `SHADOW` launch the leading warp's value enters the load value queue, and the shadow takes it from there (R198,
R276). -/
def writesVia (i : Instr) (s u : State) (d : SReg) (v : W64) (n : Nat) : Prop :=
  completes i s fun t => t.warp.pc = s.warp.pc + BitVec.ofNat 64 n ∧
    regsWith t.warp s.warp d (if s.warp.isShadowed = true ∧ s.shadowRun = true then BitVec.ofNat 64 (lvqTaken s v.toNat).1 else v) ∧
    onlyRegs t.warp s.warp ∧ { t with warp := u.warp, lvq := u.lvq } = u ∧
    t.lvq = (if s.warp.isShadowed = false then s.lvq else if s.shadowRun = true then (lvqTaken s v.toNat).2 else s.lvq ++ [.known v.toNat])

/-- An instruction answers a next state in which one predicate holds `b`, unless it is `c7` (R14), the program counter is behind an instruction of
`n` bytes, and nothing else has changed. -/
def writesPred (i : Instr) (s : State) (c : PReg) (b : Bool) (n : Nat) : Prop :=
  completes i s fun t => t.warp.pc = s.warp.pc + BitVec.ofNat 64 n ∧
    (∀ p : PReg, t.warp.cget p = if p = c ∧ c ≠ 7 then b else s.warp.cget p) ∧
    { t.warp with pc := s.warp.pc, c := s.warp.c } = s.warp ∧ onlyWarp t s

/-- An instruction answers a next state that differs in the program counter alone. -/
def goesTo (i : Instr) (s : State) (pc : W64) : Prop := exec i s = .next { s with warp := { s.warp with pc := pc } }

/-- A program trap at a scalar word is taken for its access of an address (R183, R192): its code and DETAIL, no mask and no destination, the word's
address, and its size in bytes. -/
def trapsFor (i : Instr) (s : State) (code : Byte) (detail : W32) (size va : Nat) : Prop :=
  exec i s = .next (s.trap ⟨code, detail, 0, 0, s.warp.pc, size, false, va⟩)

/-- The same of a word that makes no access. -/
def trapsAt (i : Instr) (s : State) (code : Byte) (detail : W32) (size : Nat) : Prop := trapsFor i s code detail size 0

/-! ## Lane words -/

/-- A lane word stands in the open block `b` and passes the checks of R66: its fields are in range, the lane registers that it names are declared
(R15), no latch that it reads is dead (R21), and no register has to be filled first (R16). -/
def laneReady (i : Instr) (s : State) (b : Block) (h : LaneHdr) : Prop :=
  s.warp.block = some b ∧ i.wf = true ∧ ∃ sh own, i.laneShape = some (h, sh, own) ∧ (∀ r ∈ laneRegs h sh, r < s.warp.regs) ∧
    deadLatch h b = none ∧ fillNeed s.warp (activeLanes s.warp b h) (laneRegs h sh) = []

/-- What the lanes of a word of the open block `b` see (R76 to R80): registers, latches, scalar values and mask as they stand. -/
def laneView (s : State) (b : Block) (h : LaneHdr) : LaneCx :=
  ⟨s.warp, b, h, activeLanes s.warp b h, (s.descOf s.warp.ident.grid).seedLo, (s.descOf s.warp.ident.grid).seedHi⟩

/-- The flags that the lanes of a mask raise (R28). -/
def raisedBy (act : Mask) (op : Nat → W64 × Flags) (f : Flags) : Prop :=
  ∀ k : Nat, f.getLsbD k = true ↔ ∃ l < 64, act.getLsbD l = true ∧ (op l).2.getLsbD k = true

/-- The block after a word: its latch written in the active lanes, where the word writes one (R21, R79), and its lane PC. -/
def latchedBlock (b' b : Block) (pc : Nat) (act : Mask) (latch : Option (BitVec 2)) (op : Nat → W64) : Prop :=
  b'.lanePc = pc ∧ { b' with lanePc := b.lanePc, latch := b.latch, alive := b.alive } = b ∧
    ∀ n : BitVec 2, b'.alive.getLsbD n.toNat = (b.alive.getLsbD n.toNat || latch == some n) ∧
      ∀ l < 64, vget (b'.latch.get n.toFin) l 0 =
        if latch = some n ∧ act.getLsbD l = true then (op l).setWidth 32 else vget (b.latch.get n.toFin) l 0

/-- The lane registers after a word that writes `n` of them from `dest` upward (R79, R81, R168): the lanes of a mask hold `x`, by register and lane;
every other lane and register is as before. -/
def lanesHold (t s : Warp) (act : Mask) (h : LaneHdr) (n : Nat) (x : Nat → Nat → W32) : Prop :=
  ∀ r < 256, ∀ l < 64, t.vlane r l =
    if act.getLsbD l = true ∧ h.wbs = false ∧ h.dest.toNat ≤ r ∧ r < h.dest.toNat + n then x (r - h.dest.toNat) l else s.vlane r l

/-- A warp is another but for what a lane word may change: lane registers and masks, draw counts, accumulated flags, the count of lane issues, the
lanes that are done, whether a word is on its way, the order of resident registers, and the open block. -/
def onlyLanes (t s : Warp) : Prop :=
  { t with v := s.v, m := s.m, draws := s.draws, fpxFlags := s.fpxFlags, issued := s.issued, partDone := s.partDone, inFlight := s.inFlight,
           resident := s.resident, block := s.block } = s ∧
  t.partDone = 0 ∧ t.inFlight = false ∧ t.issued = s.issued + (if s.det then 1 else 0) ∧ ∀ r, r ∈ t.resident ↔ r ∈ s.resident

/-- Lane registers that a destination kind names. -/
def regsOf : DestSpec → Nat
  | .v32 => 1
  | .v64 => 2
  | .run n => n
  | _ => 0

/-- The registers after a lane word with a destination of kind `d` (R79, R81, R125, R135): the active lanes of the destination hold the results,
every other lane, register and mask is as before; the flags that active lanes raised are accumulated (R28), the draw counts of active lanes
are `n` higher (R48), a `DET` launch counts the issue (R107), and no lane is partly done. Only the latches and lane PC of the block, and the
order of resident registers, change besides. -/
def laneWrites (t s : State) (b : Block) (h : LaneHdr) (d : DestSpec) (n : Nat) (op : Nat → W64 × Flags) : Prop :=
  let act := activeLanes s.warp b h
  lanesHold t.warp s.warp act h (regsOf d) (fun j l => (op l).1.extractLsb' (32 * j) 32) ∧
  (∀ k : MReg, ∀ l < 64, (t.warp.mget k).getLsbD l =
    if act.getLsbD l = true ∧ d = .mask ∧ k = h.dest.setWidth 4 ∧ k ≠ 0 then decide ((op l).1 ≠ 0) else (s.warp.mget k).getLsbD l) ∧
  (∀ l < 64, vget t.warp.draws l 0 = vget s.warp.draws l 0 + if act.getLsbD l = true then BitVec.ofNat 64 n else 0) ∧
  (∃ f, raisedBy act op f ∧ t.warp.fpxFlags = s.warp.fpxFlags ||| f) ∧
  onlyLanes t.warp s.warp ∧ onlyWarp t s

/-- The latch that a word with a destination of kind `d` writes. -/
def latchOf (h : LaneHdr) (d : DestSpec) : Option (BitVec 2) := if d = .v32 then h.latch else none

/-- The word of the open block `b` is done: the next one follows, or the block ends (R63, R108). -/
def blockAfter (t : State) (b : Block) (act : Mask) (latch : Option (BitVec 2)) (x : Nat → W64) : Prop :=
  if b.lanePc + 1 < b.count then ∃ b', t.warp.block = some b' ∧ latchedBlock b' b (b.lanePc + 1) act latch x else t.warp.block = none

/-- A lane word delivers its results and is done. -/
def laneGives (i : Instr) (s : State) (b : Block) (h : LaneHdr) (d : DestSpec) (n : Nat) (op : Nat → W64 × Flags) : Prop :=
  completes i s fun t => laneWrites t s b h d n op ∧ blockAfter t b (activeLanes s.warp b h) (latchOf h d) fun l => (op l).1

/-- A lane word delivers its results and then traps with the lowest raised flag that is enabled (R50, R125): as its cause, with the lanes that raised
an enabled flag, and its destination (R26). -/
def laneTraps (i : Instr) (s : State) (b : Block) (h : LaneHdr) (d : DestSpec) (n : Nat) (op : Nat → W64 × Flags) : Prop :=
  let act := activeLanes s.warp b h
  ∀ (f : Flags) (k : Nat), raisedBy act op f → (f &&& s.warp.fpxEn).getLsbD k = true → (∀ j < k, (f &&& s.warp.fpxEn).getLsbD j = false) →
    ∃ u : State, laneWrites u s b h d n op ∧
      (∃ b', u.warp.block = some b' ∧ latchedBlock b' b b.lanePc act (latchOf h d) fun l => (op l).1) ∧
      ∃ mask : Mask, (∀ l < 64, mask.getLsbD l = (act.getLsbD l && decide ((op l).2 &&& s.warp.fpxEn ≠ 0))) ∧
        exec i s = .next (u.trap ⟨0x10 + BitVec.ofNat 8 k, 0, mask, destInfo h, b.addr, 4, true, 0⟩)

/-- A lane word that raises flags: it is done where none of them is enabled, and traps where one is. -/
def laneFloats (i : Instr) (s : State) (b : Block) (h : LaneHdr) (d : DestSpec) (n : Nat) (op : Nat → W64 × Flags) : Prop :=
  ((∀ l < 64, (activeLanes s.warp b h).getLsbD l = true → (op l).2 &&& s.warp.fpxEn = 0) → laneGives i s b h d n op) ∧
    laneTraps i s b h d n op

/-! ## Memory -/

/-- A warp's access of some bytes passes its checks (R120, R161) and is plain: aligned, translated and permitted, not to a remote module, outside
`DET` launches, speculative tasks and `SHADOW` pairs, with nothing to wait for (R340, R427), and a store meets no host access error (R420). -/
def plainAccess (s : State) (acc n va : Nat) (tr : Trans) : Prop :=
  va % n = 0 ∧ permCheck acc (s.xlate s.warp.ident.part va) = .ok tr ∧ tr.place ≠ .remote ∧ s.warp.buffered = false ∧ s.warp.isShadowed = false ∧
    (acc ≠ accRead → pteMoving tr.entry = false ∧ s.hostErr tr.place tr.pa n = false) ∧ (pteMode tr.entry = 1 → s.awaiting (·.so) = false)

/-- The same of a launch or task of any kind: the access passes its checks, with A and, for a write, D set in its leaf already. -/
def reaches (s : State) (acc n va : Nat) (tr : Trans) : Prop :=
  va % n = 0 ∧ permCheck acc (s.xlate s.warp.ident.part va) = .ok tr ∧ tr.place ≠ .remote ∧ (s.devByte (tr.leaf + 1)).getLsbD 0 = true ∧
    (acc ≠ accRead → (s.devByte tr.leaf).getLsbD 7 = true) ∧ (pteMode tr.entry = 1 → s.awaiting (·.so) = false)

/-- A byte of memory as the current warp's own buffered stores leave it: that of the last one that reaches it, and else of memory (R311). -/
def ownByte (s : State) (p : Place) (a : Nat) : Byte :=
  (s.warp.entries.reverse.findSome? fun e => match e with
    | .store q lo bs _ _ _ => if q = p ∧ lo ≤ a ∧ a < lo + bs.length then some (bs.getD (a - lo) 0) else none
    | _ => none).getD (if p = .device then s.devByte a else s.hostMem.byte a)

/-- A warp of a `DET` launch, or inside a task that is not doomed, whose carrel holds stores alone, with room for one word more, and nothing to
wait for; outside `SHADOW` launches. -/
def holdsBack (s : State) : Prop :=
  s.warp.buffered = true ∧ s.warp.isShadowed = false ∧ s.warp.remote = [] ∧ s.slips = [] ∧
    (∀ e ∈ s.warp.entries, ∃ q a bs t m va, e = .store q a bs t m va) ∧ s.warp.carrel.length + 64 ≤ 2048 ∧
    ∀ k, s.warp.task = some k → k.doomed = false ∧ k.carrel.length + k.readSet.length + 128 ≤ 2048

/-- The leading warp of a `SHADOW` pair executes a word, with nothing that the shadow has still to confirm and nothing to wait for. -/
def leads (s : State) : Prop :=
  s.warp.isShadowed = true ∧ s.shadowRun = false ∧ s.shadowAlone = false ∧ s.warp.buffered = false ∧ s.unconfirmed = [] ∧ s.warp.remote = [] ∧
    s.slips = []

/-- The shadow executes a word behind its leading warp (R198). -/
def follows (s : State) : Prop := s.warp.isShadowed = true ∧ s.shadowRun = true ∧ s.shadowAlone = true ∧ s.warp.buffered = false

/-- The bytes of a translated range are free of poison, and the cluster data cache of the current warp holds no copy of their line. -/
def atHome (s : State) (tr : Trans) (n : Nat) : Prop :=
  s.placePoisoned tr.place tr.pa n = false ∧ cdcFind s.cdc (s.clusterOf s.warp) tr.place (tr.pa / 128) = none

/-- The lanes that a memory word still has to perform: active, and not done before an interruption (R161). -/
def lanesLeft (s : State) (b : Block) (h : LaneHdr) : Mask := activeLanes s.warp b h &&& ~~~s.warp.partDone

/-- The same lanes in ascending order, and the mask of one lane. -/
def lanesInOrder (s : State) (b : Block) (h : LaneHdr) : List Nat := (List.range 64).filter fun l => (lanesLeft s b h).getLsbD l
def laneBit (l : Nat) : Mask := 1#64 <<< l

/-- A and, where asked, D are set in the leaf of a translation (R334). -/
def marked (s : State) (tr : Trans) (d : Bool) : Prop :=
  (s.devByte (tr.leaf + 1)).getLsbD 0 = true ∧ (d = true → (s.devByte tr.leaf).getLsbD 7 = true)

/-- What a word finds of the warp and its matrix engine before it reads or writes memory at once: outside `SHADOW` launches, with no remote answer
awaited and no slip in the reservation tables (R170, R236). -/
def quiet (s : State) : Prop := s.warp.isShadowed = false ∧ s.warp.remote = [] ∧ s.slips = []

/-- The registers after a lane load: the lanes left hold what they loaded, in `n` registers and the latch; nothing else of the warp has changed. -/
def lanesLoaded (t s : State) (b : Block) (h : LaneHdr) (n : Nat) (x : Nat → Nat) : Prop :=
  lanesHold t.warp s.warp (lanesLeft s b h) h n (fun j l => BitVec.ofNat 32 (x l / 2 ^ (32 * j))) ∧
  blockAfter t b (lanesLeft s b h) h.latch (fun l => BitVec.ofNat 64 (x l)) ∧
  t.warp.m = s.warp.m ∧ t.warp.draws = s.warp.draws ∧ t.warp.fpxFlags = s.warp.fpxFlags ∧ onlyLanes t.warp s.warp

/-- The warp after a lane store: no register has changed. -/
def lanesStored (t s : State) (b : Block) : Prop :=
  blockAfter t b 0 none (fun _ => 0) ∧ t.warp.v = s.warp.v ∧ t.warp.m = s.warp.m ∧ t.warp.draws = s.warp.draws ∧ t.warp.fpxFlags = s.warp.fpxFlags ∧
    onlyLanes t.warp s.warp

/-- No page move is in flight (R340). -/
def still (s : State) : Prop := ∀ m ∈ s.moves, m.flying = false

/-- The part of a byte of device memory that only its writer changes: in the byte of a word that may hold MOVING of a page-table entry, every other
bit (R332). -/
def keepMoving (a : Nat) : Byte := if a % 8 = 6 then 0xEF else 0xFF

/-- The bytes of one place have been written: those in the range hold what was written, every other byte reads as before. Where the range is in
device memory, a MOVING bit that a write to a page-table entry would set reads clear (R332). -/
def wrote (t s : State) (p : Place) (pa : Nat) (bs : List Byte) : Prop :=
  (∀ a, t.devByte a &&& (if p = .device ∧ pa / 8 ≤ a / 8 ∧ a / 8 ≤ (pa + bs.length - 1) / 8 then keepMoving a else 0xFF) =
    (if p = .device ∧ pa ≤ a ∧ a < pa + bs.length then bs.getD (a - pa) 0 else s.devByte a) &&&
      (if p = .device ∧ pa / 8 ≤ a / 8 ∧ a / 8 ≤ (pa + bs.length - 1) / 8 then keepMoving a else 0xFF)) ∧
  (∀ a, t.hostMem.byte a = if p = .host ∧ pa ≤ a ∧ a < pa + bs.length then bs.getD (a - pa) 0 else s.hostMem.byte a) ∧
  t.dev.poison = s.dev.poison ∧ t.hostMem.poison = s.hostMem.poison

/-- What a store may change besides memory and the current warp: the copies of its line in caches, access counters, and whether the open tasks of
other warps are doomed. -/
def storeFrame (t s : State) : Prop :=
  let undoomed (w : Warp) : Warp := { w with task := w.task.map fun k => { k with doomed := false } }
  { t with warp := s.warp, others := s.others, shadows := s.shadows, dev := s.dev, tags := s.tags, hostMem := s.hostMem, cdc := s.cdc,
           fills := s.fills, migCounts := s.migCounts, migDies := s.migDies } = s ∧
    t.others.map undoomed = s.others.map undoomed ∧ t.shadows.map undoomed = s.shadows.map undoomed

/-! ## Numbers -/

/-- The exact value of a finite number (R36, R46). -/
def ratOf : FVal → ℚ
  | .fin n m e => (if n then -1 else 1) * (m * (2 : ℚ) ^ e)
  | _ => 0

/-- The sign of a number. -/
def signOf : FVal → Bool
  | .nan _ n _ => n
  | .inf n => n
  | .fin n _ _ => n

/-- `a × u` is the neighbour of the magnitude `x` among the multiples of `u` that a mode picks for a value of that sign (R46, R47). -/
def picks (rm : RMode) (draw : Nat) (neg : Bool) (x u : ℚ) (a : Nat) : Prop :=
  let y : ℚ := a * u
  x - u < y ∧ y < x + u ∧
  (rm = .rne → 2 * |y - x| ≤ u ∧ (2 * |y - x| = u → a % 2 = 0)) ∧
  (rm = .rtz ∨ (rm = .rdn ∧ neg = false) ∨ (rm = .rup ∧ neg = true) → y ≤ x) ∧
  ((rm = .rdn ∧ neg = true) ∨ (rm = .rup ∧ neg = false) → x ≤ y) ∧
  (rm = .sto → (x < y ↔ (draw : ℤ) < ⌊Int.fract (x / u) * 2 ^ 32⌋))

/-- A result is the rounding of the nonzero exact value `x`. -/
def roundsTo (f : Fmt) (rm : RMode) (draw : Nat) (x : ℚ) (w : Nat × Flags) : Prop :=
  ∃ (n : Bool) (m : Nat) (e : Int), m ≠ 0 ∧ ratOf (.fin n m e) = x ∧ w = roundF f rm draw n m e

/-- A result is the rounding of the exact value `x`, a zero with the sign `neg` (R43, R46). -/
def delivers (f : Fmt) (rm : RMode) (draw : Nat) (neg : Bool) (x : ℚ) (w : Nat × Flags) : Prop :=
  (x = 0 → w = (signBit f neg, 0)) ∧ (x ≠ 0 → roundsTo f rm draw x w)

/-- One number is below another in value; neither is a NaN, and −0 equals +0 (R139). -/
def less : FVal → FVal → Prop
  | .inf a, .inf b => a = true ∧ b = false
  | .inf a, .fin _ _ _ => a = true
  | .fin _ _ _, .inf b => b = false
  | .fin a m e, .fin b n d => ratOf (.fin a m e) < ratOf (.fin b n d)
  | _, _ => False

/-- The same with −0 below +0 (R138). -/
def before (x y : FVal) : Prop :=
  less x y ∨ ∃ e d, x = .fin true 0 e ∧ y = .fin false 0 d

/-! ## What the statements share -/

/-- The value of one aligned location as the atomics of some lanes leave it, in lane order (R162, R172). -/
def atomsOn (left : Nat → Bool) (loc : Nat → Place × Nat) (op : AOp) (t : ATy) (y z : Nat → Nat) (p : Place × Nat) (start upTo : Nat) : Nat :=
  (List.range upTo).foldl (fun v l => if left l && loc l == p then atomNew op t v (y l) (z l) else v) start

/-- Where the matrix and link words may run (R245 checks 1 to 3): outside a fork, under the full mask, outside a task; stated outside `SHADOW`
launches. -/
def matrixMode (s : State) : Prop := s.warp.fork = none ∧ s.warp.am = s.warp.live ∧ s.warp.task = none ∧ s.warp.isShadowed = false ∧ s.shadowRun = false

/-- A slip with an operation has entered the reservation table of the warp's cluster behind every other (R234): the warp goes on, with `acc` as its
handles, and nothing else has changed. -/
def posts (i : Instr) (s : State) (op : SlipOp) (acc : Vector (Option Handle) 16) : Prop :=
  exec i s = .next { s with
    slips := s.slips ++ [⟨s.slipOrder, s.clusterOf s.warp, s.warp.id, s.warp.ident.grid, s.warp.ident.crew, s.warp.ident.team, s.warp.ident.rank, none,
      s.warp.ticket, op, if s.warp.gridId.getLsbD 59 then 1 else 0, false, 0, false, false, false⟩]
    slipOrder := s.slipOrder + 1
    warp := { s.warp with pc := s.warp.pc + 4, acc := acc } }

/-- A descriptor pair passes checks 7 to 9 of R245: its fields are well-formed (R241), its bytes aligned, and all of them in a buffer that the warp
may reach (R243). -/
def operandFits (s : State) (p : SReg) (rows : Nat) : Prop :=
  descRefused s.warp p = false ∧ (s.warp.opndAt p).misaligned = none ∧ s.opndKind (s.warp.opndAt p) 0 0 rows = none

/-- The operands of a product pass checks 7 to 9 of R245: accepted types that may stand together, equal K (R247), and operand A in a buffer, or in
declared lane registers (R242). -/
def productFits (s : State) (hd : Handle) (a b : SReg) (lr : Bool) : Prop :=
  let oa := s.warp.opndAt a
  let ob := s.warp.opndAt b
  let n := (ob.k * tyHalves ob.ty + 7) / 8
  operandFits s b hd.cols ∧ ob.ty ≤ 8 ∧
    (lr = false → operandFits s a hd.rows ∧ oa.ty ≤ 8 ∧ tyRow oa.ty = tyRow ob.ty ∧ oa.k = ob.k) ∧
    (lr = true → tyMx ob.ty = false ∧ hd.rows ≤ 64 ∧ n ≤ 32 ∧ a.toNat + n ≤ s.warp.regs)

/-- Where a word of the synchronisation group acts at once: outside forks, tasks, `DET` and `SHADOW` launches. -/
def syncMode (s : State) : Prop := s.warp.fork = none ∧ s.warp.task = none ∧ s.warp.det = false ∧ s.warp.isShadowed = false

/-- A word has delivered a value and is done; besides, cached lines may have gone (R287). -/
def syncs (i : Instr) (s : State) (d : SReg) (v : W64) : Prop :=
  completes i s fun t => t.warp.pc = s.warp.pc + 4 ∧ regsWith t.warp s.warp d v ∧
    { t.warp with pc := s.warp.pc, s := s.warp.s, banks := s.warp.banks, qdone := s.warp.qdone } = s.warp ∧ (∀ x ∈ t.cdc, x ∈ s.cdc) ∧ { t with warp := s.warp, cdc := s.cdc, fills := s.fills } = s

/-- The same word in a `SHADOW` launch, outside forks, tasks and `DET`: the value passes through the load value queue, and the items of the word are
logged (R198, R199). -/
def syncsVia (i : Instr) (s : State) (d : SReg) (v : Nat) (l : List Item) : Prop :=
  s.warp.fork = none → s.warp.task = none → s.warp.det = false → s.warp.isShadowed = true →
  completes i s fun t => t.warp.pc = s.warp.pc + 4 ∧
    regsWith t.warp s.warp d (BitVec.ofNat 64 (if s.shadowRun = true then (lvqTaken s v).1 else v)) ∧
    { t.warp with pc := s.warp.pc, s := s.warp.s, banks := s.warp.banks, qdone := s.warp.qdone } = s.warp ∧ (∀ x ∈ t.cdc, x ∈ s.cdc) ∧
    t.items = s.items ++ l ∧ t.lvq = (if s.shadowRun = true then (lvqTaken s v).2 else s.lvq ++ [.known v]) ∧
    { t with warp := s.warp, cdc := s.cdc, fills := s.fills, items := s.items, lvq := s.lvq } = s

/-- An engine word is accepted (R342, R345, R349): it is the next operation of its context, and its number goes to `s[sd]`; a yielded word waits with its
continuation. `u` is the state in which it is accepted, in which no operation listed has that number yet. What a copy or gather reads in another module
it asks for at once (R307, log 125). -/
def accepts (i : Instr) (s u : State) (ctx : Nat) (kind : EngKind) (d : SReg) (yld : Bool) : Prop :=
  let p := s.warp.ident.part
  let n := (u.ctxOf p ctx).s + 1
  u.releaseReady .sys = true → (u.ops.filter fun o => o.part == p && o.ctx == ctx).length < 64 →
    (∀ x ∈ u.ops, ¬(x.part = p ∧ x.ctx = ctx ∧ x.n = n)) →
    completes i s fun t =>
      (∃ o, t.ops = u.ops ++ [o] ∧ o.part = p ∧ o.ctx = ctx ∧ o.n = n ∧ o.kind = kind ∧ o.started = false ∧ o.ticket = u.warp.ticket) ∧
      (t.ctxOf p ctx).s = n ∧ (t.ctxOf p ctx).t = (u.ctxOf p ctx).t ∧
      { t with warp := u.warp, ops := u.ops, parts := u.parts, fabric := u.fabric } = u ∧
      ((∀ a tr, u.xlate p a = .ok tr → tr.place = .remote → ∀ c g, kind ≠ .cpy c ∧ kind ≠ .gath g) → t.fabric = u.fabric) ∧
      (yld = false → t.warp.pc = u.warp.pc + 4 ∧ regsWith t.warp u.warp d (BitVec.ofNat 64 n) ∧ onlyRegs t.warp u.warp) ∧
      (yld = true → t.warp = { u.warp with wait := .engine ctx n (u.warp.pc + u.sget d) d })

/-- An operation has ended (R304, R342): it is no longer listed, and T of its context has reached its number where it was the next. -/
def ended (t s : State) (p ctx n : Nat) : Prop :=
  (∀ x ∈ t.ops, ¬(x.part = p ∧ x.ctx = ctx ∧ x.n = n)) ∧ (n = (s.ctxOf p ctx).t + 1 → n ≤ (t.ctxOf p ctx).t)

/-- A byte of this module's memories, of a typed buffer of an operation's launch, or of a weight bank. -/
def spotByte (s : State) (o : EngOp) : EngSpot → Byte
  | .mem .device pa => s.devByte pa
  | .mem .host pa => s.hostMem.byte pa
  | .mem .remote _ => 0
  | .buf c k off => (s.bufMem o.grid ⟨c, k, 0⟩).byte off
  | .bank off => s.bankMem.byte off

/-- The pieces that an operation writes can all be written: none to a remote module, to a buffer that no crew has, or to a host line that answers
with an error. -/
def writable (s : State) (hs : List Haul) : Prop :=
  ∀ h ∈ hs, (∀ pa, h.dst ≠ .mem .remote pa) ∧ (∀ c k off, h.dst = .buf c k off → k < 3) ∧ ∀ pa, h.dst = .mem .host pa → s.hostErr .host pa h.len = false

/-- The bytes that pieces carry, in device and host memory, typed buffers and weight banks (R352, R354): a byte that one piece alone reaches holds what
that piece read, one that none reaches is as before. A MOVING bit that a write to a page-table entry would set reads clear (R332). -/
def carried (t u : State) (o : EngOp) (hs : List Haul) : Prop :=
  ∀ x : EngSpot, (∀ c k off, x = .buf c k off → k < 3) →
    let reach (h : Haul) : Prop := ∃ i < h.len, h.dst.plus i = x
    let holds (b : Byte) : Prop := spotByte t o x &&& 0xEF = b &&& 0xEF ∧
      ((∀ pa, x = .mem .device pa → pa % 8 = 6 → ∀ h ∈ hs, ∀ i < h.len, (h.dst.plus i).granule 0 ≠ x.granule 0) → spotByte t o x = b)
    ((∀ h ∈ hs, ¬reach h) → holds (spotByte u o x)) ∧
    ∀ h ∈ hs, ∀ i < h.len, h.dst.plus i = x → (∀ g ∈ hs, g ≠ h → ¬reach g) → hs.count h = 1 →
      holds ((u.haulBytes o h).getD i (0, false)).1

/-- A privileged word acts (R366 to R368): outside forks, tasks, `DET` and `SHADOW` launches, in a privileged launch of a partition of at least this
level. -/
def mayConfigure (s : State) (level : Nat) : Prop :=
  s.warp.fork = none ∧ s.warp.task = none ∧ s.warp.det = false ∧ s.warp.isShadowed = false ∧ s.warp.priv = true ∧
    level ≤ (s.part s.warp.ident.part).cfg.level

/-- A word is complete with a status (R369) and leaves `u` besides. -/
def answers (i : Instr) (s u : State) (d : SReg) (n : Nat) : Prop :=
  completes i s fun t => t.warp.pc = u.warp.pc + 4 ∧ regsWith t.warp u.warp d (BitVec.ofNat 64 n) ∧ onlyRegs t.warp u.warp ∧ { t with warp := u.warp } = u

/-- A message has joined the queue of a mailbox, and nothing else has changed but the arrival counter. -/
def queued (t s : State) (p m : Nat) (msg : List Byte) : Prop :=
  (t.mbx p m).queue = (s.mbx p m).queue ++ [(s.arrivals + 1, msg)] ∧ (∀ k, k ≠ m → t.mbx p k = s.mbx p k) ∧
    { t.mbx p m with queue := (s.mbx p m).queue } = s.mbx p m ∧ { t with parts := s.parts, arrivals := s.arrivals } = s

/-- A mailbox takes a message: it is bound to a handler without `TIMED`, or to the service, and has room. -/
def takesMessage (s : State) (p m : Nat) : Prop :=
  (s.part p).state ≠ .free ∧ m < (s.part p).cfg.mbx ∧ m ≠ (s.part p).cfg.replyMbx ∧ (s.mbx p m).queue.length < 16 ∧
    ((s.mbx p m).binding = .service ∨ ∃ h, (s.mbx p m).binding = .handler h ∧ h.timed = false)

/-- The row whose words an instruction has: the operations of `part.bind`, `mbx.bind` and `keyld` share one word each. -/
def sharedRow : Instr → Instr
  | .partBindSuspend d a b => .partBindRun d a b
  | .partBindFree d a b => .partBindRun d a b
  | .mbxUnbind d a b => .mbxBind d a b
  | .keyldReport d a b => .keyldMeasure d a b
  | .keyldUnbind d a b => .keyldMeasure d a b
  | i => i

/-- What holds at reset of the module's security store and host link, and what no step takes back: the firmware floor is at or above some value, so is the
identity key's signature index, and the host link is trained to a width that CXL has. -/
def guarded (floor : W32) (sigs : Nat) (s : State) : Prop :=
  floor ≤ s.security.floor ∧ sigs ≤ s.security.sigIndex ∧ (s.hostWidth = 16 ∨ s.hostWidth = 8 ∨ s.hostWidth = 4)

/-- No crew of a partition is awaited to leave (R370, R385), and no warp but the current one has its number. -/
def settled (s : State) (p : Nat) : Prop := (s.part p).suspending = false ∧ (s.part p).newCluster = none ∧ ∀ z ∈ s.others, z.id ≠ s.warp.id

/-- A die has been lost: it is DROPPED, no crew stands on it, and no valid cluster entry names it (R279, R280). -/
def dropped (t : State) (d : Nat) : Prop :=
  (t.die d).state = .dropped ∧ (∀ c ∈ t.crews, ∀ k, c.core = some k → k.die ≠ d) ∧
    ∀ (p i : Nat) (e : W64), e = Tab.get (t.part p).clusters i 0 → e.getLsbD 8 = true → field e 5 3 ≠ d

/-- A context stop with a reason is under way in every partition that held one before, or was not FREE. -/
def stopsAll (t s : State) (reason : Nat) : Prop :=
  ∀ p < 32, (s.part p).state ≠ .free → (s.part p).stop = none → ∃ y, (t.part p).stop = some y ∧ y.reason = reason ∧ y.count = 1

end Sys2Proof
end

