-- ==== Sys2Proof/Certificates/Slice0/Obligations.lean ====
section
/-! DEFINITION. The statements for the provers: what each instruction and the module do, from the numbered rules of the spec. -/

open Sys2Proof Sys2Proof.Machine

/-! ## Scalar words -/

/-- R99, R101, R102: the scalar arithmetic and logical words, `ssel` and `sli` write one register, in every form, and nothing else. -/
def Obligations.ScalarArithmetic : Prop :=
  ∀ (s : State) (d a b : SReg) (p : PReg) (i : BitVec 14) (n : BitVec 6) (e : Ext) (w : W32),
    let x := s.sget a
    let y := s.sget b
    let z : W64 := e.apply w
    let by6 (y : W64) : Nat := (y.extractLsb' 0 6).toNat
    writesReg (.sadd d a b) s d (x + y) 4 ∧ writesReg (.saddImm d a i) s d (x + i.signExtend 64) 4 ∧ writesReg (.saddX d a e w) s d (x + z) 8 ∧
    writesReg (.ssub d a b) s d (x - y) 4 ∧ writesReg (.smul d a b) s d (x * y) 4 ∧
    writesReg (.smulh d a b) s d (BitVec.ofInt 64 (x.toInt * y.toInt / 2 ^ 64)) 4 ∧
    writesReg (.sand d a b) s d (x &&& y) 4 ∧ writesReg (.sandImm d a i) s d (x &&& i.setWidth 64) 4 ∧ writesReg (.sandX d a e w) s d (x &&& z) 8 ∧
    writesReg (.sor d a b) s d (x ||| y) 4 ∧ writesReg (.sorImm d a i) s d (x ||| i.setWidth 64) 4 ∧ writesReg (.sorX d a e w) s d (x ||| z) 8 ∧
    writesReg (.sxor d a b) s d (x ^^^ y) 4 ∧ writesReg (.sxorImm d a i) s d (x ^^^ i.setWidth 64) 4 ∧ writesReg (.sxorX d a e w) s d (x ^^^ z) 8 ∧
    writesReg (.sandn d a b) s d (x &&& ~~~y) 4 ∧
    writesReg (.sshl d a b) s d (x <<< by6 y) 4 ∧ writesReg (.sshlImm d a n) s d (x <<< n.toNat) 4 ∧
    writesReg (.sshr d a b) s d (x >>> by6 y) 4 ∧ writesReg (.sshrImm d a n) s d (x >>> n.toNat) 4 ∧
    writesReg (.ssar d a b) s d (x.sshiftRight (by6 y)) 4 ∧ writesReg (.ssarImm d a n) s d (x.sshiftRight n.toNat) 4 ∧
    writesReg (.smin d a b) s d (BitVec.ofInt 64 (min x.toInt y.toInt)) 4 ∧ writesReg (.smax d a b) s d (BitVec.ofInt 64 (max x.toInt y.toInt)) 4 ∧
    writesReg (.sminn d a b) s d (BitVec.ofNat 64 (min x.toNat y.toNat)) 4 ∧ writesReg (.smaxn d a b) s d (BitVec.ofNat 64 (max x.toNat y.toNat)) 4 ∧
    writesReg (.smov d a) s d x 4 ∧ writesReg (.ssel d p a b) s d (if s.warp.cget p then x else y) 4 ∧
    writesReg (.sli d i) s d (i.signExtend 64) 4 ∧ writesReg (.sliX d e w) s d z 8

/-- R100: a compare writes one predicate and nothing else; with `c7` it writes nothing. -/
def Obligations.ScalarCompare : Prop :=
  ∀ (s : State) (cc : Cond) (c : PReg) (a b : SReg) (i : BitVec 14) (e : Ext) (w : W32),
    let holds (x y : W64) : Bool := match cc with
      | .eq => decide (x = y)
      | .ne => decide (x ≠ y)
      | .lt => decide (x.toInt < y.toInt)
      | .ge => decide (y.toInt ≤ x.toInt)
      | .le => decide (x.toInt ≤ y.toInt)
      | .gt => decide (y.toInt < x.toInt)
      | .ltn => decide (x.toNat < y.toNat)
      | .gen => decide (y.toNat ≤ x.toNat)
    writesPred (.scmp cc c a b) s c (holds (s.sget a) (s.sget b)) 4 ∧
    writesPred (.scmpImm cc c a i) s c (holds (s.sget a) (i.signExtend 64)) 4 ∧
    writesPred (.scmpX cc c a e w) s c (holds (s.sget a) (e.apply w)) 8

/-- R103 to R106, R116: branches, calls, counted loops, indirect jumps to a multiple of 4, and `yield`. R63, R78, R107: `lx` opens a block of K words
from word D under the active mask, with the scalar registers as they stand; with an empty mask it issues no word. -/
def Obligations.Branches : Prop :=
  (
    ∀ (s : State) (p : PReg) (neg : Bool) (disp : BitVec 22) (i : BitVec 14) (d a : SReg),
      let taken := s.warp.cget p != neg
      let next := s.warp.pc + 4
      let target := s.warp.pc + 4 * disp.signExtend 64
      let n := s.sget d
      goesTo (.bc p neg disp) s (if taken then target else next) ∧
      (if taken then writesRegAt (.call p neg disp) s 63 next target else goesTo (.call p neg disp) s next) ∧
      (if n = 0 then goesTo (.loop d i) s next
        else writesRegAt (.loop d i) s d (n - 1) (if n = 1 then next else s.warp.pc + 4 * i.signExtend 64)) ∧
      ((s.sget 63).toNat % 4 = 0 → goesTo .ret s (s.sget 63)) ∧ ((s.sget a).toNat % 4 = 0 → goesTo (.jr a) s (s.sget a)) ∧
      goesTo .yield s next) ∧
  (
    ∀ (s : State) (k : BitVec 6) (d : BitVec 20),
      (s.warp.am = 0 → goesTo (.lx k d) s (s.warp.pc + 4)) ∧
      (s.warp.am ≠ 0 → completes (.lx k d) s fun t =>
        (∃ b, t.warp.block = some b ∧ b.addr = s.warp.pc ∧ b.lcb = s.warp.lcb ∧ b.first = d.toNat ∧ b.count = k.toNat + 1 ∧ b.lanePc = 0 ∧
          b.am = s.warp.am ∧ b.alive = 0 ∧ ∀ r : SReg, b.srcs.get r.toFin = s.sget r) ∧
        t.warp.pc = s.warp.pc + 4 ∧ { t.warp with pc := s.warp.pc, block := s.warp.block } = s.warp ∧ onlyWarp t s))

/-- R105, R120: an indirect jump to an address that is no multiple of 4, and a scalar access to one that is no multiple of its size, trap `ALIGN` at
the word, an access with its address. R186: at level 0 `rett` and `rett.skip` trap `ILLEGAL` with their encodings; at another depth than the record's
they trap `STACK_OVF`, DETAIL 3. R245: the order of the first checks of the matrix and link words: `SPLIT_ACTIVE` in a fork, `MASK_PARTIAL` under a
partial mask, `MODE` 25 in a task, then, for words that use a handle, `MODE` 16 where it is not bound. R366: a privileged word of a launch that does
not hold the level that it needs traps `PROT`, DETAIL 0, at the word; `clr` does so under the full mask.
Where the spec is open it rests on the model's reading, log 107. -/
def Obligations.ScalarTraps : Prop :=
  (
    ∀ (s : State) (d a : SReg) (i : BitVec 14) (w : W32),
      let va := (s.sget a + i.signExtend 64).toNat
      let vx := (s.sget a + w.signExtend 64).toNat
      let traps (x : Instr) (size : Nat) := trapsFor x s 0x03 0 size (if size = 4 then va else vx)
      ((s.sget 63).toNat % 4 ≠ 0 → trapsAt .ret s 0x03 0 4) ∧ ((s.sget a).toNat % 4 ≠ 0 → trapsAt (.jr a) s 0x03 0 4) ∧
      (va % 2 ≠ 0 → traps (.sldN16 d a i) 4 ∧ traps (.sldI16 d a i) 4 ∧ traps (.sstN16 d a i) 4) ∧
      (va % 4 ≠ 0 → traps (.sldN32 d a i) 4 ∧ traps (.sldI32 d a i) 4 ∧ traps (.sstN32 d a i) 4) ∧
      (va % 8 ≠ 0 → traps (.sldN64 d a i) 4 ∧ traps (.sldc d a i) 4 ∧ traps (.sstN64 d a i) 4) ∧
      (vx % 2 ≠ 0 → traps (.sldN16X d a w) 8 ∧ traps (.sldI16X d a w) 8 ∧ traps (.sstN16X d a w) 8) ∧
      (vx % 4 ≠ 0 → traps (.sldN32X d a w) 8 ∧ traps (.sldI32X d a w) 8 ∧ traps (.sstN32X d a w) 8) ∧
      (vx % 8 ≠ 0 → traps (.sldN64X d a w) 8 ∧ traps (.sldcX d a w) 8 ∧ traps (.sstN64X d a w) 8)) ∧
  (
    ∀ s : State,
      let illegal (i : Instr) (enc : BitVec 128) := exec i s = .next (s.trap ⟨0x01, 0, 0, enc, s.warp.pc, 4, false, 0⟩)
      (s.warp.level = 0 → illegal .rett 0x4C000005 ∧ illegal .rettSkip 0x4C100005) ∧
      (s.warp.level ≠ 0 → s.warp.stack.length ≠ (vget s.warp.save (s.warp.level.val - 1) .zero).depth →
        trapsAt .rett s 0x0B 3 4 ∧ trapsAt .rettSkip s 0x0B 3 4)) ∧
  (
    ∀ (s : State) (h : AReg) (d a b : SReg) (z sat lr fold : Bool) (rm : RMode) (dir : Dir),
      let uses : List Instr := [.mma h a b lr z, .mmg h a b z, .mmw h a b z, .accSt h b, .accCvt h b sat rm]
      ∀ i ∈ uses ++ [.accZero h a, .accLd h a b, .mmt h a b lr fold z, .mmtSolo h a b lr z, .tskip, .nnPush d a b dir, .nnPull d a b dir],
        (s.warp.fork ≠ none → trapsAt i s 0x0A 0 4) ∧
        (s.warp.fork = none → s.warp.am ≠ s.warp.live → trapsAt i s 0x09 0 4) ∧
        (s.warp.fork = none → s.warp.am = s.warp.live → s.warp.task ≠ none → trapsAt i s 0x0C 25 4) ∧
        (s.warp.fork = none → s.warp.am = s.warp.live → s.warp.task = none → i ∈ uses → vget s.warp.acc h.toNat none = none → trapsAt i s 0x0C 16 4)) ∧
  (
    ∀ (s : State) (d a b : SReg), s.warp.fork = none → s.warp.task = none →
      let lacks (level : Nat) : Prop := s.warp.priv = false ∨ (s.part s.warp.ident.part).cfg.level < level
      (lacks 2 →
        (∀ i ∈ [Instr.partNew d a b, .partSet d a b, .partBindRun d a b, .partBindSuspend d a b, .partBindFree d a b, .vfBind d a b, .catSet d a b,
          .halt d a, .rest d a b, .keyldMeasure d a b, .keyldReport d a b, .keyldUnbind d a b], trapsAt i s 0x02 0 4) ∧
        (s.warp.am = s.warp.live → trapsAt (.clr d a b) s 0x02 0 4) ∧
        (field (s.sget a) 12 5 ≠ s.warp.ident.part → trapsAt (.mbxBind d a b) s 0x02 0 4 ∧ trapsAt (.mbxUnbind d a b) s 0x02 0 4) ∧
        (field (s.sget a) 0 5 ≠ s.warp.ident.part → trapsAt (.ckpt d a b) s 0x02 0 4 ∧ trapsAt (.stop d a) s 0x02 0 4)) ∧
      (lacks 1 → ∀ i ∈ [Instr.mbxBind d a b, .mbxUnbind d a b, .ckpt d a b, .stop d a], trapsAt i s 0x02 0 4))

/-! ## Scalar memory -/

/-- R119, R120: a scalar load whose address may be read and whose bytes stand at their home without poison writes `s[sd]` with them, least significant
byte first, extended; it sets A in the leaf of its page (R334), may count the access and request the line, and changes nothing else.
Where the spec is open it rests on the model's readings, logs 9 and 12. -/
def Obligations.ScalarLoads : Prop :=
  ∀ (s : State) (d a : SReg) (i : BitVec 14) (w : W32),
    let loads (x : Instr) (off : W64) (n : Nat) (signed : Bool) (size : Nat) : Prop :=
      ∀ tr : Trans, plainAccess s accRead n (s.sget a + off).toNat tr → atHome s tr n →
        completes x s fun t =>
          let u := s.markLeaf tr.leaf false
          let bits := bytesToNat (u.placeRead tr.place tr.pa n)
          let v : W64 := if signed then BitVec.ofInt 64 (if bits < 2 ^ (8 * n - 1) then bits else (bits : Int) - 2 ^ (8 * n)) else BitVec.ofNat 64 bits
          t.warp.pc = s.warp.pc + BitVec.ofNat 64 size ∧ regsWith t.warp s.warp d v ∧ onlyRegs t.warp s.warp ∧
            { t with warp := u.warp, migCounts := u.migCounts, migDies := u.migDies, fills := u.fills } = u
    loads (.sldN8 d a i) (i.signExtend 64) 1 false 4 ∧ loads (.sldN16 d a i) (i.signExtend 64) 2 false 4 ∧
    loads (.sldN32 d a i) (i.signExtend 64) 4 false 4 ∧ loads (.sldN64 d a i) (i.signExtend 64) 8 false 4 ∧
    loads (.sldI8 d a i) (i.signExtend 64) 1 true 4 ∧ loads (.sldI16 d a i) (i.signExtend 64) 2 true 4 ∧
    loads (.sldI32 d a i) (i.signExtend 64) 4 true 4 ∧ loads (.sldc d a i) (i.signExtend 64) 8 false 4 ∧
    loads (.sldN8X d a w) (w.signExtend 64) 1 false 8 ∧ loads (.sldN16X d a w) (w.signExtend 64) 2 false 8 ∧
    loads (.sldN32X d a w) (w.signExtend 64) 4 false 8 ∧ loads (.sldN64X d a w) (w.signExtend 64) 8 false 8 ∧
    loads (.sldI8X d a w) (w.signExtend 64) 1 true 8 ∧ loads (.sldI16X d a w) (w.signExtend 64) 2 true 8 ∧
    loads (.sldI32X d a w) (w.signExtend 64) 4 true 8 ∧ loads (.sldcX d a w) (w.signExtend 64) 8 false 8

/-- R119, R120: a scalar store to a page that may be written stores the low bytes of `s[sd]`, and every other byte of memory reads as before but for A
and D of the page's leaf (R334). Nothing else changes but what a store does to caches, access counters and speculative tasks (R264, R319, R339). R311,
R318: a scalar store of a `DET` launch, or inside a task that is not doomed, to memory of the module that it may write, goes to the carrel, with its
ticket; memory and registers are unchanged but for A and D of the leaf.
Where the spec is open it rests on the model's readings, logs 9 and 33. -/
def Obligations.ScalarStores : Prop :=
  (
    ∀ (s : State) (d a : SReg) (i : BitVec 14) (w : W32),
      let stores (x : Instr) (off : W64) (n size : Nat) : Prop :=
        ∀ tr : Trans, plainAccess s accWrite n (s.sget a + off).toNat tr → still s →
          completes x s fun t =>
            t.warp = { s.warp with pc := s.warp.pc + BitVec.ofNat 64 size } ∧
            wrote t (s.markLeaf tr.leaf true) tr.place tr.pa (natToBytes n (s.sget d).toNat) ∧ storeFrame t s
      stores (.sstN8 d a i) (i.signExtend 64) 1 4 ∧ stores (.sstN16 d a i) (i.signExtend 64) 2 4 ∧
      stores (.sstN32 d a i) (i.signExtend 64) 4 4 ∧ stores (.sstN64 d a i) (i.signExtend 64) 8 4 ∧
      stores (.sstN8X d a w) (w.signExtend 64) 1 8 ∧ stores (.sstN16X d a w) (w.signExtend 64) 2 8 ∧
      stores (.sstN32X d a w) (w.signExtend 64) 4 8 ∧ stores (.sstN64X d a w) (w.signExtend 64) 8 8) ∧
  (
    ∀ (s : State) (d a : SReg) (i : BitVec 14) (w : W32) (tr : Trans),
      let stores (x : Instr) (off : W64) (n size : Nat) : Prop :=
        let va := (s.sget a + off).toNat
        va % n = 0 → permCheck accWrite (s.xlate s.warp.ident.part va) = .ok tr → tr.place = .device → s.warp.isShadowed = false →
          s.warp.buffered = true → (∀ k, s.warp.task = some k → k.doomed = false) → s.warp.carrel.length < 2048 →
          (pteMode tr.entry = 1 → s.awaiting (·.so) = false) →
          completes x s fun t =>
            t.warp.entries = s.warp.entries ++ [.store .device tr.pa (natToBytes n (s.sget d).toNat) s.warp.ticket 0 va] ∧
            t.warp = { s.warp with pc := s.warp.pc + BitVec.ofNat 64 size, carrel := t.warp.carrel, task := t.warp.task } ∧
            (s.warp.task = none → t.warp.task = none) ∧
            (∀ k, s.warp.task = some k → t.warp.carrel = s.warp.carrel ∧
              ∃ k', t.warp.task = some k' ∧ { k' with carrel := k.carrel, doomed := k.doomed } = k) ∧
            (∀ x, t.devByte x = (s.markLeaf tr.leaf true).devByte x) ∧
            { t with warp := s.warp, dev := s.dev, tags := s.tags, migCounts := s.migCounts, migDies := s.migDies } = s
      stores (.sstN8 d a i) (i.signExtend 64) 1 4 ∧ stores (.sstN16 d a i) (i.signExtend 64) 2 4 ∧
      stores (.sstN32 d a i) (i.signExtend 64) 4 4 ∧ stores (.sstN64 d a i) (i.signExtend 64) 8 4 ∧
      stores (.sstN8X d a w) (w.signExtend 64) 1 8 ∧ stores (.sstN16X d a w) (w.signExtend 64) 2 8 ∧
      stores (.sstN32X d a w) (w.signExtend 64) 4 8 ∧ stores (.sstN64X d a w) (w.signExtend 64) 8 8)

/-- R334: an access that finds a valid, well-formed leaf sets A in it, also where the leaf gives no translation; a store that is performed sets D
besides; an access that finds no such leaf changes nothing, and no other byte of device memory changes.
Where the spec is open it rests on the model's readings, log 11. -/
def Obligations.AccessMarksLeaf : Prop :=
  ∀ (s : State) (p va acc : Nat),
    let t := (s.access p va acc).2
    let marks (leaf : Nat) (d : Bool) : Prop := t.devByte (leaf + 1) = s.devByte (leaf + 1) ||| 0x01 ∧
      t.devByte leaf = s.devByte leaf ||| (if d then 0x80 else 0) ∧
      (∀ a, a ≠ leaf → a ≠ leaf + 1 → t.devByte a = s.devByte a) ∧ { t with dev := s.dev, tags := s.tags } = s ∧ t.dev.poison = s.dev.poison
    (s.access p va acc).1 = permCheck acc (s.xlate p va) ∧
      (∀ tr, s.xlate p va = .ok tr →
        marks tr.leaf (decide (permCheck acc (s.xlate p va) = .ok tr) && (acc == accWrite || acc == accAtomic))) ∧
      (∀ k leaf, s.xlate p va = .miss k (some leaf) → marks leaf false) ∧
      (∀ k, s.xlate p va = .miss k none ∨ s.xlate p va = .noncanon → t = s)

/-! ## Control and traps -/

/-- R111: `split` with no lane in either arm goes to the word after the join; with lanes in both, outside a fork, it opens the fork record; with the
stack full it traps `STACK_OVF`; otherwise it pushes a stack entry and runs the arm that has lanes first. R112, R113: `join` above the fork's depth
runs the pending else lanes or pops the entry; at the fork's own depth it waits for the other arm and then merges: the saved mask, the fall-through
arm's registers and stack, and the word after the join. A join at another address traps `STACK_OVF` with DETAIL 2, one with nothing to close with
DETAIL 1. -/
def Obligations.SplitAndJoin : Prop :=
  (
    ∀ (s : State) (m : MReg) (els jn : BitVec 16),
      let a := s.warp.am &&& s.warp.mget m
      let b := s.warp.am &&& ~~~(s.warp.mget m)
      let e := s.warp.pc + 4 * els.signExtend 64
      let j := s.warp.pc + 4 * jn.signExtend 64
      (a = 0 → b = 0 → goesTo (.split m els jn) s (j + 4)) ∧
      (a ≠ 0 → b ≠ 0 → s.warp.fork = none →
        completes (.split m els jn) s fun t => t.warp.pc = s.warp.pc + 8 ∧ t.warp.am = a ∧
          (∃ f, t.warp.fork = some f ∧ f.saved = s.warp.am ∧ f.jn = j ∧ f.b0 = s.warp.stack.length ∧ f.cur = 0 ∧ f.held = false ∧ f.first = none ∧
            f.other.pc = e ∧ f.other.am = b ∧ f.other.s = s.warp.s ∧ f.other.bank = s.warp.banks.get s.warp.level ∧ f.other.c = s.warp.c ∧
            f.other.stack = s.warp.stack ∧ f.other.wait = .none ∧ f.other.pending = none) ∧
          { t.warp with pc := s.warp.pc, am := s.warp.am, fork := none } = s.warp ∧ onlyWarp t s) ∧
      ((a ≠ 0 ∨ b ≠ 0) → (s.warp.fork ≠ none ∨ a = 0 ∨ b = 0) → s.warp.stack.length = 32 → trapsAt (.split m els jn) s 0x0B 0 8) ∧
      ((a ≠ 0 ∨ b ≠ 0) → (s.warp.fork ≠ none ∨ a = 0 ∨ b = 0) → s.warp.stack.length ≠ 32 →
        exec (.split m els jn) s = .next { s with warp := { s.warp with
          pc := if a = 0 then e else s.warp.pc + 8
          am := (if a = 0 then b else a) &&& s.warp.live
          stack := ⟨s.warp.am, if a = 0 then 0 else b, e, j⟩ :: s.warp.stack } })) ∧
  (
    ∀ s : State,
      let w := s.warp
      (∀ e rest, w.stack = e :: rest → (∀ f, w.fork = some f → f.b0 < w.stack.length) →
        (e.jn ≠ w.pc → trapsAt .join s 0x0B 2 4) ∧
        (e.jn = w.pc → e.pending ≠ 0 → exec .join s =
          .next { s with warp := { w with pc := e.els, am := e.pending &&& w.live, stack := { e with pending := 0 } :: rest } }) ∧
        (e.jn = w.pc → e.pending = 0 → exec .join s =
          .next { s with warp := { w with pc := w.pc + 4, am := e.saved &&& w.live, stack := rest } })) ∧
      (w.stack = [] → w.fork = none → trapsAt .join s 0x0B 1 4) ∧
      (∀ f, w.fork = some f → w.stack.length ≤ f.b0 →
        (f.jn ≠ w.pc → trapsAt .join s 0x0B 2 4) ∧
        (f.jn = w.pc → f.other.wait ≠ .joined → exec .join s = .next { s with warp := { w with wait := .joined } }) ∧
        (f.jn = w.pc → f.other.wait = .joined →
          completes .join s fun t => t.warp.fork = none ∧ t.warp.wait = .none ∧ t.warp.pc = f.jn + 4 ∧ t.warp.am = f.saved &&& w.live ∧
            t.warp.s = (if f.cur = 0 then w.s else f.other.s) ∧
            (∀ k : Fin 3, t.warp.banks.get k = if k = f.level ∧ f.cur ≠ 0 then f.other.bank else w.banks.get k) ∧ t.warp.c = (if f.cur = 0 then w.c else f.other.c) ∧
            t.warp.stack = (if f.cur = 0 then w.stack else f.other.stack) ∧ t.warp.v = w.v ∧ t.warp.m = w.m ∧
            t.warp.fpxFlags = w.fpxFlags ∧ onlyWarp t s)))

/-- R24 to R27, R123: `srd` of each special register, in every launch, and `ILLEGAL` with the word's encoding for every other number. R24, R29, R32,
R124: `swr` writes a writable register and nothing else; the number of any other register traps `ILLEGAL`; while forked every write but that of `AM`
traps `SPLIT_ACTIVE`. R275, R276: `loc` delivers the place that its query asks for in its fields, and 0 for a malformed query and an address without
a translation; a query of an address sets A in the leaf that its walk finds (R334). A word that has to wait for lane words (R31) waits before it is
executed, as `StepRunsDecoded` says. In a `SHADOW` launch `swr` logs its value for comparison, and the shadow receives the leading warp's `loc`,
`LANEID`, `ORIGIN` and `PAIR_STAT` (R33).
Where the spec is open it rests on the model's readings, logs 21, 23 and 28. -/
def Obligations.SpecialRegisters : Prop :=
  (
    ∀ (s : State) (d : SReg),
      let w := s.warp
      let bank := vget w.trap (w.level.val - 1) .zero
      let reads (n : BitVec 9) (v : W64) := writesReg (.srd d n) s d v 4
      let readsVia (n : BitVec 9) (v : W64) := writesVia (.srd d n) s s d v 4
      reads 0x000 0x640 ∧
      (∀ l < 64, w.am.getLsbD l → (∀ k < l, w.am.getLsbD k = false) →
        readsVia 0x001 (BitVec.ofNat 64 l) ∧ readsVia 0x002 ((vget w.origin l 0).setWidth 64)) ∧
      (w.am = 0 → readsVia 0x001 0 ∧ readsVia 0x002 0) ∧
      reads 0x003 (BitVec.ofNat 64 (w.ident.global * 2 ^ 32 + w.ident.rank)) ∧
      reads 0x004 (BitVec.ofNat 64 (w.ident.crew * 2 ^ 32 + w.ident.core * 2 ^ 8 + w.ident.warps)) ∧
      reads 0x005 (BitVec.ofNat 64 (w.ident.team * 2 ^ 32 + w.ident.crews)) ∧ reads 0x006 w.gridId ∧
      reads 0x008 w.am ∧ reads 0x009 w.live ∧ reads 0x00A w.lcb ∧
      reads 0x010 bank.cause ∧ reads 0x011 bank.pc ∧ reads 0x012 bank.mask ∧ reads 0x013 bank.dest ∧ reads 0x014 bank.desth ∧
      reads 0x015 (if w.level = 0 then w.partDone else (vget w.save (w.level.val - 1) .zero).partDone) ∧
      reads 0x020 0x0020100B92002010 ∧ reads 0x021 0x0000100000400800 ∧ (w.isTwin = false → readsVia 0x018 0) ∧
      (w.isTwin = true →
        let p := s.rankOf w (if w.ident.rank % 2 = 0 then w.ident.rank + 1 else w.ident.rank - 1)
        let skip : Bool := (p.map (·.wait)) == some (.twin .tskip)
        readsVia 0x018 (0#32 ++ (w.seq ++ (0#12 ++ (BitVec.ofBool skip ++ (BitVec.ofBool p.isSome ++ (BitVec.ofNat 1 (w.ident.rank % 2) ++ 1#1))))))) ∧
      reads 0x019 (w.fpxEn.setWidth 64) ∧ reads 0x01A (w.fpxFlags.setWidth 64) ∧
      reads 0x01B (if w.det then w.qlen.setWidth 64 else 0) ∧
      (∀ n : BitVec 9, n.toNat ∉ [0, 1, 2, 3, 4, 5, 6, 8, 9, 10, 16, 17, 18, 19, 20, 21, 24, 25, 26, 27, 32, 33] →
        exec (.srd d n) s = .next (s.trap ⟨0x01, 0, 0, BitVec.ofNat 128 (encNat (.srd d n)), w.pc, 4, false, 0⟩))) ∧
  (
    ∀ (s : State) (a : SReg),
      let w := s.warp
      let x := s.sget a
      let k := w.level.val - 1
      let leaves (n : BitVec 9) (u : Warp) := exec (.swr n a) s = .next { s with warp := { u with pc := w.pc + 4 }, items := logged s [⟨5, [x.toNat], 0, 0⟩] }
      leaves 0x008 { w with am := x &&& w.live } ∧
      (w.fork = none →
        leaves 0x00A { w with lcb := x &&& ~~~15#64 } ∧
        leaves 0x011 { w with
          trap := vset w.trap k { vget w.trap k .zero with pc := x &&& ~~~3#64 }
          save := if w.level = 0 then w.save else vset w.save k { vget w.save k .zero with redirect := true } } ∧
        leaves 0x019 { w with fpxEn := x.setWidth 5 } ∧ leaves 0x01A { w with fpxFlags := x.setWidth 5 } ∧
        leaves 0x01B (if w.det then { w with qlen := if (x.setWidth 32 : W32).toNat < 64 then 64 else x.setWidth 32 } else w)) ∧
      (w.fork ≠ none → ∀ n ∈ [0x00A#9, 0x011#9, 0x019#9, 0x01A#9, 0x01B#9], trapsAt (.swr n a) s 0x0A 0 4) ∧
      (∀ n : BitVec 9, n.toNat ∉ [0x008, 0x00A, 0x011, 0x019, 0x01A, 0x01B] →
        exec (.swr n a) s = .next (s.trap ⟨0x01, 0, 0, BitVec.ofNat 128 (encNat (.swr n a)), w.pc, 4, false, 0⟩))) ∧
  (
    ∀ (s : State) (d a : SReg),
      let q := s.sget a
      let x := s.part s.warp.ident.part
      let own := s.clusterOf s.warp
      let gives (v : W64) := writesVia (.loc d a) s s d v 4
      (q.extractLsb' 60 4 = 0 → q ≠ 0 → gives 0) ∧
      (∀ shelf, q = 0 → (s.team? s.warp.ident.grid s.warp.ident.team).bind (·.shelf) = some shelf →
        gives (BitVec.ofNat 64 (2 ^ 63 + 15 * 2 ^ 36 + shelf * 2 ^ 16 + own / 17 * 2 ^ 12 + s.warp.ident.core * 2 ^ 10))) ∧
      (q.extractLsb' 60 4 = 1 → q.extractLsb' 57 3 ≠ 0 → gives 0) ∧
      (q.extractLsb' 60 4 = 1 → q.extractLsb' 57 3 = 0 →
        let va := (q.extractLsb' 0 57).toNat
        let walked (v : W64) := writesVia (.loc d a) s (s.lookUp s.warp.ident.part va).2 d v 4
        ((∀ tr, s.xlate s.warp.ident.part va ≠ .ok tr) → walked 0) ∧
        ∀ tr, s.xlate s.warp.ident.part va = .ok tr →
          let slice := homeSlice tr.pa (pteNuma tr.entry) (pteDie tr.entry)
          (tr.place = .device → walked (BitVec.ofNat 64 (2 ^ 63 + slice * 2 ^ 40 + tr.pa / 1024 % 12 * 2 ^ 36 +
            (if slice / 32 = own / 17 then 2 else 3) * 2 ^ 32 + slice / 32 * 2 ^ 12))) ∧
          (tr.place = .host → walked (BitVec.ofNat 64 (2 ^ 63 + 15 * 2 ^ 36 + 4 * 2 ^ 32))) ∧
          (tr.place = .remote → walked (BitVec.ofNat 64 (2 ^ 63 + 15 * 2 ^ 36 + 5 * 2 ^ 32)))) ∧
      (q.extractLsb' 60 4 = 2 → q.extractLsb' 8 52 = 0 →
        let e := Tab.get x.banks (q.extractLsb' 0 8).toNat 0
        gives (if e.getLsbD 8 then BitVec.ofNat 64 (2 ^ 63 + 15 * 2 ^ 36 + 3 * 2 ^ 32 + (e.extractLsb' 6 2).toNat * 2 ^ 24) else 0)) ∧
      (q.extractLsb' 60 4 = 3 → q.extractLsb' 7 53 = 0 →
        let k := (q.extractLsb' 0 7).toNat
        let e := Tab.get x.clusters k 0
        let c := (e.extractLsb' 5 3).toNat * 17 + (e.extractLsb' 0 5).toNat
        gives (if e.getLsbD 8 then BitVec.ofNat 64 (2 ^ 63 + 15 * 2 ^ 36 + (if own = c then 1 else if own / 17 = c / 17 then 2 else 3) * 2 ^ 32 +
          k * 2 ^ 16 + (e.extractLsb' 5 3).toNat * 2 ^ 12) else 0)) ∧
      (3 < (q.extractLsb' 60 4).toNat → gives 0))

/-- R183, R187: `trap`, and `brk` without the debug attribute, where a handler is registered, enters it: cause, DETAIL, level, address and resume
record are saved in the bank of the new level, the mask becomes `LIVE` (or the arm's mask), and the program counter stands at the handler. Everything
else is kept, but that a fork made at the old level holds its other arm, whose cause comes first after the return where it has raised one (R188). While
the other arm has issued a lane word that has not completed, or has raised a cause before, the trap is not taken yet: its cause stays pending at the
word (R188). The trap of a `SHADOW` launch is logged for comparison (R199).
Where the spec is open it rests on the model's readings, logs 13 and 15. -/
def Obligations.TrapEntry : Prop :=
  ∀ (s : State) (code : BitVec 14) (n : Fin 3) (brk : Bool), (brk = true → s.warp.debug = false) →
    n = s.warp.level + 1 → n ≠ 0 →
    let w := s.warp
    let handler := if n = 1 then w.h1 else w.h2
    let held : Prop := ∃ f, w.fork = some f ∧ (f.first = some (1 - f.cur) ∨
      (f.other.inFlight = true ∧ f.other.block ≠ none ∧ (f.other.pending = none ∨ f.other.wait ≠ .none)))
    (held → completes (if brk then .brk code else .trap code) s fun t =>
      t.warp.pending = some ⟨if brk then 0x19 else 0x18, code.setWidth 32, 0, 0, w.pc, 4, false, 0⟩ ∧ t.warp.wait = .none ∧
      t.warp.fork = w.fork.map (fun f : Fork => { f with first := f.first.or (some f.cur) }) ∧
      { t.warp with pending := w.pending, wait := w.wait, fork := w.fork } = w ∧
      onlyWarpLog t s [⟨7, [if brk then 0x19 else 0x18, 0], 0, 0⟩]) ∧
    (handler ≠ 0 → ¬held → completes (if brk then .brk code else .trap code) s fun t =>
      t.warp.level = n ∧ t.warp.pc = handler ∧ t.warp.block = none ∧ t.warp.partDone = 0 ∧ t.warp.inFlight = false ∧ t.warp.wait = .none ∧
      t.warp.am = (match w.fork with
        | some f => (if f.cur = 0 then f.mask0 else f.mask1) &&& w.live
        | none => w.live) ∧
      (∀ b, b = vget t.warp.trap (n.val - 1) .zero →
        b.cause.setWidth 8 = (if brk then 0x19#8 else 0x18#8) ∧ b.cause.extractLsb' 8 2 = BitVec.ofNat 2 n.val ∧ b.cause.extractLsb' 10 1 = 0#1 ∧
        b.cause.extractLsb' 11 6 = 0#6 ∧ b.cause.extractLsb' 17 15 = 0#15 ∧ b.cause.extractLsb' 32 32 = code.setWidth 32 ∧
        b.pc = w.pc ∧ b.mask = 0 ∧ b.dest = 0 ∧ b.desth = 0) ∧
      (∀ r, r = vget t.warp.save (n.val - 1) .zero →
        r.lanew = false ∧ r.size = 4 ∧ r.partDone = w.partDone ∧ r.am = w.am ∧ r.next = true ∧ r.depth = w.stack.length ∧ r.redirect = false) ∧
      (∀ k : Nat, k ≠ n.val - 1 → vget t.warp.trap k .zero = vget w.trap k .zero ∧ vget t.warp.save k .zero = vget w.save k .zero) ∧
      t.warp.fork = w.fork.map (fun f : Fork => if f.level = w.level then { f with
        held := true
        first := if (f.other.pending ≠ none ∨ f.other.inFlight = true) ∧ f.other.wait = .none then some (1 - f.cur) else none } else f) ∧
      { t.warp with trap := w.trap, save := w.save, partDone := w.partDone, inFlight := w.inFlight, block := w.block, level := w.level, wait := w.wait,
                    qdone := w.qdone, fork := w.fork, am := w.am, pc := w.pc } = w ∧
      onlyWarpLog t s [⟨7, [if brk then 0x19 else 0x18, 0], 0, 0⟩])

/-- R183, R191, R193, R196: a `trap` with no handler registered halts the warp: with the cause at level 0, with `DOUBLE_TRAP` and the cause as its
DETAIL above. The warp is gone, its grid has a halted warp, and its partition's fault-message buffer has the message of R192, or counts it in its
overflow record while 1,023 others wait; stated outside forks, where the trap may have to wait (R188). R114, R117, R118, R380: `exit` outside a fork ends the warp, in every launch: the warp and its shadow are
gone, a carrel of a `DET` launch waits for its commit, and nothing else has changed but its crew where it was the last: that stands where it stood,
PLACED or MARKED without a token it is DONE, off its core unless an operation writes a buffer of it (R347), and PLACED with tokens it is HELD and keeps
them. While forked it traps `SPLIT_ACTIVE`. The wait for lane words (R117) comes before the word is executed, as `StepRunsDecoded` says.
Where the spec is open it rests on the model's readings, logs 15, 21 and 64. -/
def Obligations.WarpEnds : Prop :=
  (
    ∀ (s : State) (code : BitVec 14),
      let w := s.warp
      w.fork = none → (w.level = 0 ∧ w.h1 = 0) ∨ (w.level = 1 ∧ w.h2 = 0) ∨ w.level = 2 →
      completes (.trap code) s fun t =>
        t.warp = { w with alive := false } ∧ (∀ x ∈ t.others, x ∈ s.others ∧ x.id ≠ w.id) ∧ (∀ x ∈ s.others, x.id ≠ w.id → x ∈ t.others) ∧
        (∀ g ∈ t.grids, g.id = w.ident.grid → g.halted = true) ∧
        (∀ p q, p = s.part w.ident.part → q = t.part w.ident.part →
          (p.msgs.length < 1023 → q.overflow = p.overflow ∧ ∃ m, q.msgs = p.msgs ++ [m] ∧ m.length = 64 ∧ m.getD 0 0 = 0x01 ∧
            m.getD 1 0 = (if w.level = 0 then 0x18 else 0x22) ∧ leAt m 28 4 = (if w.level = 0 then code.toNat else 0x18) ∧
            leAt m 8 4 = w.ident.crew % 2 ^ 32 ∧ leAt m 12 4 = w.ident.global % 2 ^ 32) ∧
          (1023 ≤ p.msgs.length → q.msgs = p.msgs ∧ ∃ o, q.overflow = some o ∧ o.count = (match p.overflow with
            | none => 1
            | some x => x.count + 1))) ∧
        t.dev = s.dev ∧ t.hostMem = s.hostMem ∧ t.bankMem = s.bankMem) ∧
  (
    ∀ s : State,
      let w := s.warp
      let busy : Bool := s.ops.any fun o => o.holds w.ident.grid w.ident.crew
      (w.fork ≠ none → trapsAt .exit s 0x0A 0 4) ∧
      (w.fork = none → completes .exit s fun t =>
        t.warp = { w with alive := false } ∧
        (∀ x, x ∈ t.others ↔ (x ∈ s.others ∧ x.id ≠ w.id) ∨
          (w.det = true ∧ w.carrel ≠ [] ∧ x = { w with alive := false, wait := .commit })) ∧
        (∀ x, x ∈ t.shadows ↔ x ∈ s.shadows ∧ x.id ≠ w.id) ∧
        (t.crewWarps w.ident.grid w.ident.crew ≠ [] → t.crews = s.crews) ∧
        (t.crewWarps w.ident.grid w.ident.crew = [] → t.crews = s.crews.map fun (c : Crew) =>
          if c.grid = w.ident.grid ∧ c.num = w.ident.crew then
            (if c.deque = [] then (if c.state = .placed ∨ c.state = .marked then { c with state := .done, core := if busy then c.core else none } else c)
              else if c.state = .placed then { c with state := .held } else c)
          else c) ∧
        t.items = logged s [⟨8, [], 0, 0⟩] ∧
        { t with warp := s.warp, others := s.others, shadows := s.shadows, crews := s.crews, pairs := s.pairs, items := s.items } = s))

/-- R186: `rett` and `rett.skip` at the depth of their record return to the level below and restore its mask, in the lanes that still live: a
redirected return goes to `TRAP_PC`; a scalar word's to the word, or past it where its cause says so or for `rett.skip`; a lane word's to the word
after its `lx`, with its block open at the word or past it. A fork that the trap held runs again, first the arm that has raised a cause (R188).
Where the spec is open it rests on the model's readings, log 15. -/
def Obligations.Return : Prop :=
  ∀ (s : State) (skip : Bool), s.warp.level ≠ 0 →
    let w := s.warp
    let r := vget w.save (w.level.val - 1) .zero
    let a := (vget w.trap (w.level.val - 1) .zero).pc
    let past := r.next || skip
    w.stack.length = r.depth →
    completes (if skip then .rettSkip else .rett) s fun t =>
      t.warp.level.val + 1 = w.level.val ∧ t.warp.am = r.am &&& w.live ∧ onlyWarp t s ∧
      { t.warp with level := w.level, am := w.am, pc := w.pc, block := w.block, partDone := w.partDone, inFlight := w.inFlight, fork := w.fork } = w ∧
      t.warp.fork = w.fork.map (fun f : Fork => if f.level.val + 1 = w.level.val then { f with
        held := false
        first := if (f.other.pending ≠ none ∨ f.other.inFlight = true) ∧ f.other.wait = .none then some (1 - f.cur) else none } else f) ∧
      (r.redirect = true → t.warp.pc = a ∧ t.warp.block = none ∧ t.warp.partDone = 0 ∧ t.warp.inFlight = w.inFlight) ∧
      (r.redirect = false → r.lanew = false → t.warp.pc = (if past then a + BitVec.ofNat 64 r.size else a) ∧ t.warp.block = w.block ∧
        t.warp.partDone = w.partDone ∧ t.warp.inFlight = w.inFlight) ∧
      (∀ b, r.redirect = false → r.lanew = true → r.block = some b → t.warp.pc = a + 4 ∧
        (past = false → t.warp.block = some { b with lanePc := r.word, am := b.am &&& w.live } ∧ t.warp.partDone = r.partDone ∧ t.warp.inFlight = true) ∧
        (past = true → t.warp.partDone = 0 ∧ t.warp.inFlight = w.inFlight ∧
          t.warp.block = if r.word + 1 < b.count then some { b with lanePc := r.word + 1, am := b.am &&& w.live } else none))

/-! ## Lane words -/

/-- R125, R131, R135: the integer arithmetic words and `iset`, in every type and form: each active lane receives the exact result wrapped or clamped
to the type (a mask bit for `iset`, combined with the old one), and nothing else changes. R150: the integer dot products: the exact sum of the
products of the 8-bit or 4-bit elements and the third source, wrapped or clamped. -/
def Obligations.LaneArithmetic : Prop :=
  (
    ∀ (s : State) (b : Block) (h : LaneHdr) (t : ITy) (g : SgTy) (sat : Bool) (cc : ICond) (k : Comb),
      let c := laneView s b h
      let n : Nat := if t.wide then 64 else 32
      let signed : Bool := t == .i32 || t == .i64
      let lo : Int := if signed then -2 ^ (n - 1) else 0
      let hi : Int := if signed then 2 ^ (n - 1) - 1 else 2 ^ n - 1
      let read (x : Src) (l : Nat) : Int :=
        let y := (c.src t.wide x l).toNat
        if signed ∧ 2 ^ (n - 1) ≤ y then (y : Int) - 2 ^ n else y
      let x := read h.a
      let y := read h.b
      let fit (e : Int) : W64 := BitVec.ofInt 64 (if sat then (if e < lo then lo else if hi < e then hi else e) else e)
      let dest (wide : Bool) : DestSpec := if wide then .v64 else .v32
      let gives (i : Instr) (e : Nat → W64) : Prop := laneReady i s b h → laneGives i s b h (dest t.wide) 0 fun l => (e l, 0)
      gives (.iadd h t sat) (fun l => fit (x l + y l)) ∧ gives (.isub h t sat) (fun l => fit (x l - y l)) ∧
      gives (.imad h t sat) (fun l => fit (x l * y l + read h.c l)) ∧ gives (.imul h t) (fun l => BitVec.ofInt 64 (x l * y l)) ∧
      gives (.imulh h t) (fun l => BitVec.ofInt 64 (x l * y l / 2 ^ n)) ∧
      gives (.imin h t) (fun l => BitVec.ofInt 64 (if x l ≤ y l then x l else y l)) ∧
      gives (.imax h t) (fun l => BitVec.ofInt 64 (if x l ≤ y l then y l else x l)) ∧
      (signed = true → g.wide = t.wide → gives (.iabs h g sat) fun l => fit (if x l < 0 then -(x l) else x l)) ∧
      (laneReady (.iset h t cc k) s b h → laneGives (.iset h t cc k) s b h .mask 0 fun l =>
        let new : Bool := match cc with
          | .eq => decide (x l = y l)
          | .ne => decide (x l ≠ y l)
          | .lt => decide (x l < y l)
          | .ge => decide (x l ≥ y l)
          | .le => decide (x l ≤ y l)
          | .gt => decide (x l > y l)
        let old := (s.warp.mget (h.dest.setWidth 4)).getLsbD l
        (if (match k with
          | .set => new
          | .conj => old && new
          | .disj => old || new) then 1 else 0, 0))) ∧
  (
    ∀ (s : State) (b : Block) (h : LaneHdr) (signed mix sat : Bool),
      let c := laneView s b h
      let num (sg : Bool) (w x : Nat) : Int := if sg ∧ 2 ^ (w - 1) ≤ x then (x : Int) - 2 ^ w else x
      let sb := signed != mix
      let any := signed || sb
      let el (sg : Bool) (x : Src) (l w j : Nat) : Int := num sg w ((c.src32 x l).toNat / 2 ^ (w * j) % 2 ^ w)
      let sum (w l n : Nat) : Int := (List.range n).foldl (fun e j => e + el signed h.a l w j * el sb h.b l w j) (num any 32 (c.src32 h.c l).toNat)
      let lo : Int := if any then -2 ^ 31 else 0
      let hi : Int := if any then 2 ^ 31 - 1 else 2 ^ 32 - 1
      let fit (e : Int) : W64 := BitVec.ofInt 64 (if sat then (if e < lo then lo else if hi < e then hi else e) else e)
      let gives (i : Instr) (w n : Nat) : Prop := laneReady i s b h → laneGives i s b h .v32 0 fun l => (fit (sum w l n), 0)
      (∀ rm, gives (.dp4 h (if signed then .i8 else .n8) rm mix sat) 8 4) ∧ gives (.dp8 h signed mix sat) 4 8)

/-- R132, R133, R134, R136: the bitwise, shift, bit-field, count, select and move words, in every form: bit by bit, what each active lane receives;
nothing else changes. -/
def Obligations.LaneBits : Prop :=
  ∀ (s : State) (b : Block) (h : LaneHdr) (t : BTy) (clamp signed inv : Bool) (m : MReg),
    let c := laneView s b h
    let n : Nat := if t.wide then 64 else 32
    let x (l : Nat) := c.src t.wide h.a l
    let y (l : Nat) := c.src t.wide h.b l
    let gives (i : Instr) (d : DestSpec) (ok : Nat → W64 → Prop) : Prop :=
      laneReady i s b h → ∃ e : Nat → W64, (∀ l, ok l (e l)) ∧ laneGives i s b h d 0 fun l => (e l, 0)
    let dest : DestSpec := if t.wide then .v64 else .v32
    let bits (i : Instr) (f : Nat → Nat → Bool) : Prop := gives i dest fun l e => ∀ j < n, e.getLsbD j = f l j
    let by' (l : Nat) : Nat := let k := (c.src32 h.b l).toNat; if clamp then k else k % n
    bits (.and h t) (fun l j => (x l).getLsbD j && (y l).getLsbD j) ∧ bits (.or h t) (fun l j => (x l).getLsbD j || (y l).getLsbD j) ∧
    bits (.xor h t) (fun l j => (x l).getLsbD j ^^ (y l).getLsbD j) ∧ bits (.not h t) (fun l j => !(x l).getLsbD j) ∧
    bits (.mov h t) (fun l j => (x l).getLsbD j) ∧ bits (.brev h t) (fun l j => (x l).getLsbD (n - 1 - j)) ∧
    bits (.sel h t inv m) (fun l j => if (s.warp.mget m).getLsbD l != inv then (x l).getLsbD j else (y l).getLsbD j) ∧
    bits (.shl h t clamp) (fun l j => decide (by' l ≤ j) && (x l).getLsbD (j - by' l)) ∧
    bits (.shr h t clamp) (fun l j => decide (j + by' l < n) && (x l).getLsbD (j + by' l)) ∧
    bits (.sar h t clamp) (fun l j => (x l).getLsbD (if j + by' l < n then j + by' l else n - 1)) ∧
    gives (.popc h t) dest (fun l e => e.toNat = ((List.range n).filter fun j => (x l).getLsbD j).length) ∧
    gives (.clz h t) dest (fun l e => e.toNat ≤ n ∧ (∀ j < n, n - e.toNat ≤ j → (x l).getLsbD j = false) ∧
      (e.toNat < n → (x l).getLsbD (n - 1 - e.toNat) = true)) ∧
    gives (.bfi h) .v32 (fun l e =>
      let z := (c.src32 h.c l).toNat
      let p := z % 256
      ∀ j < 32, e.getLsbD j = if p ≤ j ∧ j < p + z / 256 % 256 then (c.src32 h.a l).getLsbD (j - p) else (c.src32 h.b l).getLsbD j) ∧
    gives (.bfe h signed) .v32 (fun l e =>
      let p := (c.src32 h.b l).toNat % 256
      let k := min ((c.src32 h.c l).toNat % 256) 32
      let from' (j : Nat) : Bool := if p + j < 32 then (c.src32 h.a l).getLsbD (p + j) else signed && (c.src32 h.a l).getLsbD 31
      ∀ j < 32, e.getLsbD j = if j < k then from' j else signed && decide (0 < k) && from' (k - 1))

/-- R151, R153, R155, R156, R157: the cross-lane words that copy or compare: what each active lane receives from the source lanes.
Where the spec is open it rests on the model's readings, log 26. -/
def Obligations.LaneExchange : Prop :=
  ∀ (s : State) (b : Block) (h : LaneHdr) (t : BTy) (mode : ShMode) (wrel : Bool) (vm : VMode) (sel : LSel),
    let c := laneView s b h
    let act := activeLanes s.warp b h
    let on (l : Nat) : Prop := l < 64 ∧ act.getLsbD l = true
    let x (l : Nat) := c.src t.wide h.a l
    let v (l : Nat) := c.src32 h.a l
    let gives (i : Instr) (d : DestSpec) (ok : Nat → W64 → Prop) : Prop :=
      laneReady i s b h → ∃ e : Nat → W64, (∀ l < 64, ok l (e l)) ∧ laneGives i s b h d 0 fun l => (e l, 0)
    let truth (e : W64) (p : Prop) : Prop := (p → e = 1) ∧ (¬p → e = 0)
    gives (.shfl h t mode wrel) (if t.wide then .v64 else .v32) (fun l e =>
      let o : Nat := if wrel then 64 / 2 ^ (h.imm.toNat % 8) else (c.src32 h.b l).toNat
      let k : Int := match mode with
        | .idx => o
        | .up => (l : Int) - o
        | .down => (l : Int) + o
        | .xor => ((l ^^^ o : Nat) : Int)
      ((0 ≤ k ∧ k < 64 ∧ act.getLsbD k.toNat = true) → e = x k.toNat) ∧
        (¬(0 ≤ k ∧ k < 64 ∧ act.getLsbD k.toNat = true) → e = x l)) ∧
    gives (.vote h .ballot) .v64 (fun _ e => ∀ j < 64, e.getLsbD j = (act.getLsbD j && decide (v j ≠ 0))) ∧
    (vm ≠ .ballot → gives (.vote h vm) .v32 fun _ e => match vm with
      | .any => truth e (∃ j, on j ∧ v j ≠ 0)
      | .all => truth e (∀ j, on j → v j ≠ 0)
      | .eq => truth e (∀ j k, on j → on k → v j = v k)
      | .ballot => True) ∧
    gives (.matchLanes h t) .v64 (fun l e => ∀ j < 64, e.getLsbD j = (act.getLsbD j && decide (x j = x l))) ∧
    gives (.laneid h sel) .v32 (fun l e => match sel with
      | .id => e.toNat = l
      | .orig => e = (vget s.warp.origin l 0).setWidth 64
      | .rank => e.toNat = ((List.range l).filter fun j => act.getLsbD j).length
      | .cnt => e.toNat = ((List.range 64).filter fun j => act.getLsbD j).length)

/-- R57, R154: `xred` combines the 64 lane values, with the identity in lanes that are no source, in a tree that halves six times, and `xscan` scans
them at distances 1 to 32; every active lane receives the result and the flags of all steps together. What two values combine to: a wrapped sum, the
smaller or larger one, AND, OR and XOR for integers, without flags; `fadd` in RNE, `fmin` and `fmax` for `f32`. -/
def Obligations.LaneReduce : Prop :=
  ∀ (s : State) (b : Block) (h : LaneHdr) (t : XTy) (op : ROp) (nan excl : Bool),
    let c := laneView s b h
    let act := activeLanes s.warp b h
    let unit : Nat := match op, t with
      | .add, .f32 => 0x80000000
      | .min, .i32 => 0x7FFFFFFF
      | .min, .n32 => 0xFFFFFFFF
      | .min, .f32 => 0x7F800000
      | .max, .i32 => 0x80000000
      | .max, .f32 => 0xFF800000
      | .conj, _ => 0xFFFFFFFF
      | _, _ => 0
    let start (l : Nat) : Nat := if act.getLsbD l then (c.src32 h.a l).toNat else unit
    let f := redOp t op nan
    /- the values of a tree step by distance, and those of a scan step -/
    let tree (d : Nat) (v : Nat → Nat) (l : Nat) : Nat := (f (v l) (v (l + d))).1
    let scan (d : Nat) (v : Nat → Nat) (l : Nat) : Nat := if d ≤ l then (f (v (l - d)) (v l)).1 else v l
    /- the values before each step, and the flags that `n` combinations of a step raise -/
    let trees : List (Nat × (Nat → Nat)) := [(32, start), (16, tree 32 start), (8, tree 16 (tree 32 start)), (4, tree 8 (tree 16 (tree 32 start))),
      (2, tree 4 (tree 8 (tree 16 (tree 32 start)))), (1, tree 2 (tree 4 (tree 8 (tree 16 (tree 32 start)))))]
    let scans : List (Nat × (Nat → Nat)) := [(1, start), (2, scan 1 start), (4, scan 2 (scan 1 start)), (8, scan 4 (scan 2 (scan 1 start))),
      (16, scan 8 (scan 4 (scan 2 (scan 1 start)))), (32, scan 16 (scan 8 (scan 4 (scan 2 (scan 1 start)))))]
    let raised (n d : Nat) (v : Nat → Nat) : Flags := (List.range n).foldl (fun g l => g ||| (f (v l) (v (l + d))).2) 0
    let total := tree 1 (tree 2 (tree 4 (tree 8 (tree 16 (tree 32 start))))) 0
    let scanned := scan 32 (scan 16 (scan 8 (scan 4 (scan 2 (scan 1 start)))))
    let treeFlags := trees.foldl (fun g x => g ||| raised x.1 x.1 x.2) 0
    let scanFlags := scans.foldl (fun g x => g ||| raised (64 - x.1) x.1 x.2) 0
    (laneReady (.xred h t op nan) s b h →
      laneFloats (.xred h t op nan) s b h .v32 0 fun _ => (BitVec.ofNat 64 total, treeFlags)) ∧
    (laneReady (.xscan h t op excl nan) s b h →
      laneFloats (.xscan h t op excl nan) s b h .v32 0 fun l =>
        (BitVec.ofNat 64 (if excl then (if l = 0 then unit else scanned (l - 1)) else scanned l), scanFlags)) ∧
    ∀ (x y : W32), let g (t : XTy) (op : ROp) := redOp t op nan x.toNat y.toNat
      g .f32 .add = addV .f32 .rne 0 (fval .f32 x.toNat) (fval .f32 y.toNat) ∧
      g .f32 .min = minmaxV .f32 false nan x.toNat y.toNat ∧ g .f32 .max = minmaxV .f32 true nan x.toNat y.toNat ∧
      (t ≠ .f32 → g t .add = ((x + y).toNat, 0) ∧ g t .conj = ((x &&& y).toNat, 0) ∧ g t .disj = ((x ||| y).toNat, 0) ∧ g t .xor = ((x ^^^ y).toNat, 0)) ∧
      g .i32 .min = ((if x.toInt ≤ y.toInt then x else y).toNat, 0) ∧ g .i32 .max = ((if x.toInt ≤ y.toInt then y else x).toNat, 0) ∧
      g .n32 .min = (min x.toNat y.toNat, 0) ∧ g .n32 .max = (max x.toNat y.toNat, 0)

/-- R45, R50, R125, R137 to R143, R149, R150: the floating-point words: each active lane receives the result of its operation on its operands, the
flags accumulate, draws are counted in stochastic mode, and an enabled flag traps after the word has completed. -/
def Obligations.LaneFloat : Prop :=
  ∀ (s : State) (b : Block) (h : LaneHdr) (t : FTy) (rm : RMode) (p q exact : Bool) (cc : FCond) (pt : PTy) (dt : D4Ty) (k : CvtArgs),
    let c := laneView s b h
    let draws (n : Nat) : Nat := if rm = .sto then n else 0
    let r (l j : Nat) : Nat := if rm = .sto then c.draw l j else 0
    let bits (x : Src) (l : Nat) : Nat := (c.src t.wide x l).toNat
    let val (neg : Bool) (x : Src) (l : Nat) : FVal := if neg then (fval t.fmt (bits x l)).neg else fval t.fmt (bits x l)
    let gives (i : Instr) (d : DestSpec) (n : Nat) (op : Nat → Nat × Flags) : Prop :=
      laneReady i s b h → laneFloats i s b h d n fun l => (BitVec.ofNat 64 (op l).1, (op l).2)
    let dest : DestSpec := if t.wide then .v64 else .v32
    gives (.fadd h t rm p q) dest (draws 1) (fun l => addV t.fmt rm (r l 0) (val p h.a l) (val q h.b l)) ∧
    gives (.fsub h t rm p q) dest (draws 1) (fun l => addV t.fmt rm (r l 0) (val p h.a l) (val (!q) h.b l)) ∧
    gives (.fmul h t rm p q) dest (draws 1) (fun l => mulV t.fmt rm (r l 0) (val p h.a l) (val q h.b l)) ∧
    gives (.ffma h t rm p q) dest (draws 1) (fun l => fmaV t.fmt rm (r l 0) (val p h.a l) (val false h.b l) (val q h.c l)) ∧
    gives (.fmin h t p) dest 0 (fun l => minmaxV t.fmt false p (bits h.a l) (bits h.b l)) ∧
    gives (.fmax h t p) dest 0 (fun l => minmaxV t.fmt true p (bits h.a l) (bits h.b l)) ∧
    gives (.fset h t cc) .mask 0 (fun l => let x := fsetV t.fmt cc (bits h.a l) (bits h.b l); (if x.1 then 1 else 0, x.2)) ∧
    gives (.frnd h t rm exact) dest (draws 1) (fun l => frndV t.fmt rm (r l 0) exact (bits h.a l)) ∧
    gives (.fclass h t) .v32 0 (fun l => (fclassV t.fmt (bits h.a l), 0)) ∧
    gives (.pkfma h pt rm p q) .v32 (draws 2) (fun l =>
      let e (neg : Bool) (x : Src) (j : Nat) : FVal :=
        let v := fval pt.fmt ((c.src32 x l).toNat / 2 ^ (16 * j) % 2 ^ 16)
        if neg then v.neg else v
      let z (j : Nat) := fmaV pt.fmt rm (r l j) (e p h.a j) (e false h.b j) (e q h.c j)
      ((z 0).1 + 2 ^ 16 * (z 1).1, (z 0).2 ||| (z 1).2)) ∧
    (dt = .e4m3 ∨ dt = .e5m2 → gives (.dp4 h dt rm p q) .v32 (draws 1) fun l =>
      let x (f : D4Ty) : Fmt := if f = .e4m3 then .e4m3 else .e5m2
      let other : D4Ty := if dt = .e4m3 then .e5m2 else .e4m3
      dotFp8 (x dt) (x (if p then other else dt)) rm (r l 0) (c.src32 h.a l) (c.src32 h.b l) (c.src32 h.c l)) ∧
    (k.rm = rm → gives (.cvt h k) (if k.dst.bits = 64 then .v64 else .v32) (draws 1) fun l =>
      let n := k.src.bits
      let m := k.dst.bits
      let v := if n = 64 then (c.src64 h.a l).toNat else (c.src32 h.a l).toNat / 2 ^ (n * k.se.toNat) % 2 ^ n
      let y := convert k (r l 0) v
      let old := if k.insert then (c.src32 h.b l).toNat else 0
      let at' := m * k.de.toNat
      if m = 64 then y else (old - old / 2 ^ at' % 2 ^ m * 2 ^ at' + y.1 % 2 ^ m * 2 ^ at', y.2))

/-- R145, R146: the special functions complete with one function of the operand's bits each, and that function has the results and flags of R146's
table on every special input: zeros, subnormals, infinities, NaN, values out of the domain, overflow and underflow.
Where the spec is open it rests on the model's readings, log 27. -/
def Obligations.SpecialFunctions : Prop :=
  let has (mk : LaneHdr → Instr) (rows : (W32 → Nat × Flags) → Prop) : Prop :=
    ∃ f : W32 → Nat × Flags, rows f ∧
      (∀ (x : W32) (sig n : Bool) (fr : Nat), fval .f32 x.toNat = .nan sig n fr → f x = (0x7FC00000, if sig then 1 else 0)) ∧
      ∀ (s : State) (b : Block) (h : LaneHdr), laneReady (mk h) s b h →
        laneFloats (mk h) s b h .v32 0 fun l => (BitVec.ofNat 64 (f ((laneView s b h).src32 h.a l)).1, (f ((laneView s b h).src32 h.a l)).2)
  /- zeros and subnormals; values below −0 that are neither subnormal nor NaN -/
  let small (x : W32) : Prop := x.extractLsb' 23 8 = 0#8
  let below (x : W32) : Prop := 0x80800000 ≤ x.toNat ∧ x.toNat ≤ 0xFF800000
  has .rcp (fun f => (∀ x, small x → f x = (if x.getLsbD 31 then 0xFF800000 else 0x7F800000, 2)) ∧ f 0x7F800000 = (0, 0) ∧
    f 0xFF800000 = (0x80000000, 0)) ∧
  has .rsq (fun f => (∀ x, small x → f x = (if x.getLsbD 31 then 0xFF800000 else 0x7F800000, 2)) ∧ (∀ x, below x → f x = (0x7FC00000, 1)) ∧
    f 0x7F800000 = (0, 0)) ∧
  has .sqrt (fun f => f 0 = (0, 0) ∧ f 0x80000000 = (0x80000000, 0) ∧
    (∀ x : W32, 0x80000000 < x.toNat → x.toNat ≤ 0xFF800000 → f x = (0x7FC00000, 1)) ∧ f 0x7F800000 = (0x7F800000, 0)) ∧
  has .exp2 (fun f => f 0 = (0x3F800000, 0) ∧ f 0x80000000 = (0x3F800000, 0) ∧ f 0xFF800000 = (0, 0) ∧ f 0x7F800000 = (0x7F800000, 0) ∧
    (∀ x : W32, 0x43000000 ≤ x.toNat → x.toNat < 0x7F800000 → f x = (0x7F800000, 20)) ∧
    (∀ x : W32, 0xC2FC0000 < x.toNat → x.toNat < 0xFF800000 → f x = (0, 24))) ∧
  has .log2 (fun f => (∀ x, small x → f x = (0xFF800000, 2)) ∧ (∀ x, below x → f x = (0x7FC00000, 1)) ∧ f 0x7F800000 = (0x7F800000, 0) ∧
    f 0x3F800000 = (0, 0)) ∧
  has .sin (fun f => f 0 = (0, 0) ∧ f 0x80000000 = (0x80000000, 0) ∧ f 0x7F800000 = (0x7FC00000, 1) ∧ f 0xFF800000 = (0x7FC00000, 1)) ∧
  has .cos (fun f => f 0 = (0x3F800000, 0) ∧ f 0x80000000 = (0x3F800000, 0) ∧ f 0x7F800000 = (0x7FC00000, 1) ∧ f 0xFF800000 = (0x7FC00000, 1)) ∧
  has .tanh (fun f => f 0 = (0, 0) ∧ f 0x80000000 = (0x80000000, 0) ∧ f 0x7F800000 = (0x3F800000, 0) ∧ f 0xFF800000 = (0xBF800000, 0))

/-- R36, R37, R42, R43, R46, R47, R50, R137: addition, multiplication and fused multiply-add, for every format, mode and draw: a NaN operand gives
the canonical NaN, and INV if it signals; infinities of opposite sign, and zero times infinity in either order, give the canonical NaN and INV, in a
fused multiply-add whatever the addend is; other infinities follow exact arithmetic; finite operands give the rounding of the exact value, a zero sum
having the operands' sign if it is the same, and otherwise −0 only when rounding down. R46, R47, R50: rounding a nonzero exact value x to a format:
the unit u is that of x's exponent, but not below the least unit of the format; the delivered multiple of u is the neighbour of x that the mode picks;
the rounding is inexact exactly where it is not x; it is tiny where x, rounded with an unbounded exponent, lies below the smallest normal; a result
beyond the largest finite value becomes an infinity or the largest value by mode and sign; any other reads back as that multiple.
R138 to R141: `fmin` and `fmax`, `fset`, `frnd` and `fclass` on every bit pattern. R150: the FP8 dot product: its invalid cases, its infinities, and one
rounding of the exact sum. R41, R52 to R54: conversions between floats and integers: NaNs, infinities, values beyond the target, saturation, and the
rounding elsewhere.
Where the spec is open it rests on the model's reading, log 118. -/
def Obligations.FloatRules : Prop :=
  (
    ∀ n : Bool, let sign (k : Nat) : Nat := if n then 2 ^ k else 0
      (∀ f, f ∈ [(Fmt.f64, 63, 0x7FF0000000000000, 0x7FF8000000000000, 0x7FEFFFFFFFFFFFFF), (.f32, 31, 0x7F800000, 0x7FC00000, 0x7F7FFFFF),
          (.f16, 15, 0x7C00, 0x7E00, 0x7BFF), (.bf16, 15, 0x7F80, 0x7FC0, 0x7F7F), (.e5m2, 7, 0x7C, 0x7E, 0x7B)] →
        signBit f.1 n = sign f.2.1 ∧ infBits f.1 n = sign f.2.1 + f.2.2.1 ∧ canonNaN f.1 = f.2.2.2.1 ∧ maxBits f.1 n = sign f.2.1 + f.2.2.2.2) ∧
      signBit .e4m3 n = sign 7 ∧ canonNaN .e4m3 = 0x7F ∧ maxBits .e4m3 n = sign 7 + 0x7E ∧ signBit .e2m1 n = sign 3 ∧ maxBits .e2m1 n = sign 3 + 7) ∧
  (
    ∀ (f : Fmt) (rm : RMode) (r : Nat) (x y z : FVal) (n m k : Bool) (a c d : Nat) (i j l : Int), (f = .f32 ∨ f = .f64 ∨ f = .f16 ∨ f = .bf16) →
      let zero (p q : Bool) : Bool := if p = q then p else rm == .rdn
      let nan : Nat × Flags := (canonNaN f, x.sigFlag ||| y.sigFlag)
      (x.isNaN = true ∨ y.isNaN = true → addV f rm r x y = nan ∧ mulV f rm r x y = nan) ∧
      addV f rm r (.inf n) (.inf (!n)) = (canonNaN f, 1) ∧ addV f rm r (.inf n) (.inf n) = (infBits f n, 0) ∧
      addV f rm r (.inf n) (.fin m a i) = (infBits f n, 0) ∧ addV f rm r (.fin m a i) (.inf n) = (infBits f n, 0) ∧
      delivers f rm r (zero n m) (ratOf (.fin n a i) + ratOf (.fin m c j)) (addV f rm r (.fin n a i) (.fin m c j)) ∧
      mulV f rm r (.inf n) (.fin m 0 i) = (canonNaN f, 1) ∧ mulV f rm r (.fin m 0 i) (.inf n) = (canonNaN f, 1) ∧
      mulV f rm r (.inf n) (.inf m) = (infBits f (n != m), 0) ∧
      (a ≠ 0 → mulV f rm r (.inf n) (.fin m a i) = (infBits f (n != m), 0) ∧ mulV f rm r (.fin m a i) (.inf n) = (infBits f (n != m), 0)) ∧
      delivers f rm r (n != m) (ratOf (.fin n a i) * ratOf (.fin m c j)) (mulV f rm r (.fin n a i) (.fin m c j)) ∧
      fmaV f rm r (.inf n) (.fin m 0 i) z = (canonNaN f, 1) ∧ fmaV f rm r (.fin m 0 i) (.inf n) z = (canonNaN f, 1) ∧
      (x.isNaN = true ∨ y.isNaN = true → fmaV f rm r x y z = (canonNaN f, x.sigFlag ||| y.sigFlag ||| z.sigFlag)) ∧
      (z.isNaN = true → (∀ p q, ¬(x = .inf p ∧ ∃ e, y = .fin q 0 e) ∧ ¬(y = .inf p ∧ ∃ e, x = .fin q 0 e)) →
        fmaV f rm r x y z = (canonNaN f, x.sigFlag ||| y.sigFlag ||| z.sigFlag)) ∧
      (∀ p q : FVal, (p = .inf n ∧ q = .inf m) ∨ (a ≠ 0 ∧ ((p = .inf n ∧ q = .fin m a i) ∨ (p = .fin n a i ∧ q = .inf m))) →
        fmaV f rm r p q (.inf (n != m)) = (infBits f (n != m), 0) ∧ fmaV f rm r p q (.inf (n == m)) = (canonNaN f, 1) ∧
        fmaV f rm r p q (.fin k c j) = (infBits f (n != m), 0)) ∧
      fmaV f rm r (.fin n a i) (.fin m c j) (.inf k) = (infBits f k, 0) ∧
      delivers f rm r (zero (n != m) k) (ratOf (.fin n a i) * ratOf (.fin m c j) + ratOf (.fin k d l))
        (fmaV f rm r (.fin n a i) (.fin m c j) (.fin k d l))) ∧
  (
    ∀ (f : Fmt) (rm : RMode) (draw : Nat) (neg : Bool) (m : Nat) (e : Int), m ≠ 0 →
      let r := roundTo f rm draw neg m e
      let w := roundF f rm draw neg m e
      let x : ℚ := m * (2 : ℚ) ^ e
      let u : ℚ := (2 : ℚ) ^ r.q
      let y : ℚ := r.a * u
      let least : Int := 1 - bias f - fracBits f
      let normal : ℚ := (2 : ℚ) ^ (1 - (bias f : Int))
      let step : ℚ := (2 : ℚ) ^ (-(bias f : Int) - fracBits f)
      least ≤ r.q ∧ x < u * 2 ^ (fracBits f + 1) ∧ (least < r.q → u * 2 ^ fracBits f ≤ x) ∧ picks rm draw neg x u r.a ∧ (r.inexact = true ↔ y ≠ x) ∧
      (r.tiny = true ↔ if rm = .rne then x < normal - step / 2 else if (rm = .rdn ∧ neg = true) ∨ (rm = .rup ∧ neg = false) then x ≤ normal - step
        else x < normal) ∧
      (r.beyond = true ↔ (maxSig f : ℚ) * (2 : ℚ) ^ (maxExp f - fracBits f) < y) ∧
      (r.beyond = true → w = (if rm = .rne ∨ rm = .sto ∨ (rm = .rdn ∧ neg = true) ∨ (rm = .rup ∧ neg = false) then infBits f neg else maxBits f neg, 20)) ∧
      (r.beyond = false → w.2 = (if y = x then 0 else if r.tiny then 24 else 16) ∧
        ∃ (m' : Nat) (e' : Int), fval f w.1 = .fin neg m' e' ∧ (m' : ℚ) * (2 : ℚ) ^ e' = y)) ∧
  (
    ∀ (f : Fmt) (a b : Nat) (big nan : Bool), (f = .f32 ∨ f = .f64) →
      let x := fval f a
      let y := fval f b
      let flags := x.sigFlag ||| y.sigFlag
      let un : Prop := x.isNaN = true ∨ y.isNaN = true
      let w := minmaxV f big nan a b
      w.2 = flags ∧ ((x.isNaN = true ∧ y.isNaN = true) ∨ (nan = true ∧ un) → w.1 = canonNaN f) ∧
      (nan = false → x.isNaN = true → y.isNaN = false → w.1 = b) ∧ (nan = false → x.isNaN = false → y.isNaN = true → w.1 = a) ∧
      (¬un → (if big then before x y else before y x) → w.1 = b) ∧ (¬un → ¬(if big then before x y else before y x) → w.1 = a) ∧
      ((fsetV f .eq a b).1 = true ↔ ¬un ∧ ¬less x y ∧ ¬less y x) ∧ ((fsetV f .neu a b).1 = true ↔ un ∨ less x y ∨ less y x) ∧
      ((fsetV f .lt a b).1 = true ↔ less x y) ∧ ((fsetV f .le a b).1 = true ↔ ¬un ∧ ¬less y x) ∧
      (fsetV f .eq a b).2 = flags ∧ (fsetV f .neu a b).2 = flags ∧
      (un → (fsetV f .lt a b).2 = 1 ∧ (fsetV f .le a b).2 = 1) ∧ (¬un → (fsetV f .lt a b).2 = 0 ∧ (fsetV f .le a b).2 = 0)) ∧
  (
    ∀ (f : Fmt) (a : Nat) (rm : RMode) (draw : Nat) (exact : Bool), (f = .f32 ∨ f = .f64) → a < 2 ^ f.bits →
      let w := frndV f rm draw exact a
      let e := a / 2 ^ fracBits f % 2 ^ expBits f
      let fr := a % 2 ^ fracBits f
      let neg := a.testBit (f.bits - 1)
      (∀ sig n p, fval f a = .nan sig n p → w = (canonNaN f, if sig then 1 else 0)) ∧ (∀ n, fval f a = .inf n → w = (a, 0)) ∧
      (∀ n m p, fval f a = .fin n m p → ∃ (k m' : Nat) (p' : Int), picks rm draw n |ratOf (fval f a)| 1 k ∧ fval f w.1 = .fin n m' p' ∧
        (m' : ℚ) * (2 : ℚ) ^ p' = k ∧ (m = 0 → w.1 = a) ∧ w.2 = if exact = true ∧ |ratOf (fval f a)| ≠ k then 16 else 0) ∧
      fclassV f a = (if e = 2 ^ expBits f - 1 then (if fr = 0 then (if neg then 4 else 512) else if fr.testBit (fracBits f - 1) then 2 else 1)
        else if e ≠ 0 then (if neg then 8 else 256) else if fr = 0 then (if neg then 32 else 64) else if neg then 16 else 128)) ∧
  (
    ∀ (f g : Fmt) (rm : RMode) (draw : Nat) (a b c : W32), (f = .e4m3 ∨ f = .e5m2) → (g = .e4m3 ∨ g = .e5m2) →
      let x (i : Nat) := fval f (a.toNat / 2 ^ (8 * i) % 256)
      let y (i : Nat) := fval g (b.toNat / 2 ^ (8 * i) % 256)
      let z := fval .f32 c.toNat
      let w := dotFp8 f g rm draw a b c
      let flags : Flags := (List.range 4).foldl (fun h i => h ||| (x i).sigFlag ||| (y i).sigFlag) z.sigFlag
      let bad : Prop := ∃ i < 4, ∃ n m e, (x i = .inf n ∧ y i = .fin m 0 e) ∨ (y i = .inf n ∧ x i = .fin m 0 e)
      let nan : Prop := z.isNaN = true ∨ ∃ i < 4, (x i).isNaN = true ∨ (y i).isNaN = true
      /- an infinite term of a sign -/
      let inf (n : Bool) : Prop := z = .inf n ∨ ∃ i < 4, ((∃ m, x i = .inf m) ∨ ∃ m, y i = .inf m) ∧ n = (signOf (x i) != signOf (y i))
      let sum : ℚ := (List.range 4).foldl (fun q i => q + ratOf (x i) * ratOf (y i)) (ratOf z)
      let one (n : Bool) : Prop := signOf z = n ∧ ∀ i < 4, (signOf (x i) != signOf (y i)) = n
      (bad → w = (canonNaN .f32, flags ||| 1)) ∧ (¬bad → nan → w = (canonNaN .f32, flags)) ∧
      (¬bad → ¬nan → inf true → inf false → w = (canonNaN .f32, 1)) ∧
      (∀ n, ¬bad → ¬nan → inf n → ¬inf (!n) → w = (infBits .f32 n, 0)) ∧
      (¬nan → ¬inf true → ¬inf false → (∀ n, one n → delivers .f32 rm draw n sum w) ∧
        (¬one true → ¬one false → delivers .f32 rm draw (rm == .rdn) sum w))) ∧
  (
    ∀ (k : CvtArgs) (a b : Fmt) (t : ITy) (draw v : Nat), a ≠ b →
      let n : Nat := if t.wide then 64 else 32
      let signed : Bool := t == .i32 || t == .i64
      /- a value beyond the target, of a sign, that the mode makes an infinity or the largest value -/
      let big (neg : Bool) : Prop := k.rm = .rne ∨ k.rm = .sto ∨ (k.rm = .rdn ∧ neg = true) ∨ (k.rm = .rup ∧ neg = false)
      let beyond (neg : Bool) (w : Nat) : Prop :=
        (b = .e2m1 ∨ (k.sat = true ∧ (b = .e4m3 ∨ b = .e5m2)) ∨ ¬big neg → w = maxBits b neg) ∧
        (b ≠ .e2m1 → big neg → (b = .e4m3 → k.sat = false → w = 0x7F) ∧ (b = .e5m2 → k.sat = false → w = infBits b neg) ∧
          (b ≠ .e4m3 → b ≠ .e5m2 → w = infBits b neg))
      (k.src = .flt a → k.dst = .flt b →
        let w := convert k draw v
        let wider : Prop := (a = .f32 ∧ b = .f64) ∨ ((a = .f16 ∨ a = .bf16) ∧ (b = .f32 ∨ b = .f64)) ∨
          (a = .e5m2 ∧ (b = .f64 ∨ b = .f32 ∨ b = .f16 ∨ b = .bf16))
        (∀ sig neg fr, fval a v = .nan sig neg fr →
          (b = .e2m1 → w = (0, 1)) ∧ (b ≠ .e2m1 → ¬wider → w = (canonNaN b, if sig then 1 else 0)) ∧
          (wider → w.2 = (if sig then 1 else 0) ∧ fval b w.1 =
            .nan false neg (Nat.lor (fr * 2 ^ (fracBits b - fracBits a)) (2 ^ (fracBits b - 1))))) ∧
        (∀ neg, fval a v = .inf neg → w =
          if b = .e2m1 then (maxBits b neg, 1) else if b = .e4m3 then (if k.sat then maxBits b neg else 0x7F, 1)
          else if b = .e5m2 ∧ k.sat = true then (maxBits b neg, 1) else (infBits b neg, 0)) ∧
        (∀ neg m e, fval a v = .fin neg m e → (m = 0 → w = (signBit b neg, 0)) ∧
          (m ≠ 0 → (roundTo b k.rm draw neg m e).beyond = false → w = roundF b k.rm draw neg m e) ∧
          (m ≠ 0 → (roundTo b k.rm draw neg m e).beyond = true → beyond neg w.1 ∧ w.2 = 20))) ∧
      (k.src = .flt a → k.dst = .int t →
        let w := convert k draw v
        let lo : Int := if signed then -2 ^ (n - 1) else 0
        let hi : Int := if signed then 2 ^ (n - 1) - 1 else 2 ^ n - 1
        let bits (i : Int) : Nat := (i % 2 ^ n).toNat
        ((fval a v).isNaN = true → w = (0, 1)) ∧ (∀ neg, fval a v = .inf neg → w = (bits (if neg then lo else hi), 1)) ∧
        (∀ neg m e, fval a v = .fin neg m e → ∃ j : Nat, picks k.rm draw neg |ratOf (fval a v)| 1 j ∧
          let i : Int := if neg then -(j : Int) else j
          w = if hi < i then (bits hi, 1) else if i < lo then (bits lo, 1) else (bits i, if (j : ℚ) = |ratOf (fval a v)| then 0 else 16))) ∧
      (k.src = .int t → k.dst = .flt b → v < 2 ^ n →
        let w := convert k draw v
        let i : Int := if signed ∧ 2 ^ (n - 1) ≤ v then (v : Int) - 2 ^ n else v
        let neg := decide (i < 0)
        (i = 0 → w = (0, 0)) ∧
        (i ≠ 0 → (roundTo b k.rm draw neg i.natAbs 0).beyond = false →
          w.1 = (roundF b k.rm draw neg i.natAbs 0).1 ∧ w.2 = if (roundTo b k.rm draw neg i.natAbs 0).inexact then 16 else 0) ∧
        (i ≠ 0 → (roundTo b k.rm draw neg i.natAbs 0).beyond = true → beyond neg w.1 ∧ w.2 = 20)))

/-! ## Lane memory -/

/-- R161, R166, R167: `ld` and `ldx` whose lanes may all read plainly, from leaves with A set and bytes at their home: each lane left receives the
bytes at its address, extended by its type, in one or two registers and the latch; memory is not changed. R165, R264: an acquire of grid or wider scope
drops the lines of the cluster's cache that come from no sealed page, and no other load drops any. R176: `pref`
requests lines and is done; no register and no memory changes, and no lane traps or misses. R311, R318: in a `DET` launch or a task each byte is
that of the warp's own last store to it, and a task's lines join its read set. R198, R199: in a `SHADOW` launch the leading warp's values, of memory
and of typed buffers, enter the load value queue, and the shadow takes them from there, without a translation and without a buffer; both log the
addresses.
Where the spec is open it rests on the model's readings, logs 9, 10, 12, 21 and 31. -/
def Obligations.LaneLoads : Prop :=
  (
    ∀ (s : State) (b : Block) (h : LaneHdr) (t : MTy) (acq : Option Scope) (x : IdxArgs) (tr : Nat → Trans), quiet s →
      let c := laneView s b h
      let n := t.bytes
      let loads (i : Instr) (acq : Option Scope) (va : Nat → Nat) : Prop := laneReady i s b h →
        (∀ l < 64, (lanesLeft s b h).getLsbD l = true → plainAccess s accRead n (va l) (tr l) ∧ atHome s (tr l) n ∧ marked s (tr l) false) →
        completes i s fun u =>
          (∃ v : Nat → Nat, lanesLoaded u s b h (if t = .n64 then 2 else 1) v ∧ ∀ l < 64, (lanesLeft s b h).getLsbD l = true →
            let m := bytesToNat (s.placeRead (tr l).place (tr l).pa n)
            v l = if (t = .i8 ∨ t = .i16) ∧ 2 ^ (8 * n - 1) ≤ m then 2 ^ 32 - 2 ^ (8 * n) + m else m) ∧
          (∀ a, u.devByte a = s.devByte a) ∧ u.hostMem = s.hostMem ∧
          (∀ y, y ∈ u.cdc ↔ y ∈ s.cdc ∧ ¬((acq = some .grid ∨ acq = some .domain ∨ acq = some .sys) ∧ y.cluster = s.clusterOf s.warp ∧ y.isSealed = false)) ∧
          { u with warp := s.warp, dev := s.dev, tags := s.tags, cdc := s.cdc, fills := s.fills, migCounts := s.migCounts, migDies := s.migDies } = s
      loads (.ld h t acq) acq c.va ∧ loads (.ldx h t x) none (c.vax x)) ∧
  (
    ∀ (s : State) (b : Block) (h : LaneHdr), laneReady (.pref h) s b h →
      completes (.pref h) s fun u => lanesStored u s b ∧ { u with warp := s.warp, fills := s.fills } = s ∧
        ∀ f ∈ u.fills, f ∈ s.fills ∨ f.cluster = s.clusterOf s.warp) ∧
  (
    ∀ (s : State) (b : Block) (h : LaneHdr) (t : MTy) (acq : Option Scope) (x : IdxArgs) (tr : Nat → Trans), holdsBack s →
      let c := laneView s b h
      let n := t.bytes
      let loads (i : Instr) (va : Nat → Nat) : Prop := laneReady i s b h →
        (∀ l ∈ lanesInOrder s b h, reaches s accRead n (va l) (tr l) ∧ atHome s (tr l) n ∧ (s.warp.task ≠ none → (tr l).place = .device)) →
        completes i s fun u =>
          (∃ v : Nat → Nat, lanesLoaded { u with warp := { u.warp with task := s.warp.task } } s b h (if t = .n64 then 2 else 1) v ∧
            ∀ l ∈ lanesInOrder s b h, let m := bytesToNat ((List.range n).map fun j => ownByte s (tr l).place ((tr l).pa + j))
              v l = if (t = .i8 ∨ t = .i16) ∧ 2 ^ (8 * n - 1) ≤ m then 2 ^ 32 - 2 ^ (8 * n) + m else m) ∧
          (s.warp.task = none → u.warp.task = none) ∧
          (∀ k, s.warp.task = some k → ∃ k', u.warp.task = some k' ∧ { k' with readSet := k.readSet } = k ∧
            ∀ y, y ∈ k'.readSet ↔ y ∈ k.readSet ∨ ∃ l ∈ lanesInOrder s b h, y = ((tr l).place, (tr l).pa / 128)) ∧
          (∀ a, u.devByte a = s.devByte a) ∧ u.hostMem = s.hostMem ∧
          { u with warp := s.warp, dev := s.dev, tags := s.tags, cdc := s.cdc, fills := s.fills, migCounts := s.migCounts, migDies := s.migDies } = s
      loads (.ld h t acq) c.va ∧ loads (.ldx h t x) (c.vax x)) ∧
  (
    ∀ (s : State) (b : Block) (h : LaneHdr) (t : MTy) (acq : Option Scope) (x : IdxArgs) (buf : Buf) (cnt : Cnt) (tr : Nat → Trans) (ad : Nat → BufAddr)
        (y : Nat → Nat) (rest : List LvqVal),
      let c := laneView s b h
      let g := s.warp.ident.grid
      let lanes := lanesInOrder s b h
      let value (n : Nat) (extend : Bool) (m : Nat) : Nat :=
        if extend = true ∧ (t = .i8 ∨ t = .i16) ∧ 2 ^ (8 * n - 1) ≤ m then 2 ^ 32 - 2 ^ (8 * n) + m else m
      /- a load of n bytes in each lane: what the leading warp needs and finds, and what the shadow needs -/
      let loads (i : Instr) (n regs : Nat) (extend : Bool) (va : Nat → Nat) (ok : Nat → Prop) (found : Nat → Nat) (ok' : Nat → Prop) : Prop :=
        laneReady i s b h →
        (leads s → (∀ l ∈ lanes, ok l) → completes i s fun u =>
          (∃ v : Nat → Nat, lanesLoaded u s b h regs v ∧ ∀ l ∈ lanes, v l = value n extend (found l)) ∧
          u.lvq = s.lvq ++ lanes.map (fun l => .known (found l)) ∧ u.items = s.items ++ lanes.map (fun l => ⟨1, [va l], laneBit l, va l⟩) ∧
          (∀ a, u.devByte a = s.devByte a) ∧ u.hostMem = s.hostMem ∧
          { u with warp := s.warp, dev := s.dev, tags := s.tags, cdc := s.cdc, fills := s.fills, migCounts := s.migCounts, migDies := s.migDies,
                   items := s.items, lvq := s.lvq } = s) ∧
        (follows s → (∀ l ∈ lanes, ok' l) → s.lvq = lanes.map (fun l => .known (y l)) ++ rest → completes i s fun u =>
          (∃ v : Nat → Nat, lanesLoaded u s b h regs v ∧ ∀ l ∈ lanes, v l = value n extend (y l)) ∧
          u.lvq = rest ∧ u.items = s.items ++ lanes.map (fun l => ⟨1, [va l], laneBit l, va l⟩))
      let memory (i : Instr) (va : Nat → Nat) : Prop := loads i t.bytes (if t = .n64 then 2 else 1) true va
        (fun l => reaches s accRead t.bytes (va l) (tr l) ∧ atHome s (tr l) t.bytes) (fun l => bytesToNat (s.placeRead (tr l).place (tr l).pa t.bytes))
        (fun l => va l % t.bytes = 0)
      let buffer (i : Instr) (n regs : Nat) (extend : Bool) (at' : Nat → Prop) (ok' : Nat → Prop) : Prop := loads i n regs extend c.sa
        (fun l => c.sa l % n = 0 ∧ at' l ∧ (s.bufMem g (ad l)).poisoned (ad l).off n = false) (fun l => bytesToNat ((s.bufMem g (ad l)).read (ad l).off n))
        (fun l => c.sa l % n = 0 ∧ ok' l)
      memory (.ld h t acq) c.va ∧ memory (.ldx h t x) (c.vax x) ∧
      buffer (.lds h t) t.bytes (if t = .n64 then 2 else 1) true (fun l => s.scratch s.warp (c.sa l) false false = .ok (ad l)) (fun _ => True) ∧
      buffer (.ldb h t buf cnt) (t.bytes * cnt.num) ((bufRun t cnt).getD 1) (cnt == .x1)
        (fun l => c.sa l < 2 ^ 19 ∧ ad l = ⟨s.warp.ident.crew, buf.num, c.sa l⟩) (fun l => c.sa l < 2 ^ 19))

/-- R161, R166, R167: `st` and `stx` whose lanes may all write plainly, to leaves with A and D set and not into a page table: each lane left stores
the low bytes of its source, in lane order, so that the highest lane prevails where lanes overlap; every other byte of memory, and every register, is
unchanged.
Where the spec is open it rests on the model's readings, logs 9 and 10. -/
def Obligations.LaneStores : Prop :=
  ∀ (s : State) (b : Block) (h : LaneHdr) (t : MTy) (rel : Option Scope) (x : IdxArgs) (tr : Nat → Trans), quiet s → still s →
    (∀ sc, rel = some sc → s.releaseReady sc = true) →
    let c := laneView s b h
    let n := t.bytes
    let left (l : Nat) : Prop := l < 64 ∧ (lanesLeft s b h).getLsbD l = true
    let stores (i : Instr) (va : Nat → Nat) (data : Src) : Prop := laneReady i s b h →
      (∀ l, left l → plainAccess s accWrite n (va l) (tr l) ∧ marked s (tr l) true ∧
        ((tr l).place = .device → s.isTableSlot (tr l).pa = false ∧ s.inTable (tr l).pa 4 (s.part s.warp.ident.part).cfg.root = false)) →
      let covers (p : Place) (l a : Nat) : Prop := left l ∧ (tr l).place = p ∧ (tr l).pa ≤ a ∧ a < (tr l).pa + n
      let holds (p : Place) (before after : Nat → Byte) : Prop := ∀ a,
        ((∀ l, ¬covers p l a) → after a = before a) ∧
        ∀ l, covers p l a → (∀ k, l < k → ¬covers p k a) → after a = (c.src t.wide data l).extractLsb' (8 * (a - (tr l).pa)) 8
      completes i s fun u => holds .device s.devByte u.devByte ∧ holds .host s.hostMem.byte u.hostMem.byte ∧ lanesStored u s b ∧
        u.dev.poison = s.dev.poison ∧ u.hostMem.poison = s.hostMem.poison ∧ storeFrame u s
    stores (.st h t rel) c.va h.b ∧ stores (.stx h t x) (c.vax x) h.c

/-- R159, R160, R168: `lds` and `ldb` from typed buffers of the warp's team without poison: each lane left receives the bytes at its offset; nothing
else changes.
Where the spec is open it rests on the model's readings, log 10. -/
def Obligations.BufferLoads : Prop :=
  ∀ (s : State) (b : Block) (h : LaneHdr) (t : MTy) (buf : Buf) (cnt : Cnt) (ad : Nat → BufAddr), quiet s →
    let c := laneView s b h
    let g := s.warp.ident.grid
    let loads (i : Instr) (n regs : Nat) (extend : Bool) (at' : Nat → BufAddr → Prop) : Prop := laneReady i s b h →
      (∀ l < 64, (lanesLeft s b h).getLsbD l = true → c.sa l % n = 0 ∧ at' l (ad l) ∧ (s.bufMem g (ad l)).poisoned (ad l).off n = false) →
      completes i s fun u => onlyWarp u s ∧ ∃ v : Nat → Nat, lanesLoaded u s b h regs v ∧ ∀ l < 64, (lanesLeft s b h).getLsbD l = true →
        let m := bytesToNat ((s.bufMem g (ad l)).read (ad l).off n)
        v l = if extend = true ∧ (t = .i8 ∨ t = .i16) ∧ 2 ^ (8 * n - 1) ≤ m then 2 ^ 32 - 2 ^ (8 * n) + m else m
    loads (.lds h t) t.bytes (if t = .n64 then 2 else 1) true (fun l a => s.scratch s.warp (c.sa l) false false = .ok a) ∧
    loads (.ldb h t buf cnt) (t.bytes * cnt.num) ((bufRun t cnt).getD 1) (cnt == .x1)
      (fun l a => c.sa l < 2 ^ 19 ∧ a = ⟨s.warp.ident.crew, buf.num, c.sa l⟩)

/-- R159, R160, R168: `sts` and `stb` to typed buffers, outside tasks: each lane left stores its source, in lane order; every other byte of every
buffer, and everything outside them, is unchanged.
Where the spec is open it rests on the model's readings, log 10. -/
def Obligations.BufferStores : Prop :=
  ∀ (s : State) (b : Block) (h : LaneHdr) (t : MTy) (buf : Buf) (cnt : Cnt) (ad : Nat → BufAddr), quiet s → s.warp.task = none →
    let c := laneView s b h
    let g := s.warp.ident.grid
    let left (l : Nat) : Prop := l < 64 ∧ (lanesLeft s b h).getLsbD l = true
    let stores (i : Instr) (n : Nat) (at' : Nat → BufAddr → Prop) (data : Nat → Nat → Byte) : Prop := laneReady i s b h →
      (∀ l, left l → c.sa l % n = 0 ∧ at' l (ad l) ∧ s.crew? g (ad l).crew ≠ none) →
      let covers (k : Nat) (q : Buf) (l o : Nat) : Prop := left l ∧ (ad l).crew = k ∧ (ad l).buf = q.num ∧ (ad l).off ≤ o ∧ o < (ad l).off + n
      completes i s fun u => lanesStored u s b ∧ { u with warp := s.warp, crews := s.crews } = s ∧
        ∀ (k : Nat) (q : Buf) (o : Nat),
          let before := (s.bufMem g ⟨k, q.num, 0⟩).byte o
          let after := (u.bufMem g ⟨k, q.num, 0⟩).byte o
          ((∀ l, ¬covers k q l o) → after = before) ∧
          (∀ l, covers k q l o → (∀ j, l < j → ¬covers k q j o) → after = data l (o - (ad l).off))
    stores (.sts h t) t.bytes (fun l a => s.scratch s.warp (c.sa l) true false = .ok a)
      (fun l j => (c.src t.wide h.b l).extractLsb' (8 * j) 8) ∧
    stores (.stb h t buf cnt) (t.bytes * cnt.num) (fun l a => c.sa l < 2 ^ 19 ∧ a = ⟨s.warp.ident.crew, buf.num, c.sa l⟩)
      (fun l j => if cnt = .x1 then (c.src t.wide h.b l).extractLsb' (8 * j) 8 else
        match h.b with
        | .v r => (s.warp.vlane (r.toNat + j / 4) l).extractLsb' (8 * (j % 4)) 8
        | _ => 0)

/-- R162, R171, R172: `atom` and `ared` in memory, outside `DET` launches and tasks, whose lanes may all write plainly, to leaves with A and D set,
not into a page table, and free of poison: the lanes left act on their locations one after the other; `atom` delivers what each found. Every other
byte of memory is unchanged.
Where the spec is open it rests on the model's readings, logs 9 and 32. -/
def Obligations.Atomics : Prop :=
  ∀ (s : State) (b : Block) (h : LaneHdr) (t : ATy) (k : AtomArgs) (tr : Nat → Trans), quiet s → still s → k.spad = false → s.warp.det = false →
    s.warp.task = none → k.use ≠ .qtm → k.use ≠ .spc → (k.ord = .rel ∨ k.ord = .acqrel → s.releaseReady k.scope = true) →
    let c := laneView s b h
    let n : Nat := if t = .n64 then 8 else 4
    let va := c.atomAddr k
    let left (l : Nat) : Bool := decide (l < 64) && (lanesLeft s b h).getLsbD l
    let y (l : Nat) : Nat := (c.src t.wide h.b l).toNat
    let z (l : Nat) : Nat := (c.src t.wide h.c l).toNat
    (∀ l, left l = true → plainAccess s accAtomic n (va l) (tr l) ∧ marked s (tr l) true ∧ s.placePoisoned (tr l).place (tr l).pa n = false ∧
      ((tr l).place = .device → s.isTableSlot (tr l).pa = false ∧ s.inTable (tr l).pa 4 (s.part s.warp.ident.part).cfg.root = false)) →
    let loc (l : Nat) : Place × Nat := ((tr l).place, (tr l).pa)
    let found (l upTo : Nat) : Nat := atomsOn left loc k.op t y z (loc l) (bytesToNat (s.placeRead (tr l).place (tr l).pa n)) upTo
    let done (u : State) : Prop :=
      (∀ l, left l = true → bytesToNat (u.placeRead (tr l).place (tr l).pa n) = found l 64 % 2 ^ (8 * n)) ∧
      (∀ a, (∀ l, left l = true → (tr l).place = .device → a < (tr l).pa ∨ (tr l).pa + n ≤ a) → u.devByte a = s.devByte a) ∧
      (∀ a, (∀ l, left l = true → (tr l).place = .host → a < (tr l).pa ∨ (tr l).pa + n ≤ a) → u.hostMem.byte a = s.hostMem.byte a) ∧
      storeFrame u s
    (laneReady (.atom h t k) s b h → completes (.atom h t k) s fun u => done u ∧
      ∃ v : Nat → Nat, lanesLoaded u s b h (if t = .n64 then 2 else 1) v ∧ ∀ l, left l = true → v l = found l l % 2 ^ (8 * n)) ∧
    (laneReady (.ared h t k) s b h → completes (.ared h t k) s fun u => done u ∧ lanesStored u s b)

/-- R160, R171, R175: scratchpad atomics, outside tasks, on locations of the team's typed buffers without poison: the lanes left act on their
locations one after the other, and `atom` delivers what each found; every other byte of every buffer is unchanged. R174, R177: an atomic of another
use than the warp's mode permits traps `MODE`: DETAIL 1 `.qtm` outside `DET` launches, 2 any other use in them, 3 `.spc` outside tasks, 4 another use
in a task, 5 a scratchpad atomic in a task. R172, R173: the new value of each operation, from the old one, y and z. R311, R318: a `.qtm` atomic of a
`DET` launch, and a `.spc` one of a task, go to the carrel; the old value of a `.qtm` `atom` is delivered at the commit, for which it waits, and that of a
`.spc` one at once, as the warp's own stores leave it. R198, R199: in a `SHADOW` launch the leading warp's `ared` is held for the shadow, and its `atom`
is performed and its old value enters the load value queue.
Where the spec is open it rests on the model's readings, logs 9, 10, 21, 30 and 113. -/
def Obligations.AtomicForms : Prop :=
  (
    ∀ (s : State) (b : Block) (h : LaneHdr) (t : ATy) (k : AtomArgs) (ad : Nat → BufAddr), quiet s → k.spad = true → s.warp.task = none →
      (k.ord = .rel ∨ k.ord = .acqrel → s.releaseReady k.scope = true) →
      let c := laneView s b h
      let n : Nat := if t = .n64 then 8 else 4
      let g := s.warp.ident.grid
      let va := c.atomAddr k
      let left (l : Nat) : Bool := decide (l < 64) && (lanesLeft s b h).getLsbD l
      let y (l : Nat) : Nat := (c.src t.wide h.b l).toNat
      let z (l : Nat) : Nat := (c.src t.wide h.c l).toNat
      (∀ l, left l = true → va l % n = 0 ∧ s.scratch s.warp (va l) true true = .ok (ad l) ∧ (s.bufMem g (ad l)).poisoned (ad l).off n = false) →
      let found (l upTo : Nat) : Nat := (List.range upTo).foldl (fun v j => if left j && ad j == ad l then atomNew k.op t v (y j) (z j) else v)
        (bytesToNat ((s.bufMem g (ad l)).read (ad l).off n))
      let done (u : State) : Prop :=
        (∀ l, left l = true → bytesToNat ((u.bufMem g (ad l)).read (ad l).off n) = found l 64 % 2 ^ (8 * n)) ∧
        (∀ (e : BufAddr), e.buf < 3 → (∀ l, left l = true → (ad l).crew = e.crew → (ad l).buf = e.buf → e.off < (ad l).off ∨ (ad l).off + n ≤ e.off) →
          (u.bufMem g e).byte e.off = (s.bufMem g e).byte e.off) ∧
        { u with warp := s.warp, crews := s.crews } = s
      (laneReady (.atom h t k) s b h → completes (.atom h t k) s fun u => done u ∧
        ∃ v : Nat → Nat, lanesLoaded u s b h (if t = .n64 then 2 else 1) v ∧ ∀ l, left l = true → v l = found l l % 2 ^ (8 * n)) ∧
      (laneReady (.ared h t k) s b h → completes (.ared h t k) s fun u => done u ∧ lanesStored u s b)) ∧
  (
    ∀ (s : State) (b : Block) (h : LaneHdr) (t : ATy) (k : AtomArgs) (detail : W32),
      let w := s.warp
      ((k.spad = true ∧ w.task ≠ none ∧ detail = 5) ∨ (k.spad = false ∧
        ((k.use = .qtm ∧ w.det = false ∧ detail = 1) ∨ (k.use ≠ .qtm ∧ w.det = true ∧ detail = 2) ∨
          (k.use = .spc ∧ w.det = false ∧ w.task = none ∧ detail = 3) ∨
          (k.use ≠ .qtm ∧ k.use ≠ .spc ∧ w.det = false ∧ w.task ≠ none ∧ detail = 4)))) →
      let traps (i : Instr) : Prop := laneReady i s b h →
        ∃ u : State, { u.warp with resident := w.resident } = w ∧ onlyWarp u s ∧ exec i s = .next (u.trap ⟨0x0C, detail, 0, destInfo h, b.addr, 4, true, 0⟩)
      traps (.atom h t k) ∧ traps (.ared h t k)) ∧
  (
    ∀ (t : ATy) (old y z : Nat), let n : Nat := if t = .n64 then 64 else 32
      let signed (x : Nat) : Int := if 2 ^ (n - 1) ≤ x then (x : Int) - 2 ^ n else x
      let new (op : AOp) := atomNew op t old y z
      old < 2 ^ n → y < 2 ^ n →
      new .exch = y ∧ new .cas = (if old = y then z else old) ∧
      (t = .f32 → new .add = (addV .f32 .rne 0 (fval .f32 old) (fval .f32 y)).1 ∧ new .min = (minmaxV .f32 false false old y).1 ∧
        new .max = (minmaxV .f32 true false old y).1) ∧
      (t ≠ .f32 → new .add = (old + y) % 2 ^ n ∧ new .min = (if signed old ≤ signed y then old else y) ∧
        new .max = (if signed old ≤ signed y then y else old) ∧ new .minn = min old y ∧ new .maxn = max old y ∧
        (∀ j, (new .conj).testBit j = (old.testBit j && y.testBit j)) ∧ (∀ j, (new .disj).testBit j = (old.testBit j || y.testBit j)) ∧
        (∀ j, (new .xor).testBit j = (old.testBit j != y.testBit j)) ∧ new .inc = (if y ≤ old then 0 else old + 1) ∧
        new .dec = (if old = 0 ∨ y < old then y else old - 1))) ∧
  (
    ∀ (s : State) (b : Block) (h : LaneHdr) (t : ATy) (k : AtomArgs) (tr : Nat → Trans), k.spad = false →
      (k.ord = .rel ∨ k.ord = .acqrel → s.releaseReady k.scope = true) →
      let c := laneView s b h
      let n : Nat := if t = .n64 then 8 else 4
      let va := c.atomAddr k
      let lanes := lanesInOrder s b h
      let y (l : Nat) : W64 := c.src t.wide h.b l
      let z (l : Nat) : W64 := c.src t.wide h.c l
      let entry (ret : Nat → Option Ret) (l : Nat) : CarrelEnt :=
        .atomic (tr l).place (tr l).pa k.op t (y l) (z l) (ret l) s.warp.ticket (laneBit l) (va l)
      let items (u : State) : Prop := u.items = s.items ++ lanes.map (fun l => ⟨4, [va l, (y l).toNat, (z l).toNat], laneBit l, va l⟩)
      let unchanged (u : State) : Prop := (∀ a, u.devByte a = s.devByte a) ∧ u.hostMem = s.hostMem ∧
        { u with warp := s.warp, dev := s.dev, tags := s.tags, cdc := s.cdc, fills := s.fills, migCounts := s.migCounts, migDies := s.migDies,
                 items := s.items, stores := s.stores } = s
      /- the warp but for its carrel, its task and its wait -/
      let warpOf (u : State) : State := { u with warp := { u.warp with carrel := s.warp.carrel, task := s.warp.task, wait := s.warp.wait } }
      (holdsBack s → s.warp.task = none → k.use = .qtm → (∀ l ∈ lanes, reaches s accAtomic n (va l) (tr l)) →
        (laneReady (.ared h t k) s b h → completes (.ared h t k) s fun u => u.warp.entries = s.warp.entries ++ lanes.map (entry fun _ => none) ∧
          lanesStored (warpOf u) s b ∧ u.warp.wait = s.warp.wait ∧ u.warp.task = none ∧ unchanged u ∧ u.items = s.items ∧ u.stores = s.stores) ∧
        (laneReady (.atom h t k) s b h → completes (.atom h t k) s fun u =>
          u.warp.entries = s.warp.entries ++ lanes.map (entry fun l => some ⟨l, h.dest, h.wbs, h.latch, s.warp.arm⟩) ∧
          lanesStored (warpOf u) s b ∧ u.warp.wait = .commit ∧ u.warp.task = none ∧ unchanged u ∧ u.items = s.items ∧ u.stores = s.stores)) ∧
      (holdsBack s → s.warp.task ≠ none → s.warp.det = false → k.use = .spc → (∀ l ∈ lanes, reaches s accAtomic n (va l) (tr l) ∧ (tr l).place = .device) →
        (laneReady (.ared h t k) s b h → completes (.ared h t k) s fun u => u.warp.entries = s.warp.entries ++ lanes.map (entry fun _ => none) ∧
          lanesStored (warpOf u) s b ∧ u.warp.carrel = s.warp.carrel ∧ u.warp.wait = s.warp.wait ∧ unchanged u ∧ u.items = s.items) ∧
        (laneReady (.atom h t k) s b h → (∀ l ∈ lanes, s.placePoisoned .device (tr l).pa n = false) → (∀ l ∈ lanes, ∀ j ∈ lanes, l ≠ j →
            (tr l).pa + n ≤ (tr j).pa ∨ (tr j).pa + n ≤ (tr l).pa) →
          completes (.atom h t k) s fun u => u.warp.entries = s.warp.entries ++ lanes.map (entry fun _ => none) ∧ u.warp.carrel = s.warp.carrel ∧
            u.warp.wait = s.warp.wait ∧ unchanged u ∧ u.items = s.items ∧
            ∃ v : Nat → Nat, lanesLoaded (warpOf u) s b h (if t = .n64 then 2 else 1) v ∧
              ∀ l ∈ lanes, v l = bytesToNat ((List.range n).map fun j => ownByte s .device ((tr l).pa + j)))) ∧
      (leads s → k.use ≠ .qtm → k.use ≠ .spc → (∀ l ∈ lanes, reaches s accAtomic n (va l) (tr l) ∧ pteMoving (tr l).entry = false) →
        (laneReady (.ared h t k) s b h → completes (.ared h t k) s fun u =>
          u.stores = s.stores ++ lanes.map (fun l => .mem (entry (fun _ => none) l)) ∧ lanesStored u s b ∧ unchanged u ∧ items u) ∧
        (laneReady (.atom h t k) s b h → still s → (∀ l ∈ lanes, s.placePoisoned (tr l).place (tr l).pa n = false ∧
            ((tr l).place = .device → s.isTableSlot (tr l).pa = false ∧ s.inTable (tr l).pa 4 (s.part s.warp.ident.part).cfg.root = false)) →
          let loc (l : Nat) : Place × Nat := ((tr l).place, (tr l).pa)
          let found (l upTo : Nat) : Nat := atomsOn (fun j => lanes.contains j) loc k.op t (fun j => (y j).toNat) (fun j => (z j).toNat) (loc l)
            (bytesToNat (s.placeRead (tr l).place (tr l).pa n)) upTo
          completes (.atom h t k) s fun u =>
            (∃ v : Nat → Nat, lanesLoaded u s b h (if t = .n64 then 2 else 1) v ∧ ∀ l ∈ lanes, v l = found l l % 2 ^ (8 * n)) ∧
            (∀ l ∈ lanes, bytesToNat (u.placeRead (tr l).place (tr l).pa n) = found l 64 % 2 ^ (8 * n)) ∧
            u.lvq = s.lvq ++ lanes.map (fun l => .known (found l l % 2 ^ (8 * n))) ∧ items u ∧
            storeFrame { u with items := s.items, lvq := s.lvq } s)))

/-! ## The matrix engine, links and the deque -/

/-- R234, R239, R245, R247 to R249, R254, R255: the matrix words with a bound handle or a well-formed descriptor, fitting operands of accepted types
and a free table entry, post their slip; `acc.zero` and `acc.ld` bind the handle besides. R236: `mmg` waits, before it reads its row counts, while an
earlier slip of the warp writes to them.
Where the spec is open it rests on the model's readings, logs 40, 42 and 124. -/
def Obligations.SlipEntry : Prop :=
  ∀ (s : State) (h : AReg) (a b : SReg) (z sat : Bool) (rm : RMode) (hd : Handle), matrixMode s →
    ((s.slips.filter fun x => x.cluster == s.clusterOf s.warp).length < 32) →
    let w := s.warp
    let oa := w.opndAt a
    let ob := w.opndAt b
    let x := s.sget a
    let new : Handle := ⟨16 * ((x.extractLsb' 24 4).toNat + 1), 16 * ((x.extractLsb' 28 4).toNat + 1), (x.extractLsb' 0 19).toNat, x.extractLsb' 32 32⟩
    (vget w.acc h.toNat none = some hd →
      (operandFits s a hd.rows → operandFits s b hd.cols → oa.ty ≤ 8 → ob.ty ≤ 8 → tyRow oa.ty = tyRow ob.ty → oa.k = ob.k →
        posts (.mma h a b false z) s (.mul hd oa ob z) w.acc) ∧
      (operandFits s b hd.cols → ob.ty ≤ 8 → tyMx ob.ty = false → hd.rows ≤ 64 →
        (ob.k * tyHalves ob.ty + 7) / 8 ≤ 32 → a.toNat + (ob.k * tyHalves ob.ty + 7) / 8 ≤ w.regs →
        posts (.mma h a b true z) s (.mul hd { ob with
          lanes := some ((List.range ((ob.k * tyHalves ob.ty + 7) / 8)).map fun i => vget w.v (a.toNat + i) (Vector.replicate 64 0)) } ob z) w.acc) ∧
      (∀ (counts : List Nat), let y := s.sget (b + 2)
        let table := field y 0 32
        let g := field y 32 16
        let reads : BufMark := ⟨(s.crewAtRank w (bitsOf table 19 2)).getD 0, bitsOf table 21 2, table % 2 ^ 19, table % 2 ^ 19 + 2 * g, false⟩
        let written : Prop := ∃ x ∈ s.slips, x.ofWarp w.id = true ∧ ∃ m ∈ x.marks, m.meets reads = true
        operandFits s a hd.rows → descRefused w b = false → oa.ty ≤ 8 → ob.ty ≤ 8 → tyRow oa.ty = tyRow ob.ty → oa.k = ob.k → 1 ≤ g → g ≤ 1024 →
        table % 2 = 0 → s.rangeKind table (table % 2 ^ 19 + 2 * g) = none →
        (written → exec (.mmg h a b z) s = .next { s with warp := { w with wait := .order } }) ∧
        (¬written → s.rowCounts table g = some counts → counts.foldl (· + ·) 0 ≤ hd.rows → ob.misaligned = none →
          (∀ i < g, counts.getD i 0 ≠ 0 → s.opndKind ob (groupShift hd ob (field y 48 16) i).1 (groupShift hd ob (field y 48 16) i).2 hd.cols = none) →
          posts (.mmg h a b z) s (.group hd oa ob z (field y 48 16) table counts) w.acc)) ∧
      (let y := s.sget b
        let e := Tab.get (s.part w.ident.part).banks (field y 0 8) 0
        operandFits s a hd.rows → (oa.ty = 7 ∧ field y 60 2 = 0) ∨ (oa.ty = 8 ∧ field y 60 2 = 1) → oa.k = 32 * field y 48 12 → field y 62 2 = 0 →
        field y 41 7 = 0 → field y 8 16 = 0 → field y 48 12 ≠ 0 → e.getLsbD 8 = true →
        64 * field y 24 17 + hd.cols * weightRow oa.ty oa.k ≤ 8388608 →
        posts (.mmw h a b z) s (.weight hd oa z (field e 0 8) (64 * field y 24 17)) w.acc) ∧
      (operandFits s b hd.rows → ob.ty = 0 → ob.k = hd.cols → ob.buf = 2 → posts (.accSt h b) s (.store hd ob) w.acc) ∧
      (operandFits s b hd.rows → 1 ≤ ob.ty → ob.ty ≤ 8 → ob.k = hd.cols → ob.buf = 2 → (tyMx ob.ty = true → ob.sbuf = 2) →
        (sat = true → ob.ty = 3 ∨ ob.ty = 4) → posts (.accCvt h b sat rm) s (.convert hd ob rm sat) w.acc)) ∧
    (x.extractLsb' 19 5 = 0 → new.base % 64 = 0 → new.base + 4 * new.rows * new.cols ≤ 2 ^ 19 →
      posts (.accZero h a) s (.zero new) (vset w.acc h.toNat (some new)) ∧
      (operandFits s b new.rows → ob.ty ≤ 2 → ob.k = new.cols → posts (.accLd h a b) s (.load new ob) (vset w.acc h.toNat (some new))))

/-- R250 to R252: the word `mmt`, `mmt.solo` (the cond twin only) or `tskip` (the uncond twin only) of a twin whose partner lives waits while the
partner has posted none, and for a free table entry. Where the partner has posted its own, both words complete: a pair that matches enters one slip
(that of both products, or the cond twin's own beside a `tskip`), and both twins go on with their sequence number raised; a pair that does not match
enters none, and both have `PAIR_MISMATCH` to take at their words. A pair that matches while the table is full waits, by an ordering wait, for an entry (R234). Two posts
match as R251 lists. With the partner gone the word traps `PAIR_LOST`.
TWIN_MATCH completes a posted pair that waited. Stated outside `SHADOW` launches.
Where the spec is open it rests on the model's readings, log 46. -/
def Obligations.Twins : Prop :=
  (
    ∀ (s : State) (h : AReg) (a b : SReg) (lr fold z : Bool) (p : Warp),
      let w := s.warp
      let rank := w.ident.rank % 2
      let ready : Prop := matrixMode s ∧ w.alive = true ∧ w.isTwin = true ∧ s.twinOf w = some p ∧ p.id ≠ w.id
      let fits : Prop := ∃ hd, vget w.acc h.toNat none = some hd ∧ productFits s hd a b lr
      let waits (i : Instr) := exec i s = .next { s with warp := { w with wait := .twin i } }
      let goesOn (x : Warp) : Warp := { x with wait := .none, pc := x.pc + 4, seq := x.seq + 1 }
      let refused (x : Warp) : Warp := { x with wait := .none, pending := some ⟨0x0E, 0, 0, 0, x.pc, 4, false, 0⟩ }
      let cond (i : Instr) : Warp := if rank = 0 then { w with wait := .twin i } else p
      let uncond (i : Instr) : Warp := if rank = 0 then p else { w with wait := .twin i }
      let meets (i : Instr) : Prop :=
        (p.posted = false → waits i) ∧
        (p.posted = true → p.evicted = false → w.evicted = false → w.pending = none →
          (∀ op both, matched (cond i) (uncond i) = some (op, both) →
            (s.slipRoom (s.clusterOf (cond i)) = false → completes i s fun t => t.warp = { w with wait := .entry i } ∧
              (∀ j, p.wait = .twin j ∨ p.wait = .entry j → { p with wait := .entry j } ∈ t.others) ∧
              (∀ y ∈ s.others, y.id ≠ p.id → y.id ≠ w.id → y ∈ t.others) ∧ { t with warp := s.warp, others := s.others, shadows := s.shadows } = s) ∧
            (s.slipRoom (s.clusterOf (cond i)) = true → completes i s fun t => t.warp = goesOn w ∧
              (∃ x, t.slips = s.slips ++ [x] ∧ x.op = op ∧ x.warp = (cond i).id ∧ x.twin = if both then some (uncond i).id else none) ∧
              goesOn p ∈ t.others ∧ (∀ y ∈ s.others, y.id ≠ p.id → y.id ≠ w.id → y ∈ t.others) ∧
              { t with warp := s.warp, others := s.others, shadows := s.shadows, slips := s.slips, slipOrder := s.slipOrder } = s)) ∧
          (matched (cond i) (uncond i) = none → completes i s fun t => t.warp = refused w ∧ refused p ∈ t.others ∧
            { t with warp := s.warp, others := s.others, shadows := s.shadows } = s))
      (ready → fits → meets (.mmt h a b lr fold z) ∧ (rank = 0 → meets (.mmtSolo h a b lr z))) ∧ (ready → rank = 1 → meets .tskip) ∧
      (ready → (rank = 1 → trapsAt (.mmtSolo h a b lr z) s 0x0C 24 4) ∧ (rank = 0 → trapsAt .tskip s 0x0C 24 4)) ∧
      (matrixMode s → w.isTwin = true → s.twinOf w = none → trapsAt (.mmt h a b lr fold z) s 0x0D 0 4 ∧
        (rank = 0 → trapsAt (.mmtSolo h a b lr z) s 0x0D 0 4) ∧ (rank = 1 → trapsAt .tskip s 0x0D 0 4))) ∧
  (
    ∀ (c u : Warp) (h h' : AReg) (a b a' b' : SReg) (lr fold z lr' fold' z' : Bool),
      let x := c.handle h
      let y := u.handle h'
      let oa := c.opndA a b lr
      let oa' := u.opndA a' b' lr'
      (c.wait = .twin (.mmtSolo h a b lr z) → u.wait = .twin .tskip → matched c u = some (.mul x oa (c.opndAt b) z, false)) ∧
      (c.wait = .twin (.mmt h a b lr fold z) → u.wait = .twin (.mmt h' a' b' lr' fold' z') →
        let same : Prop := lr = lr' ∧ z = z' ∧ fold = fold' ∧ oa.ty = oa'.ty ∧ oa.k = oa'.k ∧ c.sget b = u.sget b' ∧
          c.sget (b + 1) = u.sget (b' + 1) ∧ x.rows = y.rows ∧ x.cols = y.cols ∧
          (x.base + 4 * x.rows * x.cols ≤ y.base ∨ y.base + 4 * y.rows * y.cols ≤ x.base)
        (same → matched c u = some (.pair x y oa oa' (c.opndAt b) z fold, true)) ∧ (¬same → matched c u = none)) ∧
      (c.wait = .twin (.mmt h a b lr fold z) → u.wait = .twin .tskip → matched c u = none) ∧
      (c.wait = .twin (.mmtSolo h a b lr z) → u.wait = .twin (.mmt h' a' b' lr' fold' z') → matched c u = none)) ∧
  (
    ∀ (s : State) (c u : Warp), s.warp = c → s.findWarp c.id = some c → s.twinOf c = some u → u.id ≠ c.id → c.ident.rank % 2 = 0 → c.posted = true →
      u.posted = true → c.evicted = false → u.evicted = false →
      (∀ op both, matched c u = some (op, both) → s.slipRoom (s.clusterOf c) = true →
        completes (.twinMatch c.id) s fun t => t.warp = { c with wait := .none, pc := c.pc + 4, seq := c.seq + 1 } ∧
          (∃ x, t.slips = s.slips ++ [x] ∧ x.op = op ∧ x.warp = c.id ∧ x.twin = (if both then some u.id else none)) ∧
          (∀ y ∈ s.others, y.id = u.id → { y with wait := .none, pc := y.pc + 4, seq := y.seq + 1 } ∈ t.others) ∧
          (∀ y ∈ s.others, y.id ≠ u.id → y.id ≠ c.id → y ∈ t.others)) ∧
      (matched c u = none → completes (.twinMatch c.id) s fun t => t.slips = s.slips ∧
        t.warp = { c with wait := .none, pending := some ⟨0x0E, 0, 0, 0, c.pc, 4, false, 0⟩ } ∧
        ∀ y ∈ s.others, y.id = u.id → { y with wait := .none, pending := some ⟨0x0E, 0, 0, 0, y.pc, 4, false, 0⟩ } ∈ t.others))

/-- R234 to R238, R247 to R249, R252, R254 to R256, R267: an idle engine starts an eligible slip of its cluster, of priority 1 before others; aging
raises a slip to priority 1; the completion of a started slip writes what the slip computes from the buffers as they stand, in order, so that a byte
holds the last value written to it, poisons the granules of what it computes from poison, and removes the slip; every other byte and granule of every
buffer is as before. What each slip writes: a product, a grouped product and a product with a weight bank, element by element, from −0 or the element
as it stands; a twin pair's two products, the cond twin's folded where its region asks for it; zeros; loaded, stored and converted elements, by
element and, for microscaled types, by block and scale. R55: the order of a product's sums: blocks of 16 with one rounding each, their invalid and
infinite cases. R59: the guidance fold. R38 to R40: the values of elements under their scales, and the scales and elements of converted blocks.
Where the spec is open it rests on the model's readings, logs 14, 39, 41, 45, 109, 110 and 127. -/
def Obligations.SlipEvents : Prop :=
  (
    ∀ (s : State) (c n : Nat) (x : Slip),
      ((∀ y ∈ s.slips, y.cluster = c → y.started = false) → s.nextSlip c = some x →
        x ∈ s.slips ∧ x.cluster = c ∧ s.eligible x = true ∧ (x.priority ≠ 1 → ∀ y ∈ s.slips, y.cluster = c → s.eligible y = true → y.priority ≠ 1) ∧
        exec (.slipStart c) s = .next { s with slips := s.slips.map fun y => if y.order = x.order then { y with started := true } else y }) ∧
      exec (.slipAging n) s = .next { s with slips := s.slips.map fun y => if y.order = n then { y with priority := 1 } else y } ∧
      (s.slips.find? (fun y => y.order == n && y.started && !y.held) = some x → x.failed = false →
        completes (.slipComplete n false) s fun t =>
          (∀ y, y ∈ t.slips ↔ y ∈ s.slips ∧ y.order ≠ n) ∧ { t with slips := s.slips, crews := s.crews } = s ∧
          (∀ h, x.op = .zero h → s.crew? x.grid x.crew ≠ none → ∀ i < h.rows, ∀ j < h.cols,
            bytesToNat ((t.bufMem x.grid ⟨x.crew, 2, 0⟩).read (h.base + 4 * (i * h.cols + j)) 4) = 0) ∧
          (let ws := s.slipWrites x x.op.blocks
            ∀ (i : Nat) (z : SlipWrite), (∀ y ∈ ws, y.buf < 3) → ws[i]? = some z → s.crew? x.grid z.crew ≠ none →
              (∀ (j : Nat) (y : SlipWrite), i < j → ws[j]? = some y →
                y.crew ≠ z.crew ∨ y.buf ≠ z.buf ∨ y.off + y.bytes.length ≤ z.off ∨ z.off + z.bytes.length ≤ y.off) →
              (t.bufMem x.grid ⟨z.crew, z.buf, 0⟩).read z.off z.bytes.length = z.bytes) ∧
          (∀ (g k q o : Nat), (∀ z ∈ s.slipWrites x x.op.blocks, ¬(g = x.grid ∧ z.crew = k ∧ z.buf = q ∧ z.off ≤ o ∧ o < z.off + z.bytes.length)) → q < 3 →
            (∀ z ∈ s.slipWrites x x.op.blocks, z.buf < 3) → (t.bufMem g ⟨k, q, 0⟩).byte o = (s.bufMem g ⟨k, q, 0⟩).byte o) ∧
          (∀ (g k q o : Nat), q < 3 → s.crew? g k ≠ none → (∀ z ∈ s.slipWrites x x.op.blocks, z.buf < 3 ∧ z.bytes ≠ []) →
            ((t.bufMem g ⟨k, q, 0⟩).poisoned o 1 = true ↔ (s.bufMem g ⟨k, q, 0⟩).poisoned o 1 = true ∨
              ∃ z ∈ s.slipWrites x x.op.blocks, z.bad = true ∧ g = x.grid ∧ z.crew = k ∧ z.buf = q ∧ z.off / 8 ≤ o / 8 ∧
                o / 8 ≤ (z.off + z.bytes.length - 1) / 8)))) ∧
  (
    ∀ (s : State) (x : Slip), x.blocks = 0 →
      let ws := s.slipWrites x x.op.blocks
      let mem (crew buf : Nat) : Mem := s.bufMem x.grid ⟨crew, buf, 0⟩
      /- element (r, k) of an operand, `d` bytes on from its own place and `e` in its scales, and element (i, j) of a region, each with its poison -/
      let el (o : Opnd) (d e r k : Nat) : FVal × Bool := o.elem (mem o.crew o.buf) (mem o.screw o.sbuf) (o.base + d) (o.sbase + e) r k
      let place (h : Handle) (i j : Nat) : Nat := h.base + 4 * (i * h.cols + j)
      let acc (h : Handle) (i j : Nat) : Nat × Bool := (bytesToNat ((mem x.crew 2).read (place h i j) 4), (mem x.crew 2).poisoned (place h i j) 4)
      /- an element of a product: the rows of A and B that it multiplies, from −0 or from what stands there -/
      let dot (h : Handle) (z : Bool) (i j n : Nat) (p q : Nat → FVal × Bool) : Nat × Bool :=
        let start := if z then (0x80000000, false) else acc h i j
        (msum start.1 ((List.range n).map fun k => ((p k).1, (q k).1)),
          start.2 || (List.range n).any (fun k => (p k).2) || (List.range n).any (fun k => (q k).2))
      let holds (n : Nat) (h : Handle) (i j : Nat) (v : Nat × Bool) : Prop :=
        ws[n + (i * h.cols + j)]? = some ⟨x.crew, 2, place h i j, natToBytes 4 v.1, v.2⟩
      (∀ h a b z, x.op = .mul h a b z → a.k = b.k → ws.length = h.rows * h.cols ∧
        ∀ i < h.rows, ∀ j < h.cols, holds 0 h i j (dot h z i j a.k (el a 0 0 i) (el b 0 0 j))) ∧
      (∀ h a b z pitch table counts, x.op = .group h a b z pitch table counts → a.k = b.k → ws.length = counts.sum * h.cols ∧
        ∀ g r, r < counts.getD g 0 → ∀ j < h.cols,
          let i := (counts.take g).sum + r
          holds 0 h i j (dot h z i j a.k (el a 0 0 i) (el b (64 * pitch * g) (g * h.cols * b.k / 32) j))) ∧
      (∀ h a z bank off, x.op = .weight h a z bank off → ws.length = h.rows * h.cols ∧
        ∀ i < h.rows, ∀ j < h.cols, holds 0 h i j (dot h z i j a.k (el a 0 0 i) fun k =>
          let row := 8388608 * bank + off + j * ((a.k * tyHalves a.ty / 2 + a.k / 32 + 63) / 64 * 64)
          let at' := row + k * tyHalves a.ty / 2
          let scale := row + a.k * tyHalves a.ty / 2 + k / 32
          ((tyVal a.ty (rawAt s.bankMem a.ty at' (k % 2 == 1))).scaled (s.bankMem.byte scale).toNat,
            s.bankMem.poisoned at' 1 || s.bankMem.poisoned scale 1))) ∧
      (∀ hc hu ac au b z fold, x.op = .pair hc hu ac au b z fold → ac.k = b.k → au.k = b.k → hc.rows = hu.rows → hc.cols = hu.cols →
        ws.length = 2 * (hu.rows * hu.cols) ∧ ∀ i < hu.rows, ∀ j < hu.cols,
          let u := dot hu z i j b.k (el au 0 0 i) (el b 0 0 j)
          let c := dot hc z i j b.k (el ac 0 0 i) (el b 0 0 j)
          holds 0 hu i j u ∧
          holds (hu.rows * hu.cols) hc i j (if fold then (foldF32 u.1 c.1 hc.fold.toNat, c.2 || u.2) else c)) ∧
      (∀ h, x.op = .zero h → ws.length = h.rows * h.cols ∧ ∀ i < h.rows, ∀ j < h.cols, holds 0 h i j (0, false)) ∧
      (∀ h o, x.op = .load h o → o.ty ≤ 2 → ws.length = h.rows * h.cols ∧ ∀ i < h.rows, ∀ j < h.cols,
        let n := if o.ty = 0 then 4 else 2
        let raw := bytesToNat ((mem o.crew o.buf).read (o.off o.base i j) n)
        holds 0 h i j (if o.ty = 0 then raw else (cvtFF (if o.ty = 1 then .bf16 else .f16) .f32 .rne 0 false raw).1,
          (mem o.crew o.buf).poisoned (o.off o.base i j) n)) ∧
      (∀ h o, x.op = .store h o → ws.length = h.rows * h.cols ∧ ∀ i < h.rows, ∀ j < h.cols,
        ws[i * h.cols + j]? = some ⟨o.crew, o.buf, o.off o.base i j, natToBytes 4 (acc h i j).1, (acc h i j).2⟩) ∧
      (∀ h o rm sat, x.op = .convert h o rm sat →
        let d := s.descOf x.grid
        let draw (i j : Nat) : Nat := stoDraw d.seedLo d.seedHi x.crew x.rank 0 (BitVec.ofNat 64 (2 ^ 63 + 2 ^ 16 * o.addr + (i * h.cols + j)))
        (1 ≤ o.ty → o.ty ≤ 4 → ws.length = h.rows * h.cols ∧ ∀ i < h.rows, ∀ j < h.cols,
          ws[i * h.cols + j]? = some ⟨o.crew, o.buf, o.off o.base i j,
            natToBytes (if o.ty ≤ 2 then 2 else 1) (cvtFF .f32 (tyFmt o.ty) rm (draw i j) sat (acc h i j).1).1, (acc h i j).2⟩) ∧
        (5 ≤ o.ty → o.ty ≤ 8 → h.cols % 32 = 0 → ∀ i < h.rows, ∀ b < h.cols / 32,
          let vs := (List.range 32).map fun j => fval .f32 (acc h i (32 * b + j)).1
          let bad := (List.range 32).any fun j => (acc h i (32 * b + j)).2
          let scale := mxScale o.ty vs
          let zeros : Bool := vs.all fun v => match v with
            | .fin _ m _ => m == 0
            | _ => true
          let e (j : Nat) : Nat := mxElem o.ty rm (draw i (32 * b + j)) scale zeros (vs.getD j (.inf false))
          let block := i * (h.cols / 32) + b
          let n := if o.ty = 8 then 16 else 32
          ws[block * (n + 1) + n]? = some ⟨o.screw, o.sbuf, o.sbase + block, [BitVec.ofNat 8 scale], bad⟩ ∧
          ∀ j < n, ws[block * (n + 1) + j]? = some ⟨o.crew, o.buf, o.off o.base i (32 * b + if o.ty = 8 then 2 * j else j),
            [BitVec.ofNat 8 (if o.ty = 8 then e (2 * j) + 16 * e (2 * j + 1) else e j)], bad⟩))) ∧
  (
    ∀ (init : Nat) (ps qs : List (FVal × FVal)),
      let bad (p : FVal × FVal) : Prop := p.1.isNaN = true ∨ p.2.isNaN = true ∨
        ∃ n m e, (p.1 = .inf n ∧ p.2 = .fin m 0 e) ∨ (p.1 = .fin m 0 e ∧ p.2 = .inf n)
      let inf (n : Bool) : Prop := ∃ p ∈ ps, ((∃ m, p.1 = .inf m) ∨ ∃ m, p.2 = .inf m) ∧ (signOf p.1 != signOf p.2) = n
      let sum : ℚ := (ps.map fun p => ratOf p.1 * ratOf p.2).sum
      msum init [] = init ∧ (ps.length = 16 → msum init (ps ++ qs) = msum (msum init ps) qs) ∧
      (ps ≠ [] → ps.length ≤ 16 →
        (blockSum ps = none → msum init ps = 0x7FC00000) ∧
        (∀ b, blockSum ps = some b → msum init ps = (addV .f32 .rne 0 (fval .f32 init) (fval .f32 b)).1) ∧
        (blockSum ps = none ↔ (∃ p ∈ ps, bad p) ∨ (inf true ∧ inf false)) ∧
        (∀ n, (∀ p ∈ ps, ¬bad p) → inf n → ¬inf (!n) → blockSum ps = some (infBits .f32 n)) ∧
        ((∀ p ∈ ps, ¬bad p) → ¬inf true → ¬inf false →
          (sum = 0 → blockSum ps = some (if ps.all fun p => signOf p.1 != signOf p.2 then 0x80000000 else 0)) ∧
          (sum ≠ 0 → ∃ w, roundsTo .f32 .rne 0 sum w ∧ blockSum ps = some w.1)))) ∧
  (
    ∀ (u c g : W32) (a b : Bool),
      let vu := fval .f32 u.toNat
      let vc := fval .f32 c.toNat
      let vg := fval .f32 g.toNat
      let w := foldF32 u.toNat c.toNat g.toNat
      let sum : ℚ := ratOf vu + ratOf vg * (ratOf vc - ratOf vu)
      let none' : Prop := vu.isNaN = false ∧ vc.isNaN = false ∧ vg.isNaN = false
      (¬none' → w = 0x7FC00000) ∧
      (vu.isFin = true → vc.isFin = true → (ratOf vg = 0 → vg.isFin = true → w = u.toNat) ∧ (g = 0x3F800000 → w = c.toNat) ∧
        (vg.isFin = true → ratOf vg ≠ 0 → g ≠ 0x3F800000 →
          (sum = 0 → w = 0 ∨ w = 0x80000000) ∧ (sum ≠ 0 → ∃ z, roundsTo .f32 .rne 0 sum z ∧ w = z.1)) ∧
        (vg = .inf a → w = if ratOf vc = ratOf vu then 0x7FC00000 else infBits .f32 (a != decide (ratOf vc < ratOf vu)))) ∧
      (vc = .inf a → vu = .inf a → w = 0x7FC00000) ∧
      /- an infinite difference of sign a -/
      (none' → (vc = .inf a ∧ vu ≠ .inf a) ∨ (vu = .inf (!a) ∧ vc.isFin = true) →
        (vg.isFin = true → ratOf vg = 0 → w = 0x7FC00000) ∧
        (vg.isFin = false ∨ ratOf vg ≠ 0 → (vu.isFin = true → w = infBits .f32 (signOf vg != a)) ∧
          (vu = .inf b → w = if b = (signOf vg != a) then infBits .f32 b else 0x7FC00000)))) ∧
  (
    ∀ (ty raw code : Nat) (v : FVal) (o : Opnd) (base r k : Nat),
      (ty ≤ 8 → ty ≠ 7 → tyVal ty raw = fval ([Fmt.f32, .bf16, .f16, .e4m3, .e5m2, .e4m3, .e5m2, .e4m3, .e2m1].getD ty .f32) raw) ∧
      (raw < 256 → ratOf (tyVal 7 raw) = (if raw < 128 then (raw : ℚ) else raw - 256) / 64) ∧
      (v.scaled 255).isNaN = true ∧ (code ≠ 255 → (∀ n m e, v = .fin n m e → (v.scaled code).isFin = true ∧
          signOf (v.scaled code) = n ∧ ratOf (v.scaled code) = ratOf v * (2 : ℚ) ^ ((code : ℤ) - 127)) ∧
        (v.isFin = false → v.scaled code = v)) ∧
      (let size := if o.ty = 0 then 8 else if o.ty ≤ 2 then 4 else if o.ty = 8 then 1 else 2
        let off := base + r * o.rpitch + k / 32 * (if o.tpitch = 0 then 16 * size else o.tpitch) + k % 32 * size / 2
        (o.rot = 0 → o.off base r k = off) ∧
        (o.rot ≠ 0 → o.off base r k % 4 = off % 4 ∧ o.off base r k / 256 = off / 256 ∧
          o.off base r k / 4 % 64 = (off / 4 + r * 2 ^ (o.rot - 1)) % 64))) ∧
  (
    ∀ (ty draw scale : Nat) (rm : RMode) (vs : List FVal) (v : FVal) (n : Bool) (zeros : Bool), 5 ≤ ty → ty ≤ 8 →
      let f : Fmt := if ty = 5 then .e4m3 else if ty = 6 then .e5m2 else .e2m1
      let emax : Int := if ty = 5 then 8 else if ty = 6 then 15 else if ty = 8 then 2 else 0
      let e := mxElem ty rm draw scale zeros v
      ((∃ x ∈ vs, x.isNaN = true) → mxScale ty vs = 255) ∧
      ((∀ x ∈ vs, x.isNaN = false) → (∀ x ∈ vs, ratOf x = 0) → mxScale ty vs = 127) ∧
      ((∀ x ∈ vs, x.isNaN = false) → (∃ x ∈ vs, ratOf x ≠ 0) →
        ∃ p : Int, (∃ x ∈ vs, (2 : ℚ) ^ p ≤ |ratOf x|) ∧ (∀ x ∈ vs, |ratOf x| < (2 : ℚ) ^ (p + 1)) ∧
          (mxScale ty vs : Int) = max (-127) (min 127 (p - emax)) + 127) ∧
      (scale = 255 → e = 0) ∧
      (scale ≠ 255 → zeros = true → v.isNaN = false → e = if ty = 7 ∨ ty = 8 then 0 else signBit f (signOf v)) ∧
      (scale ≠ 255 → zeros = false → v = .inf n → e = if ty = 7 then (if n then 0x81 else 0x7F) else maxBits f n) ∧
      (scale ≠ 255 → zeros = false → v.isFin = true → signOf v = n →
        let q : ℚ := |ratOf v| * (2 : ℚ) ^ ((127 : ℤ) - scale)
        (ty = 7 → ∃ k, picks rm draw n (64 * q) 1 k ∧ e = if n then (256 - min 127 k) % 256 else min 127 k) ∧
        (ty ≠ 7 → q = 0 → e = signBit f n) ∧
        (ty ≠ 7 → q ≠ 0 → ∃ (m : Nat) (p : Int), m ≠ 0 ∧ (m : ℚ) * (2 : ℚ) ^ p = q ∧
          e = if (roundTo f rm draw n m p).beyond then maxBits f n else (roundF f rm draw n m p).1)))

/-- R258 to R262: `nn.push` and `nn.pull` over a usable direction, with aligned ranges in the team's and the neighbour's buffers, start a transfer and
deliver its number, where no slip of the warp meets the bytes that they move and the link has room; elsewhere they wait. STARTED of the direction
counts it. The oldest transfer of a team's direction completes: it copies its bytes with their poison, and is counted in OUT of its direction, and a
push also in IN of the direction that leads back, of the team that it reaches. The loss of a link ends its transfers, from either end, with their
destination granules poisoned.
Where the spec is open it rests on the model's readings, logs 47, 48, 117 and 127. -/
def Obligations.Links : Prop :=
  ∀ (s : State) (d a b : SReg) (dir : Dir) (push : Bool) (y : Way) (farCrew : Nat),
    let w := s.warp
    let src := field (s.sget a) 0 32
    let dst := field (s.sget b) 0 32
    let len := field (s.sget a) 32 20
    let own := if push then src else dst
    let far := if push then dst else src
    let n := vget y.team.started dir.code.toNat 0 + 1
    let ownCrew := w.ident.team * w.ident.crews + bitsOf own 19 2
    let meets : Prop := ∃ z ∈ s.slips, z.ofWarp w.id = true ∧ ∃ m ∈ z.marks,
      m.meets ⟨ownCrew, bitsOf own 21 2, own % 2 ^ 19, own % 2 ^ 19 + len, !push⟩ = true
    let full : Prop := 16 ≤ (s.transfers.filter fun x => x.cluster == y.cluster && x.plink == y.plink).length
    let word : Instr := if push then .nnPush d a b dir else .nnPull d a b dir
    (matrixMode s → s.way dir = some y → 64 ≤ len → len ≤ 524288 → len % 64 = 0 → (bitsOf src 21 2 = 1 ∨ bitsOf src 21 2 = 2) → bitsOf dst 21 2 = 1 →
      field (s.sget a) 52 12 = 0 → field (s.sget b) 32 32 = 0 → bitsOf far 23 9 = 0 → s.farCrew y.far w.ident.crews (bitsOf far 19 2) = some farCrew →
      far % 2 ^ 19 + len ≤ 2 ^ 19 → src % 64 = 0 → dst % 64 = 0 → s.rangeKind own (own % 2 ^ 19 + len) = none →
      (meets ∨ full → exec word s = .next { s with warp := { w with wait := .order } }) ∧ (¬meets → ¬full → completes word s fun t =>
        t.warp.pc = w.pc + 4 ∧ regsWith t.warp w d (BitVec.ofNat 64 n) ∧ onlyRegs t.warp w ∧
        (∃ x, t.transfers = s.transfers ++ [x] ∧ x.n = n ∧ x.push = push ∧ x.len = len ∧ x.srcOff = src % 2 ^ 19 ∧ x.dstOff = dst % 2 ^ 19 ∧
          x.srcBuf = bitsOf src 21 2 ∧ x.dstBuf = 1 ∧ x.srcCrew = (if push then ownCrew else farCrew) ∧
          x.dstCrew = (if push then farCrew else ownCrew) ∧ x.cluster = y.cluster ∧ x.plink = y.plink) ∧
        t.teams = s.teams.map (fun (z : Team) => if z.grid = w.ident.grid ∧ z.num = w.ident.team then
          { z with started := vset z.started dir.code.toNat n } else z) ∧
        { t with warp := s.warp, transfers := s.transfers, teams := s.teams } = s)) ∧
    (∀ (grid team : Nat) (x : Transfer), s.transfers.find? (fun z => z.grid == grid && z.team == team && z.dir == dir) = some x →
      s.crew? x.grid x.dstCrew ≠ none → x.dstBuf = 1 → completes (.linkTransferComplete ⟨grid, team⟩ dir) s fun t =>
        t.transfers = s.transfers.filter (· != x) ∧
        (∀ o, (t.bufMem x.grid ⟨x.dstCrew, 1, 0⟩).byte o =
          if x.dstOff ≤ o ∧ o < x.dstOff + x.len then (s.bufMem x.grid ⟨x.srcCrew, x.srcBuf, 0⟩).byte (x.srcOff + (o - x.dstOff))
          else (s.bufMem x.grid ⟨x.dstCrew, 1, 0⟩).byte o) ∧
        (x.len % 8 = 0 → x.dstOff % 8 = 0 → ∀ o, (t.bufMem x.grid ⟨x.dstCrew, 1, 0⟩).poisoned o 1 = true ↔
          (s.bufMem x.grid ⟨x.dstCrew, 1, 0⟩).poisoned o 1 = true ∨ (x.dstOff ≤ o ∧ o < x.dstOff + x.len ∧
            (s.bufMem x.grid ⟨x.srcCrew, x.srcBuf, 0⟩).poisoned (x.srcOff + (o - x.dstOff) / 8 * 8) 8 = true)) ∧
        (∀ f g, s.team? x.grid x.dstTeam = some f → s.grid? x.grid = some g →
          let back := (s.dirBack g.part f x.cluster x.plink x.dir).code.toNat
          let out (z : Team) : Team := if z.grid = x.grid ∧ z.num = x.team then { z with out := vset z.out x.dir.code.toNat x.n } else z
          let inn (z : Team) : Team := if x.push = true ∧ z.grid = x.grid ∧ z.num = x.dstTeam then
            { z with inn := vset z.inn back (vget z.inn back 0 + 1) } else z
          t.teams = s.teams.map fun z => inn (out z)) ∧
        { t with transfers := s.transfers, crews := s.crews, teams := s.teams } = s) ∧
    (∀ die pcl plink : Nat, completes (.linkLost die pcl plink) s fun t => (die * 17 + pcl, plink) ∈ t.lostLinks ∧
      (∀ x, x ∈ t.transfers ↔ x ∈ s.transfers ∧ (x.cluster, x.plink) ≠ (die * 17 + pcl, plink) ∧
        Config.linkFar x.cluster x.plink ≠ (die * 17 + pcl, plink)) ∧
      ∀ x ∈ s.transfers, ((x.cluster, x.plink) = (die * 17 + pcl, plink) ∨ Config.linkFar x.cluster x.plink = (die * 17 + pcl, plink)) → s.crew? x.grid x.dstCrew ≠ none → x.dstBuf < 3 → x.len ≠ 0 →
        (t.bufMem x.grid ⟨x.dstCrew, x.dstBuf, 0⟩).poisoned x.dstOff x.len = true)

/-- R222 to R229: outside forks, `DET` and `SHADOW` launches and tasks: `dq.push` pushes at the own end, or reports a full deque; `dq.pop` takes the
token at the own end, or reports an empty deque; `dq.take` takes from its own deque first, and otherwise the token at the far end of the first deque
of its search order that has one; it reports none where no deque has one, with `.wait` only in a quiescent scope, and waits elsewhere. -/
def Obligations.Deque : Prop :=
  ∀ (s : State) (d a : SReg) (c : PReg) (wt grid : Bool), s.warp.fork = none → s.warp.det = false → s.warp.task = none → s.warp.isShadowed = false →
    let w := s.warp
    let own := w.ident.crew
    let q := s.dequeOf own
    let delivers (i : Instr) (x : W64) (ok : Bool) (crew : Nat) (rest : List W64) : Prop := completes i s fun t =>
      t.warp.pc = w.pc + 4 ∧ regsWith t.warp w d x ∧ (∀ p : PReg, t.warp.cget p = if p = c ∧ c ≠ 7 then ok else w.cget p) ∧
      { t.warp with pc := w.pc, s := w.s, banks := w.banks, c := w.c } = w ∧
      (∀ k, (k = crew → t.dequeOf k = rest) ∧ (k ≠ crew → t.dequeOf k = s.dequeOf k)) ∧
      { t with warp := s.warp, crews := s.crews, cdc := s.cdc, fills := s.fills } = s
    (q.length < 512 → s.releaseReady .grid = true → s.crew? w.ident.grid own ≠ none → completes (.dqPush c a) s fun t =>
      t.dequeOf own = s.sget a :: q ∧ t.warp.pc = w.pc + 4 ∧ (∀ p : PReg, t.warp.cget p = (decide (p = c) || w.cget p)) ∧
      { t.warp with pc := w.pc, c := w.c } = w ∧ { t with warp := s.warp, crews := s.crews } = s) ∧
    (512 ≤ q.length → writesPred (.dqPush c a) s c false 4) ∧
    (q = [] → delivers (.dqPop d c) 0 false own []) ∧
    (∀ x r, q = x :: r → delivers (.dqPop d c) x true own r ∧ delivers (.dqTake d c wt grid) x true own r) ∧
    (∀ k team l x, q = [] → (s.searchOrder grid).find? (fun z => !(s.dequeOf z.1).isEmpty) = some (k, team) → s.dequeOf k = l ++ [x] →
      delivers (.dqTake d c wt grid) x true k l) ∧
    (q = [] → (∀ z ∈ s.searchOrder grid, s.dequeOf z.1 = []) → delivers (.dqTake d c false grid) 0 false own [] ∧
      (s.quiescent w.ident (some w.id) grid = true → completes (.dqTake d c true grid) s fun t =>
        t.warp.pc = w.pc + 4 ∧ regsWith t.warp w d 0 ∧ (∀ p : PReg, t.warp.cget p = if p = c ∧ c ≠ 7 then false else w.cget p) ∧ t.crews = s.crews) ∧
      (s.quiescent w.ident (some w.id) grid = false → exec (.dqTake d c true grid) s = .next { s with warp := { w with wait := .take grid d c } }))

/-! ## Synchronisation -/

/-- R264, R287, R297, R308, R309: a fence whose release may be made, after every load of the warp has returned its value, goes on, and one beyond the
team drops every unsealed line of its cluster; one whose release may not be made yet, or before a load's value, waits; `seal` and `unseal` mark every
leaf of the pages of an accepted range, which are those that its addresses have, and drop every cached line of them. R198, R199: in a `SHADOW` launch
`wait`, `tlw` and `tlr` log their operands and pass their result through the load value queue.
Where the spec is open it rests on the model's readings, logs 12, 21, 23 and 37. -/
def Obligations.FenceAndSeal : Prop :=
  ∀ (s v : State) (sc : Scope) (a b : SReg) (on : Bool) (ps : List Trans),
    let returned : Prop := ∀ r ∈ s.warp.remote, 64 ≤ r.lane
    (s.releaseReady sc = false ∨ ¬returned → exec (.fence sc) s = .next { s with
      warp := { s.warp with wait := .order }, items := logged s [⟨6, [], 0, 0⟩] }) ∧
    (s.releaseReady sc = true → returned → completes (.fence sc) s fun t =>
      t.warp = { s.warp with pc := s.warp.pc + 4 } ∧ t.items = logged s [⟨6, [], 0, 0⟩] ∧
      { t with warp := s.warp, cdc := s.cdc, fills := s.fills, items := s.items } = s ∧
      (sc = .warp ∨ sc = .crew ∨ sc = .team → t.cdc = s.cdc ∧ t.fills = s.fills) ∧
      (sc = .grid ∨ sc = .domain ∨ sc = .sys → ∀ x, x ∈ t.cdc ↔ x ∈ s.cdc ∧ (x.cluster ≠ s.clusterOf s.warp ∨ x.isSealed = true))) ∧
    (let va := (s.sget a).toNat
      let len := (s.sget b).toNat
      syncMode s → va % 4096 = 0 → len % 4096 = 0 → len ≠ 0 → len ≤ 2 ^ 30 → (s.part s.warp.ident.part).cfg.root % 4096 = 0 →
      State.sealPages s.warp.ident.part va (va + len) (len / 4096 + 1) va [] s = (.ok ps, v) → s.releaseReady .grid = true →
      completes (if on then .seal a b else .unseal a b) s fun t =>
        t.warp = { s.warp with pc := s.warp.pc + 4 } ∧ (∀ tr ∈ ps,
          (∀ i < tr.page / 2 ^ (12 + 9 * pageLevel (pteSize tr.entry)), (t.devByte (tr.leaf + 8 * i + 7)).getLsbD 1 = on) ∧
          ∀ x ∈ t.cdc, x.place = .device → 128 * x.line + 128 ≤ tr.pa ∨ tr.pa + tr.page ≤ 128 * x.line) ∧
        { t with warp := s.warp, dev := s.dev, tags := s.tags, cdc := s.cdc, fills := s.fills } = s) ∧
    (let va := (s.sget a).toNat
      let len := (s.sget b).toNat
      va % 4096 = 0 → len % 4096 = 0 → len ≠ 0 → State.sealPages s.warp.ident.part va (va + len) (len / 4096 + 1) va [] s = (.ok ps, v) →
      /- the address at which each page is found; A of the leaves found before is set -/
      ∃ at' : Nat → Nat, at' 0 = va ∧ at' ps.length = va + len ∧ ∀ i tr, ps[i]? = some tr →
        at' i < va + len ∧ va ≤ at' i - at' i % tr.page ∧ at' (i + 1) = at' i - at' i % tr.page + tr.page ∧ at' (i + 1) ≤ va + len ∧
        tr.place = .device ∧ pteW tr.entry = true ∧ ∃ u : State, { u with dev := s.dev, tags := s.tags } = s ∧
          (∀ x, u.devByte x = s.devByte x ∨ (u.devByte x = s.devByte x ||| 1 ∧ ∃ y ∈ ps.take i, x = y.leaf + 1)) ∧
          u.xlate s.warp.ident.part (at' i) = .ok tr) ∧
    ∀ (d : SReg) (test acq : Bool) (acc : Option Nat) (n : Nat),
      let tk := s.sget a
      let q := s.bar s.warp.ident.part (field tk 0 14)
      let ago := (q.phase - tk.extractLsb' 24 32).toNat
      let waits (test : Bool) (v : Nat) := syncsVia (.wait d a test) s d v [⟨6, [tk.toNat, test.toNat], 0, 0⟩]
      (field tk 0 14 < (s.part s.warp.ident.part).cfg.barq → field tk 14 10 = 0 →
        ((tk.extractLsb' 56 8 ≠ q.gen ∨ q.abandoned = true) → waits test 0x29) ∧
        (tk.extractLsb' 56 8 = q.gen → q.abandoned = false →
          (1 ≤ ago → ago ≤ 2 ^ 31 → waits test 0) ∧ (ago = 0 ∨ ago = 2 ^ 32 - 1 → waits true 1))) ∧
      (s.timeline tk = some (acc, n) → n < 2 ^ 64 →
        syncsVia (.tlr d a acq) s d n [⟨6, [tk.toNat], 0, 0⟩] ∧
        ((∀ k, acc = some k → (s.sget b).toNat ≤ k) → (s.sget b).toNat ≤ n →
          syncsVia (.tlw d a b) s d n [⟨6, [tk.toNat, (s.sget b).toNat], 0, 0⟩]))

/-- R298 to R303: `bar.init` makes an object with a new generation; an arrival of a warp that has not arrived counts in the present phase, delivers
the phase's token, and the phase is left when the last expected warp has arrived; `wait` delivers 0 once its phase is left, 0x29 on an object of
another generation or an abandoned one, and with `.test` 1 before.
Where the spec is open it rests on the model's readings, log 43. -/
def Obligations.Barriers : Prop :=
  ∀ (s : State) (d a b : SReg) (test : Bool), syncMode s →
    let p := s.warp.ident.part
    let n := (s.sget a).toNat
    let cf := s.sget b
    let o := s.bar p n
    let only (t : State) (k : Nat) : Prop := (∀ j, j ≠ k → t.bar p j = s.bar p j) ∧ { t with warp := s.warp, parts := s.parts } = s
    (n < (s.part p).cfg.barq → field cf 0 16 ≠ 0 → 1 ≤ field cf 16 3 → field cf 16 3 ≤ 3 → field cf 19 45 = 0 →
      completes (.barInit a b) s fun t => t.warp = { s.warp with pc := s.warp.pc + 4 } ∧ only t n ∧
        t.bar p n = ⟨o.gen + 1, 0, field cf 0 16, field cf 0 16, field cf 0 16, field cf 16 3, false, [], [], []⟩) ∧
    (n < (s.part p).cfg.barq → o.count ≠ 0 → o.abandoned = false → s.warp.id ∉ o.arr0 → o.count0 ≠ 0 → s.releaseReady o.scopeOf = true →
      completes (.arv d a false) s fun t =>
        t.warp.pc = s.warp.pc + 4 ∧ regsWith t.warp s.warp d (o.gen ++ (o.phase ++ (0#10 ++ BitVec.ofNat 14 n))) ∧ only t n ∧
        (o.arr0.length + 1 ≠ o.count0 → (t.bar p n).phase = o.phase ∧ (t.bar p n).arr0 = s.warp.id :: o.arr0 ∧ (t.bar p n).arr1 = o.arr1) ∧
        (o.arr0.length + 1 = o.count0 → o.arr1.length ≠ o.count1 → (t.bar p n).phase = o.phase + 1 ∧ (t.bar p n).arr0 = o.arr1 ∧
          (t.bar p n).arr1 = [] ∧ (t.bar p n).count0 = o.count1 ∧ (t.bar p n).count1 = o.count)) ∧
    (let tk := s.sget a
      let k := field tk 0 14
      let q := s.bar p k
      let ago := (q.phase - tk.extractLsb' 24 32).toNat
      k < (s.part p).cfg.barq → field tk 14 10 = 0 →
        ((tk.extractLsb' 56 8 ≠ q.gen ∨ q.abandoned = true) → syncs (.wait d a test) s d 0x29) ∧
        (tk.extractLsb' 56 8 = q.gen → q.abandoned = false →
          (1 ≤ ago → ago ≤ 2 ^ 31 → syncs (.wait d a test) s d 0) ∧
          (2 ^ 31 < ago → ago < 2 ^ 32 - 1 → trapsAt (.wait d a test) s 0x0C 35 4) ∧
          (ago = 0 ∨ ago = 2 ^ 32 - 1 → syncs (.wait d a true) s d 1)))

/-- R304 to R306, R315: `tlr` reads a timeline's completed count, and `tlw` delivers it once it has reached the operation's number; `qend` goes on,
and in a `DET` launch ends the quantum. -/
def Obligations.Timelines : Prop :=
  ∀ (s : State) (d a b : SReg) (acq : Bool) (acc : Option Nat) (t : Nat),
    (syncMode s → s.timeline (s.sget a) = some (acc, t) →
      syncs (.tlr d a acq) s d (BitVec.ofNat 64 t) ∧
      ((∀ k, acc = some k → (s.sget b).toNat ≤ k) → (s.sget b).toNat ≤ t → syncs (.tlw d a b) s d (BitVec.ofNat 64 t)) ∧
      (∀ k, acc = some k → k < (s.sget b).toNat → trapsAt (.tlw d a b) s 0x0C 37 4)) ∧
    (s.warp.fork = none → s.timeline (s.sget a) = none → trapsAt (.tlr d a acq) s 0x0C 36 4 ∧ trapsAt (.tlw d a b) s 0x0C 36 4) ∧
    (s.warp.fork = none → exec .qend s = .next { s with warp := { s.warp with
      pc := s.warp.pc + 4, wait := if s.warp.det then .commit else s.warp.wait } })

/-- R312 to R314: in a `DET` launch `arv`, `seal` and `unseal` go to the carrel and end the quantum; a lane word that brings the issues to QLEN ends it; and
when every live warp has ended its quantum the commit performs the carrels, those of the warps in ascending `WARP_ID`.GLOBAL and each in program order,
makes its acquire, and starts the next quantum. What each entry does when it is performed: a store and an atomic write their bytes, and a returning atomic
delivers what it found; one whose page has been sealed since changes nothing and traps (R310); an `arv` counts and delivers its token, and waits where its
warp has arrived in both phases; a `seal` or `unseal` marks its pages, and changes nothing where its range no longer passes the checks. R311, R318: the
lane stores of a `DET` launch, and of a task, go to the carrel in lane order; R177: a typed-buffer store of a task traps `MODE` 5. R199: in a `SHADOW`
launch the leading warp's stores are held for the shadow, and both log what they store.
Where the spec is open it rests on the model's readings, logs 21, 30, 43, 108 and 129. -/
def Obligations.Quanta : Prop :=
  ∀ (s v : State) (d a b : SReg) (drop on : Bool) (g : Nat) (ps : List Trans),
    (let va := (s.sget a).toNat
      let len := (s.sget b).toNat
      s.warp.fork = none → s.warp.task = none → s.warp.isShadowed = false → s.warp.det = true → va % 4096 = 0 → len % 4096 = 0 → len ≠ 0 →
      len ≤ 2 ^ 30 → State.sealPages s.warp.ident.part va (va + len) (len / 4096 + 1) va [] s = (.ok ps, v) →
      completes (if on then .seal a b else .unseal a b) s fun t =>
        t.warp = { s.warp with pc := s.warp.pc + 4, wait := .commit, carrel := s.warp.carrel ++ [.mark on va len] } ∧
        { t with warp := s.warp, dev := s.dev, tags := s.tags } = s) ∧
    (∀ n, n = (s.sget a).toNat → s.warp.fork = none → s.warp.task = none → s.warp.isShadowed = false → s.warp.det = true → n < (s.part s.warp.ident.part).cfg.barq →
      (s.bar s.warp.ident.part n).count ≠ 0 →
      exec (.arv d a drop) s = .next { s with warp := { s.warp with
        pc := s.warp.pc + 4, wait := .commit, carrel := s.warp.carrel ++ [.arv n drop d] } }) ∧
    (s.warp.alive = true → s.warp.fork = none → s.warp.det = true → s.warp.qlenNow ≤ s.warp.issued → s.warp.wait = .none →
      Tab.get s.pairs s.warp.id [] = [] → completes (.qlenQuantumEnd s.warp.id) s fun t => t.warp = { s.warp with wait := .commit } ∧ t.others = s.others) ∧
    (s.warp.alive = true → (s.descOf g).det = true → (s.gridWarps g) ≠ [] → (∀ w ∈ s.others, w.alive = true) → (s.warps.map (·.id)).Nodup →
      (∀ x ∈ s.slips, x.grid ≠ g) → (∀ w ∈ s.gridWarps g, w.wait = .commit ∧ w.fork = none ∧ w.remote = [] ∧ w.carrel = [] ∧ Tab.get s.pairs w.id [] = []) →
      completes (.quantumCommit g) s fun t =>
        (∀ w ∈ s.gridWarps g, { w with wait := .none, quantum := w.quantum + 1, issued := 0, qlenNow := w.qlen.toNat } ∈ t.warps) ∧
        (∀ w ∈ s.warps, w.ident.grid ≠ g → w ∈ t.warps) ∧ (∀ x ∈ t.grids, x.id = g → ∃ y ∈ s.grids, x = { y with commits := y.commits + 1 }) ∧
        t.dev = s.dev ∧ t.hostMem = s.hostMem ∧
        ∀ x, x ∈ t.cdc ↔ x ∈ s.cdc ∧ (x.isSealed = true ∨ ∀ z ∈ s.teams, z.grid = g → z.cluster ≠ some x.cluster)) ∧
    /- one warp: every entry in program order -/
    (∀ upto : Nat → State, s.others = [] → s.shadows = [] → s.pairs = [] → s.warp.alive = true → s.warp.ident.grid = g →
      (s.descOf g).det = true → s.slips = [] → s.warp.wait = .commit → s.warp.fork = none →
      upto 0 = s → (∀ k < s.warp.carrel.length, (s.warp.carrel[k]?.bind fun e => (upto k).performEntry e) = some (upto (k + 1))) →
      (∀ k ≤ s.warp.carrel.length, (upto k).warp.alive = true ∧ (upto k).warp.wait = .commit ∧ (upto k).warp.fork = none ∧
        (upto k).warp.id = s.warp.id) →
      let u := upto s.warp.carrel.length
      completes (.quantumCommit g) s fun t => t.dev = u.dev ∧ t.tags = u.tags ∧ t.hostMem = u.hostMem ∧ t.parts = u.parts ∧ t.fabric = u.fabric ∧
        t.warp = { u.warp with carrel := [], wait := .none, quantum := u.warp.quantum + 1, issued := 0, qlenNow := u.warp.qlen.toNat }) ∧
    /- any number of warps: their order -/
    (∀ (order : List Warp) (es : Warp → List (Nat × List Byte × Ticket × Mask × Nat)), s.warp.alive = true → (s.descOf g).det = true →
      (∀ x ∈ s.slips, x.grid ≠ g) → ((s.warp :: s.others).map (·.id)).Nodup → order ≠ [] →
      (∀ w, w ∈ order ↔ w ∈ s.warp :: s.others ∧ w.ident.grid = g ∧ (w.alive = true ∨ w.wait = .commit)) →
      order.Pairwise (fun v w => v.ident.global < w.ident.global) →
      (∀ w ∈ order, w.wait = .commit ∧ w.fork = none ∧ Tab.get s.pairs w.id [] = [] ∧
        w.carrel = (es w).map (fun e => .store .host e.1 e.2.1 e.2.2.1 e.2.2.2.1 e.2.2.2.2) ∧
        ∀ e ∈ es w, ({ s with warp := w } : State).sealedAt e.2.2.2.2 = false ∧ s.hostErr .host e.1 e.2.1.length = false) →
      completes (.quantumCommit g) s fun t => t.hostMem = (order.flatMap es).foldl (fun m e => m.write e.1 e.2.1) s.hostMem) ∧
    (∀ (q : Place) (pa : Nat) (bs : List Byte) (op : AOp) (ty : ATy) (y z : W64) (ret : Option Ret) (tk : Ticket) (lanes : Mask) (va : Nat),
      let n := if ty = .n64 then 8 else 4
      let atomic : CarrelEnt := .atomic q pa op ty y z ret tk lanes va
      let old := bytesToNat (s.placeRead q pa n)
      let open' (n : Nat) : Prop := q ≠ .remote ∧ s.sealedAt va = false ∧ s.warp.task = none ∧ still s ∧
        (q = .device → ∀ i < n, s.isTableSlot (pa + i) = false ∧ s.inTable (pa + i) 4 (s.part s.warp.ident.part).cfg.root = false)
      (open' bs.length → s.hostErr q pa bs.length = false → ∃ u, s.performEntry (.store q pa bs tk lanes va) = some u ∧ wrote u s q pa bs ∧
        storeFrame u s ∧ u.warp = s.warp) ∧
      (open' n → s.placePoisoned q pa n = false → s.warp.fork = none → ∃ u, s.performEntry atomic = some u ∧
        wrote u s q pa (natToBytes n (atomNew op ty old y.toNat z.toNat)) ∧ storeFrame u s ∧ (ret = none → u.warp = s.warp) ∧
        ∀ x : Ret, ret = some x → { u.warp with v := s.warp.v, block := s.warp.block } = s.warp ∧ ∀ r < 256, ∀ l < 64, u.warp.vlane r l =
          if l = x.lane ∧ x.wbs = false ∧ x.dest.toNat ≤ r ∧ r < x.dest.toNat + (if ty = .n64 then 2 else 1) then
            BitVec.ofNat 32 (old / 2 ^ (32 * (r - x.dest.toNat))) else s.warp.vlane r l) ∧
      (s.sealedAt va = true → s.warp.pending = none → ∀ e ∈ [CarrelEnt.store q pa bs tk lanes va, atomic], ∃ u, s.performEntry e = some u ∧
        (∃ k, u.warp = { s.warp with pending := some k } ∧ k.code = 0x04 ∧ k.mask = lanes ∧ k.va = va) ∧
        { u with warp := s.warp, shadows := s.shadows } = s)) ∧
    (∀ n : Nat, let p := s.warp.ident.part
      let o := s.bar p n
      (o.count ≠ 0 → o.abandoned = false → s.warp.id ∉ o.arr0 → ∃ u, s.performEntry (.arv n false d) = some u ∧
        regsWith u.warp s.warp d (o.gen ++ (o.phase ++ (0#10 ++ BitVec.ofNat 14 n))) ∧ (∀ j, j ≠ n → u.bar p j = s.bar p j) ∧
        (o.arr0.length + 1 ≠ o.count0 → (u.bar p n).phase = o.phase ∧ (u.bar p n).arr0 = s.warp.id :: o.arr0) ∧
        (o.arr0.length + 1 = o.count0 → o.arr1.length ≠ o.count1 → (u.bar p n).phase = o.phase + 1 ∧ (u.bar p n).arr0 = o.arr1) ∧
        { u with warp := s.warp, shadows := s.shadows, parts := s.parts } = s) ∧
      (o.count ≠ 0 → o.abandoned = false → s.warp.id ∈ o.arr0 → s.warp.id ∈ o.arr1 → s.performEntry (.arv n drop d) = none) ∧
      (o.count = 0 → ∃ u, s.performEntry (.arv n drop d) = some u ∧ (∃ k, u.warp = { s.warp with pending := some k } ∧ k.code = 0x0C ∧ k.detail = 33) ∧
        { u with warp := s.warp, shadows := s.shadows } = s)) ∧
    (∀ va len : Nat, (s.part s.warp.ident.part).cfg.root % 4096 = 0 →
      let pages := State.sealPages s.warp.ident.part va (va + len) (len / 4096 + 1) va [] s
      (pages = (.ok ps, v) → ∃ u, s.performEntry (.mark on va len) = some u ∧ (∀ tr ∈ ps,
          (∀ i < tr.page / 2 ^ (12 + 9 * pageLevel (pteSize tr.entry)), (u.devByte (tr.leaf + 8 * i + 7)).getLsbD 1 = on) ∧
          ∀ x ∈ u.cdc, x.place = .device → 128 * x.line + 128 ≤ tr.pa ∨ tr.pa + tr.page ≤ 128 * x.line) ∧
        { u with dev := s.dev, tags := s.tags, cdc := s.cdc, fills := s.fills } = s) ∧
      ((∀ l, pages.1 ≠ .ok l) → s.performEntry (.mark on va len) = some pages.2)) ∧
    (∀ (b' : Block) (h : LaneHdr) (t : MTy) (rel : Option Scope) (x : IdxArgs) (buf : Buf) (cnt : Cnt) (tr : Nat → Trans) (ad : Nat → BufAddr),
      (∀ sc, rel = some sc → s.releaseReady sc = true) →
      let c := laneView s b' h
      let lanes := lanesInOrder s b' h
      let bytes (r : Src) (l : Nat) : List Byte := natToBytes t.bytes (c.src t.wide r l).toNat
      let run (l : Nat) : List Byte := (List.range (t.bytes * cnt.num)).map fun j =>
        if cnt = .x1 then (c.src t.wide h.b l).extractLsb' (8 * j) 8 else
          match h.b with
          | .v r => (s.warp.vlane (r.toNat + j / 4) l).extractLsb' (8 * (j % 4)) 8
          | _ => 0
      let items (u : State) (va : Nat → Nat) (data : Nat → List Byte) : Prop := u.items = s.items ++ lanes.flatMap fun l =>
        [⟨2, [va l], laneBit l, va l⟩, ⟨3, [bytesToNat (data l)], laneBit l, va l⟩]
      let frame (u : State) : Prop := (∀ a, u.devByte a = s.devByte a) ∧
        { u with warp := s.warp, dev := s.dev, tags := s.tags, migCounts := s.migCounts, migDies := s.migDies, items := s.items, stores := s.stores } = s
      let memory (i : Instr) (va : Nat → Nat) (data : Nat → List Byte) : Prop := laneReady i s b' h →
        let entry (l : Nat) : CarrelEnt := .store (tr l).place (tr l).pa (data l) s.warp.ticket (laneBit l) (va l)
        (holdsBack s → (∀ l ∈ lanes, reaches s accWrite t.bytes (va l) (tr l) ∧ (s.warp.task ≠ none → (tr l).place = .device)) →
          completes i s fun u => u.warp.entries = s.warp.entries ++ lanes.map entry ∧ frame u ∧ u.items = s.items ∧ u.stores = s.stores ∧
            (s.warp.task = none → u.warp.task = none) ∧ (s.warp.task ≠ none → u.warp.carrel = s.warp.carrel) ∧
            lanesStored { u with warp := { u.warp with carrel := s.warp.carrel, task := s.warp.task } } s b') ∧
        (leads s → (∀ l ∈ lanes, reaches s accWrite t.bytes (va l) (tr l) ∧ pteMoving (tr l).entry = false) → completes i s fun u =>
          u.stores = s.stores ++ lanes.map (fun l => .mem (entry l)) ∧ items u va data ∧ frame u ∧ lanesStored u s b') ∧
        (follows s → (∀ l ∈ lanes, va l % t.bytes = 0) → completes i s fun u => items u va data ∧ lanesStored u s b') ∧
        (s.warp.isShadowed = false → s.warp.task ≠ none → (∃ l ∈ lanes, reaches s accWrite t.bytes (va l) (tr l) ∧ (tr l).place ≠ .device) →
          ∃ u : State, { u.warp with resident := s.warp.resident } = s.warp ∧ onlyWarp u s ∧
            exec i s = .next (u.trap ⟨0x0C, 44, 0, destInfo h, b'.addr, 4, true, 0⟩))
      let buffer (i : Instr) (n : Nat) (at' ok' : Nat → Prop) (data : Nat → List Byte) : Prop := laneReady i s b' h →
        (s.warp.task ≠ none → ∃ u : State, { u.warp with resident := s.warp.resident } = s.warp ∧ onlyWarp u s ∧
          exec i s = .next (u.trap ⟨0x0C, 5, 0, destInfo h, b'.addr, 4, true, 0⟩)) ∧
        (leads s → (∀ l ∈ lanes, c.sa l % n = 0 ∧ at' l) → completes i s fun u =>
          u.stores = s.stores ++ lanes.map (fun l => .buf s.warp.ident.grid (ad l).crew (ad l).buf (ad l).off (data l)) ∧ items u c.sa data ∧ frame u ∧
            lanesStored u s b') ∧
        (follows s → s.warp.task = none → (∀ l ∈ lanes, c.sa l % n = 0 ∧ ok' l) → completes i s fun u => items u c.sa data ∧ lanesStored u s b')
      memory (.st h t rel) c.va (bytes h.b) ∧ memory (.stx h t x) (c.vax x) (bytes h.c) ∧
      buffer (.sts h t) t.bytes (fun l => s.scratch s.warp (c.sa l) true false = .ok (ad l)) (fun _ => True) (bytes h.b) ∧
      buffer (.stb h t buf cnt) (t.bytes * cnt.num) (fun l => c.sa l < 2 ^ 19 ∧ ad l = ⟨s.warp.ident.crew, buf.num, c.sa l⟩) (fun l => c.sa l < 2 ^ 19) run)

/-- R310, R317 to R321: `tspec` opens a task that saves `s1` to `s15`, the mask and the named registers; `tabort`, and `tcommit` of a doomed task,
restore them and discard the carrel, going on behind the word or at the named address; `tcommit` of any other task performs its stores in order, but
traps `SEALED_STORE`, with none performed, where the page of one has been sealed since. Without a task, `tabort` and `tcommit` trap `MODE` 43. A word
of a `SHADOW` launch is logged. The wait for lane words comes before the word is executed, as `StepRunsDecoded` says.
Where the spec is open it rests on the model's readings, logs 21, 33 and 108. -/
def Obligations.Tasks : Prop :=
  ∀ (s : State) (a : SReg) (disp : BitVec 22), s.warp.fork = none → s.warp.det = false →
    let w := s.warp
    let blank : Vector W32 64 := Vector.replicate 64 0
    let undone (t : State) (k : Task) (pc : W64) : Prop := t.warp.pc = pc ∧ t.warp.task = none ∧ t.warp.am = k.am &&& w.live ∧
      (∀ i, 1 ≤ i → i ≤ 15 → t.warp.sget (BitVec.ofNat 6 i) = k.s.getD (i - 1) 0) ∧
      (∀ i, 16 ≤ i → i < 64 → t.warp.sget (BitVec.ofNat 6 i) = w.sget (BitVec.ofNat 6 i)) ∧
      (∀ r x, r < 256 → (k.regs.map (·.1)).Nodup → (r, x) ∈ k.regs → vget t.warp.v r blank = x) ∧
      (∀ r, r ∉ k.regs.map (·.1) → vget t.warp.v r blank = vget w.v r blank) ∧
      { t.warp with pc := w.pc, task := w.task, am := w.am, s := w.s, v := w.v } = w ∧ onlyWarpLog t s [⟨6, [], 0, 0⟩]
    (w.task = none → (∀ r ∈ saveRegs (s.sget a), r < w.regs) → completes (.tspec a) s fun t =>
      { t.warp with task := none, pc := w.pc } = w ∧ t.warp.pc = w.pc + 4 ∧ onlyWarpLog t s [⟨6, [(s.sget a).toNat], 0, 0⟩] ∧
      ∃ k, t.warp.task = some k ∧ k.doomed = false ∧ k.carrel = [] ∧ k.readSet = [] ∧ k.am = w.am ∧ k.s.length = 15 ∧
        (∀ i, 1 ≤ i → i ≤ 15 → k.s.getD (i - 1) 0 = s.sget (BitVec.ofNat 6 i)) ∧
        k.regs = (saveRegs (s.sget a)).map fun r => (r, vget w.v r blank)) ∧
    (∀ k, w.task = some k → k.s.length = 15 →
      (completes .tabort s fun t => undone t k (w.pc + 4)) ∧
      (k.doomed = true → w.isShadowed = false → completes (.tcommit disp) s fun t => undone t k (w.pc + 4 * disp.signExtend 64)) ∧
      (∀ (es : List (Nat × List Byte × Ticket × Mask × Nat)), k.doomed = false → w.isShadowed = false → s.releaseReady .grid = true → still s →
        k.carrel = es.map (fun e => .store .device e.1 e.2.1 e.2.2.1 e.2.2.2.1 e.2.2.2.2) → (∀ e ∈ es, s.sealedAt e.2.2.2.2 = false ∧
          ∀ i < e.2.1.length, s.isTableSlot (e.1 + i) = false ∧ s.inTable (e.1 + i) 4 (s.part w.ident.part).cfg.root = false) →
        completes (.tcommit disp) s fun t =>
          t.warp = { w with task := none, pc := w.pc + 4 } ∧ t.hostMem = s.hostMem ∧
          (∀ b, (∀ e ∈ es, b < e.1 ∨ e.1 + e.2.1.length ≤ b) → t.devByte b = s.devByte b) ∧
          (∀ (i b : Nat) (e : Nat × List Byte × Ticket × Mask × Nat), es[i]? = some e → e.1 ≤ b → b < e.1 + e.2.1.length →
            (∀ (j : Nat) (f : Nat × List Byte × Ticket × Mask × Nat), i < j → es[j]? = some f → b < f.1 ∨ f.1 + f.2.1.length ≤ b) →
            t.devByte b = e.2.1.getD (b - e.1) 0) ∧
          storeFrame t s) ∧
      (∀ va, k.doomed = false → w.isShadowed = false → k.carrel.findSome? s.sealedEntry = some va →
        exec (.tcommit disp) s = .next (s.trap ⟨0x04, 0, 0, 0, w.pc, 4, false, va⟩)) ∧
      /- a `SHADOW` launch: the outcome passes through the load value queue -/
      (w.isShadowed = true →
        let n := if k.doomed then 1 else 0
        let queue := if s.shadowRun = true then (lvqTaken s n).2 else s.lvq ++ [.known n]
        let u : State := { s with items := s.items ++ [⟨6, [], 0, 0⟩], lvq := queue }
        let doomed := if s.shadowRun = true then (lvqTaken s n).1 else n
        (doomed ≠ 0 → completes (.tcommit disp) s fun t => undone { t with items := logged s [⟨6, [], 0, 0⟩], lvq := s.lvq } k (w.pc + 4 * disp.signExtend 64) ∧
          t.items = u.items ∧ t.lvq = u.lvq) ∧
        (doomed = 0 → k.carrel = [] → s.releaseReady .grid = true → completes (.tcommit disp) s fun t =>
          t.warp = { w with task := none, pc := w.pc + 4 } ∧ { t with warp := w, cdc := s.cdc, fills := s.fills } = u) ∧
        (∀ va, doomed = 0 → k.carrel.findSome? s.sealedEntry = some va →
          exec (.tcommit disp) s = .next (u.trap ⟨0x04, 0, 0, 0, w.pc, 4, false, va⟩)))) ∧
    (w.task = none → trapsAt .tabort s 0x0C 43 4 ∧ trapsAt (.tcommit disp) s 0x0C 43 4)

/-- R201, R202: `regroup` that names no other warp of its crew, or one that has gone, writes 0 to `c1`; with a partner that waits for it, whose lanes
fit beside its own, the lower-ranked warp takes the survivors of both, in order, with their registers, masks and origins, and the other ends.
Where the spec is open it rests on the model's readings, log 36. -/
def Obligations.Regroup : Prop :=
  ∀ (s : State) (m : MReg) (a : SReg), s.warp.fork = none → s.warp.am = s.warp.live → s.warp.isTwin = false → s.warp.isShadowed = false →
    s.warp.task = none → s.warp.stack = [] → s.warp.det = false → s.warp.wait = .none →
    let w := s.warp
    let p := (s.sget a).toNat
    ((∀ x ∈ s.others, ∀ r k, x.wait ≠ .regroup r k) → (64 ≤ p ∨ p = w.ident.rank ∨ w.ident.warps ≤ p ∨ (s.slipFree = true ∧ s.rankOf w p = none)) →
      exec (.regroup m a) s = .next { s with warp := { w.cset 1 false with pc := w.pc + 4, wait := .none, qdone := false } }) ∧
    (∀ (x : Warp) (n : Mask), w.alive = true → p < 64 → w.ident.rank < p → p < w.ident.warps → s.slipFree = true → s.rankOf w p = some x →
      x.wait = .regroup w.ident.rank n → x.id ≠ w.id → x.det = false →
      (∀ y ∈ s.others, y.id ≠ x.id → ∀ r k, y.wait ≠ .regroup r k) →
      let ls := regroupLanes (w.live &&& w.mget m) (x.live &&& n)
      ls.length ≤ 64 → completes (.regroup m a) s fun t =>
        (∀ y ∈ t.others, y.id ≠ x.id) ∧ t.warp.cget 1 = true ∧ t.warp.pc = w.pc + 4 ∧ t.warp.am = t.warp.live ∧
        (∀ i < 64, t.warp.live.getLsbD i = decide (i < ls.length)) ∧
        (∀ i right l, ls[i]? = some (right, l) → let from' := if right then x else w
          (∀ r < 256, t.warp.vlane r i = from'.vlane r l) ∧ (vget t.warp.origin i 0 = vget from'.origin l 0) ∧
          (∀ k : MReg, k ≠ 0 → (t.warp.mget k).getLsbD i = (from'.mget k).getLsbD l)))

/-! ## Engines -/

/-- R342 to R345, R349, R351, R353, R355, R357, R358: the engine words that pass their checks are accepted by their context: `cpy` and `gath` with the
descriptor that they read, `mig` for the page of its address, `pref.s`, and `clr` of a privileged launch.
Where the spec is open it rests on the model's readings, logs 35 and 125. -/
def Obligations.EngineWords : Prop :=
  ∀ (s v : State) (d a b : SReg) (yld cdc : Bool) (bs : List Byte), matrixMode s → s.warp.det = false →
    let w := s.warp
    let va := (s.sget a).toNat
    let c := s.sget b
    let ctx := field c 52 12
    let u : State := { v with warp := { v.warp with fetched := [] } }
    let cont : Prop := yld = true → (s.sget d).toNat % 4 = 0
    ctx < (s.part w.ident.part).cfg.ectx →
    (va % 64 = 0 → field c 0 52 = 0 → cont → s.readPieces va 8 [] = .ok bs v → cpyBad bs = false →
      let src := leAt bs 0 8
      let dst := leAt bs 8 8
      let run := leAt bs 16 4
      let sk := leAt bs 21 1
      let dk := leAt bs 22 1
      let dims := cpyDims bs
      let bank := Tab.get (u.part w.ident.part).banks (bitsOf dst 56 8) 0
      let from' := sideSpan run (dims.map fun x => (x.1, x.2.1))
      let to' := sideSpan run (dims.map fun x => (x.1, x.2.2))
      (sk = 1 → src % 4 = 0 ∧ run % 4 = 0 ∧ (∀ x ∈ dims, x.2.1 % 4 = 0) ∧ u.spanKind (src % 2 ^ 32) from' = none) →
      (dk = 1 → dst % 4 = 0 ∧ run % 4 = 0 ∧ (∀ x ∈ dims, x.2.2 % 4 = 0) ∧ u.spanKind (dst % 2 ^ 32) to' = none) →
      (dk = 2 → bank.getLsbD 8 = true ∧ bitsOf dst 0 23 % 64 = 0 ∧ run % 64 = 0 ∧ (∀ x ∈ dims, x.2.2 % 64 = 0) ∧
        0 ≤ (bitsOf dst 0 23 : Int) + to'.1 ∧ (bitsOf dst 0 23 : Int) + to'.2 ≤ 8388608) →
      accepts (.cpy d a b yld) s u ctx (.cpy ⟨src, if dk = 2 then 8388608 * field bank 0 8 + bitsOf dst 0 23 else dst, run, sk, dk,
        u.warp.crewOf src, u.warp.crewOf dst, dims⟩) d yld) ∧
    (va % 64 = 0 → field c 0 52 = 0 → cont → s.readPieces va 1 [] = .ok bs v → gathBad bs = false →
      let idx := leAt bs 8 8
      let dst := leAt bs 16 4
      let width := 2 ^ (leAt bs 48 1 % 4)
      let spad := (leAt bs 48 1).testBit 3
      bitsOf dst 21 2 = 1 → (spad = true → (bitsOf idx 21 2 = 1 ∨ bitsOf idx 21 2 = 2) ∧
        u.rangeKind (idx % 2 ^ 32) (idx % 2 ^ 19 + leAt bs 24 4 * width) = none) →
      dst % 4 = 0 → leAt bs 20 4 % 4 = 0 → idx % width = 0 →
      u.rangeKind dst (dst % 2 ^ 19 + (leAt bs 24 4 - 1) * leAt bs 20 4 + leAt bs 28 4) = none →
      accepts (.gath d a b yld) s u ctx (.gath ⟨leAt bs 0 8, idx, dst, leAt bs 20 4, leAt bs 24 4, leAt bs 28 4, signed64 (leAt bs 32 8),
        leAt bs 40 8, width, (leAt bs 48 1).testBit 2, spad, u.warp.crewOf idx, u.warp.crewOf dst⟩) d yld) ∧
    (∀ tr, s.xlate w.ident.part va = .ok tr → tr.page ≤ 2 ^ 21 → tr.place ≠ .remote → field c 17 35 = 0 → field c 7 9 = 0 →
      let numa := c.getLsbD 16
      let e := Tab.get (s.part w.ident.part).clusters (field c 0 7) 0
      (numa = false → field c 0 7 = 0) → (numa = true → e.getLsbD 8 = true) →
      accepts (.mig d a b) s (s.markLeaf tr.leaf false) ctx (.mig (va / tr.page * tr.page) numa (field e 5 3)) d false) ∧
    (field c 0 31 ≠ 0 → field c 0 31 ≤ 2 ^ 30 → field c 31 17 = 0 → field c 48 3 ≤ 5 → c.getLsbD 51 = false →
      accepts (.prefS d a b cdc) s s ctx (.pref va (field c 0 31) (field c 48 3) cdc (s.clusterOf w)) d false) ∧
    (w.priv = true → 2 ≤ (s.part w.ident.part).cfg.level → field c 10 42 = 0 → (field c 4 6 < 32 ∨ field c 4 6 = 63) →
      pageBytes (field c 0 4) ≠ 0 → va % pageBytes (field c 0 4) = 0 → va + pageBytes (field c 0 4) ≤ 618475290624 →
      accepts (.clr d a b) s s ctx (.clr va (pageBytes (field c 0 4)) (field c 4 6)) d false)

/-- R304, R342, R352, R354 to R358: the operations of the engines: the first waiting one of a context starts, and none past one that a stop holds; a copy
or gather whose pieces all resolve, none of them remote, carries their bytes and ends; a prefetch ends; a clear zeroes its frame and gives it its owner; and the warp that
yielded for an operation that has ended goes on at its continuation with the number.
Where the spec is open it rests on the model's readings, logs 38, 104, 125 and 126. -/
def Obligations.EngineEvents : Prop :=
  ∀ (s : State) (p ctx n w : Nat) (o : EngOp),
    (s.ops.find? (fun x => x.part == p && x.ctx == ctx && !x.started) = some o →
      (o.held = false → (∀ va numa die, o.kind ≠ .mig va numa die) →
        exec (.engineOpStart p ctx) s = .next { s with ops := s.ops.map fun x =>
          if x.part = o.part ∧ x.ctx = o.ctx ∧ x.n = o.n then { x with started := true } else x }) ∧
      (o.held = true → (∀ x ∈ s.ops, ∀ va numa die, x.kind ≠ .mig va numa die) → exec (.engineOpStart p ctx) s = .next s)) ∧
    (s.runningOp p ctx n = some o → o.refused = none → o.sent = false → o.pos = 0 → s.opAwaits o = false → still s →
      (∀ (d : CpyDesc) (u : State) (hs : List Haul), o.kind = .cpy d → s.haul o d.legs = (u, hs, .none) →
        (∀ h ∈ hs, ∀ pa, h.src ≠ .copy (.mem .remote pa)) → writable u hs →
        completes (.copyComplete p ctx n) s fun t => ended t u p ctx n ∧ carried t u o hs) ∧
      (∀ (d : GathDesc) (u v : State) (hs gs : List Haul), o.kind = .gath d → s.haul o d.indexLegs = (u, hs, .none) → hs.length = d.count →
        (∀ h ∈ hs, (∀ pa, h.src ≠ .copy (.mem .remote pa)) ∧ ∀ x ∈ u.haulBytes o h, x.2 = false) →
        u.haul o ((List.range d.count).map fun i =>
          d.rowLeg i (indexValue d ((u.haulBytes o (hs.getD i ⟨.zero, .bank 0, 0, 0, 0⟩)).map (·.1))) false) = (v, gs, .none) →
        (∀ h ∈ gs, ∀ pa, h.src ≠ .copy (.mem .remote pa)) → writable v gs → completes (.gatherComplete p ctx n) s fun t => ended t v p ctx n ∧ carried t v o gs) ∧
      (∀ va len hint cdc cluster, o.kind = .pref va len hint cdc cluster → completes (.prefetchComplete p ctx n) s fun t =>
        ended t s p ctx n ∧ t.dev = s.dev ∧ t.hostMem = s.hostMem ∧ t.cdc = s.cdc) ∧
      (∀ pa size owner bad, o.kind = .clr pa size owner → pa % 4096 = 0 → size % 4096 = 0 → completes (.clearComplete p ctx n bad) s fun t =>
        ended t s p ctx n ∧ (∀ a, t.dev.byte a = if pa ≤ a ∧ a < pa + size then 0 else s.dev.byte a) ∧
        (bad = [] → (∀ f, pa / 4096 ≤ f → f < (pa + size) / 4096 → Tab.get s.scores f 0 = 0 ∧ ∀ r ∈ s.owners, r.owner ≠ 64) →
          ∀ a, pa ≤ a → a < pa + size → t.ownerAt a = owner ∧ t.devByte a = 0))) ∧
    (∀ (x : Warp) (k : Nat) (cont : W64) (d : SReg), s.findWarp w = some x → (s.warp.id = w → s.warp.alive = true) → x.wait = .engine ctx k cont d → k ≤ (s.ctxOf x.ident.part ctx).t →
      x.evicted = false → completes (.yieldResume w) s fun t => ∃ y, y ∈ t.warp :: t.others ∧ y.id = w ∧ y.pc = cont ∧ y.wait = .none ∧
        regsWith y x d (BitVec.ofNat 64 k) ∧ (∀ z ∈ t.cdc, z ∈ s.cdc ∧ (z.cluster ≠ s.clusterOf x ∨ z.isSealed = true)))

/-- R264, R339, R340, R356: a fill on its way is installed, and no line leaves the cache for it while its set has room; the counters halve; a page
whose counter has reached the threshold is queued to move, a NUMA page to the die of the access that reached it; the first queued move takes a free
frame and starts, with MOVING set, and at its end the page's bytes stand in the new frame and its record goes to the partition's fault mailbox.
Where the spec is open it rests on the model's readings, logs 12, 44, 103 and 104. -/
def Obligations.Migration : Prop :=
  ∀ (s : State) (p id die cluster line : Nat) (va : VA) (tr : Trans) (m : Move) (x : CdcLine),
    (s.fills.find? (fun y => y.cluster == cluster && y.line == line) = some x → completes (.cdcFill cluster line) s fun t =>
      x ∈ t.cdc ∧ x ∉ t.fills ∧ (∀ y ∈ t.cdc, y = x ∨ y ∈ s.cdc) ∧
      ((s.cdc.filter x.sameSet).length < 16 → ∀ y ∈ s.cdc, y.cluster ≠ x.cluster ∨ y.place ≠ x.place ∨ y.line ≠ x.line → y ∈ t.cdc) ∧
      { t with cdc := s.cdc, fills := s.fills, fresh := s.fresh } = s) ∧
    exec .migrationCounterHalving s = .next { s with migCounts := s.migCounts.map fun c => (c.1, c.2 / 2) } ∧
    (s.xlate p va.toNat = .ok tr → (s.part p).cfg.migth ≠ 0 → tr.page ≤ 2 ^ 21 →
      (s.part p).cfg.migth ≤ Tab.get s.migCounts (p * 2 ^ 57 + va.toNat / tr.page * tr.page) 0 → tr.place = .host ∨ (tr.place = .device ∧
        pteNuma tr.entry = true) → (∀ y ∈ s.moves, ¬(y.part = p ∧ y.va = va.toNat / tr.page * tr.page)) →
      (tr.place = .device → die = Tab.get s.migDies (p * 2 ^ 57 + va.toNat / tr.page * tr.page) 0) →
      completes (.migrationThreshold p va die) s fun t => ∃ y, t.moves = s.moves ++ [y] ∧ y.part = p ∧ y.va = va.toNat / tr.page * tr.page ∧
        y.flying = false ∧ y.numa = decide (tr.place = .device) ∧
        (tr.place = .device → y.die = die) ∧ Tab.get t.migCounts (p * 2 ^ 57 + y.va) 0 = 0) ∧
    (∀ a, (s.moves.filter (·.flying)).length < 8 → s.moves.find? (fun y => !y.flying && s.moveFree y &&
        !s.moves.any fun x => x.flying && x.of y.part y.va) = some m → s.xlate m.part m.va = .ok tr →
      moveDone tr m.numa m.die = false → tr.place ≠ .remote → tr.page ≤ 2 ^ 21 → s.poolFrame m.part tr.page = some a →
      completes .moveStart s fun t => (∃ y ∈ t.moves, y.id = m.id ∧ y.flying = true ∧ y.newPa = a ∧ y.oldPa = tr.pa - m.va % tr.page) ∧
        (a, tr.page) ∈ (t.part m.part).migUsed ∧ (t.devByte (firstLeaf tr m.va + 6)).getLsbD 4 = true) ∧
    (s.moves.find? (fun y => y.id == id && y.flying) = some m →
      (∀ i < pageBytes m.size / 2 ^ (12 + 9 * pageLevel m.size), m.leaf + 8 * i + 8 ≤ m.newPa ∨ m.newPa + pageBytes m.size ≤ m.leaf + 8 * i) →
      completes (.moveComplete id) s fun t => (∀ y ∈ t.moves, y ∈ s.moves ∧ y.id ≠ id) ∧
        (∀ i < pageBytes m.size, t.devByte (m.newPa + i) = (s.placeRead m.oldPlace (m.oldPa + i) 1).getD 0 0) ∧ t.hostMem = s.hostMem ∧
        ((s.part m.part).msgs.length < 1023 → (t.part m.part).msgs = (s.part m.part).msgs ++
          [moveRecord m.va m.oldPa m.newPa]))

/-! ## Partitions, mailboxes and launches -/

/-- R366 to R370, R372, R385, R391, R408: the configuration words, in a launch that holds level 2, do what they name and complete with status 0:
`part.new` and `part.set` with a checked block; `part.bind` run, suspend and free, of which suspend completes at once where no crew of the partition
stands on a core, and else leaves the partition suspending; `vf.bind` that binds a function and that unbinds one; and `cat.set` of a cluster that
no crew stands on, a bank, a link or a lane map. Where the spec is open it rests on the model's readings, logs 49, 50, 51, 52, 53 and 55. -/
def Obligations.PartitionWords : Prop :=
  ∀ (s v : State) (d a b : SReg) (bs : List Byte) (p base : Nat), mayConfigure s 2 → (s.sget a).toNat = p →
    let y := s.sget b
    let u : State := { v with warp := { v.warp with fetched := [] } }
    let only (t r : State) : Prop := (∀ q, q ≠ p → t.part q = r.part q) ∧ t.dev = r.dev ∧ t.hostMem = r.hostMem
    let c := cfgOf bs
    (p < 32 → y.toNat % 64 = 0 → s.readPieces y.toNat 2 [] = .ok bs v → cfgBad bs = false → u.poolsBad p c = false → u.totalsBad p c = false →
      ((s.part p).state = .free → u.findRun p c.barq = some base → ∃ r, answers (.partNew d a b) s r d 0 ∧ only r u ∧
        (r.part p).state = .suspended ∧ (r.part p).cfg = c ∧ (r.part p).barBase = base ∧ (r.part p).mbxs = [] ∧ (r.part p).ctxs = []) ∧
      ((s.part p).state ≠ .free → u.moveRun p c.barq = some base → u.ctxBusy p c.ectx = false → (u.mbx p c.replyMbx).bound = false →
        ((c.root = (u.part p).cfg.root ∧ c.pools = (u.part p).cfg.pools ∧ c.level = (u.part p).cfg.level) ∨
          ((u.part p).state = .suspended ∧ u.liveGrid p = false)) →
        ∃ r, answers (.partSet d a b) s r d 0 ∧ only r u ∧ (r.part p).cfg = c ∧ (r.part p).barBase = base ∧
          (∀ m < c.mbx, r.mbx p m = u.mbx p m) ∧ ∀ m, c.mbx ≤ m → (r.mbx p m).binding = .none)) ∧
    (p < 32 → y = 1 → (s.part p).state = .suspended → (s.part p).stop = none → s.folioOn p = false →
      ∃ r, answers (.partBindRun d a b) s r d 0 ∧ only r s ∧ (r.part p).state = .running ∧ (r.part p).cfg = (s.part p).cfg ∧
        ∀ o ∈ r.ops, o.part = p → o.held = false) ∧
    (p < 32 → p ≠ s.warp.ident.part → s.warp.alive = true → (s.part p).state = .running →
      (completes (.partBindSuspend d a b) s fun t => (t.part p).suspending = true ∨ (t.part p).state = .suspended) ∧
      ((s.part p).newCluster = none → s.placedTeams p = [] → s.crewsOn p none = false → completes (.partBindSuspend d a b) s fun t =>
        (t.part p).state = .suspended ∧ t.warp.wait = .none ∧ t.warp.pc = s.warp.pc + 4 ∧ t.warp.sget d = 0)) ∧
    (p < 32 → p ≠ s.warp.ident.part → (s.part p).state = .suspended → (s.part p).stop = none → s.liveGrid p = false →
      ∃ r, answers (.partBindFree d a b) s r d 0 ∧ (r.part p).state = .free ∧ (∀ f ∈ r.vfs, f.2.part ≠ p) ∧ (∀ o ∈ r.ops, o.part ≠ p) ∧
        Tab.get r.epochs p 0 = Tab.get s.epochs p 0 + 1) ∧
    (p < 1024 → p ≠ 0 → field y 53 10 = 0 → field y 45 3 = 0 → field y 28 4 = 0 → field y 8 8 = 0 →
      let f : Vf := ⟨field y 48 5, field y 32 13, field y 16 12, field y 0 8⟩
      let binds (x : Option Vf) : Prop := ∃ r, answers (.vfBind d a b) s r d 0 ∧ r.vf? p = x ∧ (∀ q, q ≠ p → r.vf? q = s.vf? q) ∧
        { r with vfs := s.vfs } = s;
      ∀ on : Bool, y.getLsbD 63 = on →
        if on = true then
          (s.part f.part).state ≠ .free → 1 ≤ f.count → f.count ≤ 4096 → f.weight ≠ 0 → f.base + f.count ≤ (s.part f.part).cfg.mbx →
            (∀ g ∈ s.vfs, g.1 ≠ p → g.2.part = f.part → f.base + f.count ≤ g.2.base ∨ g.2.base + g.2.count ≤ f.base) → binds (some f)
        else binds none) ∧
    (let x := s.sget a
      let q := field x 48 5
      let i := field x 0 16
      field x 53 7 = 0 → field x 16 32 = 0 → (field x 60 4 ≤ 2 → (s.part q).state ≠ .free) →
      (field x 60 4 = 0 → i < 128 → clusterBad y = false →
        (entryValid y = true → (s.die (field y 5 3)).bad.contains (field y 0 5) = false ∧ s.clusterElsewhere q i y = false) →
        (∀ e, (s.part q).newCluster = some e → e.1 ≠ i) →
        (let old := Tab.get (s.part q).clusters i 0;
          entryValid old = false ∨ y = old ∨ s.crewsOn q (some (entryCluster old)) = false) →
        ∃ r, answers (.catSet d a b) s r d 0 ∧ Tab.get (r.part q).clusters i 0 = y) ∧
      (field x 60 4 = 1 → i < 256 → field y 9 55 = 0 → (y.getLsbD 8 = true → s.bankElsewhere q y = false) →
        ∃ r, answers (.catSet d a b) s r d 0 ∧ Tab.get (r.part q).banks i 0 = y) ∧
      (field x 60 4 = 2 → i < 512 → field y 3 61 = 0 → ∃ r, answers (.catSet d a b) s r d 0 ∧ Tab.get (r.part q).links i 0 = y) ∧
      (field x 60 4 = 3 → q = 0 → i < 544 → laneMapBad y = false → s.holder (coreOfIndex i) = none →
        ∃ r, answers (.catSet d a b) s r d 0 ∧ Tab.get r.laneMaps i 0 = y))

/-- R187, R389, R392, R406, R407: `brk` of a launch with the debug attribute stops its partition behind the word, and without it traps `BREAK`;
`halt` raises the halt line of every partition and of the module's own sources, and `stop` that of one partition: from then on a context stop is
under way there, with the word's reason and code, and no warp of the partition issues; where one is under way already, its COUNT grows by 1. The
word's status is 0, written first, where the stop is its own partition's.
Where the spec is open it rests on the model's readings, log 66. -/
def Obligations.HaltAndStop : Prop :=
  ∀ (s : State) (d a : SReg), s.warp.alive = true → (∀ z ∈ s.others, z.id ≠ s.warp.id) →
    let w := s.warp
    let x := s.sget a
    let src := 0xF000 + ((s.team? w.ident.grid w.ident.team).bind (·.shelf)).getD 0
    let stopped (t : State) (p reason : Nat) : Prop := match (s.part p).stop with
      | none => ∃ y, (t.part p).stop = some y ∧ y.reason = reason ∧ y.code = field x 16 16 ∧ y.count = 1 ∧ y.source = src ∧
          ∀ z ∈ t.warps, z.ident.part = p → z.evicted = true
      | some y => (t.part p).stop = some { y with count := y.count + 1 }
    let own (t : State) : Prop := t.warp.pc = w.pc + 4 ∧ t.warp.sget d = 0
    (mayConfigure s 2 → field x 0 16 = 0 → field x 32 32 = 0 → completes (.halt d a) s fun t => own t ∧
      (∀ p < 32, (s.part p).state ≠ .free → stopped t p 2) ∧
      match s.moduleStop with
      | none => ∃ y, t.moduleStop = some y ∧ y.reason = 2 ∧ y.code = field x 16 16 ∧ y.count = 1 ∧ y.source = src
      | some y => t.moduleStop = some { y with count := y.count + 1 }) ∧
    (∀ p, p = field x 0 5 → field x 5 11 = 0 → field x 32 32 = 0 → (s.part p).state ≠ .free →
      (mayConfigure s 1 → p = w.ident.part → completes (.stop d a) s fun t => own t ∧ stopped t p 1) ∧
      (mayConfigure s 2 → p ≠ w.ident.part → completes (.stop d a) s fun t => t.warp = { w with wait := .config .stop p d } ∧ stopped t p 1)) ∧
    (∀ c : BitVec 14,
      (w.debug = true → completes (.brk c) s fun t => t.warp.pc = w.pc + 4 ∧
        match (s.part w.ident.part).stop with
        | none => ∃ y, (t.part w.ident.part).stop = some y ∧ y.reason = 3 ∧ y.count = 1 ∧ y.brk = some (w.pc, w.ident.global)
        | some y => (t.part w.ident.part).stop = some { y with count := y.count + 1 }) ∧
      (w.debug = false → trapsAt (.brk c) s 0x19 (c.setWidth 32) 4))

/-- R366, R367, R374 to R376, R379: posts. A post to a mailbox that takes the message queues it and delivers 0, whether the mailbox is the
partition's own, another's, or the binding service's, which learns the sender; a full queue and an unbound mailbox refuse it with status 1 and 2, a
FREE partition with 5. `mbx.post.wait` waits at a full queue with the message that it has read, and posts that message once there is room.
`mbx.post.tl` defers its message behind an operation. `mbx.bind` binds a checked descriptor to a mailbox of its own partition or of another; with
address 0 it removes the binding, with every message that waits, those of the fault mailbox going back to the buffer that they came from.
R371, R375: host writes. A whole slot below COUNT is a message; any other write there counts a refusal with reason 4; the last slot is the binding
service's; every other write, and one through a function that is not bound, does nothing. A host reads zero in the slots and the status words of
those below COUNT. Where the spec is open it rests on the model's readings, logs 19, 52 and 56. -/
def Obligations.Mailboxes : Prop :=
  (
    ∀ (s v : State) (d a b : SReg) (bs : List Byte), s.warp.fork = none → s.warp.task = none → s.warp.det = false → s.warp.isShadowed = false →
      let w := s.warp
      let own := w.ident.part
      let x := s.sget a
      let p := field x 12 5
      let m := field x 0 12
      let va := (s.sget b).toNat
      let u : State := { v with warp := { v.warp with fetched := [] } }
      let service := p = 0 ∧ m = 4095
      let arrives (r t : State) (msg : List Byte) : Prop :=
        queued r t p m (if service ∧ own ≠ 0 then msg.take 2 ++ natToBytes 2 own ++ msg.drop 4 else msg)
      let refused (r t : State) (reason : Nat) : Prop := (r.mbx p m).refused = min ((t.mbx p m).refused + 1) (2 ^ 32 - 1) ∧
        (r.mbx p m).reason = reason ∧ (r.mbx p m).queue = (t.mbx p m).queue ∧ { r with parts := t.parts } = t
      let full (t : State) : Prop := m ≠ (t.part p).cfg.replyMbx ∧ 16 ≤ (t.mbx p m).queue.length ∧
        ((t.mbx p m).binding = .service ∨ ∃ h, (t.mbx p m).binding = .handler h ∧ h.timed = false)
      (field x 17 3 = 0 → field x 32 32 = 0 → (p = own ∨ service ∨ (w.priv = true ∧ 2 ≤ (s.part own).cfg.level)) →
        (field x 20 12 = 0 → (s.part p).state = .free → answers (.mbxPost d a b) s s d 5 ∧ (w.posting = none → answers (.mbxPostWait d a b) s s d 5)) ∧
        (va % 64 = 0 → s.readPieces va 1 [] = .ok bs v → u.releaseReady .sys = true → (s.part p).state ≠ .free → m < (s.part p).cfg.mbx →
          (field x 20 12 = 0 →
            (takesMessage u p m → ∃ r, answers (.mbxPost d a b) s r d 0 ∧ arrives r u bs) ∧
            (full u → m < (u.part p).cfg.mbx → (u.part p).state ≠ .free → ∃ r, answers (.mbxPost d a b) s r d 1 ∧ refused r u 1) ∧
            (m ≠ (u.part p).cfg.replyMbx → (u.mbx p m).binding = .none → m < (u.part p).cfg.mbx → (u.part p).state ≠ .free →
              ∃ r, answers (.mbxPost d a b) s r d 2 ∧ refused r u 2) ∧
            (w.posting = none →
              (takesMessage u p m → ∃ r, answers (.mbxPostWait d a b) s r d 0 ∧ arrives r u bs) ∧
              (full u → exec (.mbxPostWait d a b) s = .next { u with warp := { u.warp with posting := some bs, wait := .order } }))) ∧
          (field x 20 12 < (s.part own).cfg.ectx → (u.part own).cfg.ectx = (s.part own).cfg.ectx →
            (s.sget d).toNat ≤ (u.ctxOf own (field x 20 12)).s → (u.warp.sget d) = s.sget d →
            ((u.ctxOf own (field x 20 12)).deferred.length < 16 → ∃ r, answers (.mbxPostTl d a b) s r d 0 ∧
              (r.ctxOf own (field x 20 12)).deferred = (u.ctxOf own (field x 20 12)).deferred ++ [⟨(s.sget d).toNat, m, p, own, bs⟩]) ∧
            (16 ≤ (u.ctxOf own (field x 20 12)).deferred.length → answers (.mbxPostTl d a b) s u d 6)))) ∧
      (∀ msg, w.posting = some msg →
        (takesMessage s p m → ∃ r, answers (.mbxPostWait d a b) s r d 0 ∧ arrives r { s with warp := { w with posting := none } } msg) ∧
        (full s → exec (.mbxPostWait d a b) s = .next { s with warp := { w with wait := .order } })) ∧
      (mayConfigure s (if p = own then 1 else 2) → (s.part p).state ≠ .free → field x 17 47 = 0 → m < (s.part p).cfg.mbx →
        m ≠ (s.part p).cfg.replyMbx → ¬service →
        (va ≠ 0 → (if p = own then va % 64 = 0 ∧ s.readPieces va 2 [] = .ok bs v else s.peekDesc p va = (.ok bs, v)) →
          descBad p (u.part p).cfg bs = false → (u.part p).cfg.replyMbx = (s.part p).cfg.replyMbx →
          ∃ r, answers (.mbxBind d a b) s r d 0 ∧ (r.mbx p m).binding = .handler (descOfBlock bs) ∧ (r.mbx p m).queue = (u.mbx p m).queue) ∧
        (va = 0 → ∃ r, answers (.mbxUnbind d a b) s r d 0 ∧ (r.mbx p m).binding = .none ∧ (r.mbx p m).queue = [] ∧
          (if m = (s.part p).cfg.faultMbx then (r.part p).msgs = (s.mbx p m).queue.map (·.2) ++ (s.part p).msgs
            else (r.part p).msgs = (s.part p).msgs ∧
              (r.mbx p m).refused = min ((s.mbx p m).refused + (s.mbx p m).queue.length) (2 ^ 32 - 1) ∧
              ((s.mbx p m).queue ≠ [] → (r.mbx p m).reason = 2))))) ∧
  (
    ∀ (s : State) (vf off : Nat) (f : Vf) (bytes : List Byte), s.vf? vf = some f →
      let m := f.base + off / 64
      let toService (i : Instr) : Prop := takesMessage s 0 4095 → completes i s fun t =>
        queued t s 0 4095 (if vf = 0 then bytes else bytes.take 2 ++ natToBytes 2 f.part ++ bytes.drop 4)
      let refused (p k : Nat) : Prop := completes (.hostSlotWrite vf off bytes) s fun t =>
        (t.mbx p k).refused = min ((s.mbx p k).refused + 1) (2 ^ 32 - 1) ∧ (t.mbx p k).reason = 4 ∧ (t.mbx p k).queue = (s.mbx p k).queue
      (off < 0x40000 → off / 64 < f.count → off % 64 = 0 → bytes.length = 64 → takesMessage s f.part m →
        completes (.hostSlotWrite vf off bytes) s fun t => queued t s f.part m bytes) ∧
      (off < 0x40000 → off / 64 < f.count → off % 64 ≠ 0 ∨ bytes.length ≠ 64 → (s.part f.part).state ≠ .free → m < (s.part f.part).cfg.mbx →
        refused f.part m) ∧
      (off = 0x7FFC0 → bytes.length = 64 → toService (.hostSlotWrite vf off bytes)) ∧
      (0x7FFC0 ≤ off → off < 0x80000 → off ≠ 0x7FFC0 ∨ bytes.length ≠ 64 → (s.part 0).state ≠ .free → refused 0 4095) ∧
      ((off < 0x7FFC0 ∨ 0x80000 ≤ off) → 0x40000 ≤ off ∨ f.count ≤ off / 64 → exec (.hostSlotWrite vf off bytes) s = .next s) ∧
      (bytes.length = 64 → toService (.serviceSlotWrite vf bytes)) ∧
      (∀ i < f.count, s.bar0Read vf (0x40000 + 8 * i) 8 = natToBytes 8 (s.mbx f.part (f.base + i)).word.toNat) ∧
      (∀ n, off + n ≤ 0x40000 → s.bar0Read vf off n = zeros n)) ∧
  (
    ∀ (s : State) (vf off : Nat) (bytes : List Byte), s.vf? vf = none →
      exec (.hostSlotWrite vf off bytes) s = .next s ∧ exec (.serviceSlotWrite vf bytes) s = .next s ∧ s.bar0Read vf off 8 = zeros 8)

/-- R24, R34, R376 to R379: the oldest message that may launch makes a grid: its crews wait for placement with empty deques, its warps stand at the
descriptor's entry, and the warp with GLOBAL 0 has the message in `s1` to `s8`; a grid of which nothing is left completes, with its report where it
names a mailbox; a deferred post whose operation has ended is delivered.
Where the spec is open it rests on the model's readings, logs 18, 58 and 105. -/
def Obligations.Launches : Prop :=
  ∀ (s : State) (p m n g ctx : Nat) (msg : List Byte) (h : Desc),
    (s.launchable p m = some (n, msg) → ((s.mbx p m).binding = .handler h ∨ ((s.mbx p m).binding = .service ∧ h = serviceDesc)) →
      (∀ k ∈ (s.part p).mbxs, ∀ q, s.launchable p k.1 = some q → n ≤ q.1) → completes (.gridLaunch p m) s fun t =>
        (t.mbx p m).queue = (s.mbx p m).queue.drop 1 ∧ (t.mbx p m).running = (s.mbx p m).running + 1 ∧
        (t.part p).launches = ((s.part p).launches + 1) % 2 ^ 32 ∧
        t.grids = s.grids ++ [⟨s.nextId, p, m, (s.part p).launches, n, h, msg, false, 0⟩] ∧ t.teams.length = s.teams.length + h.teams ∧
        (∀ c ∈ t.crews.drop s.crews.length, c.grid = s.nextId ∧ c.state = .waiting ∧ c.core = none ∧ c.deque = [] ∧ c.bufW = ⟨[], []⟩ ∧
          c.bufA = ⟨[], []⟩ ∧ c.bufC = ⟨[], []⟩) ∧
        t.crews.length = s.crews.length + h.teams * h.crews ∧
        ((s.mbx p m).binding ≠ .service → t.others.take s.others.length = s.others) ∧
        t.others.length = s.others.length + h.teams * h.crews * h.warps ∧
        ∀ i w, i < h.teams * h.crews * h.warps → t.others[s.others.length + i]? = some w →
          w.alive = true ∧ w.pc = h.entry ∧ w.lcb = h.lcb ∧ w.regs = h.regs ∧ w.level = 0 ∧ w.am = BitVec.allOnes 64 ∧ w.ident.global = i ∧
          w.ident.rank = i % h.warps ∧ w.ident.crew = i / h.warps ∧ w.ident.team = i / h.warps / h.crews ∧
          (∀ k, 1 ≤ k → k ≤ 8 → w.sget (BitVec.ofNat 6 k) = if i = 0 then BitVec.ofNat 64 (leAt msg (8 * (k - 1)) 8) else 0)) ∧
    (∀ y : Grid, s.grid? g = some y → s.gridOver g = true → y.desc.doneVa = 0 →
      (∀ k, y.desc.doneMbx = some k → takesMessage s y.part k) → completes (.gridCompletion g) s fun t =>
      (∀ z, z ∈ t.grids ↔ z ∈ s.grids ∧ z.id ≠ g) ∧ (∀ c ∈ t.crews, c.grid ≠ g) ∧ (∀ c ∈ t.teams, c.grid ≠ g) ∧
      (t.mbx y.part y.mbx).running = (s.mbx y.part y.mbx).running - 1 ∧
      ∀ k, y.desc.doneMbx = some k → (t.mbx y.part k).queue = (s.mbx y.part k).queue ++
        [(s.arrivals + 1, layBytes [(1, 8), (1, y.halted.toNat), (2, 0), (4, y.launch), (2, y.mbx), (54, 0)])]) ∧
    (∀ x : Deferred, (s.ctxOf p ctx).deferred.find? (fun z => decide (z.n ≤ (s.ctxOf p ctx).t)) = some x → takesMessage s x.part x.mbx →
      completes (.deferredPost p ctx) s fun t =>
        (t.ctxOf p ctx).deferred = (s.ctxOf p ctx).deferred.erase x ∧ (t.mbx x.part x.mbx).queue = (s.mbx x.part x.mbx).queue ++
          [(s.arrivals + 1, if x.part = 0 ∧ x.mbx = 4095 ∧ x.src ≠ 0 then x.msg.take 2 ++ natToBytes 2 x.src ++ x.msg.drop 4 else x.msg)])

/-- R192, R193, R337, R338: the first message of a fault-message buffer arrives at the fault mailbox that takes it, the overflow record behind the
messages that entered before it; a record that found no room is sent when there is room; a fault that found the fault buffer full enters it when
there is room; and a pager's reply with STATUS 1 lets the streams parked with its token go on, with STATUS 2 they trap with its code.
Where the spec is open it rests on the model's readings, log 31. -/
def Obligations.Faults : Prop :=
  ∀ (s : State) (p : Nat) (m : List Byte) (r : List (List Byte)) (f : FaultEnt) (n : Nat) (bs : List Byte) (q : List (Nat × List Byte)),
    let x := s.part p
    (s.runs p = true → takesMessage s p x.cfg.faultMbx → (s.mbx p x.cfg.faultMbx).binding ≠ .service →
      (x.msgs = m :: r → (∀ o, x.overflow = some o → o.ahead ≠ 0) → completes (.faultMessageDelivery p) s fun t => (t.part p).msgs = r ∧
        (t.part p).overflow = x.overflow.map (fun (o : Overflow) => { o with ahead := o.ahead - 1 }) ∧
        (t.mbx p x.cfg.faultMbx).queue = (s.mbx p x.cfg.faultMbx).queue ++ [(s.arrivals + 1, m)]) ∧
      (∀ o, x.overflow = some o → o.ahead = 0 ∨ x.msgs = [] → completes (.faultMessageDelivery p) s fun t => (t.part p).msgs = x.msgs ∧
        (t.part p).overflow = none ∧ (t.mbx p x.cfg.faultMbx).queue = (s.mbx p x.cfg.faultMbx).queue ++ [(s.arrivals + 1,
          layBytes [(1, 10), (3, 0), (4, o.count), (8, o.first.toNat), (8, o.last.toNat), (8, o.kinds), (32, 0)])])) ∧
    (x.msgs.length < 1023 →
      (x.faults.find? (fun e => !e.sent) = some f → completes (.faultRecordRetry p) s fun t =>
        (t.part p).msgs = x.msgs ++ [f.record] ∧ (∀ e ∈ (t.part p).faults, e.token = f.token → e.sent = true)) ∧
      (∀ l, (∀ e ∈ x.faults, e.sent = true) → x.faultWait = f :: l → (∀ e ∈ x.faults, ¬(e.page = f.page ∧ e.access = f.access)) →
        x.faults.length < 256 → completes (.faultRecordRetry p) s fun t =>
          (t.part p).faultWait = l ∧ (t.part p).faults = x.faults ++ [{ f with sent := true }] ∧ (t.part p).msgs = x.msgs ++ [f.record])) ∧
    (∀ code : Nat, code < 2 ^ 32 → (s.mbx p x.cfg.replyMbx).queue = (n, bs) :: q →
      bs.take 16 = [if code = 0 then 1 else 2, 0, 0, 0] ++ natToBytes 4 code ++ natToBytes 8 f.token.toNat →
      (∀ b ∈ bs.drop 16, b = 0) → x.faults.find? (fun e => e.token == f.token) = some f → f.ops = [] → completes (.pagerReply p) s fun t =>
        (t.mbx p x.cfg.replyMbx).queue = q ∧ (∀ e ∈ (t.part p).faults, e.token ≠ f.token) ∧
        ((s.warp.id, 0) ∈ f.warps → s.warp.wait = .xlate f.token → t.warp.wait = .none ∧ t.warp.pc = s.warp.pc ∧
          t.warp.pending = if code = 0 then none else s.warp.pending.map fun (c : Cause) => { c with detail := BitVec.ofNat 32 code }))

/-! ## Encoding, reset and the step -/

/-- R67, R70, R75: every well-formed instruction that has an encoding is what the decoder reads from it, with every field as it was. -/
def Obligations.EncodeDecode : Prop :=
  ∀ (i : Instr) (w : Words), i.wf = true → encode i = some w → decodeWords w = .ok (sharedRow i)

/-- R68 to R76, R84: words written out field by field from the encoding tables decode to the instructions they stand for. -/
def Obligations.DecodeWords : Prop :=
  decodeWords (.scalar (0x00#6 ++ 3#6 ++ 1#6 ++ 2#6 ++ 0x01#8)) = .ok (.ssub 3 1 2) ∧
  decodeWords (.scalar (0x0A#6 ++ 5#6 ++ 6#6 ++ 0x3FFC#14)) = .ok (.sldN32 5 6 (-4)) ∧
  decodeWords (.scalar (0x10#6 ++ 2#3 ++ 1#1 ++ 0x3FFFFF#22)) = .ok (.bc 2 true (-1)) ∧
  decodeWords (.pair (0x3F#6 ++ 7#6 ++ 8#6 ++ 0x04#6 ++ 0#6 ++ 2#2) 0xDEADBEEF) = .ok (.sxorX 7 8 .hi 0xDEADBEEF) ∧
  decodeWords (.scalar (0x25#6 ++ 0#6 ++ 0#6 ++ 0#6 ++ 0x40#8)) = .ok .tskip ∧
  decodeWords (.scalar 0x7C000000) = .error .major ∧
  decodeWords (.lane (0x001#10 ++ 0#3 ++ 0#5 ++ 0#1 ++ 4#8 ++ (0#2 ++ 2#8) ++ (2#2 ++ 9#8) ++ 0#10 ++ 0#4 ++ 0#4 ++ 0#3 ++ 0#3 ++ 0#3 ++ 0#5 ++ 0#17)) =
    .ok (.iadd ⟨false, 4, .v 2, .s 9, .v 0, ⟨0, 0, false, false, false⟩, none, 0, 0, false, 0⟩ .i32 false) ∧
  decodeWords (.lane 0) = .error .opcode

/-- What the module is right after reset: no partition exists and no warp lives, nothing is queued or under way, every compute die is in RESET, and no
memory cell, poison, owner, key tag, barrier, table entry or record exists (12 Bring-up, R441); every byte of device memory reads zero. The registers of the warp that does not live, the fields without a stated
reset value and unwritten memory are the model's choice, logs 5, 6 and 7 (DESIGN CHOICE); that dies begin in RESET is log 59 (DEDUCED). Every memory is
in canonical form. -/
def Obligations.ResetState : Prop :=
  let s := State.reset
  s.up = false ∧ s.warps = [] ∧ s.others = [] ∧ s.shadows = [] ∧ s.agenda = [] ∧
  s.dev = ⟨[], []⟩ ∧ s.hostMem = ⟨[], []⟩ ∧ s.bankMem = ⟨[], []⟩ ∧ (∀ a : Nat, s.devByte a = 0) ∧ s.hostErrs = [] ∧ s.owners = [] ∧ s.tags = [] ∧
  s.epochs = [] ∧ s.scores = [] ∧ s.dirtyScores = [] ∧ s.cdc = [] ∧ s.fills = [] ∧ s.parts = [] ∧
  (∀ p : Nat, ∀ x, x = s.part p → x.state = .free ∧ x.mbxs = [] ∧ x.clusters = [] ∧ x.banks = [] ∧ x.links = [] ∧ x.bars = [] ∧ x.ctxs = [] ∧
    x.faults = [] ∧ x.faultWait = [] ∧ x.msgs = [] ∧ x.overflow = none ∧ x.stop = none ∧ x.bound = none ∧ x.windows = [] ∧ x.groups = []) ∧
  s.grids = [] ∧ s.teams = [] ∧ s.crews = [] ∧ s.slips = [] ∧ s.transfers = [] ∧ s.ops = [] ∧ s.moves = [] ∧ s.migCounts = [] ∧ s.migDies = [] ∧
  s.vfs = [] ∧ s.laneMaps = [] ∧ s.slices = [] ∧ s.portMap = [] ∧ (∀ d : Nat, (s.die d).state = .reset) ∧ s.dieLinks = [] ∧ s.lostLinks = [] ∧
  s.channels = [] ∧ s.rowsLeft = [] ∧ s.softRepairs = [] ∧ s.events.produced = 0 ∧ s.events.consumed = 0 ∧ s.events.entries = [] ∧ s.events.slots = [] ∧
  s.stopBuf = [] ∧ s.moduleStop = none ∧ s.sensors = [] ∧ s.limits = [] ∧ s.security.tenants = [] ∧ s.security.staged = none ∧ s.fabric.exports = [] ∧
  s.fabric.hdm = [] ∧ s.fabric.ports = [] ∧ s.fabric.seen = [] ∧ s.fabric.outbox = [] ∧ s.fabric.groupOut = [] ∧ s.fabric.waiting = [] ∧ s.pairs = [] ∧
  memOk s = true ∧ goesOn s

/-- The module right after reset has the invariant of `StepGuards`. -/
def Obligations.ResetGuards : Prop :=
  guarded 0 0 State.reset

/-- R402, R403, R414, R416: no step of the module lowers the firmware floor or the signature index, through resets and losses of power too, and none
trains the host link to a width it does not have. -/
def Obligations.StepGuards : Prop :=
  ∀ (floor : W32) (sigs : Nat) (s t : State), guarded floor sigs s → step s = .next t → guarded floor sigs t

/-- R62 to R66, R70, R95: a turn of a warp that may issue fetches the word at its program counter, or in its open block, and runs what it decodes to,
in the state that the fetch leaves; an encoding without an instruction traps `ILLEGAL`; a fetch that finds no translation, permission or clean bytes
ends as one. A word that has to wait before it issues waits (R31, R178), and one that would enter or leave a handler, or end the warp, waits for the
lane words before it (R117, R183, R186). A fetch within one page that may be executed gives the bytes that stand there. A turn of an event runs the
event. Where the spec is open it rests on the model's readings, logs 1, 22, 30 (the empty mask of an undecodable lane word's trap), 100 and 106. -/
def Obligations.StepRunsDecoded : Prop :=
  ∀ (s : State) (r : List Turn) (i : Instr),
    (s.agenda = .event i :: r → encode i = none → step s = exec i { s with agenda := r }) ∧
    (s.agenda = [] → s.up = false → step s = exec .bringUp s) ∧
    (s.agenda = .issue s.warp.id 0 :: r → s.warp.alive = true → s.warp.fork = none → s.warp.evicted = false → s.warp.wait = .none →
      s.warp.pending = none → s.warp.quantumFull = false → (∀ x ∈ s.shadows, x.id ≠ s.warp.id) →
      let u : State := { s with agenda := r }
      let after (v : State) (va n : Nat) : State := { v with warp := { v.warp with fetched := v.warp.fetched.filter fun x => !(va ≤ x.1 && x.1 < va + n) } }
      let ends (o : Out) : Prop := step s = match o with
        | .next t => .next (if (t.warp.alive = false ∨ t.warp.level ≠ s.warp.level) ∧ s.warp.lanesDone = false
            then { u with warp := { u.warp with wait := .order } } else t)
        | x => x
      let runs (v : State) (va n : Nat) : Prop := ends (match v.warp.gate i with
        | .none => exec (rowOf v.warp i) (after v va n)
        | x => .next { v with warp := { v.warp with wait := x } })
      let pc := s.warp.pc
      let word (bs : List Byte) : W32 := BitVec.ofNat 32 (bytesToNat bs)
      (∀ (bs : List Byte) (v : State), s.warp.block = none → u.fetch pc.toNat 4 = (.bytes bs, v) → isPrefix (word bs) = false →
        (decodeWords (.scalar (word bs)) = .ok i → runs v pc.toNat 8) ∧
        ((∀ j, decodeWords (.scalar (word bs)) ≠ .ok j) → ends (.next ((after v pc.toNat 8).illegalScalar (word bs).toNat 4)))) ∧
      (∀ (bs cs : List Byte) (v x : State), s.warp.block = none → u.fetch pc.toNat 4 = (.bytes bs, v) → isPrefix (word bs) = true →
        v.fetch (pc + 4).toNat 4 = (.bytes cs, x) →
        (decodeWords (.pair (word bs) (word cs)) = .ok i → runs x pc.toNat 8) ∧
        ((∀ j, decodeWords (.pair (word bs) (word cs)) ≠ .ok j) →
          ends (.next ((after x pc.toNat 8).illegalScalar ((word bs).toNat + 2 ^ 32 * (word cs).toNat) 8)))) ∧
      (∀ (b : Block) (bs : List Byte) (v : State), s.warp.block = some b → u.fetch b.wordAddr 12 = (.bytes bs, v) →
        (decodeWords (.lane (BitVec.ofNat 96 (bytesToNat bs))) = .ok i → runs v b.wordAddr 12) ∧
        ((∀ j, decodeWords (.lane (BitVec.ofNat 96 (bytesToNat bs))) ≠ .ok j) →
          ends (.next ((after v b.wordAddr 12).trapLane 0x01 0 0 (BitVec.ofNat 128 (bytesToNat bs)))))) ∧
      (∀ (f : Fetch) (v : State), (∀ bs, f ≠ .bytes bs) →
        (s.warp.block = none → u.fetch pc.toNat 4 = (f, v) → ends (.next (v.fetchFail f 4))) ∧
        (∀ b, s.warp.block = some b → u.fetch b.wordAddr 12 = (f, v) → ends (.next (v.fetchFail f 4))))) ∧
    (∀ (va n : Nat) (tr : Trans), 0 < n → va % 4096 + n ≤ 4096 → permCheck accFetch (s.xlate s.warp.ident.part va) = .ok tr → tr.place = .device →
      let u := s.markLeaf tr.leaf false
      u.dev.poisoned tr.pa n = false → s.fetch va n = (.bytes (u.devRead tr.pa n), u.countAccess s.warp.ident.part va tr))

/-! ## Security, warps and the distributor -/

/-- R366 to R369, R403 to R405, R409 to R413: `keyld` of a partition whose ranges are sealed records its binding, a report is stored and uses one
signature index, and `keyld` 3 removes the binding; `ckpt` and `rest` are accepted by their engine context, end with the status that they come to in
the 8 bytes of the request block at STATUS, and with status 0 raise the tenant's recorded value above every one before; a `ckpt` that a context stop
has held has sealed its folio, and raised the value, before.
A report that no signature index is left for is refused with 12.
Where the spec is open it rests on the model's readings, logs 67, 82, 85, 86, 88, 90 and 121. -/
def Obligations.SecurityWords : Prop :=
  ∀ (s v : State) (d a b : SReg) (bs : List Byte),
    let x := s.sget a
    let p := field x 0 5
    let va := (s.sget b).toNat
    let own := s.warp.ident.part
    let u : State := { v with warp := { v.warp with fetched := [] } }
    (mayConfigure s 2 → field x 5 55 = 0 →
      (∀ (n : Nat) (t : W64) (l : List (List Byte)), n = leAt bs 8 8 → t = BitVec.ofNat 64 (leAt bs 0 8) → field x 60 4 = 1 → va % 64 = 0 →
        (s.part p).state ≠ .free → s.readPieces va 4 [] = .ok bs v → t ≠ 0 → 1 ≤ n → n ≤ 14 →
        (List.range n).mapM (u.measureRange p bs) = some l → (u.security.knows t = true ∨ u.security.tenants.length < 65536) → (u.part p).bound = none →
        ∃ r, answers (.keyldMeasure d a b) s r d 0 ∧
          (r.part p).bound = some (t, shake256 ((u.part p).cfg.measured ++ l.flatMap id) 64) ∧
          r.security.knows t = true ∧ r.security.v t = u.security.v t ∧ { r with parts := u.parts, security := u.security } = u) ∧
      (∀ (cs : List Chunk) (t : State), field x 60 4 = 2 → va % 64 = 0 → s.readPieces va 1 [] = .ok bs v → leAt bs 32 8 % 8 = 0 →
        u.range own (leAt bs 32 8) 21904 accWrite = (.none, cs, t) → (∀ c ∈ cs, pteMoving c.t.entry = false) →
        (u.security.sigIndex < 2 ^ 40 → answers (.keyldReport d a b) s { t.storeReport cs (leAt bs 32 8) (u.report p (bs.take 32)) with
          security := { u.security with sigIndex := u.security.sigIndex + 1 } } d 0) ∧
        (2 ^ 40 ≤ u.security.sigIndex → answers (.keyldReport d a b) s t d 12)) ∧
      (field x 60 4 = 3 → va = 0 → s.folioOn p = false →
        ∃ r, answers (.keyldUnbind d a b) s r d 0 ∧ (r.part p).bound = none ∧ r.security = s.security)) ∧
    (∀ ctx, ctx = field x 52 12 → ctx < (s.part own).cfg.ectx → va % 64 = 0 → s.readPieces va 1 [] = .ok bs v →
      let early := if field x 5 47 ≠ 0 then 3 else if u.folioOn p then 4 else 0
      (mayConfigure s (if p = own then 1 else 2) → accepts (.ckpt d a b) s u ctx (.ckpt p bs va early) d false) ∧
      (mayConfigure s 2 → accepts (.rest d a b) s u ctx (.rest p bs va early) d false)) ∧
    (∀ (q ctx n t e st blk : Nat) (o : EngOp) (len : Option Nat) (bad : Bool) (y z : State) (ws : List (Nat × Nat)), s.runningOp q ctx n = some o →
      s.opAwaits o = false → o.sent = false → y.replies o ws = .ok z → z.opAwaits o = false →
      /- what the two completions have in common: the operation has ended, and a tenant's value has risen or nothing has been recorded -/
      let raises (r : State) : Prop := (st ≠ 0 → r.security = s.security) ∧
        (st = 0 → ∃ ten m c, (s.part t).bound = some (ten, m) ∧ (s.security.v ten).toNat ≤ c ∧ r.security.v ten = BitVec.ofNat 64 (c + 1))
      /- the status stands at STATUS, where the page takes it, when the operation has ended -/
      let ends (r : State) (at' : Nat) : Prop := ended r z q ctx n ∧ ∀ (x : State) (tr : Trans), y.replies o ws.dropLast = .ok x →
        permCheck accWrite (x.xlate o.part at') = .ok tr → tr.place ≠ .remote → x.hostErr tr.place tr.pa 8 = false → still x → tr.pa % 8 = 0 →
        r.placeRead tr.place tr.pa 8 = natToBytes 8 st
      (o.kind = .ckpt t bs blk e → s.awaits t = false → s.ckptRun o t bs e = .done st len y → st < 256 →
        ws = (match len with
          | some k => [(blk + 32, k)]
          | none => []) ++ [(blk + 24, st)] → completes (.ckptComplete q ctx n) s fun r => ends r (blk + 24) ∧
            (o.folio = [] → raises r) ∧ (o.folio ≠ [] → r.security = s.security)) ∧
      (o.kind = .rest t bs blk e → s.restRun o t bs e bad = .done st len y → st < 256 → ws = [(blk + 48, st)] →
        completes (.restComplete q ctx n bad) s fun r => ends r (blk + 48) ∧ raises r ∧ (st = 0 → (r.part t).cfg.root = leAt bs 16 8))) ∧
    /- a status written in this module's memory or the host's -/
    (∀ (o : EngOp) (at' n : Nat) (tr : Trans), permCheck accWrite (s.xlate o.part at') = .ok tr → tr.place ≠ .remote →
      s.hostErr tr.place tr.pa 8 = false → still s → tr.pa % 8 = 0 → n < 256 → ∃ t, s.replies o [(at', n)] = .ok t ∧ t.placeRead tr.place tr.pa 8 = natToBytes 8 n)

/-- R16, R17, R181, R183, R188, R191, R195, R219, R220, R235: a pending cause is taken as a trap, once every lane word before it has completed or has
raised its cause; a warp-fatal
event halts the warp with its code and sends its message; a register fill lets the word replay with its registers resident; a late error sends its
message, whether or not its warp lives; a warp of a marked crew is evicted at a blocking point, and becomes ready when its wake condition is met on a
core. Where the spec is open it rests on the model's readings, logs 65 and 77. -/
def Obligations.WarpEvents : Prop :=
  (
    ∀ (s : State) (x : Warp) (c : Crew), s.warp.alive = true → (∀ z ∈ s.others, z.id ≠ s.warp.id) → s.warp = x →
      let id := x.id
      let both (g : Warp → Warp) : State := { s with warp := g x, shadows := s.shadows.map fun w => if w.id = id then g w else w }
      let msgs := (s.part x.ident.part).msgs
      (∀ (y : Warp) (k : Cause), (∀ z ∈ s.shadows, z.id ≠ id) → Tab.get s.pairs id [] = [] → x.evicted = false → y.lanesDone = true →
        x.causeArm.bind x.select = some y → y.pending = some k → y.alive = true → y.wait = .none →
        exec (.trapEntry id) s = .next ({ s with warp := { y with pending := none } }.trap k)) ∧
      (∀ k : Cause, x.fork = none → x.wait = .none → x.pending = some k → x.causeArm.bind x.select = some x) ∧
      ((∀ y, x.causeArm.bind x.select = some y → y.lanesDone = false) → exec (.trapEntry id) s = .next s) ∧
      (∀ (f : Fatal) (detail : W32) (mask : Mask) (va : VA),
        (match f with
          | .poison => detail = 1 ∨ detail = 4
          | .sdc => detail = 9
          | .drain => detail = 0) →
        completes (.warpHalt id f ⟨detail, mask, va⟩) s fun t => t.warp.alive = false ∧ (∀ z ∈ t.others, z ∈ s.others) ∧
          (∀ g ∈ t.grids, g.id = x.ident.grid → g.halted = true) ∧
          (msgs.length < 1023 → ∃ m, (t.part x.ident.part).msgs = msgs ++ [m] ∧ m.length = 64 ∧ m.getD 0 0 = 1 ∧ m.getD 1 0 = (match f with
            | .poison => 0x20
            | .sdc => 0x21
            | .drain => 0x23) ∧ leAt m 28 4 = detail.toNat ∧ leAt m 32 8 = mask.toNat ∧ leAt m 40 8 = va.toNat)) ∧
      (∀ (y : Warp) (l : List Nat), x.filling = some (y, l) →
        (completes (.regfileFill id false) s fun t => t.warp.wait = .none ∧ (∀ r ∈ l, r ∈ t.warp.resident) ∧
          { t.warp with wait := y.wait, resident := y.resident } = y ∧ { t with warp := s.warp, shadows := s.shadows } = s) ∧
        (completes (.regfileFill id true) s fun t => t.warp.alive = false)) ∧
      (∀ l : List Nat, x.wait = .regfile l → x.filling = some (x, l)) ∧
      (s.crewOfWarp x = some c →
        (c.state = .marked → x.blocked = true → x.evicted = false → (∀ y ∈ s.slips, y.warp ≠ id ∧ y.twin ≠ some id) →
          exec (.warpEviction id) s = .next (both fun y => { y with evicted := true })) ∧
        (c.state ≠ .marked → exec (.warpEviction id) s = .next s) ∧
        (x.evicted = true → s.wakeMet x = true → (s.part x.ident.part).stop = none → c.core ≠ none → c.state = .placed →
          exec (.warpWake id) s = .next (both fun y => { y with evicted := false })))) ∧
  (
    ∀ (s : State) (k : Ticket) (code : Byte) (detail : W32) (mask : Mask) (va : VA), k.part < 32 →
      ((code = 0x02 ∧ ∃ lane < 64, ∃ kind < 8, detail.toNat = 256 * lane + kind) ∨ ((code = 0x03 ∨ code = 0x04) ∧ ∃ lane < 64, detail.toNat = 256 * lane) ∨
        code = 0x05 ∨ (code = 0x20 ∧ 1 ≤ detail.toNat ∧ detail.toNat ≤ 4)) →
      completes (.lateError k code detail mask va) s fun t => t.warp = s.warp ∧ t.others = s.others ∧
        (code ≠ 0x20 → t.dev = s.dev ∧ t.hostMem = s.hostMem) ∧
        ((s.part k.part).msgs.length < 1023 → ∃ m, (t.part k.part).msgs = (s.part k.part).msgs ++ [m] ∧ m.length = 64 ∧ m.getD 0 0 = 2 ∧
          m.getD 1 0 = code ∧ leAt m 4 4 = k.launch % 2 ^ 32 ∧ leAt m 16 8 = k.pc.toNat ∧ leAt m 28 4 = detail.toNat ∧ leAt m 32 8 = mask.toNat ∧ leAt m 40 8 = va.toNat))

/-- R217, R221, R307, R362, R380 to R384, R386: the first waiting team, in order of `TIMED`, arrival and number, is placed whole on the lowest
shelfmark that it fits, its crews on the free cores of that cluster in ascending order; a marked crew leaves with its team, saved; a drain marks the
team of the latest blocked crew, or kills it at once where the drain limit is 0 and FLAGS ask for that; a team that only holds tokens leaves while
another waits; the end of a slice marks placed crews that are not `TIMED`, those of the function with the most core-time over weight, the latest first,
until the waiting teams of the function with the least have the cores that they need; the drain limit kills a crew where FLAGS ask for it; frames count.
Where the spec is open it rests on the model's readings, logs 62 (the core-times are free values), 63, 64, 101 and 115. -/
def Obligations.Distribution : Prop :=
  ∀ (s : State) (p k : Nat) (c : Crew) (t : Team),
    let kills (q : Nat) : Prop := (s.part q).cfg.drain = 0 ∧ (s.part q).cfg.flags = 1
    (exec .frameStart s = .next { s with frame := s.frame + 1 }) ∧
    (settled s p → (∀ d : Nat, (s.die d).lanes = []) → (∀ y ∈ s.crews, y.state ≠ .marked) →
      ((s.runs p = false ∨ s.waitingTeams p = []) → exec (.teamPlacement p) s = .next s) ∧
      (∀ i, s.runs p = true → s.firstTeam p = some t → s.shelfFor t = some i → s.areasFit t = true → (s.teamCrews t).any (·.state == .waiting) = true →
        t ∈ s.waitingTeams p ∧ (∀ y ∈ s.waitingTeams p, keyLt (s.teamKey y) (s.teamKey t) = false) ∧
        ((s.descOf t.grid).timed = false → i ∈ (s.part p).unreserved ∧ s.fits p (s.descOf t.grid).crews i = true ∧
          ∀ j ∈ (s.part p).unreserved, j < i → s.fits p (s.descOf t.grid).crews j = false) ∧
        ((s.descOf t.grid).timed = true → i ∈ (s.part p).reserved ∧ s.emptyShelf p i = true ∧ s.fits p (s.descOf t.grid).crews i = true ∧
          ∀ j ∈ (s.part p).reserved, j < i → (s.emptyShelf p j && s.fits p (s.descOf t.grid).crews j) = false) ∧
        let cl := entryCluster (Tab.get (s.part p).clusters i 0)
        let n := (s.descOf t.grid).crews
        completes (.teamPlacement p) s fun u =>
          (∀ y ∈ u.teams, y.grid = t.grid → y.num = t.num → y.shelf = some i ∧ y.cluster = some cl) ∧
          (∀ j < n, ∀ y ∈ s.crews, y.grid = t.grid → y.num = n * t.num + j → y.state = .waiting → s.crewWarps y.grid y.num ≠ [] →
            ∃ core, (s.freeCores cl)[j]? = some core ∧ { y with state := .placed, core := some core } ∈ u.crews) ∧
          (∀ y ∈ s.crews, y.grid ≠ t.grid → y ∈ u.crews) ∧
          (∀ w ∈ u.warps, w.ident.grid = t.grid → w.ident.team = t.num → w.evicted = false) ∧
          (∀ y ∈ u.cdc, y ∈ s.cdc ∧ (y.cluster = cl → y.isSealed = true)) ∧
          { u with warp := s.warp, others := s.others, shadows := s.shadows, crews := s.crews, teams := s.teams, slips := s.slips, cdc := s.cdc,
                   fills := s.fills } = s)) ∧
    (s.crewAt k = some c → s.teamOfCrew c = some t → settled s (s.teamPart t) → c.state = .marked → s.teamIdle t = true →
      (∀ y ∈ s.teamCrews t, y.state ≠ .placed) → completes (.crewEviction k) s fun u =>
        (∀ y ∈ s.teamCrews t, y.state = .marked → { y.trim (s.descOf t.grid) with state := .saved, core := none } ∈ u.crews) ∧
        (∀ y ∈ s.crews, ¬(y.grid = t.grid ∧ y.team = t.num) → y ∈ u.crews) ∧
        (∀ y ∈ u.teams, y.grid = t.grid → y.num = t.num → y.shelf = none ∧ y.cluster = none) ∧
        (∀ w ∈ u.warps, w.ident.grid = t.grid → w.ident.team = t.num → w.evicted = true) ∧
        { u with warp := s.warp, others := s.others, shadows := s.shadows, crews := s.crews, teams := s.teams } = s) ∧
    (s.crewAt k = some c → s.teamOfCrew c = some t → settled s (s.teamPart t) → c.state = .held → s.teamLeft t = true → s.waitingTeams (s.teamPart t) ≠ [] →
      completes (.crewEviction k) s fun u =>
        (∀ y ∈ s.teamCrews t, y.state = .held → { y.trim (s.descOf t.grid) with core := none } ∈ u.crews) ∧
        (∀ y ∈ s.crews, ¬(y.grid = t.grid ∧ y.team = t.num) → y ∈ u.crews) ∧
        (∀ y ∈ u.teams, y.grid = t.grid → y.num = t.num → y.shelf = none ∧ y.cluster = none) ∧
        { u with warp := s.warp, others := s.others, shadows := s.shadows, crews := s.crews, teams := s.teams } = s) ∧
    (s.waitingTeams p ≠ [] → s.latest ((s.untimed p).filter s.crewBlocked) = some c → s.teamOfCrew c = some t →
      (∀ y ∈ s.untimed p, s.crewBlocked y = true → s.later y c = false) ∧
      (¬kills p → exec (.blockedCrewDrain p) s = .next { s with crews := s.crews.map fun y : Crew =>
        if y.grid = c.grid ∧ y.team = c.team ∧ y.state = .placed then { y with state := .marked } else y }) ∧
      (kills p → completes (.blockedCrewDrain p) s fun u => ∀ y ∈ u.crews, y.grid = c.grid → y.num = c.num → y.state = .killed)) ∧
    (s.waitingTeams p = [] → exec (.blockedCrewDrain p) s = .next s) ∧
    ((s.part p).cfg.slice = 0 → exec (.sliceEnd p) s = .next s) ∧
    (¬kills p → completes (.sliceEnd p) s fun u => { u with crews := s.crews, fresh := s.fresh, coreTime := s.coreTime } = s ∧
      ∀ y ∈ u.crews, y ∈ s.crews ∨ ∃ z ∈ s.crews, z.state = .placed ∧ y = { z with state := .marked } ∧
        (s.grid? z.grid).any (fun g => g.part == p && !g.desc.timed) = true) ∧
    /- which crews the end of a slice marks: those of the teams `ts` -/
    (¬kills p → (s.part p).cfg.slice ≠ 0 → (∀ y ∈ s.crews, (s.teamOfCrew y).isSome = true) → completes (.sliceEnd p) s fun u =>
      let fn (g : Nat) : Nat := ((s.grid? g).map s.funcOf).getD 0
      let time (f : Nat) : Nat := Tab.get u.coreTime f 0
      let waits := (s.waitingTeams p).filter fun x => decide (fn x.grid < 1024)
      let placed := (s.untimed p).filter fun y => y.state == .placed
      (∀ f, f ∉ s.funcs p → time f = Tab.get s.coreTime f 0) ∧
      (waits = [] ∨ placed = [] → u.crews = s.crews) ∧
      (∀ f g, (∃ x ∈ waits, fn x.grid = f) → (∀ x ∈ waits, fn x.grid ≠ f → time f * s.weight (fn x.grid) < time (fn x.grid) * s.weight f) →
        (∃ y ∈ placed, fn y.grid = g) → (∀ y ∈ placed, fn y.grid ≠ g → time (fn y.grid) * s.weight g < time g * s.weight (fn y.grid)) →
        (f = g → u.crews = s.crews) ∧
        (f ≠ g → ∃ ts : List (Nat × Nat), ts.Nodup ∧
          let mine := placed.filter fun y => fn y.grid == g
          let need := ((waits.filter fun x => fn x.grid == f).map fun x => (s.descOf x.grid).crews).sum
          let freed (l : List (Nat × Nat)) : Nat := (l.map fun x => (s.descOf x.1).crews).sum
          u.crews = s.crews.map (fun y : Crew => if (y.grid, y.team) ∈ ts ∧ y.state = .placed then { y with state := .marked } else y) ∧
          (∀ i x, ts[i]? = some x → (∃ y ∈ mine, (y.grid, y.team) = x ∧ ∀ z ∈ mine, (z.grid, z.team) ∉ ts.take i → s.later z y = false) ∧
            freed (ts.take i) < need) ∧
          (need ≤ freed ts ∨ ∀ y ∈ mine, (y.grid, y.team) ∈ ts)))) ∧
    (∀ g : Grid, s.crewAt k = some c → s.grid? c.grid = some g → settled s g.part →
      ((s.part g.part).cfg.flags ≠ 1 ∨ c.state ≠ .marked → exec (.drainLimitExpiry k) s = .next s) ∧
      ((s.part g.part).cfg.flags = 1 → c.state = .marked → completes (.drainLimitExpiry k) s fun u =>
        (∀ y ∈ u.crews, y.grid = c.grid → y.num = c.num → y.state = .killed ∧ y.deque = [] ∧
          ((∀ o ∈ s.ops, o.holds c.grid c.num = false) → y.core = none)) ∧
        (∀ w ∈ u.warps, w ∈ s.warps ∧ ¬(w.ident.grid = c.grid ∧ w.ident.crew = c.num)) ∧
        (∀ w ∈ s.others, w.alive = true → ¬(w.ident.grid = c.grid ∧ w.ident.crew = c.num) →
          (∀ z ∈ s.crewWarps c.grid c.num, z.id ≠ w.id) → w ∈ u.others)))

/-! ## Dies, repair, stops and the module -/

/-- R231, R233, R277, R279, R280, R389, R397: one lane defect of a core without a crew is bypassed, one of a core that holds a crew is kept until the
crew has gone, a second one in its group fences the core; a parity error stops the partition of the core's crew and fences the core; the states of a compute die follow fence, reset, test and drop; a dropped or
lost die holds nothing; a cluster that fails the test of a reset leaves every catalogue.
Where the spec is open it rests on the model's readings, logs 59, 72 and 73. -/
def Obligations.Dies : Prop :=
  ∀ (s : State) (d : Nat) (k : CoreId) (group phys : Nat) (failed : List Nat),
    let n := 4 * k.pcl + k.core
    (group < 4 → phys < 17 → s.holder k = none → (s.die k.die).defects n group = [] → field (s.laneMap (68 * k.die + n)) (5 * group) 5 ≠ phys →
      completes (.laneDefect k group phys) s fun t => field (t.laneMap (68 * k.die + n)) (5 * group) 5 = phys ∧
        (∀ g < 4, g ≠ group → field (t.laneMap (68 * k.die + n)) (5 * g) 5 = field (s.laneMap (68 * k.die + n)) (5 * g) 5) ∧
        (∀ i, i ≠ 68 * k.die + n → t.laneMap i = s.laneMap i) ∧ (t.die k.die).state = (s.die k.die).state) ∧
    (∀ c, s.holder k = some c → (s.die k.die).defects n group = [] → completes (.laneDefect k group phys) s fun t =>
      (n, group, phys) ∈ (t.die k.die).lanes ∧ t.laneMaps = s.laneMaps) ∧
    (∀ l, (s.die k.die).defects n group = [l] → l ≠ phys → completes (.laneDefect k group phys) s fun t =>
      n ∈ (t.die k.die).fencedCores ∧ ((s.die k.die).state = .active → (t.die k.die).state = .fenced)) ∧
    (∀ (c : Crew) (g : Grid), s.holder k = some c → s.grid? c.grid = some g → (s.part g.part).stop = none →
      completes (.coreParityError k) s fun t => n ∈ (t.die k.die).fencedCores ∧ ∃ y, (t.part g.part).stop = some y ∧ y.reason = 5 ∧ y.count = 1) ∧
    (s.holder k = none → completes (.coreParityError k) s fun t => n ∈ (t.die k.die).fencedCores ∧ ∀ p : Nat, (t.part p).stop = (s.part p).stop) ∧
    ((s.die d).state ≠ .active → exec (.dieFence d) s = .next s) ∧
    ((s.die d).state = .active → completes (.dieFence d) s fun t => (t.die d).state = .fenced ∧ (∀ j, j ≠ d → t.die j = s.die j) ∧
      ∀ m ∈ s.teams, ∀ cl, m.cluster = some cl → cl / 17 = d → ∀ y ∈ t.crews, y.grid = m.grid → y.team = m.num → y.state ≠ .placed) ∧
    (((s.die d).state = .dropped ∨ ((s.die d).state = .fenced ∧ ∀ c ∈ s.crews, ∀ j, c.core = some j → j.die ≠ d)) →
      completes (.dieReset d) s fun t => (t.die d).state = .reset ∧ (∀ x ∈ t.cdc, x ∈ s.cdc ∧ x.cluster / 17 ≠ d) ∧
        { t with dies := s.dies, cdc := s.cdc, fills := s.fills } = s) ∧
    ((s.die d).state = .reset →
      (completes (.dieBistComplete d true failed) s fun t => (t.die d).state = .active ∧ (t.die d).bad = failed ∧ (t.die d).fencedCores = [] ∧
        ∀ (p i : Nat) (e : W64), e = Tab.get (t.part p).clusters i 0 → e.getLsbD 8 = true → field e 5 3 = d → field e 0 5 ∉ failed) ∧
      (completes (.dieBistComplete d false failed) s fun t => dropped t d)) ∧
    ((s.die d).state = .fenced → completes (.dieDrop d) s fun t => dropped t d) ∧
    ((s.die d).state ≠ .fenced → exec (.dieDrop d) s = .next s) ∧
    ((s.die d).state = .active ∨ (s.die d).state = .fenced → completes (.dieLost d) s fun t => dropped t d)

/-- R277, R278, R283, R284, R330, R389, R397 to R400: a die link takes a good flit that is next in order, with the credits that it returns, and no other,
and none at all while it is held down or lost; at a module's repair its partner takes over, behind its own, what the module's replay buffer and queue
hold, and a die event and a repair event say so; a failed weight bank, and a fenced weight die, leave every catalogue, and slips that read a failed bank are poisoned; a reset weight die reads zero; a
slice is spared; uncorrectable lines keep their bytes and gain poison; a repaired row returns its frame to the free pool, zeroed.
Where the spec is open it rests on the model's readings, logs 70, 71, 78, 81 (degradation halves the lanes, and the partner takes over at once), 95, 102
and 120. -/
def Obligations.Repairs : Prop :=
  ∀ (s : State) (l : DieLink) (f : List Byte) (degraded : Bool) (w bank slice frame stack chan : Nat),
    let n := linkNumber l
    let x := Tab.get s.dieLinks n .blank
    let poisoned (t : State) : Prop := (∀ a, t.dev.byte a = s.dev.byte a) ∧ ∀ g ∈ s.dev.poison, g ∈ t.dev.poison
    (s.linkDown l = true ∨ x.lost = true → exec (.dieFlitReceive l f) s = .next s) ∧
    (s.linkDown l = false → x.lost = false → completes (.dieFlitReceive l f) s fun t =>
      (∀ y, y = Tab.get t.dieLinks n .blank →
        y.expect = (if dieGood f = true ∧ bitsOf (leAt f 0 8) 52 12 = x.expect then (x.expect + 1) % 4096 else x.expect) ∧
        y.credit = x.credit + (if dieGood f = true ∧ bitsOf (leAt f 0 8) 52 12 = x.expect then bitsOf (leAt f 0 8) 30 10 else 0)) ∧
      { t with dieLinks := s.dieLinks } = s) ∧
    (s.linkDown l = true ∨ x.lost = true → exec (.ucieModuleRepair l degraded) s = .next s) ∧
    (s.linkDown l = false → x.lost = false → completes (.ucieModuleRepair l degraded) s fun t =>
      let z := Tab.get s.dieLinks (partner n) .blank
      let y := Tab.get t.dieLinks n .blank
      y.lost = false ∧ y.expect = x.expect ∧ y.lanes = (if degraded = true then 1 else x.lanes) ∧
      (z.lost = false → (∀ u ∈ z.queue ++ x.pending, u.length = 80) → y.pending = [] ∧ y.queue = [] ∧
        (Tab.get t.dieLinks (partner n) .blank).pending = z.pending ++ x.pending) ∧
      t.events = ((s.dieEvent (if l.weight = true then 1 else 0) l.die (if degraded = true then 2 else 1) l.module).repairEvent 1
        (if degraded = true then 3 else 1) (2 ^ 32 + n) 0).events ∧
      { t with dieLinks := s.dieLinks, events := s.events, fresh := s.fresh } = s) ∧
    (completes (.bankFailure w bank) s fun t =>
      (∀ (p i : Nat) (e : W64), e = Tab.get (t.part p).banks i 0 → e.getLsbD 8 = true → field e 0 8 ≠ 64 * w + bank) ∧
      (∀ y ∈ t.slips, ∀ h o z off, y.op = .weight h o z (64 * w + bank) off → y.failed = true) ∧
      { t with parts := s.parts, slips := s.slips, events := s.events, fresh := s.fresh } = s) ∧
    (completes (.weightDieFence w) s fun t => Tab.get t.wdies w false = true ∧
      (∀ (p i : Nat) (e : W64), e = Tab.get (t.part p).banks i 0 → e.getLsbD 8 = true → field e 0 8 / 64 ≠ w) ∧
      { t with parts := s.parts, wdies := s.wdies, events := s.events, fresh := s.fresh } = s) ∧
    (completes (.weightDieReset w) s fun t => Tab.get t.wdies w false = false ∧ (∀ a, t.bankMem.byte a =
        if 536870912 * w ≤ a ∧ a < 536870912 * (w + 1) then 0 else s.bankMem.byte a) ∧
      (∀ g, g ∈ t.bankMem.poison ↔ g ∈ s.bankMem.poison ∧ ¬(536870912 * w ≤ 8 * g ∧ 8 * g < 536870912 * (w + 1))) ∧
      { t with bankMem := s.bankMem, wdies := s.wdies, events := s.events, fresh := s.fresh } = s) ∧
    (completes (.sliceSpare slice) s fun t => (∀ j, s.spareSlice slice = some j → j = 256 + slice / 32 ∧ t.sliceEntry slice = BitVec.ofNat 64 (512 + j) ∧
        ∀ i < 256, (s.sliceEntry i).getLsbD 9 = true → field (s.sliceEntry i) 0 9 ≠ j) ∧
      (s.spareSlice slice = none → t.slices = s.slices) ∧ { t with slices := s.slices, events := s.events, fresh := s.fresh } = s) ∧
    (completes (.sliceFailure slice true) s fun t => ∀ p < 32, (s.part p).state ≠ .free → (s.part p).stop = none →
      ∃ y, (t.part p).stop = some y ∧ y.reason = 6) ∧
    (completes (.sliceFailure slice false) s fun t => poisoned t ∧
      t.fills = s.fills.map (fun y : CdcLine => if y.home = slice then { y with poison := (List.range 16).map (16 * y.line + ·) } else y) ∧
      { t with dev := s.dev, fills := s.fills, slices := s.slices, events := s.events, fresh := s.fresh } = s) ∧
    (s.ownerAt (4096 * frame) ≠ 64 → exec (.hbmRowRepair frame true) s = .next s) ∧
    (s.ownerAt (4096 * frame) = 64 → Tab.get s.rowsLeft (Config.bankGroup frame) (Config.repairRows (Config.bankGroup frame)) ≠ 0 →
      (completes (.hbmRowRepair frame true) s fun t => t.ownerAt (4096 * frame) = 63 ∧ Tab.get t.scores frame 0 = 0 ∧
        (∀ a, t.dev.byte a = if 4096 * frame ≤ a ∧ a < 4096 * frame + 4096 then 0 else s.dev.byte a) ∧
        ∀ j, j ≠ frame → t.ownerAt (4096 * j) = s.ownerAt (4096 * j)) ∧
      (completes (.hbmRowRepair frame false) s fun t => t.dev = s.dev ∧ t.owners = s.owners ∧
        Tab.get t.rowsLeft (Config.bankGroup frame) (Config.repairRows (Config.bankGroup frame)) =
          Tab.get s.rowsLeft (Config.bankGroup frame) (Config.repairRows (Config.bankGroup frame)) - 1)) ∧
    (s.ownerAt (4096 * frame) = 64 → Tab.get s.rowsLeft (Config.bankGroup frame) (Config.repairRows (Config.bankGroup frame)) = 0 → ∀ pass,
      completes (.hbmRowRepair frame pass) s fun t => { t with events := s.events, fresh := s.fresh } = s) ∧
    (completes (.hbmChannelFailure stack chan) s fun t => (stack, chan) ∈ t.channels ∧ poisoned t ∧
      ((stack, if chan % 2 = 0 then chan + 1 else chan - 1) ∉ s.channels → t.dev = s.dev ∧ t.scores = s.scores ∧ t.dirtyScores = s.dirtyScores) ∧
      { t with dev := s.dev, channels := s.channels, events := s.events, fresh := s.fresh, scores := s.scores, dirtyScores := s.dirtyScores } = s)

/-- R389 to R394, R408: a unit at its stop point, once the words issued before it have completed, writes its 256-byte record, and the last one makes
the partition SUSPENDED and ends the stop, or runs the partition where that has been asked for, or where the part itself runs it again after a stop of
REASON 7 or 8; bank 32 takes the records of the units that no partition owns. `PART_RUN` runs each partition that it names and that is SUSPENDED without a folio word, and asks so of one that a stop is still ending.
Where the spec is open it rests on the model's readings, logs 66, 67 and 68. -/
def Obligations.StopPoints : Prop :=
  ∀ (s : State) (p : Nat) (source : BitVec 16) (v : W64),
    let n := source.toNat
    let record (x : Stop) (t : State) : Prop := ∃ b, Tab.get t.stopBuf (recordKey p n) [] = b ∧ b.length = 256 ∧ b.getD 0 0 = 17 ∧
      b.getD 1 0 = BitVec.ofNat 8 x.reason ∧ leAt b 2 2 = n ∧ b.getD 4 0 = BitVec.ofNat 8 p ∧ leAt b 8 8 = x.raise.toNat ∧
      leAt b 28 4 = x.count % 2 ^ 32
    let goes (x y : Stop) : Prop := y.left = x.left.filter (· != n) ∧ y.records = x.records + 1 ∧ y.reached = x.reached ∧ y.reason = x.reason
    (∀ x : Stop, p ≠ 32 → (s.part p).stop = some x → n ∈ x.left → s.mayStop p n = true →
      (x.left.filter (· != n) ≠ [] → completes (.stopPoint p source) s fun t => record x t ∧ ∃ y, (t.part p).stop = some y ∧ goes x y) ∧
      (x.left.filter (· != n) = [] → completes (.stopPoint p source) s fun t => record x t ∧ (t.part p).stop = none ∧
        /- asked to run, or due to run again -/
        let again := if x.wasRunning = true then (if x.reason = 7 ∨ x.reason = 8 then some x.reason else none) else (s.part p).autoRun
        let runs := (x.runAfter = true ∧ s.folioOn p = false) ∨ (again ≠ none ∧ s.limits = [] ∧ s.security.activating = false)
        (runs → (t.part p).state = .running) ∧ (¬runs → (t.part p).state = .suspended ∧ (t.part p).autoRun = again))) ∧
    (p ≠ 32 → (∀ x : Stop, (s.part p).stop = some x → n ∉ x.left ∨ s.mayStop p n = false) → exec (.stopPoint p source) s = .next s) ∧
    (∀ x : Stop, p = 32 → s.moduleStop = some x → n ∈ x.left → completes (.stopPoint p source) s fun t => record x t ∧
      (x.left.filter (· != n) ≠ [] → ∃ y, t.moduleStop = some y ∧ goes x y) ∧ (x.left.filter (· != n) = [] → t.moduleStop = none) ∧
      { t with moduleStop := s.moduleStop, stopBuf := s.stopBuf, events := s.events, fresh := s.fresh } = s) ∧
    (p = 32 → (∀ x : Stop, s.moduleStop = some x → n ∉ x.left) → exec (.stopPoint p source) s = .next s) ∧
    (completes (.partRunWrite v) s fun t => ∀ q < 32,
      (v.getLsbD q = true → (s.part q).state = .suspended → (s.part q).stop = none → s.folioOn q = false → (t.part q).state = .running) ∧
      (∀ y, v.getLsbD q = true → (s.part q).stop = some y → (t.part q).stop = some { y with runAfter := true } ∧ (t.part q).state = (s.part q).state) ∧
      (v.getLsbD q = false → t.part q = s.part q))

/-- R402, R403, R408, R414, R415, R441: reset and the loss of power leave the module as at reset but for the replay-protected store, and each makes a
new transport key; bring-up runs partition 0 with the host's configuration, or the default one where the host gives none; a limit of cooling or
supply, an uncorrectable base-die error and a firmware activation stop every partition; recovery and the end of the activation run them again; a
staged image runs once the stop has ended, unless the floor is above its version by then; only a signed update raises the firmware floor. A loss of
power leaves a device memory that reads zero without poison, as reset does (logs 6 and 7).
Where the spec is open it rests on the model's readings, logs 6, 7, 25, 57, 58, 60, 68 and 80. -/
def Obligations.ModuleEvents : Prop :=
  ∀ (s : State) (sensor kind : Nat) (bytes : List Byte) (signed : Bool) (version : W32),
    let asReset (t : State) : Prop := t.up = false ∧ t.warps = [] ∧ (∀ p : Nat, (t.part p).state = .free) ∧ (∀ d : Nat, (t.die d).state = .reset) ∧
      t.grids = [] ∧ t.ops = [] ∧ t.slips = [] ∧
      t.security = { s.security with transport := s.security.transport + 1, activating := false } ∧ t.hostMem = s.hostMem
    let ver : W32 := BitVec.ofNat 32 (leAt bytes 0 4)
    (completes .moduleReset s fun t => asReset t ∧ t.dev = s.dev) ∧ (completes .powerLoss s fun t => asReset t ∧ t.dev = ⟨[], []⟩) ∧
    (s.up = true → exec .bringUp s = .next s) ∧
    (s.up = false → completes .bringUp s fun t => t = s.bring.mapService ∧ t.up = true ∧
      (∀ x, x = t.part 0 → x.state = .running ∧ x.cfg = s.bringUpCfg.1 ∧ x.cfg.level = 2 ∧ x.clusters = s.bringUpCfg.2 ∧ x.stop = none) ∧
      (t.mbx 0 4095).binding = .service ∧ t.vf? 0 = some ⟨0, s.bringUpCfg.1.mbx, 0, 255⟩ ∧ (∀ q, q ≠ 0 → t.part q = s.part q)) ∧
    (s.mgmtConfig = none → (∀ x, x = s.bringUpCfg.1 → x.mbx = 4096 ∧ x.faultMbx = 4093 ∧ x.replyMbx = 4094 ∧ x.poolBase = 0x8E00000000 ∧
        x.poolSize = 2 ^ 33 ∧ x.root = x.poolBase) ∧ Tab.get s.bringUpCfg.2 0 0 = 0x1EE ∧ Tab.get s.bringUpCfg.2 1 0 = 0x1EF ∧
      ∀ a, 0x8E00000000 ≤ a → a < 0x8E00000000 + 2 ^ 33 → s.bring.dev.byte a = 0 ∧ s.bring.ownerAt a = 0) ∧
    (completes (.thermalWarning sensor) s fun t => sensor ∈ t.sensors ∧ { t with sensors := s.sensors, events := s.events, fresh := s.fresh } = s) ∧
    (completes (.thermalLimit sensor) s fun t => sensor ∈ t.limits ∧ stopsAll t s 7) ∧
    (completes (.supplyLimit sensor) s fun t => sensor ∈ t.limits ∧ stopsAll t s 7) ∧
    (completes .baseDieUncorrectableError s fun t => stopsAll t s 6) ∧
    (completes (.thermalRecovery sensor) s fun t => sensor ∉ t.sensors ∧ sensor ∉ t.limits ∧ (∀ x ∈ s.limits, x ≠ sensor → x ∈ t.limits) ∧
      (sensor ∈ s.limits → t.limits = [] → s.security.activating = false → ∀ p < 32, (s.part p).stop = none → (s.part p).autoRun ≠ none →
        (s.part p).state = .suspended → (t.part p).state = .running) ∧
      (t.limits ≠ [] ∨ s.security.activating = true → t.parts = s.parts)) ∧
    (s.security.staged = none → exec .firmwareActivation s = .next s) ∧
    (s.security.staged ≠ none → completes .firmwareActivation s fun t => stopsAll t s 8 ∧ t.security = { s.security with activating := true }) ∧
    (s.security.activating = false ∨ s.allStopped = false → exec .firmwareActivationDone s = .next s) ∧
    (∀ v i, s.security.activating = true → s.moduleStop = none → (∀ e ∈ s.parts, e.2.stop = none) → s.security.staged = some (v, i) →
      completes .firmwareActivationDone s fun t =>
        t.security = (if s.security.floor ≤ v then { s.security with fwVersion := v, fwImage := some i, staged := none, activating := false }
          else { s.security with staged := none, activating := false }) ∧
        (s.limits = [] → ∀ p < 32, (s.part p).stop = none → (s.part p).autoRun ≠ none → (s.part p).state = .suspended → (t.part p).state = .running) ∧
        (s.limits ≠ [] → t.parts = s.parts)) ∧
    (exec (.firmwareFloorUpdate version signed) s = .next { s with security := { s.security with
      floor := if signed = true ∧ s.security.floor < version then version else s.security.floor } }) ∧
    (exec (.managementWindowWrite 0 bytes signed) s = .next { s with security := { s.security with
      staged := if signed = true ∧ s.security.floor ≤ ver then some (ver, bytes.drop 4) else s.security.staged } }) ∧
    (s.up = false →
      exec (.managementWindowWrite 1 bytes signed) s = .next { s with mgmtConfig := some (bytes ++ List.replicate (128 - bytes.length) 0) } ∧
      exec (.managementWindowWrite 2 bytes signed) s =
        .next { s with mgmtClusters := Tab.set s.mgmtClusters (leAt bytes 0 2) (BitVec.ofNat 64 (leAt bytes 8 8)) }) ∧
    (completes (.managementWindowWrite kind bytes signed) s fun t => t.security.floor = s.security.floor ∧ t.parts = s.parts ∧ (s.up = true → kind ≠ 0 → t = s))

/-! ## The host link, the fabric and groups -/

/-- R395, R396, R416 to R418, R420, R424: the host's writes of open frames reach memory and lift poison, its reads change nothing, and beyond the
decoder's range they fault; the owner table, `MODULE`, the event queue's tail and the other registers take writes as their fields allow; a host line
written by the host holds the new bytes; the link only ever trains down; the host reads the event queue's and the partitions' registers and the
tables of BAR 4 as they stand; and a record that turns the event queue non-empty raises a vector.
Where the spec is open it rests on the model's readings, logs 96 and 97. -/
def Obligations.HostLink : Prop :=
  ∀ (s : State) (hpa len g off width line bar : Nat) (bytes : List Byte) (v x : W64),
    let top := 2 ^ 30 * (1 + Config.hdmGib % 576)
    (hpa + len ≤ top → exec (.hostMemAccess hpa none len) s = .next s) ∧
    (top < hpa + len → exec (.hostMemAccess hpa none len) s = .fault .outsideDecoder) ∧
    ((∀ i < len, s.hostOpen (hpa + i) = true) → s.hostRead hpa len = (s.devRead hpa len, s.dev.poisoned hpa len)) ∧
    ((∃ i < len, s.hostOpen (hpa + i) = false) → s.hostRead hpa len = (List.replicate len 0xFF, true)) ∧
    (bytes ≠ [] → hpa % 4096 + bytes.length ≤ 4096 → hpa + bytes.length ≤ top → still s →
      (s.hostOpen (hpa / 4096 * 4096) = false → exec (.hostMemAccess hpa (some bytes) len) s = .next s) ∧
      (s.hostOpen (hpa / 4096 * 4096) = true → completes (.hostMemAccess hpa (some bytes) len) s fun t =>
        (∀ a, t.devByte a &&& (if hpa / 8 ≤ a / 8 ∧ a / 8 ≤ (hpa + bytes.length - 1) / 8 then keepMoving a else 0xFF) =
          (if hpa ≤ a ∧ a < hpa + bytes.length then bytes.getD (a - hpa) 0 else s.devByte a) &&&
            (if hpa / 8 ≤ a / 8 ∧ a / 8 ≤ (hpa + bytes.length - 1) / 8 then keepMoving a else 0xFF)) ∧
        (∀ q, q ∈ t.dev.poison ↔ q ∈ s.dev.poison ∧ ¬(hpa ≤ 8 * q ∧ 8 * q + 8 ≤ hpa + bytes.length)) ∧ t.hostMem = s.hostMem)) ∧
    (exec (.hostOwnerTableWrite g v) s = .next (if g < 576 then { s with fabric := { s.fabric with hdm := Tab.set s.fabric.hdm g (v &&& 0x9F) } } else s)) ∧
    (exec (.moduleRegisterWrite v) s = .next (if s.fabric.fixed then s else { s with fabric := { s.fabric with module := v &&& 0x3FFF } })) ∧
    (completes (.hostCacheSnoop line (some bytes)) s fun t => (∀ a, t.hostMem.byte a =
        if 128 * line ≤ a ∧ a < 128 * line + min 128 bytes.length then bytes.getD (a - 128 * line) 0 else s.hostMem.byte a) ∧ t.dev = s.dev ∧ t.cdc = s.cdc) ∧
    exec (.hostCacheSnoop line none) s = .next s ∧
    (exec (.hostLinkDegrade width) s = .next { s with hostWidth := if (width = 8 ∨ width = 4) ∧ width < s.hostWidth then width else s.hostWidth }) ∧
    (completes (.eqTailWrite v) s fun t => { t with events := s.events } = s ∧
      ((v.setWidth 32 - s.events.consumed).toNat ≤ (s.events.produced - s.events.consumed).toNat → t.events.consumed = v.setWidth 32) ∧
      ((s.events.produced - s.events.consumed).toNat < (v.setWidth 32 - s.events.consumed).toNat → t = s)) ∧
    exec (.registerWrite 2 0x20008 x) s = exec (.eqTailWrite x) s ∧ exec (.registerWrite 2 0x20010 x) s = exec (.partRunWrite x) s ∧
    exec (.registerWrite 4 0x124000 x) s = exec (.moduleRegisterWrite x) s ∧
    (∀ p i, p < 32 → i < 4096 → completes (.registerWrite 4 (0x8000 * p + 8 * i) x) s fun t =>
      Tab.get (t.part p).windows i 0 = x &&& 0xFFFFFFFF00000000 ∧ t.fabric.fixed = (s.fabric.fixed || x.getLsbD 63)) ∧
    (∀ i < 1024, let e := Tab.get s.fabric.exports i 0
      completes (.registerWrite 4 (0x100000 + 16 * i) x) s (fun t =>
        Tab.get t.fabric.exports i 0 = e.extractLsb' 64 64 ++ x ∧ { t with fabric := s.fabric } = s) ∧
      completes (.registerWrite 4 (0x100000 + 16 * i + 8) x) s fun t =>
        Tab.get t.fabric.exports i 0 = x.extractLsb' 38 26 ++ (0#38 ++ e.extractLsb' 0 64) ∧ { t with fabric := s.fabric } = s) ∧
    (∀ i < 576, exec (.registerWrite 4 (0x128000 + 8 * i) x) s = exec (.hostOwnerTableWrite i x) s) ∧
    (bar ≠ 2 → bar ≠ 4 → exec (.registerWrite bar off x) s = .next s) ∧
    (s.bar2Read 0x20000 = s.events.produced.setWidth 64 ∧ s.bar2Read 0x20008 = s.events.consumed.setWidth 64 ∧
      (∀ p < 32, (s.bar2Read 0x20010).getLsbD p = decide ((s.part p).state = .running)) ∧
      (∀ o, 0x20018 ≤ o → o < 0x100000 → s.bar2Read o = 0)) ∧
    ((∀ p i, p < 32 → i < 4096 → s.bar4Read (0x8000 * p + 8 * i) = Tab.get (s.part p).windows i 0) ∧
      (∀ i < 1024, s.bar4Read (0x100000 + 16 * i) = (Tab.get s.fabric.exports i 0).setWidth 64 ∧
        s.bar4Read (0x100000 + 16 * i + 8) = (Tab.get s.fabric.exports i 0).extractLsb' 64 64) ∧ s.bar4Read 0x124000 = s.fabric.module ∧
      (∀ i < 576, s.bar4Read (0x128000 + 8 * i) = Tab.get s.fabric.hdm i 0)) ∧
    (s.events.slots = [] → (s.event g bytes).events.vectors =
      s.events.vectors + if s.events.produced = s.events.consumed then 1 else 0)

/-- R421 to R423, R425 to R427: a request that the export table permits is performed once and answered, one that it refuses is answered with a
refusal, and a repeated one is ignored, as is a repeated answer; an answer ends the access that awaits it, delivers a load's value, halts a warp whose
load was refused or poisoned, and sends the late error of a store that was; a port takes a good flit that is next in order, with the credits that it
returns and the packet that it completes, and asks for a replay of a bad one; a port loses a lane and replays, and without a lane it is lost, what had
not been acknowledged being sent again. Where the spec is open it rests on the model's readings, logs 92, 93, 94 and 120. -/
def Obligations.Fabric : Prop :=
  ∀ (s : State) (k : Packet) (f : List Byte) (port lane : Nat),
    let m := k.src.toNat
    let seen := Tab.get s.fabric.seen m []
    let pa := exportBase (s.exportOf k) + k.offset.toNat
    let n := packetSpan k
    let answered (t : State) (kind : Nat) (bytes : List Byte) : Prop := ∃ a : Packet, t.fabric.outbox = s.fabric.outbox ++ [a] ∧
      a.kind = BitVec.ofNat 8 kind ∧ a.dst = k.src ∧ a.eseq = BitVec.ofNat 16 (Tab.get s.fabric.sendSeq m 0) ∧ a.index = k.index ∧ a.offset = k.offset ∧
      a.bytes = bytes
    let marked (t : State) : Prop := k.eseq.toNat ∈ Tab.get t.fabric.seen m []
    let x := s.port port
    ((k.kind = 0 ∨ 5 ≤ k.kind.toNat) → exec (.remoteRequest k) s = .next s) ∧
    (1 ≤ k.kind.toNat → k.kind.toNat ≤ 4 →
      (k.eseq.toNat ∈ seen → exec (.remoteRequest k) s = .next s) ∧
      (k.eseq.toNat ∉ seen → s.refuses k = true → completes (.remoteRequest k) s fun t => marked t ∧ answered t 8 [] ∧ t.dev = s.dev ∧ t.warp = s.warp) ∧
      (k.eseq.toNat ∉ seen → s.refuses k = false →
        (k.kind = 1 → completes (.remoteRequest k) s fun t => marked t ∧ answered t 5 (s.devRead pa n) ∧ t.dev = s.dev ∧ t.warp = s.warp) ∧
        (k.kind = 2 ∨ k.kind = 3 → still s → completes (.remoteRequest k) s fun t => marked t ∧ answered t 6 [] ∧
          (∀ a, t.devByte a &&& (if pa / 8 ≤ a / 8 ∧ a / 8 ≤ (pa + k.bytes.length - 1) / 8 then keepMoving a else 0xFF) =
            (if pa ≤ a ∧ a < pa + k.bytes.length ∧ (k.kind = 2 ∨ k.byteMask.getLsbD (a - pa) = true) then k.bytes.getD (a - pa) 0 else s.devByte a) &&&
              (if pa / 8 ≤ a / 8 ∧ a / 8 ≤ (pa + k.bytes.length - 1) / 8 then keepMoving a else 0xFF))) ∧
        (∀ op ty, k.kind = 4 → AOp.ofCode k.atomOp = some op → atomTyOf k.atomTy = some ty →
          (s.dev.poisoned pa (atyBytes ty) = true → completes (.remoteRequest k) s fun t => marked t ∧ answered t 7 (s.devRead pa (atyBytes ty)) ∧
            t.dev = s.dev) ∧
          (s.dev.poisoned pa (atyBytes ty) = false → completes (.remoteRequest k) s fun t => marked t ∧ answered t 7 (s.devRead pa (atyBytes ty)) ∧
            (still s →
              let new := natToBytes (atyBytes ty) (atomNew op ty (bytesToNat (s.devRead pa (atyBytes ty))) k.opnd.toNat
                (bytesToNat (k.bytes.take (atyBytes ty))) % 2 ^ (8 * atyBytes ty))
              ∀ a, t.devByte a &&& (if pa / 8 ≤ a / 8 ∧ a / 8 ≤ (pa + atyBytes ty - 1) / 8 then keepMoving a else 0xFF) =
                (if pa ≤ a ∧ a < pa + atyBytes ty then new.getD (a - pa) 0 else s.devByte a) &&&
                  (if pa / 8 ≤ a / 8 ∧ a / 8 ≤ (pa + atyBytes ty - 1) / 8 then keepMoving a else 0xFF)))) ∧
        (k.kind = 4 → AOp.ofCode k.atomOp = none ∨ atomTyOf k.atomTy = none → completes (.remoteRequest k) s fun t => marked t ∧ answered t 8 []))) ∧
    ((k.kind.toNat ≤ 4 ∨ 9 ≤ k.kind.toNat) → exec (.remoteResponse k) s = .next s) ∧
    (5 ≤ k.kind.toNat → k.kind.toNat ≤ 8 →
      (k.eseq.toNat ∈ seen → exec (.remoteResponse k) s = .next s) ∧
      (k.eseq.toNat ∉ seen →
        ((∀ o ∈ s.fabric.waiting, o.awaits k = false) → completes (.remoteResponse k) s fun t => marked t ∧
          { t with fabric := { t.fabric with seen := s.fabric.seen } } = s) ∧
        (∀ o : Outstanding, s.fabric.waiting.find? (fun y => y.awaits k) = some o → o.eng = none →
          (o.returns = false → o.grp = none → k.kind = 8 ∨ k.poison ≠ 0 → (s.part o.ticket.part).msgs.length < 1023 → completes (.remoteResponse k) s fun t =>
            marked t ∧ t.fabric.waiting = s.fabric.waiting.erase o ∧
            ∃ b, (t.part o.ticket.part).msgs = (s.part o.ticket.part).msgs ++ [b] ∧ b.getD 0 0 = 2) ∧
          (o.returns = false → k.kind ≠ 8 → k.poison = 0 → completes (.remoteResponse k) s fun t =>
            marked t ∧ t.fabric.waiting = s.fabric.waiting.erase o ∧ { t with fabric := s.fabric } = s) ∧
          (∀ r : RemoteLoad, o.returns = true → s.warp.alive = true → o.warp = s.warp.id → s.warp.fork = none → s.warp.remote = [r] → r.eseq = o.eseq →
            r.mod = o.mod → r.lane < 64 → s.warp.wait = .none ∨ s.warp.wait = .remote [(r.eseq, r.mod)] ∨ s.warp.wait = .values [(r.eseq, r.mod)] →
            let off := if k.kind = 7 then 0 else r.pa % 16
            let bad := ∃ i < 16, k.poison.getLsbD i = true ∧ off / 8 ≤ i ∧ 8 * i < off + r.bytes
            (k.kind = 8 ∨ bad → completes (.remoteResponse k) s fun t => t.warp.alive = false ∧ t.fabric.waiting = s.fabric.waiting.erase o) ∧
            (∀ d, k.kind ≠ 8 → ¬bad → r.sreg = some d → r.signed = false → r.own = [] →
              completes (.remoteResponse k) s fun t => t.warp.wait = .none ∧ t.warp.remote = [] ∧ t.warp.pc = s.warp.pc ∧
                regsWith t.warp (atLevel s.warp r.level) d (BitVec.ofNat 64 (bytesToNat ((k.bytes.drop off).take r.bytes))) ∧
                t.fabric.waiting = s.fabric.waiting.erase o))))) ∧
    (x.lost = true → exec (.uflFlitReceive port f) s = .next s ∧ exec (.portLaneFailure port lane) s = .next s ∧ exec (.portLost port) s = .next s) ∧
    (x.lost = false →
      (uflGood f = false → s.fabric.outbox = [] → s.fabric.groupOut = [] → x.owed = 0 → completes (.uflFlitReceive port f) s fun t =>
        ({ t.port port with asking := x.asking, wire := x.wire } = x ∧ (t.port port).asking = true ∧ ∃ z : List Byte, z.length = 64 ∧ (uflHead z).vc = 3 ∧
          (x.badLanes = [] → ∀ i < 2, Tab.get (t.port port).wire i [] = Tab.get x.wire i [] ++ [(z.drop (32 * i)).take 32])) ∧
        { t with fabric := s.fabric } = s) ∧
      (∀ (y : Link) (ks : List Packet), x.receive f = (y, ks) →
        (∀ h, h = uflHead f → uflGood f = true → (∀ u ∈ y.unacked, u ∈ x.unacked) ∧
          (h.vc ≠ 3 → h.seq = x.expect → y.credit = x.credit + h.credit ∧ y.expect = (x.expect + 1) % 65536 ∧
            y.owed = x.owed + (h.units.filter (· ≠ 0)).length) ∧
          (h.vc = 3 ∨ h.seq ≠ x.expect → y.credit = x.credit ∧ y.expect = x.expect ∧ y.owed = x.owed ∧ ks = [])) ∧
        (s.fabric.outbox = [] → s.fabric.groupOut = [] → ks = [] → completes (.uflFlitReceive port f) s fun t =>
          t.port port = (if y.owed = 0 then y else y.returnUfl) ∧ { t with fabric := s.fabric } = s) ∧
        (∀ q u, ks = [q] → (1 ≤ q.kind.toNat → q.kind.toNat ≤ 4 → exec (.remoteRequest q) (s.setPort port y) = .next u →
            exec (.uflFlitReceive port f) s = .next (u.sendWaiting port)) ∧
          (5 ≤ q.kind.toNat → q.kind.toNat ≤ 8 → exec (.remoteResponse q) (s.setPort port y) = .next u →
            exec (.uflFlitReceive port f) s = .next (u.sendWaiting port)))) ∧
      (lane ∉ x.liveLanes → exec (.portLaneFailure port lane) s = .next s) ∧
      (lane ∈ x.liveLanes → 1 < x.lanes → completes (.portLaneFailure port lane) s fun t =>
        { t.port port with wire := x.wire } = { x with
          lanes := x.lanes - 1, badLanes := lane :: x.badLanes, replays := if x.unacked = [] then x.replays else x.replays + 1 } ∧
        ((∀ u ∈ x.unacked, u.2.length = 64) → (∃ j ∈ x.liveLanes, j ≠ lane) → Tab.get (t.port port).wire lane [] = Tab.get x.wire lane []) ∧
        t.events = (s.repairEvent 1 3 (2 ^ 33 + port) 0).events ∧ { t with fabric := s.fabric, events := s.events, fresh := s.fresh } = s) ∧
      (lane ∈ x.liveLanes → x.lanes ≤ 1 → exec (.portLaneFailure port lane) s = exec (.portLost port) s) ∧
      (completes (.portLost port) s fun t => (t.port port).lost = true ∧ (t.port port).unacked = [] ∧
        (∀ i ∈ s.portShelves port, t.portEntry i = 0) ∧ (∀ i, i ∉ s.portShelves port → t.portEntry i = s.portEntry i) ∧
        /- no other port, and no group whose tree uses this one -/
        ((∀ q ∈ s.fabric.ports, q.1 = port) → (∀ e ∈ s.parts, ∀ g ∈ e.2.groups, g.2.valid = true → g.2.usesPort (s.portShelves port) = false) →
          t.fabric.outbox = (x.sent.map (·.2)).filter (fun q => q.kind ≠ 9 && q.kind ≠ 10) ++ s.fabric.outbox ∧
          t.events = (s.repairEvent 1 4 (2 ^ 33 + port) 0).events)))

/-- R428 to R432: a group entry without a step in progress takes a write of its writable fields; the sums of a child port and the value from the
parent are kept by their step, with what of them is poisoned; a step with everything present is summed, own value first, and the root's sum is its
value, while another module sends it to its parent, by the port of its shelfmark; a multicast's own value is its value; space is reserved for the first
step that has a value; and a group whose step fails, or whose tree has failed below a child port, takes no more. Where the spec is open it rests on the model's readings, logs 74, 75, 76 and 94. -/
def Obligations.Groups : Prop :=
  ∀ (s : State) (p g port step : Nat) (values : List (W32 × Bool)) (bytes : List (Byte × Bool)) (v : BitVec 512) (x : GStep),
    let y := s.group p g
    let only (t : State) : Prop := (∀ j, j ≠ g → t.group p j = s.group p j) ∧ (∀ q, q ≠ p → t.part q = s.part q) ∧ { t with parts := s.parts } = s
    (y.steps ≠ [] ∨ 32 ≤ p ∨ 64 ≤ g → exec (.groupEntryWrite p g v) s = .next s) ∧
    (p < 32 → g < 64 → y.steps = [] → completes (.groupEntryWrite p g v) s fun t => only t ∧ ∀ z, z = t.group p g → z.steps = [] ∧ z.broken = false ∧
      z.step = y.step ∧ z.taken = y.step.toNat ∧ z.entry.extractLsb' 0 32 = v.extractLsb' 0 32 ∧ z.entry.extractLsb' 40 24 = v.extractLsb' 40 24 ∧
      z.entry.extractLsb' 128 96 = v.extractLsb' 128 96 ∧ z.entry.extractLsb' 256 57 = v.extractLsb' 256 57) ∧
    (y.valid = true → y.broken = false → port ∈ y.children → y.step.toNat ≤ step → values = [] →
      completes (.groupPartial p g port step values) s fun t => (t.group p g).broken = true ∧ (t.group p g).steps = []) ∧
    (y.valid = true → y.multicast = false → y.broken = false → port ∈ y.children → y.step.toNat ≤ step → values ≠ [] →
      completes (.groupPartial p g port step values) s fun t => only t ∧ (∃ z ∈ (t.group p g).steps, z.n = step ∧ ∃ e ∈ z.partials, e.1 = port) ∧
        ((∀ z ∈ y.steps, z.n = step → ∀ e ∈ z.partials, e.1 ≠ port) →
          ∃ z ∈ (t.group p g).steps, z.n = step ∧ (port, values.map (·.1), poisonedAt values) ∈ z.partials)) ∧
    (port ∉ y.children → exec (.groupPartial p g port step values) s = .next s) ∧
    (y.valid = true → y.root = false → y.broken = false → y.step.toNat ≤ step →
      (completes (.groupData p g step bytes false) s fun t => only t ∧
        ∃ z ∈ (t.group p g).steps, z.n = step ∧ z.result = some (bytes.map (·.1)) ∧ z.bad = poisonedAt bytes) ∧
      (completes (.groupData p g step bytes true) s fun t => (t.group p g).broken = true ∧ (t.group p g).steps = [])) ∧
    (y.root = true → exec (.groupData p g step bytes false) s = .next s) ∧
    (y.first = none → exec (.groupStep p g) s = .next s ∧ exec (.multicastReserveRetry p g true) s = .next s) ∧
    (y.first = some x →
      (x.held = true ∨ y.valid = false ∨ y.broken = true → exec (.groupStep p g) s = .next s) ∧
      (∀ own, x.held = false → y.valid = true → y.broken = false → x.result = none → x.own = some own →
        (y.multicast = true → completes (.groupStep p g) s fun t => only t ∧ ∃ z ∈ (t.group p g).steps, z.n = x.n ∧ z.result = some own) ∧
        (y.multicast = false → (∀ q ∈ y.children, ∃ z ∈ x.partials, z.1 = q) →
          (y.root = true → completes (.groupStep p g) s fun t => only t ∧
            ∃ z ∈ (t.group p g).steps, z.n = x.n ∧ z.result = some (((elements (groupSize y.ty) own).zipIdx.map fun e =>
              y.children.foldl (fun acc q => addF32 acc (((x.partials.find? fun z => z.1 == q).map fun z => (z.2.1.getD e.2 0).toNat).getD 0))
                (groupUp y.ty e.1)).flatMap fun r => natToBytes (groupSize y.ty) (groupDown y.ty r)) ∧
              z.bad = elementBytes (groupSize y.ty) (x.badSums y.ty y.children)) ∧
          (y.root = false → x.sentUp = false → completes (.groupStep p g) s fun t => (∃ z ∈ (t.group p g).steps, z.n = x.n ∧ z.sentUp = true) ∧
            t.fabric.outbox = s.fabric.outbox ∧ ∃ l : List (Nat × Packet), t.fabric.groupOut = s.fabric.groupOut ++ l ∧
              (∀ q ∈ l, q.1 = y.parent ∧ q.2.kind = 9 ∧ q.2.bytes.length ≤ 128) ∧
              l.flatMap (·.2.bytes) = ((elements (groupSize y.ty) own).zipIdx.map fun e =>
                y.children.foldl (fun acc q => addF32 acc (((x.partials.find? fun z => z.1 == q).map fun z => (z.2.1.getD e.2 0).toNat).getD 0))
                  (groupUp y.ty e.1)).flatMap (natToBytes 4)) ∧
          (y.root = false → x.sentUp = true → exec (.groupStep p g) s = .next s)) ∧
        (y.multicast = false → (∃ q ∈ y.children, ∀ z ∈ x.partials, z.1 ≠ q) → exec (.groupStep p g) s = .next s)) ∧
      (∀ val, x.held = false → x.result = some val → completes (.multicastReserveRetry p g true) s fun t => only t ∧
        ∃ z ∈ (t.group p g).steps, z.n = x.n ∧ z.reserved = true) ∧
      exec (.multicastReserveRetry p g false) s = .next s)
end

