-- ==== Sys2Proof/Laws/Codec.lean ====
section
/-! SUPPORT. What the layouts of Machine/Codec.lean write is what they read back. -/

namespace Sys2Proof.Machine

/-- What is written of an item is read back, whatever follows it. -/
def Codec.Good {α : Type} (c : Codec α) (x : α) : Prop := ∀ r, c.dec (c.enc x ++ r) = some (x, r)

theorem decDigits_encDigits (r : List Byte) : ∀ k n, n < 128 ^ (k + 1) → decDigits (encDigits k n ++ r) = some (n, r) := by
  intro k
  induction k with
  | zero =>
    intro n h
    have h : n < 128 := by simpa using h
    have e : n % 256 = n := Nat.mod_eq_of_lt (by omega)
    simp [encDigits, decDigits, Nat.mod_eq_of_lt h, e, h]
  | succ k ih =>
    intro n h
    rw [encDigits]
    split
    · next h' => simp [decDigits, Nat.mod_eq_of_lt (show n < 256 by omega), h']
    · have h2 : n / 128 < 128 ^ (k + 1) := by rw [Nat.pow_succ] at h; omega
      have e : (128 + n % 128) % 256 = 128 + n % 128 := Nat.mod_eq_of_lt (by omega)
      have e2 : n % 128 + 128 * (n / 128) = n := Nat.mod_add_div n 128
      simp [decDigits, ih _ h2, e, e2]

theorem cNat_good (n : Nat) : cNat.Good n := fun r => decDigits_encDigits r n n (Nat.lt_of_lt_of_le (Nat.lt_pow_self (by omega)) (Nat.pow_le_pow_right (by omega) (by omega)))

theorem pair_good {α β : Type} {a : Codec α} {b : Codec β} {x : α × β} (ha : a.Good x.1) (hb : b.Good x.2) : (a.pair b).Good x :=
  fun r => by simp [Codec.pair, List.append_assoc, ha (b.enc x.2 ++ r), hb r]

theorem iso_good {α β : Type} {f : α → β} {g : β → α} {c : Codec β} {x : α} (h : g (f x) = x) (hc : c.Good (f x)) :
    (Codec.iso f g c).Good x := fun r => by simp [Codec.iso, hc r, h]

theorem branch_good {α β : Type} {f : α → Option β} {g : β → α} {c : Codec β} {x : α} {y : β} (hf : f x = some y) (h : g y = x)
    (hc : c.Good y) : (Codec.branch f g c).Good x := fun r => by simp [Codec.branch, hf, hc r, h]

theorem only_good {α : Type} {p : α → Bool} {c : Codec α} {x : α} (h : p x = true) (hc : c.Good x) : (Codec.only p c).Good x :=
  fun r => by simp [Codec.only, hc r, h]

theorem unit_good {α : Type} (x : α) : (Codec.unit x).Good x := fun _ => rfl

theorem tagged_good {α : Type} {tag : α → Nat} {cs : List (Codec α)} {x : α} {c : Codec α} (h : cs[tag x]? = some c) (hc : c.Good x) :
    (Codec.tagged tag cs).Good x := fun r => by
  simp only [Codec.tagged, h, Option.map_some, Option.getD_some, List.append_assoc, cNat_good (tag x) (c.enc x ++ r), Option.bind_some]
  exact hc r

theorem enum_good {α : Type} [DecidableEq α] {l : List α} {x : α} (h : x ∈ l) : (Codec.enum l).Good x := fun r => by
  simp [Codec.enum, cNat_good (l.idxOf x) r, List.idxOf_lt_length_iff.2 h]

theorem bytesToNat_natToBytes : ∀ n x, bytesToNat (natToBytes n x) = x % 256 ^ n
  | 0, x => by simp [natToBytes, bytesToNat, Nat.mod_one]
  | n + 1, x => by
    rw [natToBytes, bytesToNat, bytesToNat_natToBytes n, Nat.pow_succ, Nat.mul_comm (256 ^ n), Nat.mod_mul]
    simp

theorem length_natToBytes : ∀ n x, (natToBytes n x).length = n
  | 0, _ => rfl
  | n + 1, x => by simp [natToBytes, length_natToBytes n]

theorem cBits_good {w : Nat} (x : BitVec w) : (cBits w).Good x := fun r => by
  have h : x.toNat % 256 ^ ((w + 7) / 8) = x.toNat := Nat.mod_eq_of_lt (Nat.lt_of_lt_of_le x.isLt (by
    rw [show (256 : Nat) = 2 ^ 8 from rfl, ← Nat.pow_mul]
    exact Nat.pow_le_pow_right (by omega) (by omega)))
  simp [cBits, length_natToBytes, bytesToNat_natToBytes, h]

theorem cBool_good (x : Bool) : cBool.Good x := enum_good (by cases x <;> simp)
theorem cFin3_good (x : Fin 3) : cFin3.Good x := enum_good (by revert x; decide)
theorem cInt_good (x : Int) : cInt.Good x := by
  cases x with
  | ofNat n => exact tagged_good rfl (branch_good rfl rfl (cNat_good n))
  | negSucc n => exact tagged_good rfl (branch_good rfl rfl (cNat_good n))

theorem cOption_good {α : Type} {c : Codec α} (h : ∀ x, c.Good x) (x : Option α) : (cOption c).Good x := by
  cases x with
  | none => exact tagged_good rfl (unit_good none)
  | some x => exact tagged_good rfl (branch_good rfl rfl (h x))

theorem cOption_all {α : Type} {c : Codec α} {o : Option α} (h : ∀ x, o = some x → c.Good x) : (cOption c).Good o := by
  cases o with
  | none => exact tagged_good rfl (unit_good none)
  | some x => exact tagged_good rfl (branch_good rfl rfl (h x rfl))

theorem decItems_good {α : Type} {c : Codec α} (r : List Byte) : ∀ l : List α, (∀ x ∈ l, c.Good x) →
    decItems c l.length (l.flatMap c.enc ++ r) = some (l, r)
  | [], _ => rfl
  | x :: l, h => by
    simp only [List.length_cons, decItems, List.flatMap_cons, List.append_assoc, h x (by simp) (l.flatMap c.enc ++ r), Option.bind_some,
      decItems_good r l fun y hy => h y (by simp [hy]), Option.map_some]

theorem cList_all {α : Type} {c : Codec α} {l : List α} (h : ∀ x ∈ l, c.Good x) : (cList c).Good l := fun r => by
  simp only [cList, List.append_assoc, cNat_good l.length (l.flatMap c.enc ++ r), Option.bind_some, decItems_good r l h]
theorem cList_good {α : Type} {c : Codec α} (h : ∀ x, c.Good x) (l : List α) : (cList c).Good l := cList_all fun x _ => h x

theorem cVec_good {α : Type} {n : Nat} {c : Codec α} (h : ∀ x, c.Good x) (v : Vector α n) : (cVec n c).Good v := fun r => by
  have e := decItems_good (c := c) r v.toList fun x _ => h x
  rw [Vector.length_toList] at e
  simp only [cVec, e, Option.bind_some, Vector.length_toList, dite_true]
  rfl

/-! ## Types -/

theorem cPlace_good (x : Place) : cPlace.Good x := enum_good (by cases x <;> simp)
theorem cScope_good (x : Scope) : cScope.Good x := enum_good (by cases x <;> simp)
theorem cAOp_good (x : AOp) : cAOp.Good x := enum_good (by cases x <;> simp)
theorem cATy_good (x : ATy) : cATy.Good x := enum_good (by cases x <;> simp)
theorem cRMode_good (x : RMode) : cRMode.Good x := enum_good (by cases x <;> simp)
theorem cConfigWait_good (x : ConfigWait) : cConfigWait.Good x := enum_good (by cases x <;> simp)
theorem cCrewState_good (x : CrewState) : cCrewState.Good x := enum_good (by cases x <;> simp)
theorem cMem_good (x : Mem) (h : x.wf = true) : cMem.Good x :=
  only_good h (iso_good rfl (pair_good (cList_good (fun _ => (pair_good (cNat_good _) (cBits_good _))) _) (cList_good (fun _ => (cNat_good _)) _)))
theorem cHandle_good (x : Handle) : cHandle.Good x :=
  iso_good rfl (pair_good (cNat_good _) (pair_good (cNat_good _) (pair_good (cNat_good _) (cBits_good _))))
theorem cBlock_good (x : Block) : cBlock.Good x :=
  iso_good rfl (pair_good (cBits_good _) (pair_good (cBits_good _) (pair_good (cNat_good _) (pair_good (cNat_good _) (pair_good (cNat_good _)
    (pair_good (cBits_good _) (pair_good (cVec_good (fun _ => (cBits_good _)) _) (pair_good (cVec_good (fun _ => (cVec_good (fun _ => (cBits_good
    _)) _)) _) (cBits_good _)))))))))
theorem cStackEnt_good (x : StackEnt) : cStackEnt.Good x :=
  iso_good rfl (pair_good (cBits_good _) (pair_good (cBits_good _) (pair_good (cBits_good _) (cBits_good _))))
theorem cSaveRec_good (x : SaveRec) : cSaveRec.Good x :=
  iso_good rfl (pair_good (cBool_good _) (pair_good (cNat_good _) (pair_good (cNat_good _) (pair_good (cOption_good (fun _ => (cBlock_good _)) _)
    (pair_good (cBits_good _) (pair_good (cBits_good _) (pair_good (cBool_good _) (pair_good (cNat_good _) (cBool_good _)))))))))
theorem cTrapBank_good (x : TrapBank) : cTrapBank.Good x :=
  iso_good rfl (pair_good (cBits_good _) (pair_good (cBits_good _) (pair_good (cBits_good _) (pair_good (cBits_good _) (cBits_good _)))))
theorem cCause_good (x : Cause) : cCause.Good x :=
  iso_good rfl (pair_good (cBits_good _) (pair_good (cBits_good _) (pair_good (cBits_good _) (pair_good (cBits_good _) (pair_good (cBits_good _)
    (pair_good (cNat_good _) (pair_good (cBool_good _) (cNat_good _))))))))
theorem cTicket_good (x : Ticket) : cTicket.Good x :=
  iso_good rfl (pair_good (cNat_good _) (pair_good (cNat_good _) (pair_good (cNat_good _) (pair_good (cNat_good _) (pair_good (cBits_good _)
    (cOption_good (fun _ => (cNat_good _)) _))))))
theorem cRet_good (x : Ret) : cRet.Good x :=
  iso_good rfl (pair_good (cNat_good _) (pair_good (cBits_good _) (pair_good (cBool_good _) (pair_good (cOption_good (fun _ => (cBits_good _)) _)
    (cNat_good _)))))
theorem cIdent_good (x : Ident) : cIdent.Good x :=
  iso_good rfl (pair_good (cNat_good _) (pair_good (cNat_good _) (pair_good (cNat_good _) (pair_good (cNat_good _) (pair_good (cNat_good _)
    (pair_good (cNat_good _) (pair_good (cNat_good _) (pair_good (cNat_good _) (cNat_good _)))))))))
theorem cCarrelEnt_good (x : CarrelEnt) : cCarrelEnt.Good x := by
  cases x with
  | store a0 a1 a2 a3 a4 a5 => exact tagged_good rfl (branch_good rfl rfl (pair_good (cPlace_good _) (pair_good (cNat_good _) (pair_good
    (cList_good (fun _ => (cBits_good _)) _) (pair_good (cTicket_good _) (pair_good (cBits_good _) (cNat_good _)))))))
  | atomic a0 a1 a2 a3 a4 a5 a6 a7 a8 a9 => exact tagged_good rfl (branch_good rfl rfl (pair_good (cPlace_good _) (pair_good (cNat_good _)
    (pair_good (cAOp_good _) (pair_good (cATy_good _) (pair_good (cBits_good _) (pair_good (cBits_good _) (pair_good (cOption_good (fun _ =>
    (cRet_good _)) _) (pair_good (cTicket_good _) (pair_good (cBits_good _) (cNat_good _)))))))))))
  | arv a0 a1 a2 => exact tagged_good rfl (branch_good rfl rfl (pair_good (cNat_good _) (pair_good (cBool_good _) (cBits_good _))))
  | mark a0 a1 a2 => exact tagged_good rfl (branch_good rfl rfl (pair_good (cBool_good _) (pair_good (cNat_good _) (cNat_good _))))
theorem cTask_good (x : Task) : cTask.Good x :=
  iso_good rfl (pair_good (cList_good (fun _ => (cBits_good _)) _) (pair_good (cBits_good _) (pair_good (cList_good (fun _ => (pair_good (cNat_good
    _) (cVec_good (fun _ => (cBits_good _)) _))) _) (pair_good (cList_good (fun _ => (cCarrelEnt_good _)) _) (pair_good (cList_good (fun _ =>
    (pair_good (cPlace_good _) (cNat_good _))) _) (cBool_good _))))))
theorem cRemoteLoad_good (x : RemoteLoad) : cRemoteLoad.Good x :=
  iso_good rfl (pair_good (cNat_good _) (pair_good (cNat_good _) (pair_good (cNat_good _) (pair_good (cBits_good _) (pair_good (cNat_good _)
    (pair_good (cBool_good _) (pair_good (cBool_good _) (pair_good (cOption_good (fun _ => (cBits_good _)) _) (pair_good (cOption_good (fun _ =>
    (cBits_good _)) _) (pair_good (cNat_good _) (pair_good (cNat_good _) (pair_good (cFin3_good _) (pair_good (cList_good (fun _ =>
    (cCarrelEnt_good _)) _) (cOption_good (fun _ => (cScope_good _)) _))))))))))))))
/-- A post is one that a warp can wait with (R251). -/
def Instr.posted (i : Instr) : Prop :=
  (∃ h a b lr f z, i = .mmt h a b lr f z) ∨ (∃ h a b lr z, i = .mmtSolo h a b lr z) ∨ i = .tskip
/-- The same of a wait. -/
def Wait.posted (w : Wait) : Prop := ∀ i, w = .twin i ∨ w = .entry i → Instr.posted i
theorem cTwin_good (x : Instr) (h : Instr.posted x) : cTwin.Good x := by
  obtain ⟨_, _, _, _, _, _, rfl⟩ | ⟨_, _, _, _, _, rfl⟩ | rfl := h
  · exact tagged_good rfl (branch_good rfl rfl (pair_good (cBits_good _) (pair_good (cBits_good _) (pair_good (cBits_good _) (pair_good (cBool_good
    _) (pair_good (cBool_good _) (cBool_good _)))))))
  · exact tagged_good rfl (branch_good rfl rfl (pair_good (cBits_good _) (pair_good (cBits_good _) (pair_good (cBits_good _) (pair_good (cBool_good
    _) (cBool_good _))))))
  · exact tagged_good rfl (unit_good _)
theorem cWait_good (x : Wait) (h : x.posted) : cWait.Good x := by
  cases x with
  | none => exact tagged_good rfl (unit_good _)
  | barrier a0 a1 => exact tagged_good rfl (branch_good rfl rfl (pair_good (cBits_good _) (cBits_good _)))
  | take a0 a1 a2 => exact tagged_good rfl (branch_good rfl rfl (pair_good (cBool_good _) (pair_good (cBits_good _) (cBits_good _))))
  | remote a0 => exact tagged_good rfl (branch_good rfl rfl (cList_good (fun _ => (pair_good (cNat_good _) (cNat_good _))) _))
  | values a0 => exact tagged_good rfl (branch_good rfl rfl (cList_good (fun _ => (pair_good (cNat_good _) (cNat_good _))) _))
  | fetch => exact tagged_good rfl (unit_good _)
  | twin a0 => exact tagged_good rfl (branch_good rfl rfl (cTwin_good _ (h _ (.inl rfl))))
  | entry a0 => exact tagged_good rfl (branch_good rfl rfl (cTwin_good _ (h _ (.inr rfl))))
  | engine a0 a1 a2 a3 => exact tagged_good rfl (branch_good rfl rfl (pair_good (cNat_good _) (pair_good (cNat_good _) (pair_good (cBits_good _)
    (cBits_good _)))))
  | link a0 a1 => exact tagged_good rfl (branch_good rfl rfl (pair_good (cBits_good _) (cNat_good _)))
  | commit => exact tagged_good rfl (unit_good _)
  | order => exact tagged_good rfl (unit_good _)
  | regroup a0 a1 => exact tagged_good rfl (branch_good rfl rfl (pair_good (cNat_good _) (cBits_good _)))
  | xlate a0 => exact tagged_good rfl (branch_good rfl rfl (cBits_good _))
  | regfile a0 => exact tagged_good rfl (branch_good rfl rfl (cList_good (fun _ => (cNat_good _)) _))
  | joined => exact tagged_good rfl (unit_good _)
  | firmware => exact tagged_good rfl (unit_good _)
  | config a0 a1 a2 => exact tagged_good rfl (branch_good rfl rfl (pair_good (cConfigWait_good _) (pair_good (cNat_good _) (cBits_good _))))
theorem cArm_good (x : Arm) (h : x.wait.posted) : cArm.Good x :=
  iso_good rfl (pair_good (cBits_good _) (pair_good (cBits_good _) (pair_good (cVec_good (fun _ => (cBits_good _)) _) (pair_good (cVec_good (fun _
    => (cBits_good _)) _) (pair_good (cBits_good _) (pair_good (cOption_good (fun _ => (cBlock_good _)) _) (pair_good (cBits_good _) (pair_good
    (cBool_good _) (pair_good (cList_good (fun _ => (cStackEnt_good _)) _) (pair_good (cWait_good _ h) (cOption_good (fun _ => (cCause_good _))
    _)))))))))))
theorem cFork_good (x : Fork) (h : x.other.wait.posted) : cFork.Good x :=
  iso_good rfl (pair_good (cBits_good _) (pair_good (cBits_good _) (pair_good (cNat_good _) (pair_good (cFin3_good _) (pair_good (cBits_good _)
    (pair_good (cBits_good _) (pair_good (cNat_good _) (pair_good (cArm_good _ h) (pair_good (cBool_good _) (cOption_good (fun _ => (cNat_good _))
    _))))))))))
theorem cWarp_good (x : Warp) (h : x.wait.posted) (hf : ∀ f, x.fork = some f → f.other.wait.posted) : cWarp.Good x :=
  iso_good rfl (pair_good (cNat_good _) (pair_good (cBool_good _) (pair_good (cIdent_good _) (pair_good (cBits_good _) (pair_good (cNat_good _)
    (pair_good (cBits_good _) (pair_good (cBits_good _) (pair_good (cBool_good _) (pair_good (cBool_good _) (pair_good (cBits_good _) (pair_good
    (cBits_good _) (pair_good (cVec_good (fun _ => (cBits_good _)) _) (pair_good (cVec_good (fun _ => (cVec_good (fun _ => (cBits_good _)) _)) _)
    (pair_good (cBits_good _) (pair_good (cVec_good (fun _ => (cVec_good (fun _ => (cBits_good _)) _)) _) (pair_good (cVec_good (fun _ =>
    (cBits_good _)) _) (pair_good (cBits_good _) (pair_good (cVec_good (fun _ => (cBits_good _)) _) (pair_good (cVec_good (fun _ => (cBits_good _))
    _) (pair_good (cOption_good (fun _ => (cBlock_good _)) _) (pair_good (cList_good (fun _ => (cStackEnt_good _)) _) (pair_good (cOption_all fun f
    hx => cFork_good f (hf f hx)) (pair_good (cFin3_good _) (pair_good (cVec_good (fun _ => (cSaveRec_good _)) _) (pair_good (cVec_good (fun _ =>
    (cTrapBank_good _)) _) (pair_good (cBits_good _) (pair_good (cBool_good _) (pair_good (cBits_good _) (pair_good (cBits_good _) (pair_good
    (cBits_good _) (pair_good (cBits_good _) (pair_good (cVec_good (fun _ => (cOption_good (fun _ => (cHandle_good _)) _)) _) (pair_good
    (cBits_good _) (pair_good (cWait_good _ h) (pair_good (cOption_good (fun _ => (cCause_good _)) _) (pair_good (cBits_good _) (pair_good
    (cList_good (fun _ => (cRemoteLoad_good _)) _) (pair_good (cList_good (fun _ => (pair_good (cNat_good _) (cList_good (fun _ => (cBits_good _))
    _))) _) (pair_good (cOption_good (fun _ => (cList_good (fun _ => (cBits_good _)) _)) _) (pair_good (cList_good (fun _ => (cCarrelEnt_good _))
    _) (pair_good (cNat_good _) (pair_good (cBool_good _) (pair_good (cNat_good _) (pair_good (cNat_good _) (pair_good (cOption_good (fun _ =>
    (cTask_good _)) _) (pair_good (cList_good (fun _ => (cNat_good _)) _) (cBool_good _)))))))))))))))))))))))))))))))))))))))))))))))
theorem cCoreId_good (x : CoreId) : cCoreId.Good x := iso_good rfl (pair_good (cNat_good _) (pair_good (cNat_good _) (cNat_good _)))
theorem cDesc_good (x : Desc) : cDesc.Good x :=
  iso_good rfl (pair_good (cBits_good _) (pair_good (cBits_good _) (pair_good (cBits_good _) (pair_good (cBits_good _) (pair_good (cNat_good _)
    (pair_good (cNat_good _) (pair_good (cNat_good _) (pair_good (cNat_good _) (pair_good (cBool_good _) (pair_good (cBool_good _) (pair_good
    (cBool_good _) (pair_good (cBool_good _) (pair_good (cBool_good _) (pair_good (cBool_good _) (pair_good (cBits_good _) (pair_good (cNat_good _)
    (pair_good (cNat_good _) (pair_good (cBits_good _) (pair_good (cBits_good _) (pair_good (cNat_good _) (pair_good (cNat_good _) (pair_good
    (cNat_good _) (pair_good (cOption_good (fun _ => (cNat_good _)) _) (cNat_good _))))))))))))))))))))))))
theorem cGrid_good (x : Grid) : cGrid.Good x :=
  iso_good rfl (pair_good (cNat_good _) (pair_good (cNat_good _) (pair_good (cNat_good _) (pair_good (cNat_good _) (pair_good (cNat_good _)
    (pair_good (cDesc_good _) (pair_good (cList_good (fun _ => (cBits_good _)) _) (pair_good (cBool_good _) (cNat_good _)))))))))
theorem cCrew_good (x : Crew) (hw : x.bufW.wf = true) (ha : x.bufA.wf = true) (hc : x.bufC.wf = true) : cCrew.Good x :=
  iso_good rfl (pair_good (cNat_good _) (pair_good (cNat_good _) (pair_good (cNat_good _) (pair_good (cCrewState_good _) (pair_good (cOption_good
    (fun _ => (cCoreId_good _)) _) (pair_good (cList_good (fun _ => (cBits_good _)) _) (pair_good (cMem_good _ hw) (pair_good (cMem_good _ ha)
    (cMem_good _ hc)))))))))
theorem cTeam_good (x : Team) : cTeam.Good x :=
  iso_good rfl (pair_good (cNat_good _) (pair_good (cNat_good _) (pair_good (cOption_good (fun _ => (cNat_good _)) _) (pair_good (cOption_good (fun
    _ => (cNat_good _)) _) (pair_good (cVec_good (fun _ => (cNat_good _)) _) (pair_good (cVec_good (fun _ => (cNat_good _)) _) (cVec_good (fun _ =>
    (cNat_good _)) _)))))))
theorem cOpnd_good (x : Opnd) : cOpnd.Good x :=
  iso_good rfl (pair_good (cNat_good _) (pair_good (cNat_good _) (pair_good (cNat_good _) (pair_good (cNat_good _) (pair_good (cNat_good _)
    (pair_good (cNat_good _) (pair_good (cNat_good _) (pair_good (cNat_good _) (pair_good (cNat_good _) (cOption_good (fun _ => (cList_good (fun _
    => (cVec_good (fun _ => (cBits_good _)) _)) _)) _))))))))))
theorem cSlipOp_good (x : SlipOp) : cSlipOp.Good x := by
  cases x with
  | mul a0 a1 a2 a3 => exact tagged_good rfl (branch_good rfl rfl (pair_good (cHandle_good _) (pair_good (cOpnd_good _) (pair_good (cOpnd_good _)
    (cBool_good _)))))
  | group a0 a1 a2 a3 a4 a5 a6 => exact tagged_good rfl (branch_good rfl rfl (pair_good (cHandle_good _) (pair_good (cOpnd_good _) (pair_good
    (cOpnd_good _) (pair_good (cBool_good _) (pair_good (cNat_good _) (pair_good (cNat_good _) (cList_good (fun _ => (cNat_good _)) _))))))))
  | weight a0 a1 a2 a3 a4 => exact tagged_good rfl (branch_good rfl rfl (pair_good (cHandle_good _) (pair_good (cOpnd_good _) (pair_good
    (cBool_good _) (pair_good (cNat_good _) (cNat_good _))))))
  | pair a0 a1 a2 a3 a4 a5 a6 => exact tagged_good rfl (branch_good rfl rfl (pair_good (cHandle_good _) (pair_good (cHandle_good _) (pair_good
    (cOpnd_good _) (pair_good (cOpnd_good _) (pair_good (cOpnd_good _) (pair_good (cBool_good _) (cBool_good _))))))))
  | zero a0 => exact tagged_good rfl (branch_good rfl rfl (cHandle_good _))
  | load a0 a1 => exact tagged_good rfl (branch_good rfl rfl (pair_good (cHandle_good _) (cOpnd_good _)))
  | store a0 a1 => exact tagged_good rfl (branch_good rfl rfl (pair_good (cHandle_good _) (cOpnd_good _)))
  | convert a0 a1 a2 a3 => exact tagged_good rfl (branch_good rfl rfl (pair_good (cHandle_good _) (pair_good (cOpnd_good _) (pair_good (cRMode_good
    _) (cBool_good _)))))
theorem cSlip_good (x : Slip) : cSlip.Good x :=
  iso_good rfl (pair_good (cNat_good _) (pair_good (cNat_good _) (pair_good (cNat_good _) (pair_good (cNat_good _) (pair_good (cNat_good _)
    (pair_good (cNat_good _) (pair_good (cNat_good _) (pair_good (cOption_good (fun _ => (cNat_good _)) _) (pair_good (cTicket_good _) (pair_good
    (cSlipOp_good _) (pair_good (cNat_good _) (pair_good (cBool_good _) (pair_good (cNat_good _) (pair_good (cBool_good _) (pair_good (cBool_good
    _) (cBool_good _))))))))))))))))
theorem cBinding_good (x : Binding) : cBinding.Good x := by
  cases x with
  | none => exact tagged_good rfl (unit_good _)
  | handler a0 => exact tagged_good rfl (branch_good rfl rfl (cDesc_good _))
  | service => exact tagged_good rfl (unit_good _)
theorem cMbx_good (x : Mbx) : cMbx.Good x :=
  iso_good rfl (pair_good (cBinding_good _) (pair_good (cList_good (fun _ => (pair_good (cNat_good _) (cList_good (fun _ => (cBits_good _)) _))) _)
    (pair_good (cNat_good _) (pair_good (cNat_good _) (cNat_good _)))))
theorem cBar_good (x : Bar) : cBar.Good x :=
  iso_good rfl (pair_good (cBits_good _) (pair_good (cBits_good _) (pair_good (cNat_good _) (pair_good (cNat_good _) (pair_good (cNat_good _)
    (pair_good (cNat_good _) (pair_good (cBool_good _) (pair_good (cList_good (fun _ => (cNat_good _)) _) (pair_good (cList_good (fun _ =>
    (cNat_good _)) _) (cList_good (fun _ => (cNat_good _)) _))))))))))

end Sys2Proof.Machine
end

