-- ==== Sys2Proof/Laws/Mem.lean ====
section
/-! SUPPORT. Tables and memory: reading what was written, and that every memory operation keeps the canonical form. -/

namespace Sys2Proof.Machine

/-! ## Tables and vectors -/

theorem Tab.get_set {α : Type} (t : Tab α) (k j : Nat) (x d : α) : Tab.get (Tab.set t k x) j d = if j = k then x else Tab.get t j d := by
  induction t with
  | nil => simp [Tab.set, Tab.get, eq_comm]
  | cons e r ih =>
    obtain ⟨i, y⟩ := e
    by_cases h : i = k
    · subst h; simp only [Tab.set, if_pos, Tab.get, eq_comm (a := i)]; split <;> rfl
    · simp only [Tab.set, h, if_false, Tab.get, ih]
      by_cases hj : i = j
      · subst hj; simp [h]
      · simp [hj]

@[simp] theorem Tab.get_set_same {α : Type} (t : Tab α) (k : Nat) (x d : α) : Tab.get (Tab.set t k x) k d = x := by simp [Tab.get_set]

theorem Tab.get_set_other {α : Type} (t : Tab α) {k j : Nat} (x d : α) (h : j ≠ k) : Tab.get (Tab.set t k x) j d = Tab.get t j d := by
  simp [Tab.get_set, h]

theorem vget_vset {α : Type} {n : Nat} (v : Vector α n) (i j : Nat) (x d : α) : vget (vset v i x) j d = if i = j ∧ i < n then x else vget v j d := by
  simp only [vget, vset, Vector.getElem?_setIfInBounds]
  by_cases h : i = j
  · subst h; by_cases hi : i < n <;> simp [hi]
  · simp [h]

theorem getLsbD_bit {n : Nat} (i j : Nat) (hj : j < n) : (1#n <<< i).getLsbD j = decide (j = i) := by
  have hn : 0 < n := by omega
  rw [BitVec.getLsbD_shiftLeft, BitVec.getLsbD_one]
  rw [Bool.eq_iff_iff]
  simp only [Bool.and_eq_true, decide_eq_true_eq, Bool.not_eq_true', decide_eq_false_iff_not]
  omega

theorem getLsbD_setBit {n : Nat} (x : BitVec n) (i j : Nat) (b : Bool) (hj : j < n) :
    (setBit x i b).getLsbD j = if j = i then b else x.getLsbD j := by
  unfold setBit
  cases b
  · simp only [Bool.false_eq_true, if_false, BitVec.getLsbD_and, BitVec.getLsbD_not, getLsbD_bit i j hj, hj, decide_true, Bool.true_and]
    by_cases h : j = i <;> simp [h]
  · simp only [if_true, BitVec.getLsbD_or, getLsbD_bit i j hj]
    by_cases h : j = i <;> simp [h]

/-! ## Cells -/

theorem cellGet_put (l : List Host.Cell) (a x : Nat) (b : Byte) : cellGet (cellPut l a b) x = if x = a then b else cellGet l x := by
  induction l with
  | nil => simp [cellPut, cellGet, eq_comm]
  | cons e r ih =>
    obtain ⟨k, c⟩ := e
    simp only [cellPut]
    split
    · simp [cellGet, eq_comm]
    · split
      · next h => subst h; by_cases hx : a = x <;> simp [cellGet, hx, eq_comm]
      · next h =>
        simp only [cellGet, ih]
        by_cases hx : k = x
        · subst hx; simp [Ne.symm h]
        · simp [hx]

theorem cellGet_drop (l : List Host.Cell) (a x : Nat) : cellGet (l.filter fun c => c.1 != a) x = if x = a then 0 else cellGet l x := by
  induction l with
  | nil => simp [cellGet]
  | cons e r ih =>
    obtain ⟨k, c⟩ := e
    by_cases h : k = a
    · subst h; simp only [bne_self_eq_false, Bool.false_eq_true, not_false_eq_true, List.filter_cons_of_neg, ih, cellGet]
      by_cases hx : k = x <;> simp [hx, eq_comm]
    · have : (k != a) = true := by simp [h]
      simp only [List.filter_cons, this, if_true, cellGet, ih]
      by_cases hx : k = x
      · subst hx; simp [h]
      · simp [hx]

/-- A byte reads as it was last written. -/
theorem cellGet_set (l : List Host.Cell) (a x : Nat) (b : Byte) : cellGet (cellSet l a b) x = if x = a then b else cellGet l x := by
  unfold cellSet
  split
  · next h => subst h; exact cellGet_drop l a x
  · exact cellGet_put l a x b

theorem cellsFrom_low {lo lo' : Nat} (l : List Host.Cell) (h : cellsFrom lo l = true) (hl : lo' ≤ lo) : cellsFrom lo' l = true := by
  cases l with
  | nil => rfl
  | cons e r => simp only [cellsFrom, Bool.and_eq_true, decide_eq_true_eq] at h ⊢; exact ⟨⟨by omega, h.1.2⟩, h.2⟩

theorem cellsFrom_filter (p : Host.Cell → Bool) (l : List Host.Cell) : ∀ lo, cellsFrom lo l = true → cellsFrom lo (l.filter p) = true := by
  induction l with
  | nil => intro _ _; rfl
  | cons e r ih =>
    intro lo h
    simp only [cellsFrom, Bool.and_eq_true, decide_eq_true_eq] at h
    have := ih _ h.2
    simp only [List.filter_cons]
    split
    · simp only [cellsFrom, Bool.and_eq_true, decide_eq_true_eq]; exact ⟨h.1, this⟩
    · exact cellsFrom_low _ this (by omega)

theorem cellsFrom_put (a : Nat) (b : Byte) (hb : b ≠ 0) (l : List Host.Cell) :
    ∀ lo, lo ≤ a → cellsFrom lo l = true → cellsFrom lo (cellPut l a b) = true := by
  induction l with
  | nil => intro lo h _; simp only [cellPut, cellsFrom, Bool.and_eq_true, decide_eq_true_eq, bne_iff_ne]; exact ⟨⟨h, hb⟩, trivial⟩
  | cons e r ih =>
    intro lo ha h
    simp only [cellsFrom, Bool.and_eq_true, decide_eq_true_eq, bne_iff_ne] at h
    simp only [cellPut]
    split
    · next hk => simp only [cellsFrom, Bool.and_eq_true, decide_eq_true_eq, bne_iff_ne]; exact ⟨⟨ha, hb⟩, ⟨by omega, h.1.2⟩, h.2⟩
    · split
      · next hk => subst hk; simp only [cellsFrom, Bool.and_eq_true, decide_eq_true_eq, bne_iff_ne]; exact ⟨⟨ha, hb⟩, h.2⟩
      · simp only [cellsFrom, Bool.and_eq_true, decide_eq_true_eq, bne_iff_ne]; exact ⟨h.1, ih _ (by omega) h.2⟩

theorem cellsFrom_set (a : Nat) (b : Byte) (l : List Host.Cell) (h : cellsFrom 0 l = true) : cellsFrom 0 (cellSet l a b) = true := by
  unfold cellSet
  split
  · exact cellsFrom_filter _ l 0 h
  · next hb => exact cellsFrom_put a b hb l 0 (Nat.zero_le _) h

theorem numsFrom_low {lo lo' : Nat} (l : List Nat) (h : numsFrom lo l = true) (hl : lo' ≤ lo) : numsFrom lo' l = true := by
  cases l with
  | nil => rfl
  | cons e r => simp only [numsFrom, Bool.and_eq_true, decide_eq_true_eq] at h ⊢; exact ⟨by omega, h.2⟩

theorem numsFrom_filter (p : Nat → Bool) (l : List Nat) : ∀ lo, numsFrom lo l = true → numsFrom lo (l.filter p) = true := by
  induction l with
  | nil => intro _ _; rfl
  | cons e r ih =>
    intro lo h
    simp only [numsFrom, Bool.and_eq_true, decide_eq_true_eq] at h
    have := ih _ h.2
    simp only [List.filter_cons]
    split
    · simp only [numsFrom, Bool.and_eq_true, decide_eq_true_eq]; exact ⟨h.1, this⟩
    · exact numsFrom_low _ this (by omega)

theorem numsFrom_add (a : Nat) (l : List Nat) : ∀ lo, lo ≤ a → numsFrom lo l = true → numsFrom lo (numAdd l a) = true := by
  induction l with
  | nil => intro lo h _; simp [numAdd, numsFrom, h]
  | cons e r ih =>
    intro lo ha h
    simp only [numsFrom, Bool.and_eq_true, decide_eq_true_eq] at h
    simp only [numAdd]
    split
    · next hk => simp only [numsFrom, Bool.and_eq_true, decide_eq_true_eq]; exact ⟨ha, by omega, h.2⟩
    · split
      · simp only [numsFrom, Bool.and_eq_true, decide_eq_true_eq]; exact h
      · simp only [numsFrom, Bool.and_eq_true, decide_eq_true_eq]; exact ⟨h.1, ih _ (by omega) h.2⟩

theorem mem_numAdd (l : List Nat) (a x : Nat) : x ∈ numAdd l a ↔ x = a ∨ x ∈ l := by
  induction l with
  | nil => simp [numAdd]
  | cons e r ih =>
    simp only [numAdd]
    split
    · simp
    · split
      · next h => subst h; simp
      · simp only [List.mem_cons, ih]; tauto

/-! ## The canonical form of a memory -/

theorem Mem.wf_iff (m : Mem) : m.wf = true ↔ cellsFrom 0 m.cells = true ∧ numsFrom 0 m.poison = true := by simp [Mem.wf]

theorem Mem.wf_empty : Mem.empty.wf = true := rfl

theorem Mem.wf_setByte {m : Mem} (h : m.wf = true) (a : Nat) (b : Byte) : (m.setByte a b).wf = true := by
  rw [Mem.wf_iff] at h ⊢; exact ⟨cellsFrom_set a b _ h.1, h.2⟩

theorem Mem.wf_write (bs : List Byte) : ∀ {m : Mem} (_ : m.wf = true) (a : Nat), (m.write a bs).wf = true := by
  induction bs with
  | nil => intro m h _; exact h
  | cons b r ih => intro m h a; exact ih (Mem.wf_setByte h a b) (a + 1)

theorem numsFrom_fold (f : Nat → Nat) (is : List Nat) : ∀ l, numsFrom 0 l = true → numsFrom 0 (is.foldl (fun l i => numAdd l (f i)) l) = true := by
  induction is with
  | nil => intro l h; exact h
  | cons i r ih => intro l h; exact ih _ (numsFrom_add _ l 0 (Nat.zero_le _) h)

theorem Mem.wf_taint {m : Mem} (h : m.wf = true) (a n : Nat) : (m.taint a n).wf = true := by
  rw [Mem.wf_iff] at h ⊢; exact ⟨h.1, numsFrom_fold _ _ _ h.2⟩

theorem Mem.wf_cleanse {m : Mem} (h : m.wf = true) (a n : Nat) : (m.cleanse a n).wf = true := by
  rw [Mem.wf_iff] at h ⊢; exact ⟨h.1, numsFrom_filter _ _ _ h.2⟩

theorem Mem.wf_erase {m : Mem} (h : m.wf = true) (lo hi : Nat) : (m.erase lo hi).wf = true := by
  rw [Mem.wf_iff] at h ⊢; exact ⟨cellsFrom_filter _ _ _ h.1, numsFrom_filter _ _ _ h.2⟩

/-! ## Reading what was written -/

theorem Mem.byte_setByte (m : Mem) (a x : Nat) (b : Byte) : (m.setByte a b).byte x = if x = a then b else m.byte x := cellGet_set m.cells a x b

@[simp] theorem Mem.poison_setByte (m : Mem) (a : Nat) (b : Byte) : (m.setByte a b).poison = m.poison := rfl

/-- The byte at an address after a write: the one written there, or the one before. -/
theorem Mem.byte_write (bs : List Byte) : ∀ (m : Mem) (a x : Nat), (m.write a bs).byte x = if a ≤ x ∧ x < a + bs.length then bs.getD (x - a) 0 else m.byte x := by
  induction bs with
  | nil => intro m a x; simp [Mem.write]
  | cons b r ih =>
    intro m a x
    simp only [Mem.write, ih, Mem.byte_setByte, List.length_cons]
    by_cases h : x = a
    · subst h; simp
    · by_cases h' : a + 1 ≤ x ∧ x < a + 1 + r.length
      · rw [if_pos h', if_pos (by omega)]
        have : x - a = (x - (a + 1)) + 1 := by omega
        rw [this]; rfl
      · rw [if_neg h', if_neg h, if_neg (by omega)]

@[simp] theorem Mem.poison_write (bs : List Byte) : ∀ (m : Mem) (a : Nat), (m.write a bs).poison = m.poison := by
  induction bs with
  | nil => intro m a; rfl
  | cons b r ih => intro m a; exact ih _ _

@[simp] theorem Mem.read_length (m : Mem) (n : Nat) : ∀ a, (m.read a n).length = n := by
  induction n with
  | zero => intro a; rfl
  | succ n ih => intro a; simp [Mem.read, ih]

theorem Mem.read_getD (m : Mem) (n : Nat) : ∀ a i, i < n → (m.read a n).getD i 0 = m.byte (a + i) := by
  induction n with
  | zero => intro a i h; omega
  | succ n ih =>
    intro a i h
    cases i with
    | zero => rfl
    | succ i => have := ih (a + 1) i (by omega); simp only [Mem.read, List.getD_cons_succ, this]; congr 1; omega

/-- A read of the bytes that were written answers them. -/
theorem Mem.read_write (m : Mem) (a : Nat) (bs : List Byte) : (m.write a bs).read a bs.length = bs := by
  apply List.ext_getElem (by simp)
  intro i h1 h2
  have h := Mem.read_getD (m.write a bs) bs.length a i h2
  rw [Mem.byte_write, if_pos (by omega)] at h
  simpa [List.getD_eq_getElem?_getD, h2] using h

@[simp] theorem Mem.byte_taint (m : Mem) (a n x : Nat) : (m.taint a n).byte x = m.byte x := rfl
@[simp] theorem Mem.byte_cleanse (m : Mem) (a n x : Nat) : (m.cleanse a n).byte x = m.byte x := rfl

/-! ## Device memory under its keys (R330) -/

theorem State.rekey_cases (s : State) (line : Nat) :
    s.rekey line = s ∨ ∃ bs t, s.rekey line = { s with dev := s.dev.write (128 * line) bs, tags := t :: s.tags } := by
  unfold State.rekey; split; · exact .inl rfl
  · exact .inr ⟨_, _, rfl⟩

/-- A write of device memory changes its cells and the keys of its lines, keeps the canonical form and leaves the poison. -/
theorem State.devSetByte_cases (s : State) (a : Nat) (b : Byte) :
    ∃ d t, s.devSetByte a b = { s with dev := d, tags := t } ∧ (s.dev.wf = true → d.wf = true) ∧ d.poison = s.dev.poison := by
  unfold State.devSetByte
  rcases s.rekey_cases (a / 128) with h | ⟨bs, t, h⟩ <;> rw [h]
  · exact ⟨_, _, rfl, fun w => Mem.wf_setByte w _ _, rfl⟩
  · exact ⟨_, _, rfl, fun w => Mem.wf_setByte (Mem.wf_write _ w _) _ _, by simp⟩

theorem State.devWrite_cases (bs : List Byte) : ∀ (s : State) (a : Nat),
    ∃ d t, s.devWrite a bs = { s with dev := d, tags := t } ∧ (s.dev.wf = true → d.wf = true) ∧ d.poison = s.dev.poison := by
  induction bs with
  | nil => intro s a; exact ⟨s.dev, s.tags, rfl, id, rfl⟩
  | cons b r ih =>
    intro s a
    obtain ⟨d, t, h, hw, hp⟩ := s.devSetByte_cases a b
    obtain ⟨d', t', h', hw', hp'⟩ := ih (s.devSetByte a b) (a + 1)
    refine ⟨d', t', ?_, ?_, ?_⟩
    · rw [State.devWrite, h', h]
    · intro w; apply hw'; rw [h]; exact hw w
    · rw [hp', h]; exact hp

/-- What a write at a physical place changes: device memory and the keys of its lines, or host memory, each in canonical form. -/
theorem State.placeWrite_cases (s : State) (p : Place) (a : Nat) (bs : List Byte) :
    ∃ d t h, s.placeWrite p a bs = { s with dev := d, tags := t, hostMem := h } ∧ (s.dev.wf = true → d.wf = true) ∧
      (s.hostMem.wf = true → h.wf = true) := by
  cases p with
  | device => obtain ⟨d, t, h, hw, -⟩ := State.devWrite_cases bs s a; exact ⟨d, t, s.hostMem, h, hw, id⟩
  | host => exact ⟨s.dev, s.tags, _, rfl, id, fun w => Mem.wf_write bs w a⟩
  | remote => exact ⟨s.dev, s.tags, s.hostMem, rfl, id, id⟩

theorem State.placeTaint_cases (s : State) (p : Place) (a n : Nat) :
    ∃ d h, s.placeTaint p a n = { s with dev := d, hostMem := h } ∧ (s.dev.wf = true → d.wf = true) ∧ (s.hostMem.wf = true → h.wf = true) := by
  cases p with
  | device => exact ⟨_, _, rfl, fun w => Mem.wf_taint w a n, id⟩
  | host => exact ⟨_, _, rfl, id, fun w => Mem.wf_taint w a n⟩
  | remote => exact ⟨_, _, rfl, id, id⟩

theorem State.placeCleanse_cases (s : State) (p : Place) (a n : Nat) :
    ∃ d h, s.placeCleanse p a n = { s with dev := d, hostMem := h } ∧ (s.dev.wf = true → d.wf = true) ∧ (s.hostMem.wf = true → h.wf = true) := by
  cases p with
  | device => exact ⟨_, _, rfl, fun w => Mem.wf_cleanse w a n, id⟩
  | host => exact ⟨_, _, rfl, id, fun w => Mem.wf_cleanse w a n⟩
  | remote => exact ⟨_, _, rfl, id, id⟩

/-! ## Reset -/

/-- Every memory of the module at reset is in canonical form. -/
theorem State.reset_wf : State.reset.dev.wf = true ∧ State.reset.hostMem.wf = true ∧ State.reset.bankMem.wf = true := ⟨rfl, rfl, rfl⟩

end Sys2Proof.Machine
end

