-- ==== Sys2Proof/Laws/State.lean ====
section
/-! SUPPORT. What each update of the state and of a warp leaves in each field: one lemma a field. -/

namespace Sys2Proof.Machine

/-! ## `State.upd` -/

section
variable (s : State) (f : Warp → Warp)
@[simp] theorem State.upd_warp : (s.upd f).warp = f s.warp := rfl
@[simp] theorem State.upd_others : (s.upd f).others = s.others := rfl
@[simp] theorem State.upd_shadows : (s.upd f).shadows = s.shadows := rfl
@[simp] theorem State.upd_agenda : (s.upd f).agenda = s.agenda := rfl
@[simp] theorem State.upd_fresh : (s.upd f).fresh = s.fresh := rfl
@[simp] theorem State.upd_nextId : (s.upd f).nextId = s.nextId := rfl
@[simp] theorem State.upd_arrivals : (s.upd f).arrivals = s.arrivals := rfl
@[simp] theorem State.upd_up : (s.upd f).up = s.up := rfl
@[simp] theorem State.upd_dev : (s.upd f).dev = s.dev := rfl
@[simp] theorem State.upd_hostMem : (s.upd f).hostMem = s.hostMem := rfl
@[simp] theorem State.upd_hostErrs : (s.upd f).hostErrs = s.hostErrs := rfl
@[simp] theorem State.upd_bankMem : (s.upd f).bankMem = s.bankMem := rfl
@[simp] theorem State.upd_owners : (s.upd f).owners = s.owners := rfl
@[simp] theorem State.upd_tags : (s.upd f).tags = s.tags := rfl
@[simp] theorem State.upd_epochs : (s.upd f).epochs = s.epochs := rfl
@[simp] theorem State.upd_scores : (s.upd f).scores = s.scores := rfl
@[simp] theorem State.upd_dirtyScores : (s.upd f).dirtyScores = s.dirtyScores := rfl
@[simp] theorem State.upd_cdc : (s.upd f).cdc = s.cdc := rfl
@[simp] theorem State.upd_fills : (s.upd f).fills = s.fills := rfl
@[simp] theorem State.upd_parts : (s.upd f).parts = s.parts := rfl
@[simp] theorem State.upd_grids : (s.upd f).grids = s.grids := rfl
@[simp] theorem State.upd_teams : (s.upd f).teams = s.teams := rfl
@[simp] theorem State.upd_crews : (s.upd f).crews = s.crews := rfl
@[simp] theorem State.upd_slips : (s.upd f).slips = s.slips := rfl
@[simp] theorem State.upd_slipOrder : (s.upd f).slipOrder = s.slipOrder := rfl
@[simp] theorem State.upd_transfers : (s.upd f).transfers = s.transfers := rfl
@[simp] theorem State.upd_ops : (s.upd f).ops = s.ops := rfl
@[simp] theorem State.upd_moves : (s.upd f).moves = s.moves := rfl
@[simp] theorem State.upd_migCounts : (s.upd f).migCounts = s.migCounts := rfl
@[simp] theorem State.upd_migDies : (s.upd f).migDies = s.migDies := rfl
@[simp] theorem State.upd_vfs : (s.upd f).vfs = s.vfs := rfl
@[simp] theorem State.upd_coreTime : (s.upd f).coreTime = s.coreTime := rfl
@[simp] theorem State.upd_laneMaps : (s.upd f).laneMaps = s.laneMaps := rfl
@[simp] theorem State.upd_slices : (s.upd f).slices = s.slices := rfl
@[simp] theorem State.upd_portMap : (s.upd f).portMap = s.portMap := rfl
@[simp] theorem State.upd_dies : (s.upd f).dies = s.dies := rfl
@[simp] theorem State.upd_wdies : (s.upd f).wdies = s.wdies := rfl
@[simp] theorem State.upd_dieLinks : (s.upd f).dieLinks = s.dieLinks := rfl
@[simp] theorem State.upd_lostLinks : (s.upd f).lostLinks = s.lostLinks := rfl
@[simp] theorem State.upd_channels : (s.upd f).channels = s.channels := rfl
@[simp] theorem State.upd_rowsLeft : (s.upd f).rowsLeft = s.rowsLeft := rfl
@[simp] theorem State.upd_softRepairs : (s.upd f).softRepairs = s.softRepairs := rfl
@[simp] theorem State.upd_events : (s.upd f).events = s.events := rfl
@[simp] theorem State.upd_stopBuf : (s.upd f).stopBuf = s.stopBuf := rfl
@[simp] theorem State.upd_moduleStop : (s.upd f).moduleStop = s.moduleStop := rfl
@[simp] theorem State.upd_sensors : (s.upd f).sensors = s.sensors := rfl
@[simp] theorem State.upd_limits : (s.upd f).limits = s.limits := rfl
@[simp] theorem State.upd_security : (s.upd f).security = s.security := rfl
@[simp] theorem State.upd_fabric : (s.upd f).fabric = s.fabric := rfl
@[simp] theorem State.upd_hostWidth : (s.upd f).hostWidth = s.hostWidth := rfl
@[simp] theorem State.upd_mgmtConfig : (s.upd f).mgmtConfig = s.mgmtConfig := rfl
@[simp] theorem State.upd_mgmtClusters : (s.upd f).mgmtClusters = s.mgmtClusters := rfl
@[simp] theorem State.upd_frame : (s.upd f).frame = s.frame := rfl
@[simp] theorem State.upd_pairs : (s.upd f).pairs = s.pairs := rfl
@[simp] theorem State.upd_lvq : (s.upd f).lvq = s.lvq := rfl
@[simp] theorem State.upd_items : (s.upd f).items = s.items := rfl
@[simp] theorem State.upd_stores : (s.upd f).stores = s.stores := rfl
@[simp] theorem State.upd_shadowRun : (s.upd f).shadowRun = s.shadowRun := rfl
@[simp] theorem State.upd_shadowAlone : (s.upd f).shadowAlone = s.shadowAlone := rfl
end

/-! ## `State.adv` -/

section
variable (s : State) (n : Nat)
@[simp] theorem State.adv_warp : (s.adv n).warp = { s.warp with pc := s.warp.pc + BitVec.ofNat 64 n } := rfl
@[simp] theorem State.adv_others : (s.adv n).others = s.others := rfl
@[simp] theorem State.adv_shadows : (s.adv n).shadows = s.shadows := rfl
@[simp] theorem State.adv_agenda : (s.adv n).agenda = s.agenda := rfl
@[simp] theorem State.adv_fresh : (s.adv n).fresh = s.fresh := rfl
@[simp] theorem State.adv_nextId : (s.adv n).nextId = s.nextId := rfl
@[simp] theorem State.adv_arrivals : (s.adv n).arrivals = s.arrivals := rfl
@[simp] theorem State.adv_up : (s.adv n).up = s.up := rfl
@[simp] theorem State.adv_dev : (s.adv n).dev = s.dev := rfl
@[simp] theorem State.adv_hostMem : (s.adv n).hostMem = s.hostMem := rfl
@[simp] theorem State.adv_hostErrs : (s.adv n).hostErrs = s.hostErrs := rfl
@[simp] theorem State.adv_bankMem : (s.adv n).bankMem = s.bankMem := rfl
@[simp] theorem State.adv_owners : (s.adv n).owners = s.owners := rfl
@[simp] theorem State.adv_tags : (s.adv n).tags = s.tags := rfl
@[simp] theorem State.adv_epochs : (s.adv n).epochs = s.epochs := rfl
@[simp] theorem State.adv_scores : (s.adv n).scores = s.scores := rfl
@[simp] theorem State.adv_dirtyScores : (s.adv n).dirtyScores = s.dirtyScores := rfl
@[simp] theorem State.adv_cdc : (s.adv n).cdc = s.cdc := rfl
@[simp] theorem State.adv_fills : (s.adv n).fills = s.fills := rfl
@[simp] theorem State.adv_parts : (s.adv n).parts = s.parts := rfl
@[simp] theorem State.adv_grids : (s.adv n).grids = s.grids := rfl
@[simp] theorem State.adv_teams : (s.adv n).teams = s.teams := rfl
@[simp] theorem State.adv_crews : (s.adv n).crews = s.crews := rfl
@[simp] theorem State.adv_slips : (s.adv n).slips = s.slips := rfl
@[simp] theorem State.adv_slipOrder : (s.adv n).slipOrder = s.slipOrder := rfl
@[simp] theorem State.adv_transfers : (s.adv n).transfers = s.transfers := rfl
@[simp] theorem State.adv_ops : (s.adv n).ops = s.ops := rfl
@[simp] theorem State.adv_moves : (s.adv n).moves = s.moves := rfl
@[simp] theorem State.adv_migCounts : (s.adv n).migCounts = s.migCounts := rfl
@[simp] theorem State.adv_migDies : (s.adv n).migDies = s.migDies := rfl
@[simp] theorem State.adv_vfs : (s.adv n).vfs = s.vfs := rfl
@[simp] theorem State.adv_coreTime : (s.adv n).coreTime = s.coreTime := rfl
@[simp] theorem State.adv_laneMaps : (s.adv n).laneMaps = s.laneMaps := rfl
@[simp] theorem State.adv_slices : (s.adv n).slices = s.slices := rfl
@[simp] theorem State.adv_portMap : (s.adv n).portMap = s.portMap := rfl
@[simp] theorem State.adv_dies : (s.adv n).dies = s.dies := rfl
@[simp] theorem State.adv_wdies : (s.adv n).wdies = s.wdies := rfl
@[simp] theorem State.adv_dieLinks : (s.adv n).dieLinks = s.dieLinks := rfl
@[simp] theorem State.adv_lostLinks : (s.adv n).lostLinks = s.lostLinks := rfl
@[simp] theorem State.adv_channels : (s.adv n).channels = s.channels := rfl
@[simp] theorem State.adv_rowsLeft : (s.adv n).rowsLeft = s.rowsLeft := rfl
@[simp] theorem State.adv_softRepairs : (s.adv n).softRepairs = s.softRepairs := rfl
@[simp] theorem State.adv_events : (s.adv n).events = s.events := rfl
@[simp] theorem State.adv_stopBuf : (s.adv n).stopBuf = s.stopBuf := rfl
@[simp] theorem State.adv_moduleStop : (s.adv n).moduleStop = s.moduleStop := rfl
@[simp] theorem State.adv_sensors : (s.adv n).sensors = s.sensors := rfl
@[simp] theorem State.adv_limits : (s.adv n).limits = s.limits := rfl
@[simp] theorem State.adv_security : (s.adv n).security = s.security := rfl
@[simp] theorem State.adv_fabric : (s.adv n).fabric = s.fabric := rfl
@[simp] theorem State.adv_hostWidth : (s.adv n).hostWidth = s.hostWidth := rfl
@[simp] theorem State.adv_mgmtConfig : (s.adv n).mgmtConfig = s.mgmtConfig := rfl
@[simp] theorem State.adv_mgmtClusters : (s.adv n).mgmtClusters = s.mgmtClusters := rfl
@[simp] theorem State.adv_frame : (s.adv n).frame = s.frame := rfl
@[simp] theorem State.adv_pairs : (s.adv n).pairs = s.pairs := rfl
@[simp] theorem State.adv_lvq : (s.adv n).lvq = s.lvq := rfl
@[simp] theorem State.adv_items : (s.adv n).items = s.items := rfl
@[simp] theorem State.adv_stores : (s.adv n).stores = s.stores := rfl
@[simp] theorem State.adv_shadowRun : (s.adv n).shadowRun = s.shadowRun := rfl
@[simp] theorem State.adv_shadowAlone : (s.adv n).shadowAlone = s.shadowAlone := rfl
end

/-! ## `State.sset` -/

section
variable (s : State) (r : SReg) (x : W64)
@[simp] theorem State.sset_warp : (s.sset r x).warp = s.warp.sset r x := rfl
@[simp] theorem State.sset_others : (s.sset r x).others = s.others := rfl
@[simp] theorem State.sset_shadows : (s.sset r x).shadows = s.shadows := rfl
@[simp] theorem State.sset_agenda : (s.sset r x).agenda = s.agenda := rfl
@[simp] theorem State.sset_fresh : (s.sset r x).fresh = s.fresh := rfl
@[simp] theorem State.sset_nextId : (s.sset r x).nextId = s.nextId := rfl
@[simp] theorem State.sset_arrivals : (s.sset r x).arrivals = s.arrivals := rfl
@[simp] theorem State.sset_up : (s.sset r x).up = s.up := rfl
@[simp] theorem State.sset_dev : (s.sset r x).dev = s.dev := rfl
@[simp] theorem State.sset_hostMem : (s.sset r x).hostMem = s.hostMem := rfl
@[simp] theorem State.sset_hostErrs : (s.sset r x).hostErrs = s.hostErrs := rfl
@[simp] theorem State.sset_bankMem : (s.sset r x).bankMem = s.bankMem := rfl
@[simp] theorem State.sset_owners : (s.sset r x).owners = s.owners := rfl
@[simp] theorem State.sset_tags : (s.sset r x).tags = s.tags := rfl
@[simp] theorem State.sset_epochs : (s.sset r x).epochs = s.epochs := rfl
@[simp] theorem State.sset_scores : (s.sset r x).scores = s.scores := rfl
@[simp] theorem State.sset_dirtyScores : (s.sset r x).dirtyScores = s.dirtyScores := rfl
@[simp] theorem State.sset_cdc : (s.sset r x).cdc = s.cdc := rfl
@[simp] theorem State.sset_fills : (s.sset r x).fills = s.fills := rfl
@[simp] theorem State.sset_parts : (s.sset r x).parts = s.parts := rfl
@[simp] theorem State.sset_grids : (s.sset r x).grids = s.grids := rfl
@[simp] theorem State.sset_teams : (s.sset r x).teams = s.teams := rfl
@[simp] theorem State.sset_crews : (s.sset r x).crews = s.crews := rfl
@[simp] theorem State.sset_slips : (s.sset r x).slips = s.slips := rfl
@[simp] theorem State.sset_slipOrder : (s.sset r x).slipOrder = s.slipOrder := rfl
@[simp] theorem State.sset_transfers : (s.sset r x).transfers = s.transfers := rfl
@[simp] theorem State.sset_ops : (s.sset r x).ops = s.ops := rfl
@[simp] theorem State.sset_moves : (s.sset r x).moves = s.moves := rfl
@[simp] theorem State.sset_migCounts : (s.sset r x).migCounts = s.migCounts := rfl
@[simp] theorem State.sset_migDies : (s.sset r x).migDies = s.migDies := rfl
@[simp] theorem State.sset_vfs : (s.sset r x).vfs = s.vfs := rfl
@[simp] theorem State.sset_coreTime : (s.sset r x).coreTime = s.coreTime := rfl
@[simp] theorem State.sset_laneMaps : (s.sset r x).laneMaps = s.laneMaps := rfl
@[simp] theorem State.sset_slices : (s.sset r x).slices = s.slices := rfl
@[simp] theorem State.sset_portMap : (s.sset r x).portMap = s.portMap := rfl
@[simp] theorem State.sset_dies : (s.sset r x).dies = s.dies := rfl
@[simp] theorem State.sset_wdies : (s.sset r x).wdies = s.wdies := rfl
@[simp] theorem State.sset_dieLinks : (s.sset r x).dieLinks = s.dieLinks := rfl
@[simp] theorem State.sset_lostLinks : (s.sset r x).lostLinks = s.lostLinks := rfl
@[simp] theorem State.sset_channels : (s.sset r x).channels = s.channels := rfl
@[simp] theorem State.sset_rowsLeft : (s.sset r x).rowsLeft = s.rowsLeft := rfl
@[simp] theorem State.sset_softRepairs : (s.sset r x).softRepairs = s.softRepairs := rfl
@[simp] theorem State.sset_events : (s.sset r x).events = s.events := rfl
@[simp] theorem State.sset_stopBuf : (s.sset r x).stopBuf = s.stopBuf := rfl
@[simp] theorem State.sset_moduleStop : (s.sset r x).moduleStop = s.moduleStop := rfl
@[simp] theorem State.sset_sensors : (s.sset r x).sensors = s.sensors := rfl
@[simp] theorem State.sset_limits : (s.sset r x).limits = s.limits := rfl
@[simp] theorem State.sset_security : (s.sset r x).security = s.security := rfl
@[simp] theorem State.sset_fabric : (s.sset r x).fabric = s.fabric := rfl
@[simp] theorem State.sset_hostWidth : (s.sset r x).hostWidth = s.hostWidth := rfl
@[simp] theorem State.sset_mgmtConfig : (s.sset r x).mgmtConfig = s.mgmtConfig := rfl
@[simp] theorem State.sset_mgmtClusters : (s.sset r x).mgmtClusters = s.mgmtClusters := rfl
@[simp] theorem State.sset_frame : (s.sset r x).frame = s.frame := rfl
@[simp] theorem State.sset_pairs : (s.sset r x).pairs = s.pairs := rfl
@[simp] theorem State.sset_lvq : (s.sset r x).lvq = s.lvq := rfl
@[simp] theorem State.sset_items : (s.sset r x).items = s.items := rfl
@[simp] theorem State.sset_stores : (s.sset r x).stores = s.stores := rfl
@[simp] theorem State.sset_shadowRun : (s.sset r x).shadowRun = s.shadowRun := rfl
@[simp] theorem State.sset_shadowAlone : (s.sset r x).shadowAlone = s.shadowAlone := rfl
end

/-! ## `State.waitOn` -/

section
variable (s : State) (x : Wait)
@[simp] theorem State.waitOn_warp : (s.waitOn x).warp = { s.warp with wait := x } := rfl
@[simp] theorem State.waitOn_others : (s.waitOn x).others = s.others := rfl
@[simp] theorem State.waitOn_shadows : (s.waitOn x).shadows = s.shadows := rfl
@[simp] theorem State.waitOn_agenda : (s.waitOn x).agenda = s.agenda := rfl
@[simp] theorem State.waitOn_fresh : (s.waitOn x).fresh = s.fresh := rfl
@[simp] theorem State.waitOn_nextId : (s.waitOn x).nextId = s.nextId := rfl
@[simp] theorem State.waitOn_arrivals : (s.waitOn x).arrivals = s.arrivals := rfl
@[simp] theorem State.waitOn_up : (s.waitOn x).up = s.up := rfl
@[simp] theorem State.waitOn_dev : (s.waitOn x).dev = s.dev := rfl
@[simp] theorem State.waitOn_hostMem : (s.waitOn x).hostMem = s.hostMem := rfl
@[simp] theorem State.waitOn_hostErrs : (s.waitOn x).hostErrs = s.hostErrs := rfl
@[simp] theorem State.waitOn_bankMem : (s.waitOn x).bankMem = s.bankMem := rfl
@[simp] theorem State.waitOn_owners : (s.waitOn x).owners = s.owners := rfl
@[simp] theorem State.waitOn_tags : (s.waitOn x).tags = s.tags := rfl
@[simp] theorem State.waitOn_epochs : (s.waitOn x).epochs = s.epochs := rfl
@[simp] theorem State.waitOn_scores : (s.waitOn x).scores = s.scores := rfl
@[simp] theorem State.waitOn_dirtyScores : (s.waitOn x).dirtyScores = s.dirtyScores := rfl
@[simp] theorem State.waitOn_cdc : (s.waitOn x).cdc = s.cdc := rfl
@[simp] theorem State.waitOn_fills : (s.waitOn x).fills = s.fills := rfl
@[simp] theorem State.waitOn_parts : (s.waitOn x).parts = s.parts := rfl
@[simp] theorem State.waitOn_grids : (s.waitOn x).grids = s.grids := rfl
@[simp] theorem State.waitOn_teams : (s.waitOn x).teams = s.teams := rfl
@[simp] theorem State.waitOn_crews : (s.waitOn x).crews = s.crews := rfl
@[simp] theorem State.waitOn_slips : (s.waitOn x).slips = s.slips := rfl
@[simp] theorem State.waitOn_slipOrder : (s.waitOn x).slipOrder = s.slipOrder := rfl
@[simp] theorem State.waitOn_transfers : (s.waitOn x).transfers = s.transfers := rfl
@[simp] theorem State.waitOn_ops : (s.waitOn x).ops = s.ops := rfl
@[simp] theorem State.waitOn_moves : (s.waitOn x).moves = s.moves := rfl
@[simp] theorem State.waitOn_migCounts : (s.waitOn x).migCounts = s.migCounts := rfl
@[simp] theorem State.waitOn_migDies : (s.waitOn x).migDies = s.migDies := rfl
@[simp] theorem State.waitOn_vfs : (s.waitOn x).vfs = s.vfs := rfl
@[simp] theorem State.waitOn_coreTime : (s.waitOn x).coreTime = s.coreTime := rfl
@[simp] theorem State.waitOn_laneMaps : (s.waitOn x).laneMaps = s.laneMaps := rfl
@[simp] theorem State.waitOn_slices : (s.waitOn x).slices = s.slices := rfl
@[simp] theorem State.waitOn_portMap : (s.waitOn x).portMap = s.portMap := rfl
@[simp] theorem State.waitOn_dies : (s.waitOn x).dies = s.dies := rfl
@[simp] theorem State.waitOn_wdies : (s.waitOn x).wdies = s.wdies := rfl
@[simp] theorem State.waitOn_dieLinks : (s.waitOn x).dieLinks = s.dieLinks := rfl
@[simp] theorem State.waitOn_lostLinks : (s.waitOn x).lostLinks = s.lostLinks := rfl
@[simp] theorem State.waitOn_channels : (s.waitOn x).channels = s.channels := rfl
@[simp] theorem State.waitOn_rowsLeft : (s.waitOn x).rowsLeft = s.rowsLeft := rfl
@[simp] theorem State.waitOn_softRepairs : (s.waitOn x).softRepairs = s.softRepairs := rfl
@[simp] theorem State.waitOn_events : (s.waitOn x).events = s.events := rfl
@[simp] theorem State.waitOn_stopBuf : (s.waitOn x).stopBuf = s.stopBuf := rfl
@[simp] theorem State.waitOn_moduleStop : (s.waitOn x).moduleStop = s.moduleStop := rfl
@[simp] theorem State.waitOn_sensors : (s.waitOn x).sensors = s.sensors := rfl
@[simp] theorem State.waitOn_limits : (s.waitOn x).limits = s.limits := rfl
@[simp] theorem State.waitOn_security : (s.waitOn x).security = s.security := rfl
@[simp] theorem State.waitOn_fabric : (s.waitOn x).fabric = s.fabric := rfl
@[simp] theorem State.waitOn_hostWidth : (s.waitOn x).hostWidth = s.hostWidth := rfl
@[simp] theorem State.waitOn_mgmtConfig : (s.waitOn x).mgmtConfig = s.mgmtConfig := rfl
@[simp] theorem State.waitOn_mgmtClusters : (s.waitOn x).mgmtClusters = s.mgmtClusters := rfl
@[simp] theorem State.waitOn_frame : (s.waitOn x).frame = s.frame := rfl
@[simp] theorem State.waitOn_pairs : (s.waitOn x).pairs = s.pairs := rfl
@[simp] theorem State.waitOn_lvq : (s.waitOn x).lvq = s.lvq := rfl
@[simp] theorem State.waitOn_items : (s.waitOn x).items = s.items := rfl
@[simp] theorem State.waitOn_stores : (s.waitOn x).stores = s.stores := rfl
@[simp] theorem State.waitOn_shadowRun : (s.waitOn x).shadowRun = s.shadowRun := rfl
@[simp] theorem State.waitOn_shadowAlone : (s.waitOn x).shadowAlone = s.shadowAlone := rfl
end

/-! ## `State.setPart` -/

section
variable (s : State) (p : Nat) (x : Part)
@[simp] theorem State.setPart_warp : (s.setPart p x).warp = s.warp := rfl
@[simp] theorem State.setPart_others : (s.setPart p x).others = s.others := rfl
@[simp] theorem State.setPart_shadows : (s.setPart p x).shadows = s.shadows := rfl
@[simp] theorem State.setPart_agenda : (s.setPart p x).agenda = s.agenda := rfl
@[simp] theorem State.setPart_fresh : (s.setPart p x).fresh = s.fresh := rfl
@[simp] theorem State.setPart_nextId : (s.setPart p x).nextId = s.nextId := rfl
@[simp] theorem State.setPart_arrivals : (s.setPart p x).arrivals = s.arrivals := rfl
@[simp] theorem State.setPart_up : (s.setPart p x).up = s.up := rfl
@[simp] theorem State.setPart_dev : (s.setPart p x).dev = s.dev := rfl
@[simp] theorem State.setPart_hostMem : (s.setPart p x).hostMem = s.hostMem := rfl
@[simp] theorem State.setPart_hostErrs : (s.setPart p x).hostErrs = s.hostErrs := rfl
@[simp] theorem State.setPart_bankMem : (s.setPart p x).bankMem = s.bankMem := rfl
@[simp] theorem State.setPart_owners : (s.setPart p x).owners = s.owners := rfl
@[simp] theorem State.setPart_tags : (s.setPart p x).tags = s.tags := rfl
@[simp] theorem State.setPart_epochs : (s.setPart p x).epochs = s.epochs := rfl
@[simp] theorem State.setPart_scores : (s.setPart p x).scores = s.scores := rfl
@[simp] theorem State.setPart_dirtyScores : (s.setPart p x).dirtyScores = s.dirtyScores := rfl
@[simp] theorem State.setPart_cdc : (s.setPart p x).cdc = s.cdc := rfl
@[simp] theorem State.setPart_fills : (s.setPart p x).fills = s.fills := rfl
@[simp] theorem State.setPart_parts : (s.setPart p x).parts = Tab.set s.parts p x := rfl
@[simp] theorem State.setPart_grids : (s.setPart p x).grids = s.grids := rfl
@[simp] theorem State.setPart_teams : (s.setPart p x).teams = s.teams := rfl
@[simp] theorem State.setPart_crews : (s.setPart p x).crews = s.crews := rfl
@[simp] theorem State.setPart_slips : (s.setPart p x).slips = s.slips := rfl
@[simp] theorem State.setPart_slipOrder : (s.setPart p x).slipOrder = s.slipOrder := rfl
@[simp] theorem State.setPart_transfers : (s.setPart p x).transfers = s.transfers := rfl
@[simp] theorem State.setPart_ops : (s.setPart p x).ops = s.ops := rfl
@[simp] theorem State.setPart_moves : (s.setPart p x).moves = s.moves := rfl
@[simp] theorem State.setPart_migCounts : (s.setPart p x).migCounts = s.migCounts := rfl
@[simp] theorem State.setPart_migDies : (s.setPart p x).migDies = s.migDies := rfl
@[simp] theorem State.setPart_vfs : (s.setPart p x).vfs = s.vfs := rfl
@[simp] theorem State.setPart_coreTime : (s.setPart p x).coreTime = s.coreTime := rfl
@[simp] theorem State.setPart_laneMaps : (s.setPart p x).laneMaps = s.laneMaps := rfl
@[simp] theorem State.setPart_slices : (s.setPart p x).slices = s.slices := rfl
@[simp] theorem State.setPart_portMap : (s.setPart p x).portMap = s.portMap := rfl
@[simp] theorem State.setPart_dies : (s.setPart p x).dies = s.dies := rfl
@[simp] theorem State.setPart_wdies : (s.setPart p x).wdies = s.wdies := rfl
@[simp] theorem State.setPart_dieLinks : (s.setPart p x).dieLinks = s.dieLinks := rfl
@[simp] theorem State.setPart_lostLinks : (s.setPart p x).lostLinks = s.lostLinks := rfl
@[simp] theorem State.setPart_channels : (s.setPart p x).channels = s.channels := rfl
@[simp] theorem State.setPart_rowsLeft : (s.setPart p x).rowsLeft = s.rowsLeft := rfl
@[simp] theorem State.setPart_softRepairs : (s.setPart p x).softRepairs = s.softRepairs := rfl
@[simp] theorem State.setPart_events : (s.setPart p x).events = s.events := rfl
@[simp] theorem State.setPart_stopBuf : (s.setPart p x).stopBuf = s.stopBuf := rfl
@[simp] theorem State.setPart_moduleStop : (s.setPart p x).moduleStop = s.moduleStop := rfl
@[simp] theorem State.setPart_sensors : (s.setPart p x).sensors = s.sensors := rfl
@[simp] theorem State.setPart_limits : (s.setPart p x).limits = s.limits := rfl
@[simp] theorem State.setPart_security : (s.setPart p x).security = s.security := rfl
@[simp] theorem State.setPart_fabric : (s.setPart p x).fabric = s.fabric := rfl
@[simp] theorem State.setPart_hostWidth : (s.setPart p x).hostWidth = s.hostWidth := rfl
@[simp] theorem State.setPart_mgmtConfig : (s.setPart p x).mgmtConfig = s.mgmtConfig := rfl
@[simp] theorem State.setPart_mgmtClusters : (s.setPart p x).mgmtClusters = s.mgmtClusters := rfl
@[simp] theorem State.setPart_frame : (s.setPart p x).frame = s.frame := rfl
@[simp] theorem State.setPart_pairs : (s.setPart p x).pairs = s.pairs := rfl
@[simp] theorem State.setPart_lvq : (s.setPart p x).lvq = s.lvq := rfl
@[simp] theorem State.setPart_items : (s.setPart p x).items = s.items := rfl
@[simp] theorem State.setPart_stores : (s.setPart p x).stores = s.stores := rfl
@[simp] theorem State.setPart_shadowRun : (s.setPart p x).shadowRun = s.shadowRun := rfl
@[simp] theorem State.setPart_shadowAlone : (s.setPart p x).shadowAlone = s.shadowAlone := rfl
end

/-! ## `State.modPart` -/

section
variable (s : State) (p : Nat) (f : Part → Part)
@[simp] theorem State.modPart_warp : (s.modPart p f).warp = s.warp := rfl
@[simp] theorem State.modPart_others : (s.modPart p f).others = s.others := rfl
@[simp] theorem State.modPart_shadows : (s.modPart p f).shadows = s.shadows := rfl
@[simp] theorem State.modPart_agenda : (s.modPart p f).agenda = s.agenda := rfl
@[simp] theorem State.modPart_fresh : (s.modPart p f).fresh = s.fresh := rfl
@[simp] theorem State.modPart_nextId : (s.modPart p f).nextId = s.nextId := rfl
@[simp] theorem State.modPart_arrivals : (s.modPart p f).arrivals = s.arrivals := rfl
@[simp] theorem State.modPart_up : (s.modPart p f).up = s.up := rfl
@[simp] theorem State.modPart_dev : (s.modPart p f).dev = s.dev := rfl
@[simp] theorem State.modPart_hostMem : (s.modPart p f).hostMem = s.hostMem := rfl
@[simp] theorem State.modPart_hostErrs : (s.modPart p f).hostErrs = s.hostErrs := rfl
@[simp] theorem State.modPart_bankMem : (s.modPart p f).bankMem = s.bankMem := rfl
@[simp] theorem State.modPart_owners : (s.modPart p f).owners = s.owners := rfl
@[simp] theorem State.modPart_tags : (s.modPart p f).tags = s.tags := rfl
@[simp] theorem State.modPart_epochs : (s.modPart p f).epochs = s.epochs := rfl
@[simp] theorem State.modPart_scores : (s.modPart p f).scores = s.scores := rfl
@[simp] theorem State.modPart_dirtyScores : (s.modPart p f).dirtyScores = s.dirtyScores := rfl
@[simp] theorem State.modPart_cdc : (s.modPart p f).cdc = s.cdc := rfl
@[simp] theorem State.modPart_fills : (s.modPart p f).fills = s.fills := rfl
@[simp] theorem State.modPart_parts : (s.modPart p f).parts = Tab.set s.parts p (f (s.part p)) := rfl
@[simp] theorem State.modPart_grids : (s.modPart p f).grids = s.grids := rfl
@[simp] theorem State.modPart_teams : (s.modPart p f).teams = s.teams := rfl
@[simp] theorem State.modPart_crews : (s.modPart p f).crews = s.crews := rfl
@[simp] theorem State.modPart_slips : (s.modPart p f).slips = s.slips := rfl
@[simp] theorem State.modPart_slipOrder : (s.modPart p f).slipOrder = s.slipOrder := rfl
@[simp] theorem State.modPart_transfers : (s.modPart p f).transfers = s.transfers := rfl
@[simp] theorem State.modPart_ops : (s.modPart p f).ops = s.ops := rfl
@[simp] theorem State.modPart_moves : (s.modPart p f).moves = s.moves := rfl
@[simp] theorem State.modPart_migCounts : (s.modPart p f).migCounts = s.migCounts := rfl
@[simp] theorem State.modPart_migDies : (s.modPart p f).migDies = s.migDies := rfl
@[simp] theorem State.modPart_vfs : (s.modPart p f).vfs = s.vfs := rfl
@[simp] theorem State.modPart_coreTime : (s.modPart p f).coreTime = s.coreTime := rfl
@[simp] theorem State.modPart_laneMaps : (s.modPart p f).laneMaps = s.laneMaps := rfl
@[simp] theorem State.modPart_slices : (s.modPart p f).slices = s.slices := rfl
@[simp] theorem State.modPart_portMap : (s.modPart p f).portMap = s.portMap := rfl
@[simp] theorem State.modPart_dies : (s.modPart p f).dies = s.dies := rfl
@[simp] theorem State.modPart_wdies : (s.modPart p f).wdies = s.wdies := rfl
@[simp] theorem State.modPart_dieLinks : (s.modPart p f).dieLinks = s.dieLinks := rfl
@[simp] theorem State.modPart_lostLinks : (s.modPart p f).lostLinks = s.lostLinks := rfl
@[simp] theorem State.modPart_channels : (s.modPart p f).channels = s.channels := rfl
@[simp] theorem State.modPart_rowsLeft : (s.modPart p f).rowsLeft = s.rowsLeft := rfl
@[simp] theorem State.modPart_softRepairs : (s.modPart p f).softRepairs = s.softRepairs := rfl
@[simp] theorem State.modPart_events : (s.modPart p f).events = s.events := rfl
@[simp] theorem State.modPart_stopBuf : (s.modPart p f).stopBuf = s.stopBuf := rfl
@[simp] theorem State.modPart_moduleStop : (s.modPart p f).moduleStop = s.moduleStop := rfl
@[simp] theorem State.modPart_sensors : (s.modPart p f).sensors = s.sensors := rfl
@[simp] theorem State.modPart_limits : (s.modPart p f).limits = s.limits := rfl
@[simp] theorem State.modPart_security : (s.modPart p f).security = s.security := rfl
@[simp] theorem State.modPart_fabric : (s.modPart p f).fabric = s.fabric := rfl
@[simp] theorem State.modPart_hostWidth : (s.modPart p f).hostWidth = s.hostWidth := rfl
@[simp] theorem State.modPart_mgmtConfig : (s.modPart p f).mgmtConfig = s.mgmtConfig := rfl
@[simp] theorem State.modPart_mgmtClusters : (s.modPart p f).mgmtClusters = s.mgmtClusters := rfl
@[simp] theorem State.modPart_frame : (s.modPart p f).frame = s.frame := rfl
@[simp] theorem State.modPart_pairs : (s.modPart p f).pairs = s.pairs := rfl
@[simp] theorem State.modPart_lvq : (s.modPart p f).lvq = s.lvq := rfl
@[simp] theorem State.modPart_items : (s.modPart p f).items = s.items := rfl
@[simp] theorem State.modPart_stores : (s.modPart p f).stores = s.stores := rfl
@[simp] theorem State.modPart_shadowRun : (s.modPart p f).shadowRun = s.shadowRun := rfl
@[simp] theorem State.modPart_shadowAlone : (s.modPart p f).shadowAlone = s.shadowAlone := rfl
end

/-! ## `State.modGrid` -/

section
variable (s : State) (g : Nat) (f : Grid → Grid)
@[simp] theorem State.modGrid_warp : (s.modGrid g f).warp = s.warp := rfl
@[simp] theorem State.modGrid_others : (s.modGrid g f).others = s.others := rfl
@[simp] theorem State.modGrid_shadows : (s.modGrid g f).shadows = s.shadows := rfl
@[simp] theorem State.modGrid_agenda : (s.modGrid g f).agenda = s.agenda := rfl
@[simp] theorem State.modGrid_fresh : (s.modGrid g f).fresh = s.fresh := rfl
@[simp] theorem State.modGrid_nextId : (s.modGrid g f).nextId = s.nextId := rfl
@[simp] theorem State.modGrid_arrivals : (s.modGrid g f).arrivals = s.arrivals := rfl
@[simp] theorem State.modGrid_up : (s.modGrid g f).up = s.up := rfl
@[simp] theorem State.modGrid_dev : (s.modGrid g f).dev = s.dev := rfl
@[simp] theorem State.modGrid_hostMem : (s.modGrid g f).hostMem = s.hostMem := rfl
@[simp] theorem State.modGrid_hostErrs : (s.modGrid g f).hostErrs = s.hostErrs := rfl
@[simp] theorem State.modGrid_bankMem : (s.modGrid g f).bankMem = s.bankMem := rfl
@[simp] theorem State.modGrid_owners : (s.modGrid g f).owners = s.owners := rfl
@[simp] theorem State.modGrid_tags : (s.modGrid g f).tags = s.tags := rfl
@[simp] theorem State.modGrid_epochs : (s.modGrid g f).epochs = s.epochs := rfl
@[simp] theorem State.modGrid_scores : (s.modGrid g f).scores = s.scores := rfl
@[simp] theorem State.modGrid_dirtyScores : (s.modGrid g f).dirtyScores = s.dirtyScores := rfl
@[simp] theorem State.modGrid_cdc : (s.modGrid g f).cdc = s.cdc := rfl
@[simp] theorem State.modGrid_fills : (s.modGrid g f).fills = s.fills := rfl
@[simp] theorem State.modGrid_parts : (s.modGrid g f).parts = s.parts := rfl
@[simp] theorem State.modGrid_grids : (s.modGrid g f).grids = s.grids.map fun x => if x.id = g then f x else x := rfl
@[simp] theorem State.modGrid_teams : (s.modGrid g f).teams = s.teams := rfl
@[simp] theorem State.modGrid_crews : (s.modGrid g f).crews = s.crews := rfl
@[simp] theorem State.modGrid_slips : (s.modGrid g f).slips = s.slips := rfl
@[simp] theorem State.modGrid_slipOrder : (s.modGrid g f).slipOrder = s.slipOrder := rfl
@[simp] theorem State.modGrid_transfers : (s.modGrid g f).transfers = s.transfers := rfl
@[simp] theorem State.modGrid_ops : (s.modGrid g f).ops = s.ops := rfl
@[simp] theorem State.modGrid_moves : (s.modGrid g f).moves = s.moves := rfl
@[simp] theorem State.modGrid_migCounts : (s.modGrid g f).migCounts = s.migCounts := rfl
@[simp] theorem State.modGrid_migDies : (s.modGrid g f).migDies = s.migDies := rfl
@[simp] theorem State.modGrid_vfs : (s.modGrid g f).vfs = s.vfs := rfl
@[simp] theorem State.modGrid_coreTime : (s.modGrid g f).coreTime = s.coreTime := rfl
@[simp] theorem State.modGrid_laneMaps : (s.modGrid g f).laneMaps = s.laneMaps := rfl
@[simp] theorem State.modGrid_slices : (s.modGrid g f).slices = s.slices := rfl
@[simp] theorem State.modGrid_portMap : (s.modGrid g f).portMap = s.portMap := rfl
@[simp] theorem State.modGrid_dies : (s.modGrid g f).dies = s.dies := rfl
@[simp] theorem State.modGrid_wdies : (s.modGrid g f).wdies = s.wdies := rfl
@[simp] theorem State.modGrid_dieLinks : (s.modGrid g f).dieLinks = s.dieLinks := rfl
@[simp] theorem State.modGrid_lostLinks : (s.modGrid g f).lostLinks = s.lostLinks := rfl
@[simp] theorem State.modGrid_channels : (s.modGrid g f).channels = s.channels := rfl
@[simp] theorem State.modGrid_rowsLeft : (s.modGrid g f).rowsLeft = s.rowsLeft := rfl
@[simp] theorem State.modGrid_softRepairs : (s.modGrid g f).softRepairs = s.softRepairs := rfl
@[simp] theorem State.modGrid_events : (s.modGrid g f).events = s.events := rfl
@[simp] theorem State.modGrid_stopBuf : (s.modGrid g f).stopBuf = s.stopBuf := rfl
@[simp] theorem State.modGrid_moduleStop : (s.modGrid g f).moduleStop = s.moduleStop := rfl
@[simp] theorem State.modGrid_sensors : (s.modGrid g f).sensors = s.sensors := rfl
@[simp] theorem State.modGrid_limits : (s.modGrid g f).limits = s.limits := rfl
@[simp] theorem State.modGrid_security : (s.modGrid g f).security = s.security := rfl
@[simp] theorem State.modGrid_fabric : (s.modGrid g f).fabric = s.fabric := rfl
@[simp] theorem State.modGrid_hostWidth : (s.modGrid g f).hostWidth = s.hostWidth := rfl
@[simp] theorem State.modGrid_mgmtConfig : (s.modGrid g f).mgmtConfig = s.mgmtConfig := rfl
@[simp] theorem State.modGrid_mgmtClusters : (s.modGrid g f).mgmtClusters = s.mgmtClusters := rfl
@[simp] theorem State.modGrid_frame : (s.modGrid g f).frame = s.frame := rfl
@[simp] theorem State.modGrid_pairs : (s.modGrid g f).pairs = s.pairs := rfl
@[simp] theorem State.modGrid_lvq : (s.modGrid g f).lvq = s.lvq := rfl
@[simp] theorem State.modGrid_items : (s.modGrid g f).items = s.items := rfl
@[simp] theorem State.modGrid_stores : (s.modGrid g f).stores = s.stores := rfl
@[simp] theorem State.modGrid_shadowRun : (s.modGrid g f).shadowRun = s.shadowRun := rfl
@[simp] theorem State.modGrid_shadowAlone : (s.modGrid g f).shadowAlone = s.shadowAlone := rfl
end

/-! ## `State.modCrew` -/

section
variable (s : State) (g c : Nat) (f : Crew → Crew)
@[simp] theorem State.modCrew_warp : (s.modCrew g c f).warp = s.warp := rfl
@[simp] theorem State.modCrew_others : (s.modCrew g c f).others = s.others := rfl
@[simp] theorem State.modCrew_shadows : (s.modCrew g c f).shadows = s.shadows := rfl
@[simp] theorem State.modCrew_agenda : (s.modCrew g c f).agenda = s.agenda := rfl
@[simp] theorem State.modCrew_fresh : (s.modCrew g c f).fresh = s.fresh := rfl
@[simp] theorem State.modCrew_nextId : (s.modCrew g c f).nextId = s.nextId := rfl
@[simp] theorem State.modCrew_arrivals : (s.modCrew g c f).arrivals = s.arrivals := rfl
@[simp] theorem State.modCrew_up : (s.modCrew g c f).up = s.up := rfl
@[simp] theorem State.modCrew_dev : (s.modCrew g c f).dev = s.dev := rfl
@[simp] theorem State.modCrew_hostMem : (s.modCrew g c f).hostMem = s.hostMem := rfl
@[simp] theorem State.modCrew_hostErrs : (s.modCrew g c f).hostErrs = s.hostErrs := rfl
@[simp] theorem State.modCrew_bankMem : (s.modCrew g c f).bankMem = s.bankMem := rfl
@[simp] theorem State.modCrew_owners : (s.modCrew g c f).owners = s.owners := rfl
@[simp] theorem State.modCrew_tags : (s.modCrew g c f).tags = s.tags := rfl
@[simp] theorem State.modCrew_epochs : (s.modCrew g c f).epochs = s.epochs := rfl
@[simp] theorem State.modCrew_scores : (s.modCrew g c f).scores = s.scores := rfl
@[simp] theorem State.modCrew_dirtyScores : (s.modCrew g c f).dirtyScores = s.dirtyScores := rfl
@[simp] theorem State.modCrew_cdc : (s.modCrew g c f).cdc = s.cdc := rfl
@[simp] theorem State.modCrew_fills : (s.modCrew g c f).fills = s.fills := rfl
@[simp] theorem State.modCrew_parts : (s.modCrew g c f).parts = s.parts := rfl
@[simp] theorem State.modCrew_grids : (s.modCrew g c f).grids = s.grids := rfl
@[simp] theorem State.modCrew_teams : (s.modCrew g c f).teams = s.teams := rfl
@[simp] theorem State.modCrew_crews : (s.modCrew g c f).crews = s.crews.map fun x => if x.grid = g ∧ x.num = c then f x else x := rfl
@[simp] theorem State.modCrew_slips : (s.modCrew g c f).slips = s.slips := rfl
@[simp] theorem State.modCrew_slipOrder : (s.modCrew g c f).slipOrder = s.slipOrder := rfl
@[simp] theorem State.modCrew_transfers : (s.modCrew g c f).transfers = s.transfers := rfl
@[simp] theorem State.modCrew_ops : (s.modCrew g c f).ops = s.ops := rfl
@[simp] theorem State.modCrew_moves : (s.modCrew g c f).moves = s.moves := rfl
@[simp] theorem State.modCrew_migCounts : (s.modCrew g c f).migCounts = s.migCounts := rfl
@[simp] theorem State.modCrew_migDies : (s.modCrew g c f).migDies = s.migDies := rfl
@[simp] theorem State.modCrew_vfs : (s.modCrew g c f).vfs = s.vfs := rfl
@[simp] theorem State.modCrew_coreTime : (s.modCrew g c f).coreTime = s.coreTime := rfl
@[simp] theorem State.modCrew_laneMaps : (s.modCrew g c f).laneMaps = s.laneMaps := rfl
@[simp] theorem State.modCrew_slices : (s.modCrew g c f).slices = s.slices := rfl
@[simp] theorem State.modCrew_portMap : (s.modCrew g c f).portMap = s.portMap := rfl
@[simp] theorem State.modCrew_dies : (s.modCrew g c f).dies = s.dies := rfl
@[simp] theorem State.modCrew_wdies : (s.modCrew g c f).wdies = s.wdies := rfl
@[simp] theorem State.modCrew_dieLinks : (s.modCrew g c f).dieLinks = s.dieLinks := rfl
@[simp] theorem State.modCrew_lostLinks : (s.modCrew g c f).lostLinks = s.lostLinks := rfl
@[simp] theorem State.modCrew_channels : (s.modCrew g c f).channels = s.channels := rfl
@[simp] theorem State.modCrew_rowsLeft : (s.modCrew g c f).rowsLeft = s.rowsLeft := rfl
@[simp] theorem State.modCrew_softRepairs : (s.modCrew g c f).softRepairs = s.softRepairs := rfl
@[simp] theorem State.modCrew_events : (s.modCrew g c f).events = s.events := rfl
@[simp] theorem State.modCrew_stopBuf : (s.modCrew g c f).stopBuf = s.stopBuf := rfl
@[simp] theorem State.modCrew_moduleStop : (s.modCrew g c f).moduleStop = s.moduleStop := rfl
@[simp] theorem State.modCrew_sensors : (s.modCrew g c f).sensors = s.sensors := rfl
@[simp] theorem State.modCrew_limits : (s.modCrew g c f).limits = s.limits := rfl
@[simp] theorem State.modCrew_security : (s.modCrew g c f).security = s.security := rfl
@[simp] theorem State.modCrew_fabric : (s.modCrew g c f).fabric = s.fabric := rfl
@[simp] theorem State.modCrew_hostWidth : (s.modCrew g c f).hostWidth = s.hostWidth := rfl
@[simp] theorem State.modCrew_mgmtConfig : (s.modCrew g c f).mgmtConfig = s.mgmtConfig := rfl
@[simp] theorem State.modCrew_mgmtClusters : (s.modCrew g c f).mgmtClusters = s.mgmtClusters := rfl
@[simp] theorem State.modCrew_frame : (s.modCrew g c f).frame = s.frame := rfl
@[simp] theorem State.modCrew_pairs : (s.modCrew g c f).pairs = s.pairs := rfl
@[simp] theorem State.modCrew_lvq : (s.modCrew g c f).lvq = s.lvq := rfl
@[simp] theorem State.modCrew_items : (s.modCrew g c f).items = s.items := rfl
@[simp] theorem State.modCrew_stores : (s.modCrew g c f).stores = s.stores := rfl
@[simp] theorem State.modCrew_shadowRun : (s.modCrew g c f).shadowRun = s.shadowRun := rfl
@[simp] theorem State.modCrew_shadowAlone : (s.modCrew g c f).shadowAlone = s.shadowAlone := rfl
end

/-! ## `State.modTeam` -/

section
variable (s : State) (g t : Nat) (f : Team → Team)
@[simp] theorem State.modTeam_warp : (s.modTeam g t f).warp = s.warp := rfl
@[simp] theorem State.modTeam_others : (s.modTeam g t f).others = s.others := rfl
@[simp] theorem State.modTeam_shadows : (s.modTeam g t f).shadows = s.shadows := rfl
@[simp] theorem State.modTeam_agenda : (s.modTeam g t f).agenda = s.agenda := rfl
@[simp] theorem State.modTeam_fresh : (s.modTeam g t f).fresh = s.fresh := rfl
@[simp] theorem State.modTeam_nextId : (s.modTeam g t f).nextId = s.nextId := rfl
@[simp] theorem State.modTeam_arrivals : (s.modTeam g t f).arrivals = s.arrivals := rfl
@[simp] theorem State.modTeam_up : (s.modTeam g t f).up = s.up := rfl
@[simp] theorem State.modTeam_dev : (s.modTeam g t f).dev = s.dev := rfl
@[simp] theorem State.modTeam_hostMem : (s.modTeam g t f).hostMem = s.hostMem := rfl
@[simp] theorem State.modTeam_hostErrs : (s.modTeam g t f).hostErrs = s.hostErrs := rfl
@[simp] theorem State.modTeam_bankMem : (s.modTeam g t f).bankMem = s.bankMem := rfl
@[simp] theorem State.modTeam_owners : (s.modTeam g t f).owners = s.owners := rfl
@[simp] theorem State.modTeam_tags : (s.modTeam g t f).tags = s.tags := rfl
@[simp] theorem State.modTeam_epochs : (s.modTeam g t f).epochs = s.epochs := rfl
@[simp] theorem State.modTeam_scores : (s.modTeam g t f).scores = s.scores := rfl
@[simp] theorem State.modTeam_dirtyScores : (s.modTeam g t f).dirtyScores = s.dirtyScores := rfl
@[simp] theorem State.modTeam_cdc : (s.modTeam g t f).cdc = s.cdc := rfl
@[simp] theorem State.modTeam_fills : (s.modTeam g t f).fills = s.fills := rfl
@[simp] theorem State.modTeam_parts : (s.modTeam g t f).parts = s.parts := rfl
@[simp] theorem State.modTeam_grids : (s.modTeam g t f).grids = s.grids := rfl
@[simp] theorem State.modTeam_teams : (s.modTeam g t f).teams = s.teams.map fun x => if x.grid = g ∧ x.num = t then f x else x := rfl
@[simp] theorem State.modTeam_crews : (s.modTeam g t f).crews = s.crews := rfl
@[simp] theorem State.modTeam_slips : (s.modTeam g t f).slips = s.slips := rfl
@[simp] theorem State.modTeam_slipOrder : (s.modTeam g t f).slipOrder = s.slipOrder := rfl
@[simp] theorem State.modTeam_transfers : (s.modTeam g t f).transfers = s.transfers := rfl
@[simp] theorem State.modTeam_ops : (s.modTeam g t f).ops = s.ops := rfl
@[simp] theorem State.modTeam_moves : (s.modTeam g t f).moves = s.moves := rfl
@[simp] theorem State.modTeam_migCounts : (s.modTeam g t f).migCounts = s.migCounts := rfl
@[simp] theorem State.modTeam_migDies : (s.modTeam g t f).migDies = s.migDies := rfl
@[simp] theorem State.modTeam_vfs : (s.modTeam g t f).vfs = s.vfs := rfl
@[simp] theorem State.modTeam_coreTime : (s.modTeam g t f).coreTime = s.coreTime := rfl
@[simp] theorem State.modTeam_laneMaps : (s.modTeam g t f).laneMaps = s.laneMaps := rfl
@[simp] theorem State.modTeam_slices : (s.modTeam g t f).slices = s.slices := rfl
@[simp] theorem State.modTeam_portMap : (s.modTeam g t f).portMap = s.portMap := rfl
@[simp] theorem State.modTeam_dies : (s.modTeam g t f).dies = s.dies := rfl
@[simp] theorem State.modTeam_wdies : (s.modTeam g t f).wdies = s.wdies := rfl
@[simp] theorem State.modTeam_dieLinks : (s.modTeam g t f).dieLinks = s.dieLinks := rfl
@[simp] theorem State.modTeam_lostLinks : (s.modTeam g t f).lostLinks = s.lostLinks := rfl
@[simp] theorem State.modTeam_channels : (s.modTeam g t f).channels = s.channels := rfl
@[simp] theorem State.modTeam_rowsLeft : (s.modTeam g t f).rowsLeft = s.rowsLeft := rfl
@[simp] theorem State.modTeam_softRepairs : (s.modTeam g t f).softRepairs = s.softRepairs := rfl
@[simp] theorem State.modTeam_events : (s.modTeam g t f).events = s.events := rfl
@[simp] theorem State.modTeam_stopBuf : (s.modTeam g t f).stopBuf = s.stopBuf := rfl
@[simp] theorem State.modTeam_moduleStop : (s.modTeam g t f).moduleStop = s.moduleStop := rfl
@[simp] theorem State.modTeam_sensors : (s.modTeam g t f).sensors = s.sensors := rfl
@[simp] theorem State.modTeam_limits : (s.modTeam g t f).limits = s.limits := rfl
@[simp] theorem State.modTeam_security : (s.modTeam g t f).security = s.security := rfl
@[simp] theorem State.modTeam_fabric : (s.modTeam g t f).fabric = s.fabric := rfl
@[simp] theorem State.modTeam_hostWidth : (s.modTeam g t f).hostWidth = s.hostWidth := rfl
@[simp] theorem State.modTeam_mgmtConfig : (s.modTeam g t f).mgmtConfig = s.mgmtConfig := rfl
@[simp] theorem State.modTeam_mgmtClusters : (s.modTeam g t f).mgmtClusters = s.mgmtClusters := rfl
@[simp] theorem State.modTeam_frame : (s.modTeam g t f).frame = s.frame := rfl
@[simp] theorem State.modTeam_pairs : (s.modTeam g t f).pairs = s.pairs := rfl
@[simp] theorem State.modTeam_lvq : (s.modTeam g t f).lvq = s.lvq := rfl
@[simp] theorem State.modTeam_items : (s.modTeam g t f).items = s.items := rfl
@[simp] theorem State.modTeam_stores : (s.modTeam g t f).stores = s.stores := rfl
@[simp] theorem State.modTeam_shadowRun : (s.modTeam g t f).shadowRun = s.shadowRun := rfl
@[simp] theorem State.modTeam_shadowAlone : (s.modTeam g t f).shadowAlone = s.shadowAlone := rfl
end

/-! ## `Warp.sset` -/

section
variable (w : Warp) (r : SReg) (x : W64)
@[simp] theorem Warp.sset_id : (w.sset r x).id = w.id := by
  unfold Warp.sset; split; · rfl
  · split <;> rfl
@[simp] theorem Warp.sset_alive : (w.sset r x).alive = w.alive := by
  unfold Warp.sset; split; · rfl
  · split <;> rfl
@[simp] theorem Warp.sset_ident : (w.sset r x).ident = w.ident := by
  unfold Warp.sset; split; · rfl
  · split <;> rfl
@[simp] theorem Warp.sset_gridId : (w.sset r x).gridId = w.gridId := by
  unfold Warp.sset; split; · rfl
  · split <;> rfl
@[simp] theorem Warp.sset_regs : (w.sset r x).regs = w.regs := by
  unfold Warp.sset; split; · rfl
  · split <;> rfl
@[simp] theorem Warp.sset_h1 : (w.sset r x).h1 = w.h1 := by
  unfold Warp.sset; split; · rfl
  · split <;> rfl
@[simp] theorem Warp.sset_h2 : (w.sset r x).h2 = w.h2 := by
  unfold Warp.sset; split; · rfl
  · split <;> rfl
@[simp] theorem Warp.sset_debug : (w.sset r x).debug = w.debug := by
  unfold Warp.sset; split; · rfl
  · split <;> rfl
@[simp] theorem Warp.sset_priv : (w.sset r x).priv = w.priv := by
  unfold Warp.sset; split; · rfl
  · split <;> rfl
@[simp] theorem Warp.sset_pc : (w.sset r x).pc = w.pc := by
  unfold Warp.sset; split; · rfl
  · split <;> rfl
@[simp] theorem Warp.sset_am : (w.sset r x).am = w.am := by
  unfold Warp.sset; split; · rfl
  · split <;> rfl
@[simp] theorem Warp.sset_c : (w.sset r x).c = w.c := by
  unfold Warp.sset; split; · rfl
  · split <;> rfl
@[simp] theorem Warp.sset_v : (w.sset r x).v = w.v := by
  unfold Warp.sset; split; · rfl
  · split <;> rfl
@[simp] theorem Warp.sset_m : (w.sset r x).m = w.m := by
  unfold Warp.sset; split; · rfl
  · split <;> rfl
@[simp] theorem Warp.sset_live : (w.sset r x).live = w.live := by
  unfold Warp.sset; split; · rfl
  · split <;> rfl
@[simp] theorem Warp.sset_origin : (w.sset r x).origin = w.origin := by
  unfold Warp.sset; split; · rfl
  · split <;> rfl
@[simp] theorem Warp.sset_draws : (w.sset r x).draws = w.draws := by
  unfold Warp.sset; split; · rfl
  · split <;> rfl
@[simp] theorem Warp.sset_block : (w.sset r x).block = w.block := by
  unfold Warp.sset; split; · rfl
  · split <;> rfl
@[simp] theorem Warp.sset_stack : (w.sset r x).stack = w.stack := by
  unfold Warp.sset; split; · rfl
  · split <;> rfl
@[simp] theorem Warp.sset_fork : (w.sset r x).fork = w.fork := by
  unfold Warp.sset; split; · rfl
  · split <;> rfl
@[simp] theorem Warp.sset_level : (w.sset r x).level = w.level := by
  unfold Warp.sset; split; · rfl
  · split <;> rfl
@[simp] theorem Warp.sset_save : (w.sset r x).save = w.save := by
  unfold Warp.sset; split; · rfl
  · split <;> rfl
@[simp] theorem Warp.sset_trap : (w.sset r x).trap = w.trap := by
  unfold Warp.sset; split; · rfl
  · split <;> rfl
@[simp] theorem Warp.sset_partDone : (w.sset r x).partDone = w.partDone := by
  unfold Warp.sset; split; · rfl
  · split <;> rfl
@[simp] theorem Warp.sset_inFlight : (w.sset r x).inFlight = w.inFlight := by
  unfold Warp.sset; split; · rfl
  · split <;> rfl
@[simp] theorem Warp.sset_lcb : (w.sset r x).lcb = w.lcb := by
  unfold Warp.sset; split; · rfl
  · split <;> rfl
@[simp] theorem Warp.sset_fpxEn : (w.sset r x).fpxEn = w.fpxEn := by
  unfold Warp.sset; split; · rfl
  · split <;> rfl
@[simp] theorem Warp.sset_fpxFlags : (w.sset r x).fpxFlags = w.fpxFlags := by
  unfold Warp.sset; split; · rfl
  · split <;> rfl
@[simp] theorem Warp.sset_qlen : (w.sset r x).qlen = w.qlen := by
  unfold Warp.sset; split; · rfl
  · split <;> rfl
@[simp] theorem Warp.sset_acc : (w.sset r x).acc = w.acc := by
  unfold Warp.sset; split; · rfl
  · split <;> rfl
@[simp] theorem Warp.sset_seq : (w.sset r x).seq = w.seq := by
  unfold Warp.sset; split; · rfl
  · split <;> rfl
@[simp] theorem Warp.sset_wait : (w.sset r x).wait = w.wait := by
  unfold Warp.sset; split; · rfl
  · split <;> rfl
@[simp] theorem Warp.sset_pending : (w.sset r x).pending = w.pending := by
  unfold Warp.sset; split; · rfl
  · split <;> rfl
@[simp] theorem Warp.sset_missing : (w.sset r x).missing = w.missing := by
  unfold Warp.sset; split; · rfl
  · split <;> rfl
@[simp] theorem Warp.sset_remote : (w.sset r x).remote = w.remote := by
  unfold Warp.sset; split; · rfl
  · split <;> rfl
@[simp] theorem Warp.sset_fetched : (w.sset r x).fetched = w.fetched := by
  unfold Warp.sset; split; · rfl
  · split <;> rfl
@[simp] theorem Warp.sset_posting : (w.sset r x).posting = w.posting := by
  unfold Warp.sset; split; · rfl
  · split <;> rfl
@[simp] theorem Warp.sset_carrel : (w.sset r x).carrel = w.carrel := by
  unfold Warp.sset; split; · rfl
  · split <;> rfl
@[simp] theorem Warp.sset_quantum : (w.sset r x).quantum = w.quantum := by
  unfold Warp.sset; split; · rfl
  · split <;> rfl
@[simp] theorem Warp.sset_qdone : (w.sset r x).qdone = w.qdone := by
  unfold Warp.sset; split; · rfl
  · split <;> rfl
@[simp] theorem Warp.sset_issued : (w.sset r x).issued = w.issued := by
  unfold Warp.sset; split; · rfl
  · split <;> rfl
@[simp] theorem Warp.sset_qlenNow : (w.sset r x).qlenNow = w.qlenNow := by
  unfold Warp.sset; split; · rfl
  · split <;> rfl
@[simp] theorem Warp.sset_task : (w.sset r x).task = w.task := by
  unfold Warp.sset; split; · rfl
  · split <;> rfl
@[simp] theorem Warp.sset_resident : (w.sset r x).resident = w.resident := by
  unfold Warp.sset; split; · rfl
  · split <;> rfl
@[simp] theorem Warp.sset_evicted : (w.sset r x).evicted = w.evicted := by
  unfold Warp.sset; split; · rfl
  · split <;> rfl
end

/-! ## `Warp.cset` -/

section
variable (w : Warp) (p : PReg) (b : Bool)
@[simp] theorem Warp.cset_id : (w.cset p b).id = w.id := by
  unfold Warp.cset; split <;> rfl
@[simp] theorem Warp.cset_alive : (w.cset p b).alive = w.alive := by
  unfold Warp.cset; split <;> rfl
@[simp] theorem Warp.cset_ident : (w.cset p b).ident = w.ident := by
  unfold Warp.cset; split <;> rfl
@[simp] theorem Warp.cset_gridId : (w.cset p b).gridId = w.gridId := by
  unfold Warp.cset; split <;> rfl
@[simp] theorem Warp.cset_regs : (w.cset p b).regs = w.regs := by
  unfold Warp.cset; split <;> rfl
@[simp] theorem Warp.cset_h1 : (w.cset p b).h1 = w.h1 := by
  unfold Warp.cset; split <;> rfl
@[simp] theorem Warp.cset_h2 : (w.cset p b).h2 = w.h2 := by
  unfold Warp.cset; split <;> rfl
@[simp] theorem Warp.cset_debug : (w.cset p b).debug = w.debug := by
  unfold Warp.cset; split <;> rfl
@[simp] theorem Warp.cset_priv : (w.cset p b).priv = w.priv := by
  unfold Warp.cset; split <;> rfl
@[simp] theorem Warp.cset_pc : (w.cset p b).pc = w.pc := by
  unfold Warp.cset; split <;> rfl
@[simp] theorem Warp.cset_am : (w.cset p b).am = w.am := by
  unfold Warp.cset; split <;> rfl
@[simp] theorem Warp.cset_s : (w.cset p b).s = w.s := by
  unfold Warp.cset; split <;> rfl
@[simp] theorem Warp.cset_banks : (w.cset p b).banks = w.banks := by
  unfold Warp.cset; split <;> rfl
@[simp] theorem Warp.cset_v : (w.cset p b).v = w.v := by
  unfold Warp.cset; split <;> rfl
@[simp] theorem Warp.cset_m : (w.cset p b).m = w.m := by
  unfold Warp.cset; split <;> rfl
@[simp] theorem Warp.cset_live : (w.cset p b).live = w.live := by
  unfold Warp.cset; split <;> rfl
@[simp] theorem Warp.cset_origin : (w.cset p b).origin = w.origin := by
  unfold Warp.cset; split <;> rfl
@[simp] theorem Warp.cset_draws : (w.cset p b).draws = w.draws := by
  unfold Warp.cset; split <;> rfl
@[simp] theorem Warp.cset_block : (w.cset p b).block = w.block := by
  unfold Warp.cset; split <;> rfl
@[simp] theorem Warp.cset_stack : (w.cset p b).stack = w.stack := by
  unfold Warp.cset; split <;> rfl
@[simp] theorem Warp.cset_fork : (w.cset p b).fork = w.fork := by
  unfold Warp.cset; split <;> rfl
@[simp] theorem Warp.cset_level : (w.cset p b).level = w.level := by
  unfold Warp.cset; split <;> rfl
@[simp] theorem Warp.cset_save : (w.cset p b).save = w.save := by
  unfold Warp.cset; split <;> rfl
@[simp] theorem Warp.cset_trap : (w.cset p b).trap = w.trap := by
  unfold Warp.cset; split <;> rfl
@[simp] theorem Warp.cset_partDone : (w.cset p b).partDone = w.partDone := by
  unfold Warp.cset; split <;> rfl
@[simp] theorem Warp.cset_inFlight : (w.cset p b).inFlight = w.inFlight := by
  unfold Warp.cset; split <;> rfl
@[simp] theorem Warp.cset_lcb : (w.cset p b).lcb = w.lcb := by
  unfold Warp.cset; split <;> rfl
@[simp] theorem Warp.cset_fpxEn : (w.cset p b).fpxEn = w.fpxEn := by
  unfold Warp.cset; split <;> rfl
@[simp] theorem Warp.cset_fpxFlags : (w.cset p b).fpxFlags = w.fpxFlags := by
  unfold Warp.cset; split <;> rfl
@[simp] theorem Warp.cset_qlen : (w.cset p b).qlen = w.qlen := by
  unfold Warp.cset; split <;> rfl
@[simp] theorem Warp.cset_acc : (w.cset p b).acc = w.acc := by
  unfold Warp.cset; split <;> rfl
@[simp] theorem Warp.cset_seq : (w.cset p b).seq = w.seq := by
  unfold Warp.cset; split <;> rfl
@[simp] theorem Warp.cset_wait : (w.cset p b).wait = w.wait := by
  unfold Warp.cset; split <;> rfl
@[simp] theorem Warp.cset_pending : (w.cset p b).pending = w.pending := by
  unfold Warp.cset; split <;> rfl
@[simp] theorem Warp.cset_missing : (w.cset p b).missing = w.missing := by
  unfold Warp.cset; split <;> rfl
@[simp] theorem Warp.cset_remote : (w.cset p b).remote = w.remote := by
  unfold Warp.cset; split <;> rfl
@[simp] theorem Warp.cset_fetched : (w.cset p b).fetched = w.fetched := by
  unfold Warp.cset; split <;> rfl
@[simp] theorem Warp.cset_posting : (w.cset p b).posting = w.posting := by
  unfold Warp.cset; split <;> rfl
@[simp] theorem Warp.cset_carrel : (w.cset p b).carrel = w.carrel := by
  unfold Warp.cset; split <;> rfl
@[simp] theorem Warp.cset_quantum : (w.cset p b).quantum = w.quantum := by
  unfold Warp.cset; split <;> rfl
@[simp] theorem Warp.cset_qdone : (w.cset p b).qdone = w.qdone := by
  unfold Warp.cset; split <;> rfl
@[simp] theorem Warp.cset_issued : (w.cset p b).issued = w.issued := by
  unfold Warp.cset; split <;> rfl
@[simp] theorem Warp.cset_qlenNow : (w.cset p b).qlenNow = w.qlenNow := by
  unfold Warp.cset; split <;> rfl
@[simp] theorem Warp.cset_task : (w.cset p b).task = w.task := by
  unfold Warp.cset; split <;> rfl
@[simp] theorem Warp.cset_resident : (w.cset p b).resident = w.resident := by
  unfold Warp.cset; split <;> rfl
@[simp] theorem Warp.cset_evicted : (w.cset p b).evicted = w.evicted := by
  unfold Warp.cset; split <;> rfl
end

/-! ## `Warp.mset` -/

section
variable (w : Warp) (k : MReg) (x : Mask)
@[simp] theorem Warp.mset_id : (w.mset k x).id = w.id := by
  unfold Warp.mset; split <;> rfl
@[simp] theorem Warp.mset_alive : (w.mset k x).alive = w.alive := by
  unfold Warp.mset; split <;> rfl
@[simp] theorem Warp.mset_ident : (w.mset k x).ident = w.ident := by
  unfold Warp.mset; split <;> rfl
@[simp] theorem Warp.mset_gridId : (w.mset k x).gridId = w.gridId := by
  unfold Warp.mset; split <;> rfl
@[simp] theorem Warp.mset_regs : (w.mset k x).regs = w.regs := by
  unfold Warp.mset; split <;> rfl
@[simp] theorem Warp.mset_h1 : (w.mset k x).h1 = w.h1 := by
  unfold Warp.mset; split <;> rfl
@[simp] theorem Warp.mset_h2 : (w.mset k x).h2 = w.h2 := by
  unfold Warp.mset; split <;> rfl
@[simp] theorem Warp.mset_debug : (w.mset k x).debug = w.debug := by
  unfold Warp.mset; split <;> rfl
@[simp] theorem Warp.mset_priv : (w.mset k x).priv = w.priv := by
  unfold Warp.mset; split <;> rfl
@[simp] theorem Warp.mset_pc : (w.mset k x).pc = w.pc := by
  unfold Warp.mset; split <;> rfl
@[simp] theorem Warp.mset_am : (w.mset k x).am = w.am := by
  unfold Warp.mset; split <;> rfl
@[simp] theorem Warp.mset_s : (w.mset k x).s = w.s := by
  unfold Warp.mset; split <;> rfl
@[simp] theorem Warp.mset_banks : (w.mset k x).banks = w.banks := by
  unfold Warp.mset; split <;> rfl
@[simp] theorem Warp.mset_c : (w.mset k x).c = w.c := by
  unfold Warp.mset; split <;> rfl
@[simp] theorem Warp.mset_v : (w.mset k x).v = w.v := by
  unfold Warp.mset; split <;> rfl
@[simp] theorem Warp.mset_live : (w.mset k x).live = w.live := by
  unfold Warp.mset; split <;> rfl
@[simp] theorem Warp.mset_origin : (w.mset k x).origin = w.origin := by
  unfold Warp.mset; split <;> rfl
@[simp] theorem Warp.mset_draws : (w.mset k x).draws = w.draws := by
  unfold Warp.mset; split <;> rfl
@[simp] theorem Warp.mset_block : (w.mset k x).block = w.block := by
  unfold Warp.mset; split <;> rfl
@[simp] theorem Warp.mset_stack : (w.mset k x).stack = w.stack := by
  unfold Warp.mset; split <;> rfl
@[simp] theorem Warp.mset_fork : (w.mset k x).fork = w.fork := by
  unfold Warp.mset; split <;> rfl
@[simp] theorem Warp.mset_level : (w.mset k x).level = w.level := by
  unfold Warp.mset; split <;> rfl
@[simp] theorem Warp.mset_save : (w.mset k x).save = w.save := by
  unfold Warp.mset; split <;> rfl
@[simp] theorem Warp.mset_trap : (w.mset k x).trap = w.trap := by
  unfold Warp.mset; split <;> rfl
@[simp] theorem Warp.mset_partDone : (w.mset k x).partDone = w.partDone := by
  unfold Warp.mset; split <;> rfl
@[simp] theorem Warp.mset_inFlight : (w.mset k x).inFlight = w.inFlight := by
  unfold Warp.mset; split <;> rfl
@[simp] theorem Warp.mset_lcb : (w.mset k x).lcb = w.lcb := by
  unfold Warp.mset; split <;> rfl
@[simp] theorem Warp.mset_fpxEn : (w.mset k x).fpxEn = w.fpxEn := by
  unfold Warp.mset; split <;> rfl
@[simp] theorem Warp.mset_fpxFlags : (w.mset k x).fpxFlags = w.fpxFlags := by
  unfold Warp.mset; split <;> rfl
@[simp] theorem Warp.mset_qlen : (w.mset k x).qlen = w.qlen := by
  unfold Warp.mset; split <;> rfl
@[simp] theorem Warp.mset_acc : (w.mset k x).acc = w.acc := by
  unfold Warp.mset; split <;> rfl
@[simp] theorem Warp.mset_seq : (w.mset k x).seq = w.seq := by
  unfold Warp.mset; split <;> rfl
@[simp] theorem Warp.mset_wait : (w.mset k x).wait = w.wait := by
  unfold Warp.mset; split <;> rfl
@[simp] theorem Warp.mset_pending : (w.mset k x).pending = w.pending := by
  unfold Warp.mset; split <;> rfl
@[simp] theorem Warp.mset_missing : (w.mset k x).missing = w.missing := by
  unfold Warp.mset; split <;> rfl
@[simp] theorem Warp.mset_remote : (w.mset k x).remote = w.remote := by
  unfold Warp.mset; split <;> rfl
@[simp] theorem Warp.mset_fetched : (w.mset k x).fetched = w.fetched := by
  unfold Warp.mset; split <;> rfl
@[simp] theorem Warp.mset_posting : (w.mset k x).posting = w.posting := by
  unfold Warp.mset; split <;> rfl
@[simp] theorem Warp.mset_carrel : (w.mset k x).carrel = w.carrel := by
  unfold Warp.mset; split <;> rfl
@[simp] theorem Warp.mset_quantum : (w.mset k x).quantum = w.quantum := by
  unfold Warp.mset; split <;> rfl
@[simp] theorem Warp.mset_qdone : (w.mset k x).qdone = w.qdone := by
  unfold Warp.mset; split <;> rfl
@[simp] theorem Warp.mset_issued : (w.mset k x).issued = w.issued := by
  unfold Warp.mset; split <;> rfl
@[simp] theorem Warp.mset_qlenNow : (w.mset k x).qlenNow = w.qlenNow := by
  unfold Warp.mset; split <;> rfl
@[simp] theorem Warp.mset_task : (w.mset k x).task = w.task := by
  unfold Warp.mset; split <;> rfl
@[simp] theorem Warp.mset_resident : (w.mset k x).resident = w.resident := by
  unfold Warp.mset; split <;> rfl
@[simp] theorem Warp.mset_evicted : (w.mset k x).evicted = w.evicted := by
  unfold Warp.mset; split <;> rfl
end

/-! ## `Warp.setAm` -/

section
variable (w : Warp) (x : Mask)
@[simp] theorem Warp.setAm_id : (w.setAm x).id = w.id := rfl
@[simp] theorem Warp.setAm_alive : (w.setAm x).alive = w.alive := rfl
@[simp] theorem Warp.setAm_ident : (w.setAm x).ident = w.ident := rfl
@[simp] theorem Warp.setAm_gridId : (w.setAm x).gridId = w.gridId := rfl
@[simp] theorem Warp.setAm_regs : (w.setAm x).regs = w.regs := rfl
@[simp] theorem Warp.setAm_h1 : (w.setAm x).h1 = w.h1 := rfl
@[simp] theorem Warp.setAm_h2 : (w.setAm x).h2 = w.h2 := rfl
@[simp] theorem Warp.setAm_debug : (w.setAm x).debug = w.debug := rfl
@[simp] theorem Warp.setAm_priv : (w.setAm x).priv = w.priv := rfl
@[simp] theorem Warp.setAm_pc : (w.setAm x).pc = w.pc := rfl
@[simp] theorem Warp.setAm_s : (w.setAm x).s = w.s := rfl
@[simp] theorem Warp.setAm_banks : (w.setAm x).banks = w.banks := rfl
@[simp] theorem Warp.setAm_c : (w.setAm x).c = w.c := rfl
@[simp] theorem Warp.setAm_v : (w.setAm x).v = w.v := rfl
@[simp] theorem Warp.setAm_m : (w.setAm x).m = w.m := rfl
@[simp] theorem Warp.setAm_live : (w.setAm x).live = w.live := rfl
@[simp] theorem Warp.setAm_origin : (w.setAm x).origin = w.origin := rfl
@[simp] theorem Warp.setAm_draws : (w.setAm x).draws = w.draws := rfl
@[simp] theorem Warp.setAm_block : (w.setAm x).block = w.block := rfl
@[simp] theorem Warp.setAm_stack : (w.setAm x).stack = w.stack := rfl
@[simp] theorem Warp.setAm_fork : (w.setAm x).fork = w.fork := rfl
@[simp] theorem Warp.setAm_level : (w.setAm x).level = w.level := rfl
@[simp] theorem Warp.setAm_save : (w.setAm x).save = w.save := rfl
@[simp] theorem Warp.setAm_trap : (w.setAm x).trap = w.trap := rfl
@[simp] theorem Warp.setAm_partDone : (w.setAm x).partDone = w.partDone := rfl
@[simp] theorem Warp.setAm_inFlight : (w.setAm x).inFlight = w.inFlight := rfl
@[simp] theorem Warp.setAm_lcb : (w.setAm x).lcb = w.lcb := rfl
@[simp] theorem Warp.setAm_fpxEn : (w.setAm x).fpxEn = w.fpxEn := rfl
@[simp] theorem Warp.setAm_fpxFlags : (w.setAm x).fpxFlags = w.fpxFlags := rfl
@[simp] theorem Warp.setAm_qlen : (w.setAm x).qlen = w.qlen := rfl
@[simp] theorem Warp.setAm_acc : (w.setAm x).acc = w.acc := rfl
@[simp] theorem Warp.setAm_seq : (w.setAm x).seq = w.seq := rfl
@[simp] theorem Warp.setAm_wait : (w.setAm x).wait = w.wait := rfl
@[simp] theorem Warp.setAm_pending : (w.setAm x).pending = w.pending := rfl
@[simp] theorem Warp.setAm_missing : (w.setAm x).missing = w.missing := rfl
@[simp] theorem Warp.setAm_remote : (w.setAm x).remote = w.remote := rfl
@[simp] theorem Warp.setAm_fetched : (w.setAm x).fetched = w.fetched := rfl
@[simp] theorem Warp.setAm_posting : (w.setAm x).posting = w.posting := rfl
@[simp] theorem Warp.setAm_carrel : (w.setAm x).carrel = w.carrel := rfl
@[simp] theorem Warp.setAm_quantum : (w.setAm x).quantum = w.quantum := rfl
@[simp] theorem Warp.setAm_qdone : (w.setAm x).qdone = w.qdone := rfl
@[simp] theorem Warp.setAm_issued : (w.setAm x).issued = w.issued := rfl
@[simp] theorem Warp.setAm_qlenNow : (w.setAm x).qlenNow = w.qlenNow := rfl
@[simp] theorem Warp.setAm_task : (w.setAm x).task = w.task := rfl
@[simp] theorem Warp.setAm_resident : (w.setAm x).resident = w.resident := rfl
@[simp] theorem Warp.setAm_evicted : (w.setAm x).evicted = w.evicted := rfl
@[simp] theorem Warp.setAm_am : (w.setAm x).am = x &&& w.live := rfl
end

end Sys2Proof.Machine
end

