-- ==== Sys2Proof/Laws/Ops.lean ====
section
/-! SUPPORT. What each shared operation of `Machine/Ops.lean` can do: which fields it touches, and how a trap, a halt and a return end. -/

namespace Sys2Proof.Machine

/-! ## Items, values of the pair, messages -/

theorem State.itemAt_frame (s : State) (d : Nat) (v : List Nat) (m : Mask) (a : Nat) : { s.itemAt d v m a with items := s.items } = s := by
  unfold State.itemAt; split <;> rfl

@[simp] theorem State.itemAt_warp (s : State) (d : Nat) (v : List Nat) (m : Mask) (a : Nat) : (s.itemAt d v m a).warp = s.warp := by
  unfold State.itemAt; split <;> rfl

theorem State.item_frame (s : State) (d : Nat) (v : List Nat) : { s.item d v with items := s.items } = s := s.itemAt_frame d v 0 0

@[simp] theorem State.item_warp (s : State) (d : Nat) (v : List Nat) : (s.item d v).warp = s.warp := s.itemAt_warp d v 0 0

theorem State.viaLvq_frame (s : State) (x : Nat) : { (s.viaLvq x).2 with lvq := s.lvq } = s := by
  unfold State.viaLvq
  split
  · split
    · split <;> rfl
    · rfl
  · rfl

/-- Outside a `SHADOW` pair a value goes straight through. -/
theorem State.viaLvq_plain (s : State) (x : Nat) (h : s.warp.isShadowed = false) : s.viaLvq x = (x, s) := by
  simp [State.viaLvq, h]

theorem State.itemAt_plain (s : State) (d : Nat) (v : List Nat) (m : Mask) (a : Nat) (h : s.warp.isShadowed = false) : s.itemAt d v m a = s := by
  simp [State.itemAt, h]

theorem State.item_plain (s : State) (d : Nat) (v : List Nat) (h : s.warp.isShadowed = false) : s.item d v = s := s.itemAt_plain d v 0 0 h

/-- A message changes the buffer of its partition, or its overflow record and the clock. -/
theorem State.pushMsg_frame (s : State) (p : Nat) (m : List Byte) :
    ∃ x f, s.pushMsg p m = { s with parts := Tab.set s.parts p x, fresh := f } ∧
      { x with msgs := (s.part p).msgs, overflow := (s.part p).overflow } = s.part p := by
  unfold State.pushMsg State.now
  dsimp only
  split
  · exact ⟨_, _, rfl, rfl⟩
  · exact ⟨_, _, rfl, rfl⟩

/-! ## The end of a warp -/

theorem State.retire_frame (s : State) (id : Nat) :
    ∃ w os sh ps, s.retire id = { s with warp := w, others := os, shadows := sh, pairs := ps } := by
  unfold State.retire; dsimp only; split
  · exact ⟨_, _, _, _, rfl⟩
  · exact ⟨s.warp, _, _, _, rfl⟩

theorem State.retire_others (s : State) (id : Nat) : (s.retire id).others = s.others.filter fun w => w.id != id := by
  unfold State.retire; dsimp only; split <;> rfl

theorem State.retire_warp (s : State) (id : Nat) :
    (s.retire id).warp = if s.warp.id = id then { s.warp with alive := false } else s.warp := by
  unfold State.retire; dsimp only; split <;> rfl

theorem State.crewAfter_frame (s : State) (g c : Nat) : ∃ cs, s.crewAfter g c = { s with crews := cs } := by
  unfold State.crewAfter; split
  · exact ⟨_, rfl⟩
  · exact ⟨s.crews, rfl⟩

@[simp] theorem State.crewAfter_warp (s : State) (g c : Nat) : (s.crewAfter g c).warp = s.warp := by
  obtain ⟨cs, h⟩ := s.crewAfter_frame g c; rw [h]

/-- `exit` touches the warps, what their shadows have not confirmed, and the crews alone. -/
theorem State.exitWarp_frame (s : State) (w : Warp) :
    { s.exitWarp w with warp := s.warp, others := s.others, shadows := s.shadows, pairs := s.pairs, crews := s.crews } = s := by
  obtain ⟨cs, h⟩ := (s.retire w.id).crewAfter_frame w.ident.grid w.ident.crew
  obtain ⟨x, os, sh, ps, h'⟩ := s.retire_frame w.id
  unfold State.exitWarp
  rw [h, h']

/-- The warp that exits lives no longer. -/
theorem State.exitWarp_alive (s : State) : (s.exitWarp s.warp).warp.alive = false := by
  simp [State.exitWarp, State.retire_warp]

/-! ## Taking an exception -/

/-- A program trap waits for the other arm where that has words on their way or a cause raised before it (R188); else it halts the warp where there is
no handler to go to, and enters the handler of the next level elsewhere (R183). -/
theorem State.trap_cases (s : State) (c : Cause) :
    s.warp.trapHeld = true ∧ s.trap c = (s.itemAt 7 [c.code.toNat, c.mask.toNat] c.mask c.va).upd (·.raiseCause c) ∨
    s.warp.trapHeld = false ∧ ((s.warp.level = 2 ∨ (s.warp.level = 1 ∧ s.warp.h2 = 0)) ∧
        s.trap c = (s.itemAt 7 [c.code.toNat, c.mask.toNat] c.mask c.va).halt cDoubleTrap c.code.toNat c.mask c.va ∨
      s.warp.level = 0 ∧ s.warp.h1 = 0 ∧
        s.trap c = (s.itemAt 7 [c.code.toNat, c.mask.toNat] c.mask c.va).halt c.code.toNat c.detail.toNat c.mask c.va ∨
      ¬(s.warp.level = 2 ∨ (s.warp.level = 1 ∧ s.warp.h2 = 0)) ∧ ¬(s.warp.level = 0 ∧ s.warp.h1 = 0) ∧
        s.trap c = (s.itemAt 7 [c.code.toNat, c.mask.toNat] c.mask c.va).upd (·.enter c (s.warp.level + 1))) := by
  unfold State.trap
  dsimp only
  cases hh : s.warp.trapHeld
  case true => exact .inl ⟨rfl, rfl⟩
  refine .inr ⟨rfl, ?_⟩
  simp only [Bool.false_eq_true, if_false]
  by_cases h : s.warp.level = 2 ∨ (s.warp.level = 1 ∧ s.warp.h2 = 0)
  · exact .inl ⟨h, if_pos h⟩
  · rw [if_neg h]
    by_cases h' : s.warp.level = 0 ∧ s.warp.h1 = 0
    · exact .inr (.inl ⟨h'.1, h'.2, if_pos h'⟩)
    · exact .inr (.inr ⟨h, h', if_neg h'⟩)

/-- What trap entry leaves as it was: everything but the registers that R183 names. -/
theorem Warp.enter_frame (w : Warp) (c : Cause) (n : Fin 3) :
    { w.enter c n with
      trap := w.trap, save := w.save, partDone := w.partDone, inFlight := w.inFlight, block := w.block, level := w.level, wait := w.wait, qdone := w.qdone,
      fork := w.fork, am := w.am, pc := w.pc } = w := rfl

@[simp] theorem Warp.enter_level (w : Warp) (c : Cause) (n : Fin 3) : (w.enter c n).level = n := rfl
@[simp] theorem Warp.enter_pc (w : Warp) (c : Cause) (n : Fin 3) : (w.enter c n).pc = if n = 1 then w.h1 else w.h2 := rfl
@[simp] theorem Warp.enter_block (w : Warp) (c : Cause) (n : Fin 3) : (w.enter c n).block = none := rfl
@[simp] theorem Warp.enter_partDone (w : Warp) (c : Cause) (n : Fin 3) : (w.enter c n).partDone = 0 := rfl

/-- `rett` is illegal at level 0, traps where the depth of the mask stack is not that of its record, and returns otherwise (R186). -/
theorem State.rett_cases (s : State) (enc : Nat) (skip : Bool) :
    s.warp.level = 0 ∧ s.rett enc skip = s.illegalScalar enc 4 ∨
      s.warp.level ≠ 0 ∧ s.warp.stack.length ≠ (vget s.warp.save (s.warp.level.val - 1) .zero).depth ∧
        s.rett enc skip = s.trapScalar cStackOvf 3 4 ∨
      s.warp.level ≠ 0 ∧ s.warp.stack.length = (vget s.warp.save (s.warp.level.val - 1) .zero).depth ∧
        s.rett enc skip = s.upd (·.leave skip) := by
  unfold State.rett
  dsimp only
  by_cases h : s.warp.level = 0
  · exact .inl ⟨h, if_pos h⟩
  · rw [if_neg h]
    by_cases h' : s.warp.stack.length = (vget s.warp.save (s.warp.level.val - 1) .zero).depth
    · exact .inr (.inr ⟨h, h', if_neg (not_not.mpr h')⟩)
    · exact .inr (.inl ⟨h, h', if_pos h'⟩)

/-! ## Mode checks -/

theorem State.unforked_plain (s : State) (n : Nat) (k : State → State) (h : s.warp.fork = none) : s.unforked n k = k s := by
  simp [State.unforked, h]

theorem State.fullMask_plain (s : State) (n : Nat) (k : State → State) (h : s.warp.am = s.warp.live) : s.fullMask n k = k s := by
  simp [State.fullMask, h]

@[simp] theorem State.modeIf_false (s : State) (d : Nat) (k : State → State) : s.modeIf false d k = k s := rfl
@[simp] theorem State.modeIf_true (s : State) (d : Nat) (k : State → State) : s.modeIf true d k = s.trapScalar cMode d 4 := rfl

/-! ## The open block -/

/-- A lane word that is done changes the block, the lanes that are done and the count of issues alone. -/
theorem Warp.laneDone_frame (w : Warp) : { w.laneDone with block := w.block, partDone := w.partDone, inFlight := w.inFlight, issued := w.issued } = w := by
  unfold Warp.laneDone
  split
  · rfl
  · dsimp only; split <;> rfl

end Sys2Proof.Machine
end

