-- ==== Sys2Proof/Laws/Scalar.lean ====
section
/-! SUPPORT. Registers after a write of one, and the forms of answer of the scalar words. -/

namespace Sys2Proof

open Sys2Proof.Machine

/-- A scalar register, in the bank of any level, after a write of one. -/
theorem sget_sset (w : Warp) (d : SReg) (v : W64) (k : Fin 3) (r : SReg) : (atLevel (w.sset d v) k).sget r =
      if r = d ∧ d ≠ 0 ∧ (r.toNat < 56 ∨ k = w.level) then v else (atLevel w k).sget r := by
  have h1 := r.isLt
  by_cases hd : d = 0
  · simp [Warp.sset, hd]
  by_cases hr : r = 0
  · have : r ≠ d := by rintro rfl; exact hd hr
    simp [Warp.sget, hr, this, hd]
    intro h; exact absurd h.symm hd
  by_cases hd5 : d.toNat < 56
  · by_cases hr5 : r.toNat < 56
    · by_cases h : r = d
      · subst h; simp only [atLevel, Warp.sget, Warp.sset, if_neg hd, dif_pos hd5]; simp [hd5]; exact fun e => absurd e hd
      · have : d.toNat ≠ r.toNat := fun e => h (BitVec.eq_of_toNat_eq e.symm)
        simp only [atLevel, Warp.sget, Warp.sset, if_neg hd, if_neg hr, dif_pos hd5, dif_pos hr5]; simp [h, this]
    · have : r ≠ d := by rintro rfl; exact hr5 hd5
      simp only [atLevel, Warp.sget, Warp.sset, if_neg hd, if_neg hr, dif_pos hd5, dif_neg hr5]; simp [this]
  · by_cases hr5 : r.toNat < 56
    · have : r ≠ d := by rintro rfl; exact hd5 hr5
      simp only [atLevel, Warp.sget, Warp.sset, if_neg hd, if_neg hr, dif_neg hd5, dif_pos hr5]; simp [this]
    · simp only [atLevel, Warp.sget, Warp.sset, if_neg hd, if_neg hr, dif_neg hd5, dif_neg hr5, vget, vset, Vector.get_eq_getElem]
      have h2 := d.isLt
      by_cases hk : k = w.level
      · subst hk
        by_cases h : r = d
        · subst h; simp [show r.toNat - 56 < 8 by omega]; exact fun e => absurd e hd
        · have : d.toNat - 56 ≠ r.toNat - 56 := fun e => h (BitVec.eq_of_toNat_eq (by omega))
          simp [h, this]
      · have : w.level.val ≠ k.val := fun e => hk (Fin.ext e.symm)
        simp [hk, hr5, this]

theorem regsWith_sset (w : Warp) (d : SReg) (v : W64) : regsWith (w.sset d v) w d v := fun k r => sget_sset w d v k r

theorem regsWith_pc {t s : Warp} {d : SReg} {v : W64} (h : regsWith t s d v) (pc : W64) : regsWith { t with pc := pc } s d v := h

theorem onlyRegs_sset (w : Warp) (d : SReg) (v pc : W64) : onlyRegs { w.sset d v with pc := pc } w := by
  unfold onlyRegs Warp.sset
  split
  · rfl
  · split <;> rfl

/-- A predicate after a write of one. -/
theorem cget_cset (w : Warp) (p q : PReg) (b : Bool) : (w.cset p b).cget q = if q = p ∧ p ≠ 7 then b else w.cget q := by
  revert q
  unfold Warp.cset Warp.cget
  intro q
  by_cases hp : p = 7
  · simp [hp]
  · by_cases hq : q = 7
    · have h : q ≠ p := fun h => hp (h ▸ hq)
      rw [if_pos hq, if_pos hq, if_neg fun c => h c.1]
    · rw [if_neg hq, if_neg hq, if_neg hp]
      show (setBit w.c p.toNat b).getLsbD q.toNat = _
      rw [getLsbD_setBit w.c p.toNat q.toNat b q.isLt]
      simp only [ne_eq, hp, not_false_eq_true, and_true, BitVec.toNat_inj]

/-- A word that writes a scalar register and advances. -/
theorem writesRegAt_intro {i : Instr} {s : State} {d : SReg} {v pc : W64}
    (h : exec i s = .next { s with warp := { s.warp.sset d v with pc := pc } }) : writesRegAt i s d v pc :=
  ⟨_, h, rfl, regsWith_pc (regsWith_sset s.warp d v) pc, onlyRegs_sset s.warp d v pc, rfl⟩

theorem writesReg_intro {i : Instr} {s : State} {d : SReg} {v : W64} {n : Nat} (h : exec i s = .next ((s.sset d v).adv n)) :
    writesReg i s d v n := by
  apply writesRegAt_intro
  rw [h]
  simp [State.adv, State.sset, State.upd]

/-- A word that writes a predicate and advances. -/
theorem writesPred_intro {i : Instr} {s : State} {c : PReg} {b : Bool} {n : Nat}
    (h : exec i s = .next ((s.upd fun w => w.cset c b).adv n)) : writesPred i s c b n := by
  refine ⟨_, h, ?_, ?_, ?_, rfl⟩
  · simp
  · intro p; exact cget_cset s.warp c p b
  · simp only [State.adv_warp, State.upd_warp]; unfold Warp.cset; split <;> rfl

end Sys2Proof
end

