-- ==== Sys2Proof/Tests/WitnessWarp.lean ====
section
/-! SUPPORT. Witnesses: for every statement with hypotheses, concrete states and operands that meet them, clause by clause. -/

open Sys2Proof Sys2Proof.Machine

namespace Sys2Proof.Tests

set_option Elab.async false

/-- A warp that lives, in a module with nothing else. -/
def tw : Warp := { Warp.blank with id := 1, alive := true, regs := 64 }
def ts : State := { State.reset with warp := tw }
/-- That module with its warp changed. -/
def tsw (f : Warp → Warp) : State := { ts with warp := f tw }
/-- A program page is loaded at 0x1000, readable, writable and executable. -/
def ld : State := State.reset.loaded false
def trOf (s : State) (va : Nat) : Trans :=
  match s.xlate s.warp.ident.part va with
  | .ok t => t
  | _ => ⟨0, 0, .remote, 0, 0⟩
/-- An arm with nothing in it, and a fork whose other arm it is. -/
def tArm : Arm :=
  { pc := 0, am := 2, s := Vector.replicate 56 0, bank := Vector.replicate 8 0, c := 0x80, block := none, stack := [], wait := .none, pending := none,
    partDone := 0, inFlight := false }
def tFork : Fork := ⟨BitVec.allOnes 64, 0, 0, 0, 1, 2, 0, tArm, false, none⟩
/-- A record of an interrupted scalar word at stack depth 0. -/
def tRec : SaveRec := ⟨false, 0, 4, none, 0, 1, true, 0, false⟩
/-- A block of one word. -/
def tBlock : Block := ⟨0, 0, 0, 1, 0, BitVec.allOnes 64, Vector.replicate 64 0, Vector.replicate 4 (Vector.replicate 64 0), 0⟩
/-- A task without a store. -/
def tTask : Task := ⟨List.replicate 15 0, 1, [], [], [], false⟩
/-- `GRID_ID` of a `DET` launch. -/
def detId : W64 := 0x0100000000000000

/-! ## Scalar words -/

theorem witness_Branches :
    (ts.sget 63).toNat % 4 = 0 ∧ (ts.sget 5).toNat % 4 = 0 ∧ (tsw fun w => { w with am := 0 }).warp.am = 0 ∧ ts.warp.am ≠ 0 := by decide +kernel

theorem witness_ScalarTraps_align :
    let s := (ts.sset 63 2).sset 1 1
    (s.sget 63).toNat % 4 ≠ 0 ∧ (s.sget 1).toNat % 4 ≠ 0 ∧ ∀ n ∈ [2, 4, 8], (s.sget 1 + (0#14).signExtend 64).toNat % n ≠ 0 ∧
      (s.sget 1 + (0#32).signExtend 64).toNat % n ≠ 0 := by decide +kernel

theorem witness_ScalarTraps_rett :
    ts.warp.level = 0 ∧ (tsw fun w => { w with level := 1, stack := [⟨0, 0, 0, 0⟩] }).warp.level ≠ 0 ∧
      (tsw fun w => { w with level := 1, stack := [⟨0, 0, 0, 0⟩] }).warp.stack.length ≠ (vget ts.warp.save 0 .zero).depth := by decide +kernel

theorem witness_ScalarTraps_matrix :
    (tsw fun w => { w with fork := some tFork }).warp.fork ≠ none ∧ (tsw fun w => { w with am := 1 }).warp.am ≠ ts.warp.live ∧ ts.warp.fork = none ∧
      ts.warp.am = ts.warp.live ∧ (tsw fun w => { w with task := some tTask }).warp.task ≠ none ∧ ts.warp.task = none ∧
      vget ts.warp.acc 3 none = none := by decide +kernel

theorem witness_ScalarTraps_privilege : ts.warp.fork = none ∧ ts.warp.task = none ∧ ts.warp.priv = false := by decide +kernel

theorem witness_ScalarLoads : ∀ n ∈ [1, 2, 4, 8], plainAccess ld accRead n 0x1000 (trOf ld 0x1000) ∧ atHome ld (trOf ld 0x1000) n := by
  unfold plainAccess atHome; decide +kernel

theorem witness_ScalarStores : (∀ n ∈ [1, 2, 4, 8], plainAccess ld accWrite n 0x1000 (trOf ld 0x1000)) ∧ still ld := by
  unfold plainAccess still; decide +kernel

theorem witness_ScalarStores_carrel :
    let s := { ld with warp := { ld.warp with gridId := ld.warp.gridId ||| detId } }
    permCheck accWrite (s.xlate s.warp.ident.part 0x1000) = .ok (trOf ld 0x1000) ∧ (trOf ld 0x1000).place = .device ∧ s.warp.isShadowed = false ∧
      s.warp.buffered = true ∧ s.warp.task = none ∧ s.warp.carrel.length < 2048 ∧ pteMode (trOf ld 0x1000).entry ≠ 1 := by decide +kernel

theorem witness_AccessMarksLeaf : ld.xlate 0 0x1000 = .ok (trOf ld 0x1000) := by decide +kernel

/-! ## Control and traps -/

theorem witness_SplitAndJoin_split :
    let m : Mask := 0x0F
    let s := tsw fun w => w.mset 1 m
    s.warp.am &&& s.warp.mget 1 ≠ 0 ∧ s.warp.am &&& ~~~(s.warp.mget 1) ≠ 0 ∧ s.warp.fork = none ∧ s.warp.stack.length ≠ 32 ∧
      (tsw fun w => { w with am := 0 }).warp.am = 0 ∧ (tsw fun w => { w with fork := some tFork }).warp.fork ≠ none ∧
      (tsw fun w => { w with stack := List.replicate 32 ⟨0, 0, 0, 0⟩ }).warp.stack.length = 32 := by decide +kernel

theorem witness_SplitAndJoin_join :
    let e : StackEnt := ⟨1, 2, 8, 0⟩
    let s := tsw fun w => { w with stack := [e] }
    s.warp.stack = [e] ∧ (s.warp.fork = none) ∧ e.jn = s.warp.pc ∧ e.pending ≠ 0 ∧ { e with jn := 4 }.jn ≠ s.warp.pc ∧ { e with pending := 0 }.pending = 0 ∧
      ts.warp.stack = [] ∧ (tsw fun w => { w with fork := some tFork }).warp.stack.length ≤ tFork.b0 ∧ tFork.jn = ts.warp.pc ∧
      tFork.other.wait ≠ .joined ∧ { tFork with other := { tArm with wait := .joined } }.other.wait = .joined ∧ { tFork with jn := 4 }.jn ≠ ts.warp.pc := by
  decide +kernel

theorem witness_SpecialRegisters :
    let one := tsw fun w => { w with am := 0x10 }
    one.warp.am.getLsbD 4 = true ∧ (∀ k < 4, one.warp.am.getLsbD k = false) ∧ (tsw fun w => { w with am := 0 }).warp.am = 0 ∧ ts.warp.isTwin = false ∧
      (0x1FF#9).toNat ∉ [0, 1, 2, 3, 4, 5, 6, 8, 9, 10, 16, 17, 18, 19, 20, 21, 24, 25, 26, 27, 32, 33] ∧ ts.warp.isShadowed = false ∧ ts.warp.fork = none ∧
      (tsw fun w => { w with fork := some tFork }).warp.fork ≠ none ∧ (0x000#9).toNat ∉ [0x008, 0x00A, 0x011, 0x019, 0x01A, 0x01B] := by decide +kernel

theorem witness_SpecialRegisters_loc :
    let q (x : W64) : W64 := (ts.sset 1 x).sget 1
    let s := { ts with teams := [⟨0, 0, some 3, some 50, Vector.replicate 4 0, Vector.replicate 4 0, Vector.replicate 4 0⟩] }
    ((q 8).extractLsb' 60 4 = 0 ∧ q 8 ≠ 0) ∧ (s.sget 1 = 0 ∧ (s.team? s.warp.ident.grid s.warp.ident.team).bind (·.shelf) = some 3) ∧
      ((q 0x1E00000000000000).extractLsb' 60 4 = 1 ∧ (q 0x1E00000000000000).extractLsb' 57 3 ≠ 0) ∧
      ((q 0x20000000000000FF).extractLsb' 60 4 = 2 ∧ (q 0x20000000000000FF).extractLsb' 8 52 = 0) ∧
      ((q 0x300000000000007F).extractLsb' 60 4 = 3 ∧ (q 0x300000000000007F).extractLsb' 7 53 = 0) ∧ 3 < ((q 0x4000000000000000).extractLsb' 60 4).toNat := by
  decide +kernel

theorem witness_TrapEntry :
    let s := tsw fun w => { w with h1 := 0x100, h2 := 0x200 }
    s.warp.debug = false ∧ s.warp.isShadowed = false ∧ (1 : Fin 3) = s.warp.level + 1 ∧ (1 : Fin 3) ≠ 0 ∧ s.warp.h1 ≠ 0 ∧
      (2 : Fin 3) = (1 : Fin 3) + 1 ∧ s.warp.h2 ≠ 0 := by decide +kernel

theorem witness_WarpEnds :
    ts.warp.isShadowed = false ∧ (ts.warp.level = 0 ∧ ts.warp.h1 = 0) ∧
      ((tsw fun w => { w with level := 1 }).warp.level = 1 ∧ ts.warp.h2 = 0) ∧ (tsw fun w => { w with level := 2 }).warp.level = 2 ∧
      ((ts.part 0).msgs.length < 1023 ∧ (ts.part 0).overflow = none) ∧ ts.warp.det = false ∧
      (tsw fun w => { w with fork := some tFork }).warp.fork ≠ none := by decide +kernel

theorem witness_Return :
    let s (r : SaveRec) := tsw fun w => { w with level := 1, save := Vector.replicate 2 r }
    (s tRec).warp.level ≠ 0 ∧ (s tRec).warp.stack.length = (vget (s tRec).warp.save 0 .zero).depth ∧ tRec.redirect = false ∧ tRec.lanew = false ∧
      { tRec with redirect := true }.redirect = true ∧ { tRec with lanew := true, block := some tBlock, next := false }.block = some tBlock := by decide +kernel


/-! ## Lane words -/

/-- An all-zero header: destination `v0` (or `m0`), every source `v0`, no guard, no latch. -/
def tHdr : LaneHdr := ⟨false, 0, .v 0, .v 0, .v 0, ⟨0, 0, false, false, false⟩, none, 0, 0, false, 0⟩
/-- A warp with a block of one word open. -/
def tb : State := tsw fun w => { w with block := some tBlock }
/-- The checks of R66 for a word with the all-zero header. -/
def tReady (s : State) (b : Block) (i : Instr) : Bool :=
  i.wf && (match i.laneShape with
    | some (h, sh, _) => h == tHdr && (laneRegs h sh).all (fun r => decide (r < s.warp.regs)) && deadLatch h b == none &&
        fillNeed s.warp (activeLanes s.warp b h) (laneRegs h sh) == []
    | none => false)

theorem tReady_ready {s : State} {b : Block} {i : Instr} (hb : s.warp.block = some b) (h : tReady s b i = true) : laneReady i s b tHdr := by
  unfold tReady at h
  rw [Bool.and_eq_true] at h
  obtain ⟨hw, h⟩ := h
  cases hs : i.laneShape with
  | none => rw [hs] at h; simp at h
  | some x =>
    obtain ⟨h', sh, own⟩ := x
    rw [hs] at h
    simp only [Bool.and_eq_true, beq_iff_eq, List.all_eq_true, decide_eq_true_eq] at h
    obtain ⟨⟨⟨rfl, hr⟩, hd⟩, hf⟩ := h
    exact ⟨hb, hw, sh, own, hs, hr, hd, hf⟩

/-- The words of the statements about lane arithmetic, exchange and reduction, in one form each. -/
def tLaneWords : List Instr :=
  [.iadd tHdr .i32 true, .isub tHdr .n32 false, .imad tHdr .i64 true, .imul tHdr .n64, .imulh tHdr .i32, .imin tHdr .i64, .imax tHdr .n32, .iabs tHdr .i32 true,
   .iset tHdr .i32 .lt .conj, .dp4 tHdr .i8 .rne true true, .dp8 tHdr true false true, .and tHdr .b32, .or tHdr .n64, .xor tHdr .b32, .not tHdr .b32,
   .mov tHdr .n64, .brev tHdr .b32, .sel tHdr .b32 true 1, .shl tHdr .b32 true, .shr tHdr .n64 false, .sar tHdr .b32 true, .popc tHdr .n64, .clz tHdr .b32,
   .bfi tHdr, .bfe tHdr true, .shfl tHdr .b32 .up false, .vote tHdr .ballot, .vote tHdr .any, .matchLanes tHdr .b32, .laneid tHdr .rank,
   .xred tHdr .f32 .add false, .xscan tHdr .i32 .add true false]
/-- The words of the statements about floating point. -/
def tFloatWords : List Instr :=
  [.fadd tHdr .f32 .rne true false, .fsub tHdr .f64 .sto false true, .fmul tHdr .f32 .rup false false, .ffma tHdr .f64 .rdn true true, .fmin tHdr .f32 true,
   .fmax tHdr .f64 false, .fset tHdr .f32 .lt, .frnd tHdr .f32 .rtz true, .fclass tHdr .f64, .pkfma tHdr .bf16 .rne false true, .dp4 tHdr .e4m3 .rne false false,
   .dp4 tHdr .e5m2 .sto false false, .cvt tHdr ⟨.flt .f32, .int .i32, .rne, false, false, 0, 0⟩, .rcp tHdr, .rsq tHdr, .sqrt tHdr, .exp2 tHdr, .log2 tHdr,
   .sin tHdr, .cos tHdr, .tanh tHdr]

theorem witness_LaneArithmetic_LaneBits_LaneExchange_LaneReduce : ∀ i ∈ tLaneWords, laneReady i tb tBlock tHdr := by
  have h : ∀ i ∈ tLaneWords, tReady tb tBlock i = true := by decide +kernel
  exact fun i hi => tReady_ready rfl (h i hi)

theorem witness_LaneFloat_SpecialFunctions : ∀ i ∈ tFloatWords, laneReady i tb tBlock tHdr := by
  have h : ∀ i ∈ tFloatWords, tReady tb tBlock i = true := by decide +kernel
  exact fun i hi => tReady_ready rfl (h i hi)

/-- Some lanes raise flags, one of which is enabled: the premise of `laneTraps`. -/
theorem witness_LaneFloat_traps : raisedBy 1 (fun _ => (0, 2)) 2 ∧ ((2 : Flags) &&& 2).getLsbD 1 = true ∧ ∀ j < 1, ((2 : Flags) &&& 2).getLsbD j = false := by
  refine ⟨fun k => ?_, by decide, by decide⟩
  constructor
  · intro h; exact ⟨0, by decide, by decide, h⟩
  · rintro ⟨l, -, -, h⟩; exact h

theorem witness_SpecialFunctions_nan : fval .f32 (0x7F800001 : W32).toNat = .nan true false 1 := by decide +kernel

theorem witness_FloatRules : (1 : Nat) ≠ 0 ∧ (FVal.nan true false 1).isNaN = true := by decide

/-! ## Lane memory -/

/-- One page of host memory at 0x1000 with A and D set, `v0` holding that address in every lane, and a block open with two active lanes. -/
def lmBlock : Block := { tBlock with am := 3 }
def lm : State :=
  let s := ld.devWrite (loadRoot + 4 * 4096 + 8) (natToBytes 8 0x397)
  { s with warp := { s.warp with block := some lmBlock, v := vset s.warp.v 0 (Vector.replicate 64 0x1000) } }
def lmTr (_ : Nat) : Trans := trOf lm 0x1000
def tIdx : IdxArgs := ⟨.w8, false, .x1, 0⟩
def tAtom : AtomArgs := ⟨.add, false, .crew, .rlx, .unp, 0⟩

theorem lm_quiet : quiet lm ∧ still lm := by unfold quiet still; decide +kernel

theorem lm_plain (l : Nat) :
    (plainAccess lm accRead 1 0x1000 (lmTr l) ∧ plainAccess lm accWrite 4 0x1000 (lmTr l) ∧ plainAccess lm accAtomic 8 0x1000 (lmTr l)) ∧
      atHome lm (lmTr l) 4 ∧ (marked lm (lmTr l) false ∧ marked lm (lmTr l) true) ∧ (lmTr l).place ≠ .device ∧
      lm.placePoisoned (lmTr l).place (lmTr l).pa 8 = false := by
  unfold plainAccess atHome marked lmTr; decide +kernel

theorem witness_LaneLoads :
    laneReady (.ld tHdr .n8 none) lm lmBlock tHdr ∧ laneReady (.ldx tHdr .n8 tIdx) lm lmBlock tHdr ∧ laneReady (.pref tHdr) lm lmBlock tHdr ∧
      (∀ l < 2, (laneView lm lmBlock tHdr).va l = 0x1000) ∧ 3 = lanesLeft lm lmBlock tHdr :=
  ⟨tReady_ready rfl (by decide +kernel), tReady_ready rfl (by decide +kernel), tReady_ready rfl (by decide +kernel), by decide +kernel, by decide +kernel⟩

theorem witness_LaneStores :
    laneReady (.st tHdr .n8 none) lm lmBlock tHdr ∧ laneReady (.stx tHdr .n8 tIdx) lm lmBlock tHdr ∧ lm.releaseReady .sys = true :=
  ⟨tReady_ready rfl (by decide +kernel), tReady_ready rfl (by decide +kernel), by decide +kernel⟩

theorem witness_Atomics :
    laneReady (.atom tHdr .b32 tAtom) lm lmBlock tHdr ∧ laneReady (.ared tHdr .b32 tAtom) lm lmBlock tHdr ∧ tAtom.spad = false ∧ lm.warp.det = false ∧
      lm.warp.task = none ∧ tAtom.use ≠ .qtm ∧ tAtom.use ≠ .spc ∧ (laneView lm lmBlock tHdr).atomAddr tAtom 1 = 0x1000 ∧ lm.releaseReady .sys = true :=
  ⟨tReady_ready rfl (by decide +kernel), tReady_ready rfl (by decide +kernel), by decide +kernel⟩

/-- The loaded module with offset 0x200000 (buffer A of the own crew) in `v0`. -/
def lbuf : State :=
  { ld with warp := { ld.warp with block := some lmBlock, v := vset ld.warp.v 0 (Vector.replicate 64 0x200000) } }

theorem witness_BufferLoads_BufferStores_AtomicForms :
    quiet lbuf ∧ lbuf.warp.task = none ∧ (∀ i ∈ [Instr.lds tHdr .n8, .sts tHdr .n8, .ldb tHdr .n8 .a .x1, .stb tHdr .n8 .a .x1, .atom tHdr .b32 { tAtom with spad := true },
      .ared tHdr .b32 { tAtom with spad := true }], laneReady i lbuf lmBlock tHdr) ∧ lbuf.releaseReady .sys = true ∧
    (∀ l < 2, (laneView lbuf lmBlock tHdr).sa l = 0x200000 ∧ lbuf.scratch lbuf.warp 0x200000 true false = .ok ⟨lbuf.warp.ident.crew, 1, 0⟩ ∧
      lbuf.scratch lbuf.warp 0x200000 false false = .ok ⟨lbuf.warp.ident.crew, 1, 0⟩ ∧ lbuf.scratch lbuf.warp 0x200000 true true = .ok ⟨lbuf.warp.ident.crew, 1, 0⟩ ∧
      (lbuf.bufMem lbuf.warp.ident.grid ⟨lbuf.warp.ident.crew, 1, 0⟩).poisoned 0 8 = false ∧ lbuf.crew? lbuf.warp.ident.grid lbuf.warp.ident.crew ≠ none) ∧
    (∀ l < 2, (laneView tb tBlock tHdr).sa l < 2 ^ 19) := by
  have h : ∀ i ∈ [Instr.lds tHdr .n8, .sts tHdr .n8, .ldb tHdr .n8 .a .x1, .stb tHdr .n8 .a .x1, .atom tHdr .b32 { tAtom with spad := true },
      .ared tHdr .b32 { tAtom with spad := true }], tReady lbuf lmBlock i = true := by decide +kernel
  refine ⟨by unfold quiet; decide +kernel, by decide +kernel, fun i hi => tReady_ready rfl (h i hi), by decide +kernel, by decide +kernel, by decide +kernel⟩

theorem witness_AtomicForms_modes :
    let det := tsw fun w => { w with gridId := detId }
    let task := tsw fun w => { w with task := some tTask }
    task.warp.task ≠ none ∧ ts.warp.det = false ∧ det.warp.det = true ∧ ts.warp.task = none ∧ task.warp.det = false := by decide +kernel

end Sys2Proof.Tests
end

