-- ==== Sys2Proof/Tests/Slice0.lean ====
section
/-! SUPPORT. Tests on fixed values: terms that WellFormed refuses, words printed in the spec, and single steps with results that the spec states. -/

open Sys2Proof Sys2Proof.Machine

namespace Sys2Proof.Tests

set_option Elab.async false

/-! ## Terms that no encoding holds: one for each check of WellFormed -/

def xHdr (a b c : Src) (dest : BitVec 8) : LaneHdr := { tHdr with dest := dest, a := a, b := b, c := c }

/-- R76: a field that the word does not use is zero. -/
theorem test_ill_unused : (Instr.not (xHdr (.v 1) (.v 1) (.v 0) 0) .b32).wf = false := by decide
/-- R77: slot 0x03 is not for a 32-bit operand, slot 0x02 not for a 64-bit one. -/
theorem test_ill_slot32 : (Instr.iadd (xHdr (.imm .f64) (.v 0) (.v 0) 0) .i32 false).wf = false := by decide
theorem test_ill_slot64 : (Instr.iadd (xHdr (.imm .f32) (.v 0) (.v 0) 0) .i64 false).wf = false := by decide
/-- R77: a packed immediate is a 16-bit pattern. -/
theorem test_ill_packed_bit : (Instr.iadd { xHdr (.imm .pk) (.v 0) (.v 0) 0 with imm := 0x10000 } .i32 false).wf = false := by decide
/-- R149: `pkfma` takes no other slot than the packed one. -/
theorem test_ill_packed : (Instr.pkfma (xHdr (.imm .sx) (.v 0) (.v 0) 0) .f16 .rne false false).wf = false := by decide
/-- R126: a 64-bit operand is an even lane register, and no latch. -/
theorem test_ill_odd : (Instr.iadd (xHdr (.v 1) (.v 0) (.v 0) 0) .i64 false).wf = false := by decide
theorem test_ill_latch64 : (Instr.iadd (xHdr (.b 0) (.v 0) (.v 0) 0) .i64 false).wf = false := by decide
/-- R166: an address operand is no immediate. -/
theorem test_ill_address : (Instr.ld (xHdr (.imm .sx) (.v 0) (.v 0) 0) .b32 none).wf = false := by decide
theorem test_ill_address32 : (Instr.lds (xHdr (.imm .sx) (.v 0) (.v 0) 0) .b32).wf = false := by decide
/-- R168: a run begins at a multiple of its length, and its count suits the type. -/
theorem test_ill_run : (Instr.stb (xHdr (.v 0) (.v 3) (.v 0) 0) .b32 .a .x2).wf = false := by decide
theorem test_ill_run_dest : (Instr.ldb (xHdr (.v 0) (.v 0) (.v 0) 2) .b32 .a .x4).wf = false := by decide
theorem test_ill_count : (Instr.ldb (xHdr (.v 0) (.v 0) (.v 0) 0) .i8 .a .x2).wf = false := by decide
/-- R76: imm17 is zero where no source names the slot; R152: a lane shift has three bits, and `vote` has none. -/
theorem test_ill_imm : (Instr.iadd { xHdr (.v 1) (.v 2) (.v 0) 3 with imm := 1 } .i32 false).wf = false := by decide
theorem test_ill_shift : (Instr.shfl { xHdr (.v 1) (.v 0) (.v 0) 3 with imm := 8 } .b32 .up true).wf = false := by decide
theorem test_ill_vote : (Instr.vote { xHdr (.imm .sx) (.v 0) (.v 0) 4 with imm := 1 } .ballot).wf = false := by decide
/-- R79, R81: a suppressed write names `v0`, a store no destination, a mask one of sixteen, a pair an even register and no latch. -/
theorem test_ill_suppressed : (Instr.iadd { xHdr (.v 1) (.v 2) (.v 0) 3 with wbs := true } .i32 false).wf = false := by decide
theorem test_ill_store_dest : (Instr.st (xHdr (.v 2) (.v 1) (.v 0) 3) .b32 none).wf = false := by decide
theorem test_ill_mask_dest : (Instr.iset (xHdr (.v 2) (.v 1) (.v 0) 16) .i32 .eq .set).wf = false := by decide
theorem test_ill_pair_dest : (Instr.mov (xHdr (.v 2) (.v 0) (.v 0) 3) .n64).wf = false := by decide
theorem test_ill_pair_latch : (Instr.mov { xHdr (.v 2) (.v 0) (.v 0) 4 with latch := some 0 } .n64).wf = false := by decide
/-- R82: hints 6 and 7 do not exist, and only memory words have one. -/
theorem test_ill_hint : (Instr.ld { xHdr (.v 2) (.v 0) (.v 0) 4 with hint := 6 } .b32 none).wf = false := by decide
theorem test_ill_hint_arith : (Instr.iadd { xHdr (.v 2) (.v 0) (.v 0) 4 with hint := 1 } .i32 false).wf = false := by decide
/-- R144: no integer to integer, no type to itself, saturation to narrow types only, and no position beyond the word. -/
def cvtWf (dst src : CvtTy) (sat : Bool) (se de : BitVec 3) (insert : Bool) : Bool := (Instr.cvt tHdr ⟨dst, src, .rne, insert, sat, se, de⟩).wf
theorem test_ill_cvt :
    cvtWf (.int .i32) (.int .n32) false 0 0 false = false ∧ cvtWf (.flt .f32) (.flt .f32) false 0 0 false = false ∧
      cvtWf (.flt .f16) (.flt .f32) true 0 0 false = false ∧ cvtWf (.flt .f32) (.flt .f16) false 2 0 false = false ∧
      cvtWf (.flt .f16) (.flt .f32) false 0 2 false = false ∧ cvtWf (.flt .f64) (.flt .f32) false 0 0 true = false := by decide
/-- R150: `dp4` of integers does not round, and of floats does not saturate. -/
theorem test_ill_dp4 : (Instr.dp4 tHdr .i8 .rtz false false).wf = false ∧ (Instr.dp4 tHdr .e4m3 .rne false true).wf = false := by decide
/-- R154: no bitwise reduction of floats, and the NaN rule for minimum and maximum of floats only. -/
theorem test_ill_xred : (Instr.xred tHdr .f32 .xor false).wf = false ∧ (Instr.xred tHdr .i32 .min true).wf = false := by decide
/-- R174: combinations of an atomic's fields. -/
theorem test_ill_atomic :
    (Instr.atom tHdr .f32 { tAtom with op := .inc }).wf = false ∧ (Instr.atom tHdr .b32 { tAtom with ord := .acq, use := .com }).wf = false ∧
      (Instr.atom tHdr .b32 { tAtom with op := .cas, use := .com }).wf = false ∧ (Instr.atom tHdr .b32 { tAtom with spad := true, scope := .sys }).wf = false ∧
      (Instr.ared tHdr .b32 { tAtom with op := .exch }).wf = false ∧ (Instr.ared tHdr .b32 { tAtom with ord := .acq }).wf = false := by decide
/-- R246: descriptor registers are even and not `s0`, and a triple ends at `s62`. -/
theorem test_ill_descriptor :
    (Instr.mma 0 3 4 false false).wf = false ∧ (Instr.accSt 0 0).wf = false ∧ (Instr.mmg 0 2 62 false).wf = false := by decide

/-! ## Words that the spec prints (03 to 18), and what they stand for -/

def sc (w : W32) (i : Instr) : Prop := decodeWords (.scalar w) = .ok i

/-- 03 and 04: scalar words. -/
theorem test_decode_scalar :
    sc 0x04304028 (.saddImm 3 1 40) ∧ sc 0x00310501 (.ssub 3 4 5) ∧ sc 0x1B210064 (.scmpImm .ltn 2 4 100) ∧ sc 0x18EE4010 (.scmpImm .ne 6 57 0x10) ∧
      sc 0x00310532 (.ssel 3 2 4 5) ∧ sc 0x00314432 (.ssel 3 2 5 4) := by unfold sc; decide +kernel
theorem test_decode_pair :
    decodeWords (.pair 0xFC700700 0x00123456) = .ok (.sliX 7 .sx 0x00123456) ∧ decodeWords (.pair 0xFC900702 0x12345678) = .ok (.sliX 9 .hi 0x12345678) ∧
      decodeWords (.pair 0xFC924301 0x9ABCDEF0) = .ok (.sorX 9 9 .zx 0x9ABCDEF0) ∧ decodeWords (.pair 0xFCC00701 0xAAAAAAAB) = .ok (.sliX 12 .zx 0xAAAAAAAB) ∧
      decodeWords (.pair 0xFC101400 0x00050007) = .ok (.split 1 5 7) := by decide +kernel
/-- 04, 07, 08: control words. -/
theorem test_decode_control :
    sc 0x60200010 (.lx 2 16) ∧ sc 0x48303FFD (.loop 3 (-3)) ∧ sc 0x43800003 (.bc 7 false 3) ∧ sc 0x40C00003 (.bc 1 true 3) ∧ sc 0x4C000004 .join ∧
      sc 0x64600008 (.srd 6 8) ∧ sc 0x67800010 (.srd 56 0x10) ∧ sc 0x68014008 (.swr 8 5) ∧ sc 0x4C000005 .rett ∧ sc 0x4C100005 .rettSkip ∧
      sc 0xB8000005 (.trap 5) ∧ sc 0xBC000000 (.brk 0) ∧ sc 0x90324000 (.regroup 3 9) ∧ sc 0x90518001 (.loc 5 6) := by unfold sc; decide +kernel
/-- 09 to 11: deque, matrix and link words. -/
theorem test_decode_cluster :
    sc 0xA0214000 (.dqPush 2 5) ∧ sc 0xA0700301 (.dqPop 7 3) ∧ sc 0xA0700302 (.dqTake 7 3 false false) ∧ sc 0xA0701B02 (.dqTake 7 3 true true) ∧
      sc 0x94228C00 (.mma 2 10 12 false false) ∧ sc 0x94300E88 (.accCvt 3 14 true .rne) ∧ sc 0x95455691 (.nnPush 20 21 22 .e) ∧ sc 0x94000040 .tskip ∧
      sc 0x94064050 (.accZero 0 25) ∧ sc 0x94039023 (.mmt 0 14 16 false true true) ∧ sc 0x94239025 (.mmtSolo 2 14 16 false true) := by unfold sc; decide +kernel
/-- 13 and 14: synchronisation and engine words. -/
theorem test_decode_sync :
    sc 0x9C000005 (.fence .sys) ∧ sc 0x9D44C010 (.arv 20 19 false) ∧ sc 0x9D550020 (.wait 21 20 false) ∧ sc 0x9C014630 (.barInit 5 6) ∧ sc 0x9C418740 (.tlw 4 6 7) ∧
      sc 0x9C418051 (.tlr 4 6 true) ∧ sc 0x9C000060 .qend ∧ sc 0x9C00C070 (.tspec 3) ∧ sc 0x9C000080 .tabort ∧ sc 0x9C008390 (.seal 2 3) ∧
      sc 0x9C0083A0 (.unseal 2 3) ∧ sc 0xA8000005 (.tcommit 5) := by unfold sc; decide +kernel
theorem test_decode_engine :
    sc 0x98418700 (.cpy 4 6 7 false) ∧ sc 0x98418710 (.gath 4 6 7 false) ∧ sc 0x98418720 (.mig 4 6 7) ∧ sc 0x98418731 (.prefS 4 6 7 true) ∧
      sc 0xB0418708 (.clr 4 6 7) := by unfold sc; decide +kernel
/-- 15 and 16: privileged words and posts. -/
theorem test_decode_privileged :
    sc 0xB0418700 (.partNew 4 6 7) ∧ sc 0xB0418701 (.partSet 4 6 7) ∧ sc 0xB0418702 (.partBindRun 4 6 7) ∧ sc 0xB0438803 (.vfBind 4 14 8) ∧
      sc 0xB0444D04 (.catSet 4 17 13) ∧ sc 0xB0418705 (.mbxBind 4 6 7) ∧ sc 0x9C4187B0 (.mbxPost 4 6 7) ∧ sc 0xB0418006 (.halt 4 6) ∧ sc 0xB0418007 (.stop 4 6) ∧
      sc 0xB0418709 (.ckpt 4 6 7) ∧ sc 0xB041870A (.rest 4 6 7) ∧ sc 0xB041870B (.keyldMeasure 4 6 7) := by unfold sc; decide +kernel
/-- 03, 05, 06, 08: lane words. -/
theorem test_decode_lane :
    decodeWords (.lane 0x10C020000804000008000000) = .ok (.fmul { tHdr with wbs := true, a := .v 1, b := .v 2, latch := some 0 } .f32 .rne false false) ∧
      decodeWords (.lane 0x110000800C0A80100A000000) =
        .ok (.ffma { tHdr with dest := 4, a := .v 1, b := .s 5, c := .b 0, guard := ⟨2, 0, false, false, false⟩, latch := some 1 } .f32 .rne false false) ∧
      decodeWords (.lane 0x08A000C80800000000000000) = .ok (.mov { tHdr with dest := 6, a := .b 1 } .b32) ∧
      decodeWords (.lane 0x20C000601000000000000000) = .ok (.sqrt { tHdr with dest := 3, a := .v 2 }) ∧
      decodeWords (.lane 0x10C000A01E04000000007E00) = .ok (.fmul { tHdr with dest := 5, a := .v 3, b := .imm .f32, imm := 0x7E00 } .f32 .rne false false) := by
  decide +kernel
theorem test_decode_lane_cvt :
    decodeWords (.lane 0x12E0E0000A0000000A000200) =
      .ok (.cvt { tHdr with wbs := true, a := .v 1, b := .b 0, latch := some 1 } ⟨.flt .e4m3, .flt .f32, .rne, true, true, 0, 1⟩) := by decide +kernel
theorem test_decode_lane_memory :
    decodeWords (.lane 0x40E50090100C000000008010) = .ok (.ldx { tHdr with dest := 4, a := .s 2, b := .v 6 } .b32 ⟨.w32, true, .x4, 16⟩) := by decide +kernel
/-- R68, R71, R72: the other scalar rows, words assembled from the tables with a different value in each field. -/
theorem test_decode_rows_scalar_0 :
    sc 0x00518700 (.sadd 5 6 7) ∧ sc 0x00518702 (.smul 5 6 7) ∧
      sc 0x00518703 (.smulh 5 6 7) ∧ sc 0x00518708 (.sand 5 6 7) ∧
      sc 0x0851A345 (.sandImm 5 6 9029) ∧ sc 0x00518709 (.sor 5 6 7) ∧
      sc 0x0C51A345 (.sorImm 5 6 9029) ∧ sc 0x0051870A (.sxor 5 6 7) ∧
      sc 0x1051A345 (.sxorImm 5 6 9029) ∧ sc 0x0051870B (.sandn 5 6 7) ∧
      sc 0x00518710 (.sshl 5 6 7) ∧ sc 0x14518009 (.sshlImm 5 6 9) ∧
      sc 0x00518711 (.sshr 5 6 7) ∧ sc 0x14518049 (.sshrImm 5 6 9) ∧
      sc 0x00518712 (.ssar 5 6 7) ∧ sc 0x14518089 (.ssarImm 5 6 9) := by unfold sc; decide +kernel
theorem test_decode_rows_scalar_1 :
    sc 0x00518718 (.smin 5 6 7) ∧ sc 0x00518719 (.smax 5 6 7) ∧
      sc 0x0051871A (.sminn 5 6 7) ∧ sc 0x0051871B (.smaxn 5 6 7) ∧
      sc 0x00518020 (.smov 5 6) ∧ sc 0x00318729 (.scmp .ne 3 6 7) ∧
      sc 0x1C502345 (.sli 5 9029) ∧ sc 0x2051A345 (.sldN8 5 6 9029) ∧
      sc 0x2451A345 (.sldN16 5 6 9029) ∧ sc 0x2851A345 (.sldN32 5 6 9029) ∧
      sc 0x2C51A345 (.sldN64 5 6 9029) ∧ sc 0x3051A345 (.sldI8 5 6 9029) ∧
      sc 0x3451A345 (.sldI16 5 6 9029) ∧ sc 0x3851A345 (.sldI32 5 6 9029) ∧
      sc 0x3C51A345 (.sldc 5 6 9029) ∧ sc 0x8051A345 (.sstN8 5 6 9029) := by unfold sc; decide +kernel
theorem test_decode_rows_scalar_2 :
    sc 0x8451A345 (.sstN16 5 6 9029) ∧ sc 0x8851A345 (.sstN32 5 6 9029) ∧
      sc 0x8C51A345 (.sstN64 5 6 9029) ∧ sc 0x47400005 (.call 6 true 5) ∧
      sc 0x4C000000 .ret ∧ sc 0x4C018001 (.jr 6) ∧
      sc 0x4C000002 .exit ∧ sc 0x4C000003 .yield ∧
      sc 0x94B18811 (.mmg 11 6 8 true) ∧ sc 0x94B18831 (.mmw 11 6 8 true) ∧
      sc 0x94B18860 (.accLd 11 6 8) ∧ sc 0x94B00870 (.accSt 11 8) ∧
      sc 0x945187A3 (.nnPull 5 6 7 .w) ∧ sc 0x9C5187B1 (.mbxPostWait 5 6 7) ∧
      sc 0x9C5187B2 (.mbxPostTl 5 6 7) := by unfold sc; decide +kernel
/-- R70: the other X pairs. -/
theorem test_decode_rows_pair_0 :
    decodeWords (.pair 0xFC518102 0x89ABCDEF) = .ok (.saddX 5 6 .hi 0x89ABCDEF) ∧ decodeWords (.pair 0xFC518201 0x89ABCDEF) = .ok (.sandX 5 6 .zx 0x89ABCDEF) ∧
      decodeWords (.pair 0xFC518402 0x89ABCDEF) = .ok (.sxorX 5 6 .hi 0x89ABCDEF) ∧ decodeWords (.pair 0xFF518601 0x89ABCDEF) = .ok (.scmpX .ltn 5 6 .zx 0x89ABCDEF) ∧
      decodeWords (.pair 0xFC518800 0x89ABCDEF) = .ok (.sldN8X 5 6 0x89ABCDEF) ∧ decodeWords (.pair 0xFC518900 0x89ABCDEF) = .ok (.sldN16X 5 6 0x89ABCDEF) ∧
      decodeWords (.pair 0xFC518A00 0x89ABCDEF) = .ok (.sldN32X 5 6 0x89ABCDEF) ∧ decodeWords (.pair 0xFC518B00 0x89ABCDEF) = .ok (.sldN64X 5 6 0x89ABCDEF) ∧
      decodeWords (.pair 0xFC518C00 0x89ABCDEF) = .ok (.sldI8X 5 6 0x89ABCDEF) ∧ decodeWords (.pair 0xFC518D00 0x89ABCDEF) = .ok (.sldI16X 5 6 0x89ABCDEF) ∧
      decodeWords (.pair 0xFC518E00 0x89ABCDEF) = .ok (.sldI32X 5 6 0x89ABCDEF) ∧ decodeWords (.pair 0xFC518F00 0x89ABCDEF) = .ok (.sldcX 5 6 0x89ABCDEF) ∧
      decodeWords (.pair 0xFC51A000 0x89ABCDEF) = .ok (.sstN8X 5 6 0x89ABCDEF) ∧ decodeWords (.pair 0xFC51A100 0x89ABCDEF) = .ok (.sstN16X 5 6 0x89ABCDEF) ∧
      decodeWords (.pair 0xFC51A200 0x89ABCDEF) = .ok (.sstN32X 5 6 0x89ABCDEF) ∧ decodeWords (.pair 0xFC51A300 0x89ABCDEF) = .ok (.sstN64X 5 6 0x89ABCDEF) := by decide +kernel
/-- A lane header with lane registers in its sources. -/
def h (a b c : BitVec 8) (dest : BitVec 8) : LaneHdr := xHdr (.v a) (.v b) (.v c) dest
def la (w : BitVec 96) (i : Instr) : Prop := decodeWords (.lane w) = .ok i
/-- R75, R84, R85, 05, 06: the other lane rows. -/
theorem test_decode_rows_lane_0 :
    la 0x004040C01008000000000000 (.iadd (h 2 4 0 6) .i32 true) ∧ la 0x008800C01008000000000000 (.isub (h 2 4 0 6) .n32 false) ∧
      la 0x00D000C01008000000000000 (.imul (h 2 4 0 6) .i64) ∧ la 0x011800C01008000000000000 (.imulh (h 2 4 0 6) .n64) ∧
      la 0x014840C01008040000000000 (.imad (h 2 4 8 6) .n32 true) ∧ la 0x018000C01008000000000000 (.imin (h 2 4 0 6) .i32) ∧
      la 0x01C800C01008000000000000 (.imax (h 2 4 0 6) .n32) ∧ la 0x021040C01000000000000000 (.iabs (h 2 0 0 6) .i64 true) ∧
      la 0x042000C01008000000000000 (.and (h 2 4 0 6) .b32) ∧ la 0x045800C01008000000000000 (.or (h 2 4 0 6) .n64) := by unfold la; decide +kernel
theorem test_decode_rows_lane_1 :
    la 0x04A000C01008000000000000 (.xor (h 2 4 0 6) .b32) ∧ la 0x04D800C01000000000000000 (.not (h 2 0 0 6) .n64) ∧
      la 0x052000C01008000000000000 (.shl (h 2 4 0 6) .b32 false) ∧ la 0x056040C01008000000000000 (.shr (h 2 4 0 6) .b32 true) ∧
      la 0x059840C01008000000000000 (.sar (h 2 4 0 6) .n64 true) ∧ la 0x060800C01008000000000000 (.bfe (h 2 4 0 6) false) ∧
      la 0x066000C01008040000000000 (.bfi (h 2 4 8 6)) ∧ la 0x06A000C01000000000000000 (.popc (h 2 0 0 6) .b32) ∧
      la 0x06D800C01000000000000000 (.clz (h 2 0 0 6) .n64) ∧ la 0x072000C01000000000000000 (.brev (h 2 0 0 6) .b32) := by unfold la; decide +kernel
theorem test_decode_rows_lane_2 :
    la 0x080D00C01008000000000000 (.iset (h 2 4 0 6) .n32 .le .disj) ∧ la 0x086540C01008000000000000 (.sel (h 2 4 0 6) .b32 true 5) ∧
      la 0x104180C01008000000000000 (.fadd (h 2 4 0 6) .f32 .rtz true false) ∧ la 0x108A40C01008000000000000 (.fsub (h 2 4 0 6) .f64 .rdn false true) ∧
      la 0x114040C01008000000000000 (.fmin (h 2 4 0 6) .f32 true) ∧ la 0x118800C01008000000000000 (.fmax (h 2 4 0 6) .f64 false) ∧
      la 0x120080C01008000000000000 (.fset (h 2 4 0 6) .f32 .le) ∧ la 0x124340C01000000000000000 (.frnd (h 2 0 0 6) .f32 .rup true) ∧
      la 0x128800C01000000000000000 (.fclass (h 2 0 0 6) .f64) ∧ la 0x204000C01000000000000000 (.rcp (h 2 0 0 6)) := by unfold la; decide +kernel
theorem test_decode_rows_lane_3 :
    la 0x208000C01000000000000000 (.rsq (h 2 0 0 6)) ∧ la 0x210000C01000000000000000 (.exp2 (h 2 0 0 6)) ∧
      la 0x214000C01000000000000000 (.log2 (h 2 0 0 6)) ∧ la 0x218000C01000000000000000 (.sin (h 2 0 0 6)) ∧
      la 0x21C000C01000000000000000 (.cos (h 2 0 0 6)) ∧ la 0x220000C01000000000000000 (.tanh (h 2 0 0 6)) ∧
      la 0x285C80C01008040000000000 (.pkfma (h 2 4 8 6) .bf16 .sto true false) ∧ la 0x2888C0C01008040000000000 (.dp4 (h 2 4 8 6) .n8 .rne true true) ∧
      la 0x28F040C01008040000000000 (.dp8 (h 2 4 8 6) true false true) ∧ la 0x305C00C01008000000000000 (.shfl (h 2 4 0 6) .n64 .down false) := by unfold la; decide +kernel
theorem test_decode_rows_lane_4 :
    la 0x30AA40C01000000000000000 (.xred (h 2 0 0 6) .f32 .max true) ∧ la 0x30CD80C01000000000000000 (.xscan (h 2 0 0 6) .n32 .xor true false) ∧
      la 0x312400C01000000000000000 (.vote (h 2 0 0 6) .all) ∧ la 0x316000C01000000000000000 (.matchLanes (h 2 0 0 6) .b32) ∧
      la 0x31A200C00000000000000000 (.laneid (h 0 0 0 6) .rank) ∧ la 0x405600C01000000000000000 (.ld (h 2 0 0 6) .i16 (some .domain)) ∧
      la 0x40A500001008000000000000 (.st (h 2 4 0 0) .b32 (some .team)) ∧ la 0x41270000100804000000C155 (.stx (h 2 4 8 0) .b32 ⟨.w64, true, .x8, 0x155⟩) ∧
      la 0x414800C01000000000000000 (.lds (h 2 0 0 6) .n8) ∧ la 0x419800001008000000000000 (.sts (h 2 4 0 0) .n16) := by unfold la; decide +kernel
theorem test_decode_rows_lane_5 :
    la 0x41E280C01000000000000000 (.ldb (h 2 0 0 6) .b32 .a .x2) ∧ la 0x422500001008000000000000 (.stb (h 2 4 0 0) .b32 .c .x4) ∧
      la 0x426540C01008000000007055 (.atom (h 2 4 0 6) .b32 ⟨.inc, true, .crew, .acqrel, .unp, 0x55⟩) ∧ la 0x42A840001008000000004244 (.ared (h 2 4 0 0) .n64 ⟨.add, true, .crew, .rlx, .com, 0x44⟩) ∧
      la 0x42E000001000000000000000 (.pref (h 2 0 0 0)) := by unfold la; decide +kernel

/-! ## Single steps, with results that the spec states -/

def run (i : Instr) (s : State) : State := nextOf (exec i s) s
/-- Registers s1 and s2 hold x and y. -/
def s12 (x y : W64) : State := (ts.sset 1 x).sset 2 y
/-- `v1`, `v2` and `v3` hold x, y and z in every lane; the destination of the tests is `v4`. -/
def v123 (x y z : W32) : State :=
  tsw fun w => { w with
    block := some { tBlock with am := 1 }
    v := vset (vset (vset w.v 1 (Vector.replicate 64 x)) 2 (Vector.replicate 64 y)) 3 (Vector.replicate 64 z) }
def vHdr : LaneHdr := xHdr (.v 1) (.v 2) (.v 3) 4
/-- Two-operand and one-operand words leave unused fields at zero. -/
def vHdr2 : LaneHdr := xHdr (.v 1) (.v 2) (.v 0) 4
def vHdr1 : LaneHdr := xHdr (.v 1) (.v 0) (.v 0) 4
def v4 (s : State) : W32 := vget (vget s.warp.v 4 (Vector.replicate 64 0)) 0 0

/-- R99: wrapping, the high product, shifts and orders. -/
theorem test_scalar_arith :
    ((run (.sadd 3 1 2) (s12 0xFFFFFFFFFFFFFFFF 2)).sget 3, (run (.ssub 3 1 2) (s12 1 2)).sget 3) = (1, 0xFFFFFFFFFFFFFFFF) ∧
    ((run (.smul 3 1 2) (s12 0x8000000000000001 2)).sget 3, (run (.smulh 3 1 2) (s12 0x8000000000000000 2)).sget 3) = (2, 0xFFFFFFFFFFFFFFFF) ∧
    ((run (.ssar 3 1 2) (s12 0x8000000000000000 0x43)).sget 3, (run (.sshrImm 3 1 60) (s12 0x8000000000000000 0)).sget 3) = (0xF000000000000000, 8) ∧
    ((run (.smin 3 1 2) (s12 0xFFFFFFFFFFFFFFFF 1)).sget 3, (run (.sminn 3 1 2) (s12 0xFFFFFFFFFFFFFFFF 1)).sget 3) = (0xFFFFFFFFFFFFFFFF, 1) ∧
    (run (.sandn 3 1 2) (s12 0xFF 0x0F)).sget 3 = 0xF0 := by decide +kernel
/-- R14, R99: writes to `s0` are discarded, the PC advances. -/
theorem test_zero_register : ((run (.sadd 0 1 2) (s12 7 2)).sget 0, (run (.sadd 0 1 2) (s12 7 2)).warp.pc) = (0, 4) := by decide +kernel
/-- R70 (03's example): `sli.hi` and `sor.zx` together write a 64-bit constant. -/
theorem test_constant_pair :
    let s := run (.sliX 9 .hi 0x12345678) ts
    (s.sget 9, (run (.sorX 9 9 .zx 0x9ABCDEF0) s).sget 9, s.warp.pc) = (0x1234567800000000, 0x123456789ABCDEF0, 8) := by decide +kernel
/-- R100: a compare writes one predicate; `c7` stays 1. -/
theorem test_compare :
    ((run (.scmp .lt 2 1 2) (s12 0xFFFFFFFFFFFFFFFF 0)).warp.cget 2, (run (.scmp .ltn 2 1 2) (s12 0xFFFFFFFFFFFFFFFF 0)).warp.cget 2,
      (run (.scmp .ne 7 1 1) ts).warp.cget 7) = (true, false, true) := by decide +kernel
/-- R106: `loop` counts down and falls through at zero. -/
theorem test_loop :
    let st (x : W64) : State := (tsw fun w => { w with pc := 0x100 }).sset 3 x
    let r (x : W64) := let t := run (.loop 3 (-3)) (st x); (t.sget 3, t.warp.pc)
    (r 2, r 1, r 0) = ((1, 0x0F4), (0, 0x104), (0, 0x104)) := by decide +kernel
/-- R109 to R113 (04's example): `split` at 0x100 with m1 = 0xFFFF forks, with all ones or none takes one path. -/
theorem test_split :
    let r (x : Mask) := let t := run (.split 1 5 7) (tsw fun w => { (w.mset 1 x) with pc := 0x100 })
                        (t.warp.pc, t.warp.am, t.warp.fork.isSome, t.warp.stack.length)
    (r 0xFFFF, r (BitVec.allOnes 64), r 0) =
      ((0x108, 0xFFFF, true, 0), (0x108, BitVec.allOnes 64, false, 1), (0x114, BitVec.allOnes 64, false, 1)) := by decide +kernel
/-- R24, R103: `AM` reads as the active lanes. -/
theorem test_srd_am : (run (.srd 6 8) ts).sget 6 = BitVec.allOnes 64 := by decide +kernel
/-- R183: `trap 5` with H1 = 0x100 enters level 1 and records cause 0x18 with DETAIL 5. -/
theorem test_trap :
    let t := run (.trap 5) (tsw fun w => { w with h1 := 0x100, pc := 0x40 })
    (t.warp.pc, t.warp.level, (vget t.warp.trap 0 .zero).cause.extractLsb' 0 8) = (0x100, 1, 0x18) := by decide +kernel
/-- R74: a privileged word of a warp without PRIV traps `PROT` (0x02). -/
theorem test_privileged :
    let t := run (.halt 4 6) (tsw fun w => { w with h1 := 0x100 })
    (t.warp.pc, (vget t.warp.trap 0 .zero).cause.extractLsb' 0 8) = (0x100, 0x02) := by decide +kernel
/-- R7, R119: bytes lie lowest first, and loads extend. -/
theorem test_store_load :
    let s := run (.sstN16 2 1 0x10) ((ld.sset 1 0x1000).sset 2 0x8180)
    ((run (.sldN8 3 1 0x11) s).sget 3, (run (.sldI8 3 1 0x10) s).sget 3, (run (.sldN32 3 1 0x10) s).sget 3) =
      (0x81, 0xFFFFFFFFFFFFFF80, 0x8180) := by decide +kernel

/-- R130, R131: wrapping and clamping sums and differences. -/
theorem test_lane_sat :
    let a (i : Instr) (x y : W32) := v4 (run i (v123 x y 0))
    (a (.iadd vHdr2 .n32 true) 0xFFFFFFF0 32, a (.iadd vHdr2 .n32 false) 0xFFFFFFF0 32, a (.isub vHdr2 .n32 true) 3 5, a (.isub vHdr2 .n32 false) 3 5) =
      (0xFFFFFFFF, 0x10, 0, 0xFFFFFFFE) := by decide +kernel
/-- R130, R132, R134: magnitudes, high products, shifts beyond the width, counts and fields. -/
theorem test_lane_int :
    let a (i : Instr) (x y z : W32) := v4 (run i (v123 x y z))
    (a (.iabs vHdr1 .i32 false) 0x80000000 0 0, a (.iabs vHdr1 .i32 true) 0x80000000 0 0, a (.imulh vHdr2 .n32) 0xFFFFFFFF 2 0,
      a (.imulh vHdr2 .i32) 0xFFFFFFFF 2 0) = (0x80000000, 0x7FFFFFFF, 1, 0xFFFFFFFF) ∧
    (a (.shl vHdr2 .b32 false) 1 33 0, a (.shl vHdr2 .b32 true) 1 33 0, a (.popc vHdr1 .b32) 0xF0F0 0 0, a (.clz vHdr1 .b32) 1 0 0,
      a (.brev vHdr1 .b32) 1 0 0) = (2, 0, 8, 31, 0x80000000) := by decide +kernel
/-- R138 (the table): minimum of zeros and NaNs. -/
theorem test_lane_fmin :
    let a (nan : Bool) (x y : W32) := v4 (run (.fmin vHdr2 .f32 nan) (v123 x y 0))
    (a false 0 0x80000000, a false 0x7FC00001 0x3F800000, a true 0x7FC00001 0x3F800000, a false 0x7FC00001 0x7FC00000) =
      (0x80000000, 0x3F800000, 0x7FC00000, 0x7FC00000) := by decide +kernel
/-- R141: the class of the smallest subnormal; R136: rounding of a sum and of a fused product. -/
theorem test_lane_float :
    v4 (run (.fclass vHdr1 .f32) (v123 1 0 0)) = 0x80 ∧
    (let a (rm : RMode) := v4 (run (.fadd vHdr2 .f32 rm false false) (v123 0x3F800000 0x33000000 0))
     (a .rne, a .rup, a .rtz) = (0x3F800000, 0x3F800001, 0x3F800000)) ∧
    v4 (run (.ffma vHdr .f32 .rne false false) (v123 0x3F800001 0x3F800001 0xBF800002)) = 0x28800000 := by decide +kernel
/-- R53, R142 (05's example): conversions to E4M3, saturating. -/
theorem test_lane_cvt :
    let a (x : W32) := v4 (run (.cvt vHdr1 ⟨.flt .e4m3, .flt .f32, .rne, false, true, 0, 0⟩) (v123 x 0 0))
    (a 0x3F800000, a 0xC3FA0000, a 0x3E99999A, a 0x7FC00000) = (0x38, 0xFE, 0x2A, 0x7F) := by decide +kernel
/-- R150: four byte products. -/
theorem test_lane_dp4 : v4 (run (.dp4 vHdr .i8 .rne false false) (v123 0x01FF02FE 0x03040506 10)) = 7 := by decide +kernel

end Sys2Proof.Tests
end

