-- ==== Sys2Proof/Tests/WitnessModule.lean ====
section
/-! SUPPORT. Witnesses, continued: the matrix engine, synchronisation, engines, partitions, security, dies, the host link and the fabric. -/

open Sys2Proof Sys2Proof.Machine

namespace Sys2Proof.Tests

set_option Elab.async false

/-! ## The matrix engine, links and the deque -/

/-- A bound handle of 16 by 16 elements. -/
def hd16 : Handle := ⟨16, 16, 0, 0⟩
/-- The loaded module with `a1` bound and descriptors in scalar registers: BF16 operands in `s2` and `s4` (with a row-count table named by `s6`), an
MXINT8 operand in `s8` with weights named by `s10`, and FP32 and BF16 operands in buffer C in `s12` and `s14`. -/
def sm : State :=
  let s := [(2, 0x1000004000200000), (3, 16), (4, 0x1000004000201000), (5, 16), (6, 0x0000000100210000), (8, 0x7000004000202000),
    (9, 0x0020300000000020), (10, 0x0001000000000000), (12, 0x0000004000401000), (13, 16), (14, 0x1000004000402000), (15, 16)].foldl
    (fun s (e : SReg × W64) => s.sset e.1 e.2) ld
  let s := { s with warp := { s.warp with acc := vset s.warp.acc 1 (some hd16) } }
  (s.modPart 0 fun p => { p with banks := [(0, 0x100)] }).modCrew s.warp.ident.grid s.warp.ident.crew fun c => { c with bufA := ⟨[⟨0x10000, 1⟩], []⟩ }

theorem witness_SlipEntry_products :
    matrixMode sm ∧ (sm.slips.filter fun x => x.cluster == sm.clusterOf sm.warp).length < 32 ∧ vget sm.warp.acc 1 none = some hd16 ∧
      operandFits sm 2 hd16.rows ∧ operandFits sm 4 hd16.cols ∧ (sm.warp.opndAt 2).ty = 1 ∧ (sm.warp.opndAt 4).ty = 1 ∧
      (sm.warp.opndAt 2).k = (sm.warp.opndAt 4).k ∧ tyMx (sm.warp.opndAt 4).ty = false ∧ 16 + ((sm.warp.opndAt 4).k * 4 + 7) / 8 ≤ sm.warp.regs := by
  unfold matrixMode operandFits; decide +kernel

theorem witness_SlipEntry_group :
    let y := sm.sget 6
    let ob := sm.warp.opndAt 4
    field y 0 32 % 2 = 0 ∧ field y 32 16 = 1 ∧ sm.rangeKind (field y 0 32) (field y 0 32 % 2 ^ 19 + 2 * 1) = none ∧
      sm.rowCounts (field y 0 32) 1 = some [1] ∧ [1].foldl (· + ·) 0 ≤ hd16.rows ∧ ob.misaligned = none ∧
      ∀ i < 1, [1].getD i 0 ≠ 0 → sm.opndKind ob (groupShift hd16 ob (field y 48 16) i).1 (groupShift hd16 ob (field y 48 16) i).2 hd16.cols = none := by
  decide +kernel

theorem witness_SlipEntry_weight :
    let y := sm.sget 10
    let oa := sm.warp.opndAt 8
    operandFits sm 8 hd16.rows ∧ oa.ty = 7 ∧ field y 60 2 = 0 ∧ oa.k = 32 * field y 48 12 ∧ field y 62 2 = 0 ∧ field y 41 7 = 0 ∧ field y 8 16 = 0 ∧
      field y 48 12 ≠ 0 ∧ (Tab.get (sm.part sm.warp.ident.part).banks (field y 0 8) 0).getLsbD 8 = true ∧
      64 * field y 24 17 + hd16.cols * weightRow oa.ty oa.k ≤ 8388608 := by
  unfold operandFits; decide +kernel

theorem witness_SlipEntry_drains :
    operandFits sm 12 hd16.rows ∧ (sm.warp.opndAt 12).ty = 0 ∧ (sm.warp.opndAt 12).k = hd16.cols ∧ (sm.warp.opndAt 12).buf = 2 ∧
      operandFits sm 14 hd16.rows ∧ (sm.warp.opndAt 14).ty = 1 ∧ (sm.warp.opndAt 14).k = hd16.cols ∧ (sm.warp.opndAt 14).buf = 2 ∧
      (sm.sget 16).extractLsb' 19 5 = 0 ∧ hd16.base % 64 = 0 ∧ hd16.base + 4 * hd16.rows * hd16.cols ≤ 2 ^ 19 ∧ (0 : Nat) = ((sm.sget 16).extractLsb' 0 19).toNat := by
  unfold operandFits; decide +kernel

/-- A cond twin and an uncond twin of one crew, each with a posted word. -/
def twinsOf (c u : Wait) : State :=
  let w (n r : Nat) (x : Wait) : Warp := { sm.warp with id := n, gridId := 0x0400000000000000, ident := { sm.warp.ident with warps := 2, rank := r }, wait := x,
                                                        acc := vset sm.warp.acc 1 (some { hd16 with base := 1024 * r }) }
  { sm with warp := w 5 0 c, others := [w 6 1 u] }

theorem witness_Twins_posts :
    let s := twinsOf .none .none
    (matrixMode s ∧ s.warp.isTwin = true ∧ (s.twinOf s.warp).isSome = true ∧ s.warp.ident.rank % 2 = 0) ∧
      (matrixMode (s.focus 6) ∧ (s.focus 6).warp.isTwin = true ∧ ((s.focus 6).twinOf (s.focus 6).warp).isSome = true ∧ (s.focus 6).warp.ident.rank % 2 = 1) ∧
      operandFits s 2 hd16.rows ∧ operandFits s 4 hd16.cols := by
  unfold matrixMode operandFits; decide +kernel

theorem any_some {α : Type} {o : Option α} {P : α → Prop} [DecidablePred P] (h : (o.any fun u => decide (P u)) = true) : ∃ u, o = some u ∧ P u := by
  cases o <;> simp_all

theorem findWarp_self (s : State) (h : s.warp.alive = true) : s.findWarp s.warp.id = some s.warp := by
  simp [State.findWarp, State.warps, h]

theorem witness_Twins_match :
    let post : Wait := .twin (.mmt 1 2 4 false false true)
    let s := twinsOf post post
    let bad := twinsOf post (.twin .tskip)
    (∃ u, s.twinOf s.warp = some u ∧ (u.id ≠ s.warp.id ∧ u.posted = true ∧ u.evicted = false ∧ u.pending = none ∧ (matched s.warp u).isSome = true)) ∧
      s.warp.alive = true ∧ s.warp.posted = true ∧ s.warp.evicted = false ∧ s.warp.pending = none ∧ s.warp.ident.rank % 2 = 0 ∧ s.slipRoom (s.clusterOf s.warp) = true ∧
      (∃ u, bad.twinOf bad.warp = some u ∧ (u.posted = true ∧ (matched bad.warp u).isNone = true)) := by
  exact ⟨any_some (by decide +kernel), by decide +kernel, by decide +kernel, by decide +kernel, by decide +kernel, by decide +kernel, by decide +kernel,
    any_some (by decide +kernel)⟩

/-- A slip of `a1` that waits in the table. -/
def slipFor (op : SlipOp) : Slip := sm.slipOf sm.warp op none

theorem witness_SlipEvents :
    let s := { sm with slips := [slipFor (.zero hd16)] }
    let t := { sm with slips := [{ slipFor (.zero hd16) with started := true }] }
    s.nextSlip (s.clusterOf s.warp) = some (slipFor (.zero hd16)) ∧ (∀ y ∈ s.slips, y.started = false) ∧
      t.slips.find? (fun y => y.order == 0 && y.started && !y.held) = some { slipFor (.zero hd16) with started := true } ∧
      s.crew? sm.warp.ident.grid sm.warp.ident.crew ≠ none := by decide +kernel

/-- A team in cluster 3 whose direction north leads to another team of its grid. -/
def slTeam (n c : Nat) : Team := ⟨0, n, some n, some c, Vector.replicate 4 0, Vector.replicate 4 0, Vector.replicate 4 0⟩
def sl : State :=
  let crew (n : Nat) : Crew := ⟨0, n, n, .placed, some ⟨7, 1, n⟩, [], .empty, .empty, .empty⟩
  { ts with
    parts := [(0, { Part.blank with links := [(4, 4)] })]
    warp := (({ tw with ident := ⟨0, 0, 1, 0, 1, 0, 1, 1, 1⟩ }).sset 1 0x0000004000200000).sset 3 0x200000
    teams := [slTeam 0 (Config.linkFar 3 0).1, slTeam 1 3]
    crews := [crew 0, crew 1] }

theorem way_of (s : State) (d : Dir) (t : Team) (c l : Nat) (h1 : s.team? s.warp.ident.grid s.warp.ident.team = some t) (hc : t.cluster = some c)
    (h2 : s.plinkOf s.warp.ident.part t d = some l) (h3 : s.linkUp c l = true) :
    s.way d = (s.teamIn s.warp.ident.grid (Config.linkFar c l).1).map fun f => ⟨t, c, l, f⟩ := by
  simp [State.way, h1, hc, h2, h3]

/-- A crew of a team of a grid stands on a core. -/
def standsIn (s : State) (g : Nat) (t : Team) : Bool := s.crews.any fun c => c.grid == g && c.team == t.num && c.core.isSome

theorem teamIn_of (s : State) (g c d : Nat) (x y : Team) (h : s.teams = [x, y]) (hx : x.grid = g ∧ x.cluster = some c) (hy : y.grid = g ∧ y.cluster = some d)
    (hn : x.num < y.num) (sx : standsIn s g x = true) (sy : standsIn s g y = true) : s.teamIn g c = some x := by
  unfold standsIn at sx sy
  by_cases hd : d = c <;> simp [State.teamIn, h, hx, hy, hd, sx, sy, Nat.le_of_lt hn, -List.any_eq_true]

theorem witness_Links_way : sl.way .n = some ⟨slTeam 1 3, 3, 0, slTeam 0 (Config.linkFar 3 0).1⟩ := by
  rw [way_of sl .n (slTeam 1 3) 3 0 rfl rfl (by decide +kernel) rfl,
    teamIn_of sl sl.warp.ident.grid _ 3 (slTeam 0 (Config.linkFar 3 0).1) (slTeam 1 3) rfl ⟨rfl, rfl⟩ ⟨rfl, rfl⟩ (by decide) (by decide +kernel)
      (by decide +kernel)]
  rfl

theorem witness_Links :
    matrixMode sl ∧ sl.slips = [] ∧ field (sl.sget 1) 32 20 = 64 ∧ bitsOf (field (sl.sget 1) 0 32) 21 2 = 1 ∧ field (sl.sget 1) 52 12 = 0 ∧
      field (sl.sget 2) 32 32 = 0 ∧ bitsOf (field (sl.sget 3) 0 32) 21 2 = 1 ∧ sl.farCrew (slTeam 0 0) 1 0 = some 0 ∧
      sl.rangeKind 0x200000 64 = none ∧ sl.transfers = [] := by
  unfold matrixMode; decide +kernel

/-- A crew of the loaded module's grid 0, beside another crew of its team. -/
def dqs (own far : List W64) : State :=
  let crew (n : Nat) (q : List W64) : Crew := ⟨0, n, 0, .placed, some ⟨7, 1, n⟩, q, .empty, .empty, .empty⟩
  { ts with warp := { tw with ident := ⟨0, 0, 0, 0, 0, 0, 1, 0, 2⟩ }, crews := [crew 0 own, crew 1 far] }

theorem witness_Deque :
    let s := dqs [] []
    let q := dqs [3] []
    let r := dqs [] [1, 2]
    (s.warp.fork = none ∧ s.warp.det = false ∧ s.warp.task = none ∧ s.warp.isShadowed = false) ∧
      ((s.dequeOf 0).length < 512 ∧ s.releaseReady .grid = true ∧ s.crew? 0 0 ≠ none) ∧ 512 ≤ ((dqs (List.replicate 512 0) []).dequeOf 0).length ∧
      s.dequeOf 0 = [] ∧ q.dequeOf 0 = [3] ∧ (r.dequeOf 0 = [] ∧ (r.searchOrder true).find? (fun z => !(r.dequeOf z.1).isEmpty) = some (1, true) ∧
      r.dequeOf 1 = [1] ++ [2]) ∧ (∀ z ∈ s.searchOrder false, s.dequeOf z.1 = []) ∧ s.quiescent s.warp.ident (some s.warp.id) true = true ∧
      { s with others := [{ tw with id := 2, ident := { s.warp.ident with crew := 1 } }] }.quiescent s.warp.ident (some s.warp.id) true = false := by decide +kernel

/-! ## Synchronisation -/

/-- One 4 KiB page at 0x1000. -/
def lseal : State := (ld.sset 1 0x1000).sset 2 0x1000
/-- The pages that a mark of that range finds, and the state after the walks. -/
def sealRun (s : State) : Pages × State := State.sealPages 0 0x1000 (0x1000 + 0x1000) (0x1000 / 4096 + 1) 0x1000 [] s
def sealedPages (s : State) : List Trans :=
  match (sealRun s).1 with
  | .ok ps => ps
  | _ => []

theorem pages_ok (r : Pages × State) (ps : List Trans) (h : (match r.1 with | .ok qs => decide (qs = ps ∧ qs ≠ []) | _ => false) = true) :
    r = (.ok ps, r.2) := by
  obtain ⟨a, b⟩ := r
  cases a <;> simp_all

/-- A returning load of the warp has not been answered. -/
def tload : RemoteLoad := ⟨5, 9, 0, 0, 8, false, false, none, some 3, 0, 0, 0, [], none⟩
def tout : Outstanding := ⟨5, 9, 1, ⟨0, 0, 0, 1, 0, none⟩, 1, 0, true, false, none, none, 0, 64, 5⟩
def tremote : State := { ts with warp := { tw with wait := .remote [(5, 9)], remote := [tload] }, fabric := { ts.fabric with waiting := [tout] } }

theorem witness_FenceAndSeal :
    tremote.releaseReady .sys = false ∧ tremote.releaseReady .grid = true ∧ lseal.releaseReady .sys = true ∧ (syncMode lseal ∧
      (lseal.sget 1).toNat = 0x1000 ∧ (lseal.sget 2).toNat = 0x1000 ∧ (lseal.part 0).cfg.root % 4096 = 0 ∧ lseal.warp.ident.part = 0) ∧
      sealRun lseal = (.ok (sealedPages lseal), (sealRun lseal).2) :=
  ⟨by decide +kernel, by decide +kernel, by decide +kernel, by unfold syncMode; decide +kernel, pages_ok _ _ (by decide +kernel)⟩

/-- A partition with barrier objects: 1 awaits two warps and 2 one in the running phase. -/
def tbar (phase : W32) (gone : Bool) : State :=
  let bar (n : Nat) : Bar := ⟨3, phase, n, n, n, 1, gone, [], [], []⟩
  { ts with parts := [(0, { Part.blank with cfg := { PartCfg.blank with barq := 4 }, bars := [(1, bar 2), (2, bar 1)] })] }

theorem witness_Barriers :
    let s := ((tbar 5 false).sset 1 1).sset 2 0x10002
    let tok (p : W64) : State := (tbar 5 false).sset 1 ((3 <<< 56) ||| (p <<< 24) ||| 1)
    let ago (t : State) : Nat := ((t.bar 0 1).phase - (t.sget 1).extractLsb' 24 32).toNat
    syncMode s ∧ ((s.sget 1).toNat < (s.part 0).cfg.barq ∧ field (s.sget 2) 0 16 ≠ 0 ∧ 1 ≤ field (s.sget 2) 16 3 ∧ field (s.sget 2) 16 3 ≤ 3 ∧ field (s.sget 2) 19 45 = 0) ∧
      ((s.bar 0 1).count ≠ 0 ∧ (s.bar 0 1).abandoned = false ∧ s.warp.id ∉ (s.bar 0 1).arr0 ∧ (s.bar 0 1).count0 ≠ 0 ∧ s.releaseReady (s.bar 0 1).scopeOf = true) ∧
      ((s.bar 0 1).arr0.length + 1 ≠ (s.bar 0 1).count0 ∧ (s.bar 0 2).arr0.length + 1 = (s.bar 0 2).count0 ∧ (s.bar 0 2).arr1.length ≠ (s.bar 0 2).count1) ∧
      (field ((tok 4).sget 1) 0 14 = 1 ∧ field ((tok 4).sget 1) 14 10 = 0 ∧ ((tok 4).sget 1).extractLsb' 56 8 = (s.bar 0 1).gen) ∧
      ago (tok 4) = 1 ∧ ago (tok 0x80000005) = 2 ^ 31 ∧ ago (tok 5) = 0 ∧ ago (tok 6) = 2 ^ 32 - 1 ∧ 2 ^ 31 < ago (tok 7) ∧ ago (tok 7) < 2 ^ 32 - 1 ∧
      ((tbar 5 true).bar 0 1).abandoned = true ∧ (s.sget 2).extractLsb' 56 8 ≠ (s.bar 0 1).gen := by
  unfold syncMode; decide +kernel

/-- Engine context 0 of a partition has four operations accepted and two complete. -/
def ttl : State :=
  { ts with parts := [(0, { Part.blank with cfg := { PartCfg.blank with ectx := 1 }, ctxs := [(0, ⟨4, 2, [], []⟩)] })] }

theorem witness_Timelines :
    let s := ttl.sset 2 2
    syncMode s ∧ s.timeline (s.sget 1) = some (some 4, 2) ∧ (s.sget 2).toNat ≤ 2 ∧ 4 < ((ttl.sset 2 5).sget 2).toNat ∧
      ttl.timeline ((ttl.sset 1 0xF000000000000000).sget 1) = none ∧ s.warp.fork = none := by
  unfold syncMode; decide +kernel

/-- A warp of a `DET` launch, whose quantum has run out. -/
def tdet : State :=
  let g : Grid := ⟨0, 0, 0, 0, 0, { Desc.blank with det := true }, [], false, 0⟩
  { (tbar 0 false) with warp := { tw with gridId := detId }, grids := [g] }
/-- The page at 0x1000 in a `DET` launch. -/
def ldetseal : State := { lseal with warp := { lseal.warp with gridId := lseal.warp.gridId ||| detId } }
/-- Stores of a carrel: address, bytes, ticket, lanes and virtual address. -/
def tstores : List (Nat × List Byte × Ticket × Mask × Nat) := [(64, [1], ⟨0, 0, 0, 1, 0, none⟩, 0, 0x1000), (64, [2], ⟨0, 0, 0, 1, 0, none⟩, 0, 0x1000)]
def storesOf (p : Place) : List CarrelEnt := tstores.map fun e => .store p e.1 e.2.1 e.2.2.1 e.2.2.2.1 e.2.2.2.2

theorem witness_Quanta :
    let s := tdet.sset 1 1
    let c : State := { tdet with warp := { tdet.warp with wait := .commit } }
    let d : State := { c with warp := { c.warp with carrel := storesOf .host } }
    (s.warp.fork = none ∧ s.warp.task = none ∧ s.warp.isShadowed = false ∧ s.warp.det = true ∧ (s.sget 1).toNat < (s.part 0).cfg.barq ∧
        (s.bar 0 (s.sget 1).toNat).count ≠ 0) ∧ (s.warp.alive = true ∧ s.warp.qlenNow ≤ s.warp.issued ∧ s.warp.wait = .none) ∧
      ((c.descOf 0).det = true ∧ c.gridWarps 0 ≠ [] ∧ (∀ w ∈ c.others, w.alive = true) ∧ (c.warps.map (·.id)).Nodup ∧ c.slips = [] ∧ c.shadows = [] ∧
        ∀ w ∈ c.gridWarps 0, w.wait = .commit ∧ w.fork = none ∧ w.remote = [] ∧ w.carrel = []) ∧
      d.others = [] ∧ d.warp.ident.grid = 0 ∧ d.warp.carrel = storesOf .host ∧
      (∀ e ∈ tstores, d.sealedAt e.2.2.2.2 = false ∧ d.hostErr .host e.1 e.2.1.length = false) := by decide +kernel

theorem witness_Quanta_seal :
    (ldetseal.warp.fork = none ∧ ldetseal.warp.task = none ∧ ldetseal.warp.isShadowed = false ∧ ldetseal.warp.det = true) ∧
      sealRun ldetseal = (.ok (sealedPages ldetseal), (sealRun ldetseal).2) :=
  ⟨by decide +kernel, pages_ok _ _ (by decide +kernel)⟩

/-- A task that holds stores to memory of the module. -/
def taskOf (doomed : Bool) : Task := { tTask with doomed := doomed, carrel := storesOf .device }
/-- The loaded module whose page at 0x1000 is sealed. -/
def lmarked : State := ld.devWrite (loadRoot + 4 * 4096 + 8) (natToBytes 8 (loadFrame + 0x1F + 2 ^ 57))

theorem witness_Tasks :
    let s := tsw fun w => { w with task := some (taskOf true) }
    ts.warp.fork = none ∧ ts.warp.task = none ∧ (∀ r ∈ saveRegs ((ts.sset 1 3).sget 1), r < ts.warp.regs) ∧ s.warp.task = some (taskOf true) ∧
      (taskOf true).s.length = 15 ∧ (taskOf true).doomed = true ∧ (taskOf false).doomed = false ∧ ts.warp.det = false ∧
      (taskOf false).carrel = storesOf .device := by decide +kernel

/-- A module whose current warp has the task open. -/
def inTask (s : State) : State := { s with warp := { s.warp with task := some (taskOf false) } }

/-- A module in whose partition 0 a task is open, with an empty page table at 0x10_0000. -/
def tsp : State := inTask { ts with parts := [(0, { Part.blank with state := .running, cfg := { PartCfg.blank with root := 0x100000 } })] }

theorem witness_Tasks_stores :
    tsp.warp.task = some (taskOf false) ∧ tsp.releaseReady .grid = true ∧ tsp.moves = [] ∧
      (tstores.all fun e => tsp.sealedAt e.2.2.2.2 == false && (List.range e.2.1.length).all fun i =>
        tsp.isTableSlot (e.1 + i) == false && tsp.inTable (e.1 + i) 4 (tsp.part 0).cfg.root == false) = true := by
  decide +kernel

theorem witness_Tasks_sealed : (taskOf false).carrel.findSome? (inTask lmarked).sealedEntry = some 0x1000 := by decide +kernel

/-- Two warps of one crew, of which the higher-ranked one waits in its `regroup`. -/
def treg : State :=
  { ts with
    warp := (({ tw with ident := ⟨0, 0, 0, 0, 0, 0, 2, 0, 1⟩ }).mset 1 0xFF).sset 1 1
    others := [{ tw with id := 2, ident := ⟨0, 0, 1, 1, 0, 0, 2, 0, 1⟩, wait := .regroup 0 0xF0 }] }

theorem witness_Regroup :
    let lone := ts.sset 1 64
    (treg.warp.fork = none ∧ treg.warp.am = treg.warp.live ∧ treg.warp.isTwin = false ∧ treg.warp.isShadowed = false ∧ treg.warp.task = none ∧
        treg.warp.stack = [] ∧ treg.warp.det = false ∧ treg.warp.wait = .none) ∧
      (lone.others = [] ∧ 64 ≤ (lone.sget 1).toNat) ∧
      (treg.warp.alive = true ∧ (treg.sget 1).toNat = 1 ∧ treg.warp.ident.rank < 1 ∧ 1 < treg.warp.ident.warps ∧ treg.slipFree = true) ∧
      ∃ x, treg.rankOf treg.warp 1 = some x ∧ (x.wait = .regroup treg.warp.ident.rank 0xF0 ∧ x.id ≠ treg.warp.id ∧ x.det = false ∧
        (∀ y ∈ treg.others, y.id = x.id) ∧ (regroupLanes (treg.warp.live &&& treg.warp.mget 1) (x.live &&& 0xF0)).length ≤ 64) :=
  ⟨by decide +kernel, by decide +kernel, by decide +kernel, any_some (by decide +kernel)⟩

/-! ## Engines -/

/-- The loaded module whose page at 0x1000 is a host page. -/
def lhost : State := ld.devWrite (loadRoot + 4 * 4096 + 8) (natToBytes 8 0x397)
/-- That module with a block of bytes at 0x1000, one engine context and bank 0 in its catalogue; `s1` addresses the block. -/
def lblk (b : List Byte) : State :=
  { (lhost.modPart 0 fun p => { p with cfg := { p.cfg with ectx := 1 }, banks := [(0, 0x100)] }).sset 1 0x1000 with
    hostMem := ⟨(b.zipIdx.filter (·.1 ≠ 0)).map fun x => ⟨x.2, x.1⟩, []⟩ }
def blockOf : Block? → List Byte × State
  | .ok bs s => (bs, s)
  | .stop s => ([], s)
theorem blockOf_ok (r : Block?) (h : (blockOf r).1 ≠ []) : r = .ok (blockOf r).1 (blockOf r).2 := by
  cases r <;> simp_all [blockOf]

/-- Copy descriptors: between memory, between buffers, and to a weight bank; and a gather through a buffer's index list. -/
def cpyMem : List Byte := layBytes [(8, 0x1000), (8, 0x1800), (4, 64), (1, 1), (1, 0), (1, 0)]
def cpyBuf : List Byte := layBytes [(8, 0x200000), (8, 0x210000), (4, 64), (1, 1), (1, 1), (1, 1)]
def cpyBank : List Byte := layBytes [(8, 0x1000), (8, 0), (4, 64), (1, 1), (1, 0), (1, 2)]
def gathBuf : List Byte := layBytes [(8, 0x1000), (8, 0x210000), (4, 0x200000), (4, 4), (4, 1), (4, 4), (8, 0), (8, 0), (1, 10), (1, 1)]

/-- What an engine word's warp and context need. -/
def engineReady (s : State) : Prop :=
  matrixMode s ∧ s.warp.det = false ∧ field (s.sget 2) 52 12 < (s.part s.warp.ident.part).cfg.ectx ∧ field (s.sget 2) 0 52 = 0 ∧ (s.sget 1).toNat % 64 = 0 ∧
    s.releaseReady .sys = true ∧ s.ops = [] ∧ (s.sget 0).toNat % 4 = 0

theorem witness_EngineWords_cpy : (∀ b ∈ [cpyMem, cpyBuf, cpyBank], engineReady (lblk b) ∧
    (blockOf ((lblk b).readPieces 0x1000 8 [])).1 = b ++ zeros (512 - b.length) ∧ cpyBad (b ++ zeros (512 - b.length)) = false) := by
  unfold engineReady matrixMode; decide +kernel

theorem witness_EngineWords_sides :
    let u := (blockOf ((lblk cpyBuf).readPieces 0x1000 8 [])).2
    u.spanKind 0x200000 (sideSpan 64 []) = none ∧ u.spanKind 0x210000 (sideSpan 64 []) = none ∧
      (Tab.get (u.part u.warp.ident.part).banks 0 0).getLsbD 8 = true ∧ 0 ≤ (sideSpan 64 []).1 ∧ (sideSpan 64 []).2 ≤ 8388608 := by decide +kernel

theorem witness_EngineWords_gath :
    let r := (lblk gathBuf).readPieces 0x1000 1 []
    let bs := (blockOf r).1
    engineReady (lblk gathBuf) ∧ r = .ok bs (blockOf r).2 ∧ gathBad bs = false ∧ bitsOf (leAt bs 16 4) 21 2 = 1 ∧ (leAt bs 48 1).testBit 3 = true ∧
      bitsOf (leAt bs 8 8) 21 2 = 1 ∧ (blockOf r).2.rangeKind 0x210000 (0x10000 + 1 * 4) = none ∧ (blockOf r).2.rangeKind 0x200000 4 = none := by
  refine ⟨by unfold engineReady matrixMode; decide +kernel, blockOf_ok _ (by decide +kernel), by decide +kernel⟩

theorem witness_EngineWords_others :
    let s := lblk []
    let tr := trOf s 0x1000
    engineReady s ∧ s.xlate 0 0x1000 = .ok tr ∧ tr.page ≤ 2 ^ 21 ∧ tr.place ≠ .remote ∧
      (let c := (s.sset 2 0x10000).sget 2;
        c.getLsbD 16 = true ∧ field c 17 35 = 0 ∧ field c 7 9 = 0 ∧ (Tab.get (s.part 0).clusters (field c 0 7) 0).getLsbD 8 = true) ∧
      (let c := (s.sset 2 0x1000).sget 2;
        field c 0 31 ≠ 0 ∧ field c 0 31 ≤ 2 ^ 30 ∧ field c 31 17 = 0 ∧ field c 48 3 ≤ 5 ∧ c.getLsbD 51 = false) ∧
      (s.warp.priv = true ∧ 2 ≤ (s.part 0).cfg.level ∧ field (s.sget 2) 4 6 < 32 ∧ pageBytes (field (s.sget 2) 0 4) = 4096) := by
  unfold engineReady matrixMode; decide +kernel

/-- An operation of context 0 of partition 0. -/
def opOf (k : EngKind) (started : Bool) : EngOp :=
  { part := 0, ctx := 0, n := 1, kind := k, grid := ld.warp.ident.grid, team := 0, ticket := ⟨0, 0, 0, 0, 0, none⟩, det := false, started := started,
    fault := none, faultVa := 0, held := false, pos := 0, core := none, data := [], kept := [], halves := [], folio := [],
    sent := false, refused := none }
def withOp (s : State) (k : EngKind) (started : Bool) : State := { s with ops := [opOf k started] }

/-- A copy of 64 bytes of host memory at 0x1000, and a gather of one row from there by a list in buffer A. -/
def hCpy : CpyDesc := ⟨0x1000, 0x200040, 64, 0, 1, 0, 0, []⟩
def hGath : GathDesc := ⟨0x1000, 0x210000, 0x200000, 4, 1, 4, 0, 0, 4, false, true, 0, 0⟩
theorem witness_EngineEvents_start :
    let s := withOp lhost (.pref 0x1000 64 0 true 0) false
    s.ops.find? (fun x => x.part == 0 && x.ctx == 0 && !x.started && !x.held) = some (opOf (.pref 0x1000 64 0 true 0) false) := by decide +kernel

theorem witness_EngineEvents_run : ∀ k ∈ [EngKind.cpy hCpy, .gath hGath, .pref 0x1000 64 0 true 0, .clr 0x8E00005000 4096 0],
    let s := withOp lhost k true
    s.runningOp 0 0 1 = some (opOf k true) ∧ s.opAwaits (opOf k true) = false ∧ s.moves = [] := by decide +kernel

theorem witness_EngineEvents_copy :
    let r := (withOp lhost (.cpy hCpy) true).haul (opOf (.cpy hCpy) true) hCpy.legs
    r.2 = ([⟨.copy (.mem .host 0), .buf 0 1 64, 64, 0x1000, 0x200040⟩], .none) := by decide +kernel

theorem witness_EngineEvents_gather :
    let o := opOf (.gath hGath) true
    let r := (withOp lhost (.gath hGath) true).haul o hGath.indexLegs
    let q := r.1.haul o ((List.range hGath.count).map fun i =>
      hGath.rowLeg i (indexValue hGath ((r.1.haulBytes o (r.2.1.getD i ⟨.zero, .bank 0, 0, 0, 0⟩)).map (·.1))) false)
    r.2 = ([⟨.copy (.buf 0 1 0x10000), .bank 0, 4, 0x210000, 0⟩], .none) ∧ r.2.1.length = hGath.count ∧ (∀ h ∈ r.2.1, ∀ x ∈ r.1.haulBytes o h, x.2 = false) ∧
      q.2 = ([⟨.copy (.mem .host 0), .buf 0 1 0, 4, 0x1000, 0x200000⟩], .none) := by decide +kernel

theorem witness_EngineEvents_yield :
    let s := { ttl with warp := { tw with wait := .engine 0 2 8 3 } }
    s.findWarp s.warp.id = some s.warp ∧ s.warp.alive = true ∧ s.warp.wait = .engine 0 2 8 3 ∧ 2 ≤ (s.ctxOf s.warp.ident.part 0).t ∧ s.warp.evicted = false :=
  ⟨findWarp_self _ (by decide +kernel), by decide +kernel⟩

/-- A move of the host page at 0x1000 to the frame at 0x8E00400000. -/
def tMove (flying : Bool) : Move := ⟨9, 0, 0x1000, loadRoot + 4 * 4096 + 8, 0, .host, 0, 0x8E00400000, false, 0, flying, []⟩
def lmig : State :=
  { lhost.modPart 0 fun p => { p with cfg := { p.cfg with migth := 4, migBase := 0x8E00400000, migSize := 0x1000 } } with
    migCounts := [(0x1000, 4)], fills := [⟨3, .device, 7, zeros 128, [], false, 0⟩] }

theorem witness_Migration_threshold :
    let tr := trOf lmig 0x1000
    lmig.fills.find? (fun y => y.cluster == 3 && y.line == 7) = some ⟨3, .device, 7, zeros 128, [], false, 0⟩ ∧
      lmig.xlate 0 0x1000 = .ok tr ∧ (lmig.part 0).cfg.migth ≠ 0 ∧ tr.page ≤ 2 ^ 21 ∧
        (lmig.part 0).cfg.migth ≤ Tab.get lmig.migCounts (0 * 2 ^ 57 + 0x1000 / tr.page * tr.page) 0 ∧ tr.place = .host ∧ lmig.moves = [] := by decide +kernel

theorem witness_Migration_start :
    let s := { lmig with moves := [tMove false] }
    (s.moves.filter (·.flying)).length < 8 ∧ s.moves.find? (fun y => !y.flying && s.moveFree y && !s.moves.any fun x => x.flying && x.of y.part y.va) = some (tMove false) ∧
      s.xlate 0 0x1000 = .ok (trOf s 0x1000) ∧ moveDone (trOf s 0x1000) false 0 = false ∧ s.poolFrame 0 4096 = some 0x8E00400000 := by decide +kernel

theorem witness_Migration_complete :
    let t := { lmig with moves := [tMove true] }
    t.moves.find? (fun y => y.id == 9 && y.flying) = some (tMove true) ∧ t.warp.task = none ∧
      (∀ i < pageBytes 0 / 2 ^ (12 + 9 * pageLevel 0), (tMove true).leaf + 8 * i + 8 ≤ (tMove true).newPa ∨
        (tMove true).newPa + pageBytes 0 ≤ (tMove true).leaf + 8 * i) ∧
      (t.part 0).msgs.length < 1023 ∧ (t.part 0).overflow = none := by decide +kernel

/-! ## Partitions, mailboxes and launches -/

/-- A configuration for partition 1 of two 2 MiB pages, and one that keeps what partition 0 may not change. -/
def cfgBlock (pool size mbx fault reply level share : Nat) : List Byte :=
  layBytes [(8, pool), (8, pool), (8, size), (16, 0), (2, mbx), (2, fault), (2, reply), (2, 8), (2, 1), (1, level), (1, 0), (8, 0), (2, 64), (2, 0), (2, 64),
    (1, 0), (1, 0), (2, 0), (2, 0), (8, share)]
def cfg1 : List Byte := cfgBlock 0x100000000 0x600000 16 1 2 1 0x200000
def lcfg (b : List Byte) : State :=
  { (lblk b).sset 2 0x1000 with owners := ⟨0x100000000 / 4096, 0x100600000 / 4096, 1⟩ :: ld.owners }
/-- Partition 1 in a state. -/
def part1 (st : PartState) : Part := { Part.blank with state := st, cfg := { cfgOf cfg1 with ectx := 1 } }
def lp1 (st : PartState) : State := { (ld.setPart 1 (part1 st)) with nextId := ld.nextId }

theorem witness_PartitionWords_new :
    let s := (lcfg cfg1).sset 3 1
    let bs := (blockOf (s.readPieces 0x1000 2 [])).1
    let u := (blockOf (s.readPieces 0x1000 2 [])).2
    mayConfigure s 2 ∧ (s.sget 3).toNat = 1 ∧ (s.sget 2).toNat % 64 = 0 ∧ bs.take 80 = cfg1 ∧ cfgBad bs = false ∧ u.poolsBad 1 (cfgOf bs) = false ∧
      u.totalsBad 1 (cfgOf bs) = false ∧ (s.part 1).state = .free ∧ u.findRun 1 (cfgOf bs).barq = some 256 := by
  unfold mayConfigure; decide +kernel

theorem witness_PartitionWords_set :
    let s := ((lcfg cfg1).sset 3 1).setPart 1 { part1 .running with cfg := cfgOf (cfg1 ++ zeros 48) }
    let bs := (blockOf (s.readPieces 0x1000 2 [])).1
    let u := (blockOf (s.readPieces 0x1000 2 [])).2
    cfgBad bs = false ∧ u.poolsBad 1 (cfgOf bs) = false ∧ u.totalsBad 1 (cfgOf bs) = false ∧ (s.part 1).state ≠ .free ∧
      u.moveRun 1 (cfgOf bs).barq = some 0 ∧ u.ctxBusy 1 (cfgOf bs).ectx = false ∧ (u.mbx 1 (cfgOf bs).replyMbx).bound = false ∧
      (cfgOf bs).root = (u.part 1).cfg.root ∧ (cfgOf bs).pools = (u.part 1).cfg.pools ∧ (cfgOf bs).level = (u.part 1).cfg.level := by decide +kernel

theorem witness_PartitionWords_bind :
    let r := lp1 .running
    let s := lp1 .suspended
    (mayConfigure s 2 ∧ (s.part 1).state = .suspended ∧ (s.part 1).stop = none ∧ s.folioOn 1 = false ∧ s.liveGrid 1 = false ∧ 1 ≠ s.warp.ident.part) ∧
      (r.warp.alive = true ∧ (r.part 1).state = .running ∧ (r.part 1).newCluster = none ∧ r.placedTeams 1 = [] ∧ r.crewsOn 1 none = false) := by
  unfold mayConfigure; decide +kernel

theorem witness_PartitionWords_tables :
    ((lp1 .running).vfWrite 5 0x8001000400000001).1 = 0 ∧ ((lp1 .running).vfWrite 5 0).1 = 0 ∧
      (let v := 0x1000000000000000#64;
        field v 53 7 = 0 ∧ field v 16 32 = 0 ∧ field v 60 4 = 1 ∧ (ld.part (field v 48 5)).state ≠ .free ∧ field v 0 16 < 256 ∧ ld.bankElsewhere 0 0x100 = false) ∧
      (field 0x2000000000000000 60 4 = 2 ∧ field 0x20000000000001FF 0 16 < 512 ∧ field 7 3 61 = 0) ∧
      (field 0x300000000000021F 60 4 = 3 ∧ field 0x300000000000021F 0 16 < 544 ∧ laneMapBad 0x84210 = false ∧ ld.holder (coreOfIndex 0) = none) := by
  decide +kernel

theorem witness_HaltAndStop :
    let s := lp1 .running
    let d := { s with warp := { s.warp with debug := true } }
    mayConfigure s 2 ∧ mayConfigure s 1 ∧ s.others = [] ∧ (s.part 1).state ≠ .free ∧ (s.part 1).stop = none ∧ (s.part 0).state ≠ .free ∧ (s.part 0).stop = none ∧
      s.warp.ident.part = 0 ∧ field 0x10001 0 5 = 1 ∧ field 0x10001 5 11 = 0 ∧ field 0x10001 32 32 = 0 ∧ field 0x10000 0 16 = 0 ∧ d.warp.debug = true := by
  unfold mayConfigure; decide +kernel

/-- Mailbox 3 of partition 0 is bound to a handler, and function 1 reaches it in slot 3. -/
def lmbx : State :=
  { (((lblk []).sset 2 0x1000).modPart 0 fun p => { p with mbxs := (3, { Mbx.blank with binding := .handler Desc.blank }) :: p.mbxs }) with
    vfs := [(1, ⟨0, 8, 0, 1⟩)] }
/-- A handler descriptor with entry 0x1000. -/
def descBlock : List Byte := layBytes [(8, 0x1000), (8, 0x1000), (16, 0), (2, 64), (1, 1), (1, 1), (4, 1), (2, 0), (1, 0), (1, 1), (84, 0)]

theorem witness_Mailboxes :
    let s := lmbx.sset 1 3
    let r := s.readPieces 0x1000 1 []
    let u := (blockOf r).2
    (s.warp.fork = none ∧ s.warp.task = none ∧ s.warp.det = false ∧ s.warp.isShadowed = false) ∧ (s.sget 2).toNat = 0x1000 ∧
      (blockOf r).1 ≠ [] ∧ u.releaseReady .sys = true ∧ field (s.sget 1) 0 12 = 3 ∧ field (s.sget 1) 12 5 = s.warp.ident.part ∧ field (s.sget 1) 20 12 = 0 ∧
      (s.part 0).state ≠ .free ∧ 3 < (s.part 0).cfg.mbx ∧ 0 < (s.part 0).cfg.ectx ∧ (s.sget 0).toNat ≤ (u.ctxOf 0 0).s ∧
      (u.ctxOf 0 0).deferred.length < 16 ∧ 3 ≠ (s.part 0).cfg.replyMbx ∧ (s.mbx 0 3).queue.length < 16 ∧ s.vf? 1 = some ⟨0, 8, 0, 1⟩ ∧
      (s.mbx 0 4095).binding = .service ∧ (s.mbx 0 4095).queue.length < 16 := by decide +kernel

theorem witness_Mailboxes_takes : takesMessage (lmbx.sset 1 3) 0 3 ∧ takesMessage lmbx 0 4095 :=
  ⟨⟨by decide +kernel, by decide +kernel, by decide +kernel, by decide +kernel, .inr ⟨Desc.blank, by decide +kernel, rfl⟩⟩,
   ⟨by decide +kernel, by decide +kernel, by decide +kernel, by decide +kernel, .inl (by decide +kernel)⟩⟩

theorem witness_Mailboxes_bind :
    let s := ((lblk descBlock).sset 2 0x1000).sset 1 3
    let r := s.readPieces 0x1000 2 []
    mayConfigure s 1 ∧ (blockOf r).1 = descBlock ∧ descBad 0 ((blockOf r).2.part 0).cfg (blockOf r).1 = false ∧
      ((blockOf r).2.part 0).cfg.replyMbx = (s.part 0).cfg.replyMbx ∧ field (s.sget 1) 17 47 = 0 ∧ (s.sget 0).toNat = 0 := by
  unfold mayConfigure; decide +kernel

/-- A message waits in mailbox 3, and a post for it is deferred behind operation 2 of context 0. -/
def lmsg : State :=
  (lmbx.modMbx 0 3 fun m => { m with queue := [(1, zeros 64)] }).modPart 0 fun p => { p with ctxs := [(0, ⟨4, 2, [], [⟨2, 3, 0, 0, zeros 64⟩]⟩)] }

theorem witness_Launches :
    lmsg.launchable 0 3 = some (1, zeros 64) ∧ (lmsg.mbx 0 3).binding = .handler Desc.blank ∧
      ((lmsg.part 0).mbxs.all fun k => (lmsg.launchable 0 k.1).all fun q => decide (1 ≤ q.1)) = true ∧
      (lmsg.ctxOf 0 0).deferred.find? (fun z => decide (z.n ≤ (lmsg.ctxOf 0 0).t)) = some ⟨2, 3, 0, 0, zeros 64⟩ ∧
      (let s := { tdet with warp := .blank, grids := [⟨4, 0, 0, 0, 0, Desc.blank, [], false, 0⟩] };
        s.grid? 4 = some ⟨4, 0, 0, 0, 0, Desc.blank, [], false, 0⟩ ∧ s.gridOver 4 = true) := by decide +kernel

/-- A fault entry of partition 0, its record not sent yet, to which the warp is attached. -/
def tFault : FaultEnt := ⟨5, 0x2000, 0, [(ld.warp.id, 0)], [], false, zeros 64⟩
def lfault : State :=
  (lmbx.modPart 0 fun p => { p with cfg := { p.cfg with faultMbx := 3 }, msgs := [zeros 64], faults := [tFault] }).modMbx 0
    (lmbx.part 0).cfg.replyMbx fun m => { m with queue := [(1, [1, 0, 0, 0, 0, 0, 0, 0] ++ natToBytes 8 5 ++ zeros 48)] }

theorem witness_Faults :
    let x := lfault.part 0
    let o := lfault.modPart 0 fun p => { p with msgs := [], overflow := some ⟨0, 1, 0, 0, 1⟩ }
    x.msgs = [zeros 64] ∧ lfault.runs 0 = true ∧ (lfault.mbx 0 x.cfg.faultMbx).binding = .handler Desc.blank ∧ (lfault.mbx 0 x.cfg.faultMbx).queue.length < 16 ∧
      ((o.part 0).msgs = [] ∧ (o.part 0).overflow = some ⟨0, 1, 0, 0, 1⟩) ∧ (x.faults.find? (fun e => !e.sent) = some tFault ∧ x.msgs.length < 1023 ∧ x.overflow = none) ∧
      ((lfault.mbx 0 x.cfg.replyMbx).queue = [(1, [1, 0, 0, 0, 0, 0, 0, 0] ++ natToBytes 8 5 ++ zeros 48)] ∧
        x.faults.find? (fun e => e.token == 5) = some tFault ∧ (lfault.warp.id, 0) ∈ tFault.warps) := by decide +kernel

/-! ## Encoding, reset and the step -/

theorem witness_EncodeDecode :
    (Instr.sadd 1 2 3).wf = true ∧ (encode (.sadd 1 2 3)).isSome = true ∧ (Instr.sliX 3 .sx 5).wf = true ∧ (encode (.sliX 3 .sx 5)).isSome = true ∧
      (Instr.iadd ⟨false, 4, .v 2, .s 9, .v 0, ⟨0, 0, false, false, false⟩, none, 0, 0, false, 0⟩ .i32 false).wf = true ∧
      (encode (.iadd ⟨false, 4, .v 2, .s 9, .v 0, ⟨0, 0, false, false, false⟩, none, 0, 0, false, 0⟩ .i32 false)).isSome = true := by decide +kernel

theorem witness_StepGuards : guarded 0 0 State.reset ∧ step State.reset = .next (nextOf (step State.reset) State.reset) := by
  refine ⟨by unfold guarded; decide +kernel, ?_⟩
  unfold step State.nextTurn State.idleTurn runTurn isEvent nextOf
  rfl

/-- The loaded module with some words at the program counter, and with a block open at them. -/
def lcode (w : Nat) : State := ld.placeCode loadFrame false w
def llane : State :=
  let s := (State.reset.loaded true).placeCode loadFrame true 0
  { s with warp := s.warp }

/-- What a stream of a turn needs to issue. -/
def issuesNow (s : State) : Prop :=
  s.agenda = .issue s.warp.id 0 :: [] ∧ s.warp.alive = true ∧ s.warp.fork = none ∧ s.warp.evicted = false ∧ s.warp.wait = .none ∧ s.warp.pending = none ∧
    s.warp.quantumFull = false ∧ s.shadows = []

def turnOf (s : State) : State := { s with agenda := [], items := [], lvq := [] }

theorem witness_StepRunsDecoded_scalar :
    let s := lcode 0x4C000005
    let bad := lcode 0x7C000000
    issuesNow s ∧ s.warp.block = none ∧ ((turnOf s).fetch s.warp.pc.toNat 4).1 = .bytes [0x05, 0x00, 0x00, 0x4C] ∧
      isPrefix (BitVec.ofNat 32 (bytesToNat [0x05, 0x00, 0x00, 0x4C])) = false ∧ decodeWords (.scalar (BitVec.ofNat 32 (bytesToNat [0x05, 0x00, 0x00, 0x4C]))) = .ok .rett ∧
      ((turnOf bad).fetch bad.warp.pc.toNat 4).1 = .bytes [0x00, 0x00, 0x00, 0x7C] ∧
      decodeWords (.scalar (BitVec.ofNat 32 (bytesToNat [0x00, 0x00, 0x00, 0x7C]))) = .error .major := by
  unfold issuesNow; decide +kernel

theorem witness_StepRunsDecoded_pair :
    let s := lcode 0x12345678FC900702
    let v := ((turnOf s).fetch s.warp.pc.toNat 4).2
    issuesNow s ∧ ((turnOf s).fetch s.warp.pc.toNat 4).1 = .bytes [0x02, 0x07, 0x90, 0xFC] ∧ isPrefix (BitVec.ofNat 32 (bytesToNat [0x02, 0x07, 0x90, 0xFC])) = true ∧
      (v.fetch (s.warp.pc + 4).toNat 4).1 = .bytes [0x78, 0x56, 0x34, 0x12] ∧
      (decodeWords (.pair 0xFC900702 0x12345678)).isOk = true := by
  unfold issuesNow; decide +kernel

theorem witness_StepRunsDecoded_lane :
    issuesNow llane ∧ llane.warp.block.isSome = true ∧
      ((turnOf llane).fetch ((llane.warp.block.map (·.wordAddr)).getD 0) 12).1 = .bytes (List.replicate 12 0) ∧
      permCheck accFetch (ld.xlate ld.warp.ident.part 0x1000) = .ok (trOf ld 0x1000) ∧ (trOf ld 0x1000).place = .device ∧
      (ld.markLeaf (trOf ld 0x1000).leaf false).dev.poisoned (trOf ld 0x1000).pa 12 = false := by
  unfold issuesNow; decide +kernel

theorem witness_StepRunsDecoded_event :
    let s := { State.reset with agenda := [.event .frameStart] }
    s.agenda = [.event .frameStart] ∧ encode .frameStart = none ∧ State.reset.agenda = [] ∧ State.reset.up = false := by decide +kernel

/-! ## Security, warps and the distributor -/

/-- A block that names tenant 7 and one range, the page at 0x1000, which is sealed. -/
def tenantBlock : List Byte := layBytes [(8, 7), (8, 1), (16, 0), (8, 0x1000), (8, 0x1000)]
def lsec : State :=
  let s := (ld.devWrite loadFrame tenantBlock).devWrite (loadRoot + 4 * 4096 + 8) (natToBytes 8 (loadFrame + 0x1F + 2 ^ 57))
  (s.sset 2 0x1000).modPart 0 fun p => { p with cfg := { p.cfg with ectx := 1 } }

theorem witness_SecurityWords_measure :
    let s := lsec.sset 1 0x1000000000000000
    let r := s.readPieces 0x1000 4 []
    let u := (blockOf r).2
    mayConfigure s 2 ∧ field (s.sget 1) 5 55 = 0 ∧ field (s.sget 1) 60 4 = 1 ∧ (s.sget 2).toNat % 64 = 0 ∧ (s.part 0).state ≠ .free ∧ (blockOf r).1.take 48 = tenantBlock ∧
      ((List.range 1).mapM (u.measureRange 0 (blockOf r).1)).isSome = true ∧ u.security.tenants.length < 65536 ∧ (u.part 0).bound = none ∧ s.folioOn 0 = false := by
  unfold mayConfigure; decide +kernel

/-- A block that names a 2 MiB host page at 0x200000 for the report, mapped for partition 0. -/
def lrep : State :=
  let s := (ld.devWrite loadFrame (layBytes [(32, 0), (8, 0x200000)])).devWrite (loadRoot + 3 * 4096 + 8) (natToBytes 8 0x5000000000000397)
  s.sset 2 0x1000
def hitchless : Hitch × List Chunk × State → Bool
  | (.none, _, _) => true
  | _ => false

theorem witness_SecurityWords_report :
    let s := lrep.sset 1 0x2000000000000000
    let r := s.readPieces 0x1000 1 []
    let u := (blockOf r).2
    let c : Hitch × List Chunk × State := u.range 0 0x200000 21904 accWrite
    field (s.sget 1) 60 4 = 2 ∧ field (s.sget 1) 5 55 = 0 ∧ leAt (blockOf r).1 32 8 = 0x200000 ∧ hitchless c = true ∧ (∀ k ∈ c.2.1, pteMoving k.t.entry = false) ∧
      u.security.sigIndex < Config.identitySigs := by decide +kernel

/-- A `ckpt` that was refused at acceptance, and the pages that take its status. -/
def ckOp : EngOp := opOf (.ckpt 1 (layBytes [(64, 0)]) 0x1000 3) true
def rsOp : EngOp := opOf (.rest 1 (layBytes [(64, 0)]) 0x1000 3) true
def replied (r : Except (Nat × Nat) State) : State :=
  match r with
  | .ok s => s
  | .error _ => ts
theorem replied_ok (r : Except (Nat × Nat) State) (h : (match r with | .ok _ => true | .error _ => false) = true) : r = .ok (replied r) := by
  cases r <;> simp_all [replied]

theorem witness_SecurityWords_ends :
    let b := layBytes [(64, 0)]
    let s := { lhost with ops := [ckOp] }
    s.runningOp 0 0 1 = some ckOp ∧ s.opAwaits ckOp = false ∧ ckOp.sent = false ∧ s.ckptRun ckOp 1 b 3 = .done 3 none s ∧
      s.replies ckOp ([] ++ [(0x1000 + 24, 3)]) = .ok (replied (s.replies ckOp [(0x1000 + 24, 3)])) :=
  ⟨by decide +kernel, by decide +kernel, by decide +kernel, rfl, replied_ok _ (by decide +kernel)⟩

theorem witness_SecurityWords_rest :
    let b := layBytes [(64, 0)]
    let s := { lhost with ops := [rsOp] }
    s.runningOp 0 0 1 = some rsOp ∧ s.opAwaits rsOp = false ∧ rsOp.sent = false ∧ s.restRun rsOp 1 b 3 false = .done 3 none s ∧
      s.replies rsOp [(0x1000 + 48, 3)] = .ok (replied (s.replies rsOp [(0x1000 + 48, 3)])) :=
  ⟨by decide +kernel, by decide +kernel, by decide +kernel, by unfold State.restRun; simp, replied_ok _ (by decide +kernel)⟩

theorem witness_SecurityWords_place :
    let tr := trOf lhost 0x1000
    permCheck accWrite (lhost.xlate ckOp.part 0x1000) = .ok tr ∧ tr.place = .host ∧ pteMoving tr.entry = false := by decide +kernel

/-- The warp of the loaded module in a crew with a state, waiting for a barrier. -/
def lcrew (st : CrewState) (wait : Wait) (out : Bool) : State :=
  { ld with warp := { ld.warp with wait := wait, evicted := out }, crews := ld.crews.map fun (c : Crew) => { c with state := st } }

theorem witness_WarpEvents :
    let s := lcrew .marked (.barrier 0 0) false
    let p := lcrew .placed .none true
    let k : Cause := ⟨0x03, 0, 0, 0, 0x1000, 4, false, 0⟩
    let c := { ld with warp := { ld.warp with pending := some k } }
    let f := { ld with warp := { ld.warp with wait := .regfile [70] } }
    (ld.warp.alive = true ∧ ld.others = [] ∧ ld.shadows = []) ∧ (c.warp.evicted = false ∧ c.warp.wait = .none ∧ c.warp.pending = some k) ∧
      ((ld.part 0).msgs.length < 1023 ∧ (ld.part 0).overflow = none) ∧ (f.warp.fork = none ∧ f.warp.wait = .regfile [70]) ∧
      ((s.crewOfWarp s.warp).map (·.state) = some .marked ∧ s.warp.blocked = true ∧ s.warp.evicted = false ∧ s.slips = []) ∧
      ((p.crewOfWarp p.warp).map (·.state) = some .placed ∧ p.warp.evicted = true ∧ p.wakeMet p.warp = true ∧ (p.part 0).stop = none ∧
        ((p.crewOfWarp p.warp).map (·.core.isSome)) = some true) := by decide +kernel

theorem tab_all {α : Type} (l : Tab α) (d : α) (P : α → Prop) (h : ∀ e ∈ l, P e.2) (hd : P d) (k : Nat) : P (Tab.get l k d) := by
  induction l with
  | nil => exact hd
  | cons e l ih =>
    unfold Tab.get
    split
    · exact h e (by simp)
    · exact ih fun x hx => h x (by simp [hx])

/-- The loaded module before its team was placed; the part's share holds as much as the team's areas need. -/
def lwait : State :=
  let s : State := { ld with
    teams := ld.teams.map fun (t : Team) => { t with shelf := none, cluster := none }
    crews := ld.crews.map fun (c : Crew) => { c with state := .waiting, core := none }
    warp := { ld.warp with evicted := true } }
  s.modPart 0 fun p => { p with cfg := { p.cfg with hwres := loadDesc.areas } }
def lteam : Team := (lwait.teams.head?).getD (slTeam 0 0)

theorem witness_Distribution_place :
    lwait.runs 0 = true ∧ lwait.firstTeam 0 = some lteam ∧ lwait.shelfFor lteam = some 0 ∧ (lwait.teamCrews lteam).any (·.state == .waiting) = true ∧
      (lwait.descOf lteam.grid).timed = false ∧ ∀ y ∈ lwait.crews, y.state ≠ .marked := by decide +kernel

theorem witness_Distribution_settled : settled lwait 0 ∧ ∀ d : Nat, (lwait.die d).lanes = [] := by
  refine ⟨by unfold settled; decide +kernel, fun d => tab_all lwait.dies _ (fun x => x.lanes = []) (by decide +kernel) rfl d⟩

theorem witness_Distribution_fit : lwait.areasFit lteam = true := by
  have h1 : lwait.teamPart lteam = 0 := by decide +kernel
  have h2 : lwait.descOf lteam.grid = loadDesc := by decide +kernel
  have h3 : (lwait.crews.filter fun c => ((lwait.grid? c.grid).map (·.part)) == some 0 && c.state.hasAreas) = [] := by decide +kernel
  have h4 : (lwait.part 0).cfg.hwres = loadDesc.areas := by
    have h (s : State) (f : Part → Part) : (s.modPart 0 f).part 0 = f (s.part 0) := by
      have g (l : Tab Part) (x d : Part) : Tab.get (Tab.set l 0 x) 0 d = x := by
        induction l with
        | nil => simp [Tab.set, Tab.get]
        | cons e l ih => unfold Tab.set; split <;> simp_all [Tab.get]
      exact g _ _ _
    unfold lwait
    rw [h]
  unfold State.areasFit State.areasHeld
  simp only [h1, h2, h3, h4]
  simp

theorem witness_Distribution_leave :
    let s : State := { ld with crews := ld.crews.map (fun (c : Crew) => { c with state := .marked }), warp := { ld.warp with evicted := true } }
    let b : State := { ld with warp := { ld.warp with wait := .barrier 0 0 }, teams := ld.teams ++ [{ lteam with num := 1 }], crews := ld.crews ++ [{ (ld.crews.headD (Grid.crew ⟨0, 0, 0, 0, 0, Desc.blank, [], false, 0⟩ 0)) with num := 1, team := 1, state := .waiting, core := none }] }
    (s.crewAt 0).map (·.state) = some .marked ∧ ((s.crewAt 0).bind s.teamOfCrew).any s.teamIdle = true ∧ s.waitingTeams 0 = [] ∧ (s.part 0).cfg.slice = 0 ∧
      (∀ y ∈ s.crews, y.state ≠ .placed) ∧ b.waitingTeams 0 ≠ [] ∧ (b.latest ((b.untimed 0).filter b.crewBlocked)) = b.crews.head? ∧
      ((b.latest ((b.untimed 0).filter b.crewBlocked)).bind b.teamOfCrew).isSome = true ∧
      (s.part 0).cfg.flags ≠ 1 ∧ ((s.modPart 0 fun p => { p with cfg := { p.cfg with flags := 1 } }).part 0).cfg.flags = 1 ∧
      (((s.crewAt 0).bind fun c => s.grid? c.grid).map (·.part)) = some 0 := by decide +kernel

/-! ## Dies, repair, stops and the module -/

theorem witness_Dies :
    let k : CoreId := ⟨7, 3, 1⟩
    let d (st : DieState) (l : List (Nat × Nat × Nat)) : State := ts.modDie 7 fun x => { x with state := st, lanes := l }
    (ts.holder k = none ∧ ((d .active []).die 7).defects 13 0 = [] ∧ field ((d .active []).laneMap (68 * 7 + 13)) (5 * 0) 5 ≠ 4) ∧
      ((d .active [(13, 0, 4)]).die 7).defects 13 0 = [4] ∧ (ld.holder ((ld.crews.head?.bind (·.core)).getD k)).isSome = true ∧
      ((ld.holder ((ld.crews.head?.bind (·.core)).getD k)).bind fun c => ld.grid? c.grid).map (·.part) = some 0 ∧ (ld.part 0).stop = none ∧
      ((d .active []).die 7).state = .active ∧ ((d .fenced []).die 7).state = .fenced ∧ (d .fenced []).crews = [] ∧ ((d .reset []).die 7).state = .reset ∧
      ((d .dropped []).die 7).state = .dropped := by decide +kernel

/-- Frame 3 is retired, and its bank group has a repair row left. -/
def trow : State := { ts with owners := [⟨3, 4, 64⟩], rowsLeft := [(Config.bankGroup 3, 1)] }

theorem witness_Repairs :
    trow.ownerAt (4096 * 3) = 64 ∧ ts.ownerAt (4096 * 3) ≠ 64 ∧ Tab.get trow.rowsLeft (Config.bankGroup 3) (Config.repairRows (Config.bankGroup 3)) ≠ 0 :=
  ⟨by decide +kernel, by decide +kernel, by simp [trow, Tab.get]⟩

/-- A stop of partition 1 that two units, or one, have still to reach. -/
def tstop (l : List Nat) (again : Bool) : State :=
  { ts with parts := [(1, { Part.blank with state := .running, stop := some ⟨1, 0, 0xF000, 0, 0, 1, l, l, 0, 0, true, again, none⟩ }), (2, { Part.blank with state := .suspended })] }

theorem witness_StopPoints :
    let s := tstop [0x100, 0x101] false
    let e := tstop [0x100] false
    (s.part 1).stop.isSome = true ∧ ((s.part 1).stop.map (·.left)) = some [0x100, 0x101] ∧ [0x100, 0x101].filter (· != 0x100) ≠ [] ∧
      [0x100].filter (· != 0x100) = [] ∧ ((e.part 1).stop.map (·.runAfter)) = some false ∧ 0x102 ∉ [0x100] ∧ (4 : W64).getLsbD 2 = true ∧
      (s.part 2).state = .suspended ∧ (s.part 2).stop = none ∧ s.folioOn 2 = false ∧ (2 : W64).getLsbD 1 = true := by decide +kernel

theorem witness_ModuleEvents :
    let l := { ts with limits := [4], parts := [(1, { Part.blank with state := .suspended, autoRun := some 7 })] }
    let f := { ts with security := { ts.security with staged := some (2, [3]), activating := true }, parts := [(1, { Part.blank with state := .suspended, autoRun := some 8 })] }
    ld.up = true ∧ ts.up = false ∧ ts.mgmtConfig = none ∧ 4 ∈ l.limits ∧ (l.part 1).stop = none ∧ (l.part 1).autoRun = some 7 ∧ (l.part 1).state = .suspended ∧
      l.folioOn 1 = false ∧ ts.security.staged = none ∧ f.security.staged = some (2, [3]) ∧ (f.part 1).autoRun = some 8 ∧ f.folioOn 1 = false := by decide +kernel

/-! ## The host link, the fabric and groups -/

/-- The host may reach the frames of partition 0 in the first gigabyte. -/
def thost : State := { ts with owners := [⟨0, 4, 0⟩], fabric := { ts.fabric with hdm := [(0, 0x80)] } }

theorem witness_HostLink :
    (∀ i < 8, thost.hostOpen (0 + i) = true) ∧ (∃ i, i < 1 ∧ ts.hostOpen (0 + i) = false) ∧ ([1] : List Byte) ≠ [] ∧ 0 % 4096 + ([1] : List Byte).length ≤ 4096 ∧
      thost.hostOpen (0 / 4096 * 4096) = true ∧ ts.hostOpen (0 / 4096 * 4096) = false ∧
      (ts.warp.alive = true) := by
  refine ⟨by decide +kernel, ⟨0, by decide +kernel, by decide +kernel⟩, by decide +kernel⟩

theorem witness_HostLink_still : still thost ∧ still ts := by unfold still; decide +kernel

/-- A request of module 9 for partition 0's first gigabyte by export entry 0. -/
def tpkt (kind : BitVec 8) (bytes : List Byte) : Packet := ⟨kind, 0, 9, 0, 0, 0, 5, 0, 0, 64, 1, bytes, maskBytes 8⟩
def tfab : State :=
  { ts with
    owners := [⟨0, 262144, 0⟩]
    fabric := { ts.fabric with exports := [(0, (1#1 ++ (0#1 ++ (0#5 ++ (0#5 ++ (9#14 ++ (0#38 ++ (0#52 ++ 1#12))))))))] } }
def tbad : State := { tfab with dev := ⟨[], [8]⟩ }

theorem witness_Fabric_requests :
    (0 : BitVec 8).toNat = 0 ∧ 5 ≤ (9 : BitVec 8).toNat ∧ 5 ∉ Tab.get tfab.fabric.seen 9 [] ∧ tfab.refuses (tpkt 1 []) = false ∧ tfab.refuses (tpkt 2 [1]) = false ∧
      tfab.refuses (tpkt 4 [0, 0, 0, 0]) = false ∧ ts.refuses (tpkt 1 []) = true ∧ AOp.ofCode 0 ≠ none ∧ atomTyOf 0 = some .b32 ∧
      tfab.dev.poisoned 64 4 = false ∧ tbad.dev.poisoned 64 4 = true ∧ tbad.refuses (tpkt 4 [0, 0, 0, 0]) = false ∧
      5 ∈ Tab.get ({ tfab.fabric with seen := [(9, [5])] } : Fabric).seen 9 [] := by decide +kernel

theorem witness_Fabric_answers :
    let s := tremote
    s.fabric.waiting.find? (fun o => o.awaits (tpkt 5 [1])) = some tout ∧ tout.eng = none ∧ tout.returns = true ∧
      s.warp.alive = true ∧ tout.warp = s.warp.id ∧ s.warp.fork = none ∧ s.warp.remote = [tload] ∧ tload.eseq = tout.eseq ∧ tload.mod = tout.mod ∧ tload.lane < 64 ∧
      s.warp.wait = .remote [(tload.eseq, tload.mod)] ∧ (tpkt 5 [1]).poison = 0 ∧ tload.sreg = some 3 ∧ tload.signed = false ∧ tload.arm = 0 ∧
      s.warp.det = false ∧ s.warp.task = none ∧ (∀ o ∈ ts.fabric.waiting, o.awaits (tpkt 5 [1]) = false) ∧
      s.fabric.waiting.find? (fun o => o.awaits (tpkt 8 [])) = some tout ∧ 5 ∉ Tab.get s.fabric.seen 9 [] := by decide +kernel

/-- The warp has a store on its way, and room for its late error. -/
theorem witness_Fabric_stores :
    let o := { tout with returns := false, ans := 6 }
    let s := { ts with fabric := { ts.fabric with waiting := [o] } }
    s.fabric.waiting.find? (fun y => y.awaits (tpkt 8 [])) = some o ∧ s.fabric.waiting.find? (fun y => y.awaits (tpkt 6 [])) = some o ∧ o.returns = false ∧
      (s.part o.ticket.part).msgs.length < 1023 ∧ { tpkt 6 [] with poison := 1 }.poison ≠ 0 := by decide +kernel

theorem leAt_left (a b : List Byte) (i n : Nat) (h : i + n ≤ a.length) : leAt (a ++ b) i n = leAt a i n := by
  unfold leAt
  rw [List.drop_append_of_le_length (by omega), List.take_append_of_le_length (by simp; omega)]

theorem leAt_right (a b : List Byte) (n : Nat) (h : b.length = n) : leAt (a ++ b) a.length n = bytesToNat b := by
  unfold leAt
  rw [List.drop_left' rfl, List.take_of_length_le (by omega)]

theorem crc_read (x : W64) : BitVec.ofNat 64 (bytesToNat (natToBytes 8 x.toNat)) = x := by
  rw [Machine.bytesToNat_natToBytes]
  apply BitVec.eq_of_toNat_eq
  simp [x.isLt]

/-- A flit with a body of zero reserved bits and lawful unit kinds, and its CRC behind it, is good. -/
theorem good_of (body : List Byte) (h : body.length = 56) (hr : bitsOf (leAt body 0 8) 0 12 = 0)
    (hu : ((List.range 3).map fun i => bitsOf (leAt body 0 8) (12 + 2 * i) 2).all (· != 3) = true) (c : List Byte)
    (hc : c = natToBytes 8 (Config.crc64 body).toNat) : uflGood (body ++ c) = true := by
  have hn : c.length = 8 := by rw [hc, Machine.length_natToBytes]
  have hl : leAt (body ++ c) 56 8 = bytesToNat c := by rw [← h]; exact leAt_right _ _ _ hn
  have h0 : leAt (body ++ c) 0 8 = leAt body 0 8 := leAt_left _ _ 0 8 (by omega)
  have hk : (body ++ c).take 56 = body := List.take_left' h
  unfold uflGood uflHead
  rw [hl, h0, hk, hc, crc_read, hu, hr]
  simp [h, Machine.length_natToBytes]

/-- The empty flit with number 0 and one credit. -/
def tbody : List Byte := natToBytes 8 (2 ^ 20) ++ zeros 48

theorem witness_Fabric_flits :
    uflGood (tbody ++ natToBytes 8 (Config.crc64 tbody).toNat) = true ∧ uflGood [] = false ∧ (ts.port 1).expect = 0 ∧
      (uflHead (tbody ++ natToBytes 8 (Config.crc64 tbody).toNat)).seq = 0 := by
  refine ⟨good_of tbody (by decide +kernel) (by decide +kernel) (by decide +kernel) _ rfl, by decide +kernel, by decide +kernel, ?_⟩
  unfold uflHead
  rw [leAt_left tbody _ 0 8 (by decide +kernel)]
  decide +kernel

theorem witness_Fabric_ports :
    let lost := ts.setPort 1 { ts.port 1 with lost := true }
    let one := ts.setPort 1 { ts.port 1 with lanes := 1 }
    (lost.port 1).lost = true ∧ (ts.port 1).lost = false ∧ ts.fabric.outbox = [] ∧ 1 < (ts.port 1).lanes ∧ (one.port 1).lanes ≤ 1 ∧ (one.port 1).lost = false ∧
      (addUnits [] ((packetUnits (tpkt 1 [])).take 3)).2 = [{ tpkt 1 [] with byteMask := (packetOf ((packetUnits (tpkt 1 [])).map (·.2))).byteMask }] := by
  decide +kernel

/-- A group of partition 0: its entry, with steps. -/
def tgroup (entry : BitVec 512) (steps : List GStep) : State :=
  { ts with parts := [(0, { Part.blank with groups := [(0, ⟨entry, 0, steps, false, []⟩)] })] }
/-- A reduction at the root with child port 2, a multicast, and a module that is no root. -/
def gRoot : BitVec 512 := (1#512 <<< 63) ||| (1#512 <<< 59) ||| (1#512 <<< 130) ||| 64
def gCast : BitVec 512 := (1#512 <<< 63) ||| (1#512 <<< 62) ||| (1#512 <<< 59) ||| 64
def gLeaf : BitVec 512 := (1#512 <<< 63) ||| 64
def gStep (own : Option (List Byte)) (ps : List (Nat × List W32 × List Nat)) (result : Option (List Byte)) (held : Bool) : GStep :=
  ⟨0, own, [], ps, false, result, false, held, false, false⟩

theorem witness_Groups :
    let r (x : GStep) := (tgroup gRoot [x]).group 0 0
    let c := (tgroup gCast [gStep (some (zeros 64)) [] none false]).group 0 0
    let l := (tgroup gLeaf []).group 0 0
    ((tgroup gRoot []).group 0 0).steps = [] ∧ ((tgroup gRoot []).group 0 0).first = none ∧
      (let y := (tgroup gRoot []).group 0 0; y.valid = true ∧ y.multicast = false ∧ y.broken = false ∧ 2 ∈ y.children ∧ y.step.toNat ≤ 0 ∧ 3 ∉ y.children ∧ y.root = true) ∧
      (l.valid = true ∧ l.root = false ∧ l.broken = false ∧ l.step.toNat ≤ 0) ∧
      (r (gStep (some (zeros 64)) [(2, List.replicate 16 0, [])] none false)).first = some (gStep (some (zeros 64)) [(2, List.replicate 16 0, [])] none false) ∧
      (∀ q ∈ (r (gStep none [] none false)).children, ∃ z ∈ (gStep (some (zeros 64)) [(2, List.replicate 16 0, [])] none false).partials, z.1 = q) ∧
      (c.multicast = true ∧ c.first = some (gStep (some (zeros 64)) [] none false)) ∧
      (r (gStep none [] none true)).first = some (gStep none [] none true) ∧ (∃ q ∈ (r (gStep none [] none false)).children, ∀ z ∈ (gStep none [] none false).partials, z.1 ≠ q) ∧
      (r (gStep none [] (some []) false)).first = some (gStep none [] (some []) false) := by decide +kernel

end Sys2Proof.Tests
end

