-- ==== Sys2Proof/Tests/WitnessClauses.lean ====
section
/-! SUPPORT. Witnesses, continued: clauses at the bounds of their ranges, one theorem for each statement. -/

open Sys2Proof Sys2Proof.Machine

namespace Sys2Proof.Tests

set_option Elab.async false

/-! ## Words of a warp -/

theorem witness_ScalarTraps_levels :
    let s := ld.modPart 0 fun p => { p with cfg := { p.cfg with level := 1 } }
    (s.warp.priv = true ∧ (s.part s.warp.ident.part).cfg.level < 2 ∧ ¬(s.part s.warp.ident.part).cfg.level < 1 ∧ s.warp.am = s.warp.live) ∧
      field (0x1000#64) 12 5 ≠ s.warp.ident.part ∧ field (0x1#64) 0 5 ≠ s.warp.ident.part ∧ ld.warp.priv = true ∧ ¬(ld.part 0).cfg.level < 2 := by decide +kernel

theorem witness_ScalarStores_carrel_bound :
    (List.replicate 2047 (CarrelEnt.mark true 0 0)).length < 2048 ∧ ¬(List.replicate 2048 (CarrelEnt.mark true 0 0)).length < 2048 := by decide +kernel

theorem witness_SpecialRegisters_twin :
    let s := twinsOf .none (.twin .tskip)
    s.warp.isTwin = true ∧ ((s.rankOf s.warp 1).map (·.wait)) = some (.twin .tskip) ∧ (0x01C#9).toNat ∉ [0, 1, 2, 3, 4, 5, 6, 8, 9, 10, 16, 17, 18, 19, 20, 21,
      24, 25, 26, 27, 32, 33] := by decide +kernel

theorem witness_WarpEnds_full :
    let s := ts.modPart 0 fun p => { p with msgs := List.replicate 1023 [] }
    1023 ≤ (s.part 0).msgs.length ∧ ¬(s.part 0).msgs.length < 1023 ∧ s.warp.level = 0 ∧ s.warp.h1 = 0 := by decide +kernel

theorem witness_TrapEntry_arms :
    let f := { tFork with other := { tArm with inFlight := true } }
    (f.other.pending ≠ none ∨ f.other.inFlight = true) ∧ f.other.wait = .none ∧ ¬((tFork.other.pending ≠ none ∨ tFork.other.inFlight = true)) := by decide +kernel

theorem witness_Twins_room :
    let post : Wait := .twin (.mmt 1 2 4 false false true)
    let s := { twinsOf post post with slips := List.replicate 32 (slipFor (.zero hd16)) }
    s.slipRoom (s.clusterOf s.warp) = false ∧ (∃ u, s.twinOf s.warp = some u ∧ s.clusterOf u = s.clusterOf s.warp) := by
  exact ⟨by decide +kernel, any_some (by decide +kernel)⟩

theorem witness_Links_events :
    let x : Transfer := ⟨0, 1, .n, 1, true, 1, 1, 0, 0, 0, 1, 64, 64, 3, 0, ⟨0, 0, 0, 1, 0, none⟩⟩
    let s := { sl with transfers := [x] }
    s.transfers.find? (fun z => z.grid == 0 && z.team == 1 && z.dir == Dir.n) = some x ∧ s.crew? x.grid x.dstCrew ≠ none ∧ x.dstBuf = 1 ∧ x.len ≠ 0 := by decide +kernel

theorem witness_EngineEvents_clear :
    let s := withOp lhost (.clr 0x8E00005000 4096 0) true
    (0x8E00005000 % 4096 = 0 ∧ 4096 % 4096 = 0) ∧ (∀ f, 0x8E00005000 / 4096 ≤ f → f < (0x8E00005000 + 4096) / 4096 → Tab.get s.scores f 0 = 0 ∧ ∀ r ∈ s.owners, r.owner ≠ 64) := by
  refine ⟨by decide, fun f _ _ => ⟨?_, by decide +kernel⟩⟩
  have h : (withOp lhost (.clr 0x8E00005000 4096 0) true).scores = [] := by decide +kernel
  rw [h]; rfl

/-! ## Partitions -/

theorem witness_PartitionWords_functions :
    let y : W64 := 0x8000000000010000 ||| 0x0000000800000001
    let s := lp1 .running
    5 < 1024 ∧ (field y 53 10 = 0 ∧ field y 45 3 = 0 ∧ field y 28 4 = 0 ∧ field y 8 8 = 0) ∧ y.getLsbD 63 = true ∧ (0 : W64).getLsbD 63 = false ∧
      (s.part (field y 48 5)).state ≠ .free ∧ 1 ≤ field y 32 13 ∧ field y 0 8 ≠ 0 ∧ field y 16 12 + field y 32 13 ≤ (s.part (field y 48 5)).cfg.mbx := by decide +kernel

theorem witness_PartitionWords_cluster :
    let s := lp1 .running
    let y : W64 := 0x1E7
    (field 0x0001000000000000 53 7 = 0 ∧ field 0x0001000000000000 16 32 = 0 ∧ field 0x0001000000000000 60 4 = 0 ∧ field 0x0001000000000000 48 5 = 1 ∧
        (s.part 1).state ≠ .free) ∧ clusterBad y = false ∧ entryValid y = true ∧ (s.die (field y 5 3)).bad.contains (field y 0 5) = false ∧
      s.clusterElsewhere 1 0 y = false ∧ (s.part 1).newCluster = none ∧ entryValid (Tab.get (s.part 1).clusters 0 0) = false := by decide +kernel

theorem witness_HaltAndStop_second :
    let s := ts.setPart 1 { part1 .running with stop := some ⟨1, 0, 0xF000, 0, 0, 1, [], [], 0, 0, true, false, none⟩ }
    (s.part 1).stop.isSome = true ∧ ts.moduleStop = none ∧ field 0x1 0 5 = 1 ∧ field 0x1 0 5 ≠ ts.warp.ident.part ∧ ts.warp.debug = false := by decide +kernel

/-- A mailbox of partition 0 with some messages. -/
def lqueue (b : Binding) (n : Nat) : State := (lmbx.modMbx 0 3 fun m => { m with binding := b, queue := List.replicate n (1, zeros 64) }).sset 1 3

theorem witness_Mailboxes_refusals :
    let full := lqueue (.handler Desc.blank) 16
    let un := lqueue .none 0
    (3 ≠ (full.part 0).cfg.replyMbx ∧ 16 ≤ (full.mbx 0 3).queue.length ∧ (full.mbx 0 3).binding = .handler Desc.blank ∧ Desc.blank.timed = false) ∧
      (un.mbx 0 3).binding = .none ∧ full.warp.posting = none ∧ ((lqueue (.handler Desc.blank) 15).mbx 0 3).queue.length < 16 := by decide +kernel

theorem witness_Mailboxes_targets :
    let x : W64 := 0x1000
    let w := { lmbx.warp with posting := some (zeros 64) }
    field x 17 3 = 0 ∧ field x 32 32 = 0 ∧ field x 12 5 = 1 ∧ (lmbx.part 1).state = .free ∧ (lmbx.warp.priv = true ∧ 2 ≤ (lmbx.part 0).cfg.level) ∧
      (field 0xFFF 12 5 = 0 ∧ field 0xFFF 0 12 = 4095) ∧ w.posting = some (zeros 64) ∧
      (let s := lmbx.modPart 0 fun p => { p with ctxs := [(0, ⟨4, 2, [], List.replicate 16 ⟨2, 3, 0, 0, zeros 64⟩⟩)] }; 16 ≤ (s.ctxOf 0 0).deferred.length) := by
  decide +kernel

theorem witness_Mailboxes_unbind :
    let s := lqueue (.handler Desc.blank) 2
    mayConfigure s 1 ∧ field (s.sget 1) 17 47 = 0 ∧ field (s.sget 1) 0 12 < (s.part 0).cfg.mbx ∧ field (s.sget 1) 0 12 ≠ (s.part 0).cfg.replyMbx ∧
      (s.sget 0).toNat = 0 ∧ (s.mbx 0 3).queue ≠ [] ∧ field (s.sget 1) 0 12 ≠ (s.part 0).cfg.faultMbx ∧
      ((s.modPart 0 fun p => { p with cfg := { p.cfg with faultMbx := 3 } }).part 0).cfg.faultMbx = 3 := by
  unfold mayConfigure; decide +kernel

theorem witness_Mailboxes_host :
    lmbx.vf? 1 = some ⟨0, 8, 0, 1⟩ ∧ lmbx.vf? 2 = none ∧ (0xC0 < 0x40000 ∧ 0xC0 / 64 < 8 ∧ 0xC0 % 64 = 0) ∧ (0xC4 % 64 ≠ 0 ∧ 0xC4 / 64 < 8) ∧
      (lmbx.part 0).state ≠ .free ∧ 0 + 0xC0 / 64 < (lmbx.part 0).cfg.mbx ∧ (0x7FFC0 ≤ 0x7FFFF ∧ 0x7FFFF < 0x80000 ∧ 0x7FFFF ≠ 0x7FFC0) ∧
      (8 ≤ 0x200 / 64 ∧ 0x200 < 0x7FFC0) ∧ (0x80000 ≤ 0x80000 ∧ 0x40000 ≤ 0x80000) ∧ 0x3FFF8 + 8 ≤ 0x40000 ∧ (zeros 64).length = 64 := by decide +kernel

theorem witness_Launches_service :
    let s := ((State.reset.loaded false).modMbx 0 4095 fun m => { m with queue := [(1, zeros 64)] })
    s.launchable 0 4095 = some (1, zeros 64) ∧ (s.mbx 0 4095).binding = .service ∧
      (let g : Grid := ⟨4, 0, 3, 7, 0, { Desc.blank with doneMbx := some 3 }, [], false, 0⟩
       let t := { lmbx with warp := .blank, grids := [g] };
       t.grid? 4 = some g ∧ t.gridOver 4 = true ∧ g.desc.doneVa = 0) := by decide +kernel

theorem witness_Launches_report : takesMessage { lmbx with warp := .blank } 0 3 :=
  ⟨by decide +kernel, by decide +kernel, by decide +kernel, by decide +kernel, .inr ⟨Desc.blank, by decide +kernel, rfl⟩⟩

theorem witness_Faults_waiting :
    let s := lfault.modPart 0 fun p => { p with faults := [{ tFault with sent := true, page := 0x3000 }], faultWait := [tFault] }
    let o := lfault.modPart 0 fun p => { p with overflow := some ⟨1, 1, 0, 0, 1⟩ }
    ((s.part 0).msgs.length < 1023 ∧ (∀ e ∈ (s.part 0).faults, e.sent = true) ∧ (s.part 0).faultWait = tFault :: [] ∧
        (∀ e ∈ (s.part 0).faults, ¬(e.page = tFault.page ∧ e.access = tFault.access)) ∧ (s.part 0).faults.length < 256) ∧
      ((o.part 0).msgs = [zeros 64] ∧ ∀ x, (o.part 0).overflow = some x → x.ahead ≠ 0) := by
  refine ⟨by decide +kernel, by decide +kernel, fun x hx => ?_⟩
  have h : ((lfault.modPart 0 fun p => { p with overflow := some ⟨1, 1, 0, 0, 1⟩ }).part 0).overflow = some ⟨1, 1, 0, 0, 1⟩ := by decide +kernel
  rw [h] at hx
  cases hx; decide

theorem witness_Faults_reply :
    let bs : List Byte := [2, 0, 0, 0, 7, 0, 0, 0] ++ natToBytes 8 5 ++ zeros 48
    bs.take 16 = [if 7 = 0 then 1 else 2, 0, 0, 0] ++ natToBytes 4 7 ++ natToBytes 8 tFault.token.toNat ∧ (∀ b ∈ bs.drop 16, b = 0) ∧ 7 < 2 ^ 32 ∧
      tFault.ops = [] := by decide +kernel

/-! ## The step -/

theorem witness_StepRunsDecoded_fetch :
    let s := { lcode 0 with warp := { (lcode 0).warp with pc := 0x100000 } }
    issuesNow s ∧ s.warp.block = none ∧ (match ((turnOf s).fetch s.warp.pc.toNat 4).1 with | .bytes _ => false | _ => true) = true := by
  unfold issuesNow; decide +kernel

theorem witness_StepRunsDecoded_waits :
    tremote.warp.gate (.smov 4 3) ≠ .none ∧ tremote.warp.gate (.smov 4 5) = .none ∧ ts.warp.lanesDone = true ∧
      { ts.warp with remote := [{ tload with lane := 0, sreg := none }] }.lanesDone = false ∧ ts.warp.gate .exit = .none := by decide +kernel

/-! ## Security, warps and the distributor -/

theorem witness_SecurityWords_others :
    let s := lsec.sset 1 0x3000000000000000
    mayConfigure s 2 ∧ field (s.sget 1) 60 4 = 3 ∧ field (s.sget 1) 5 55 = 0 ∧ s.folioOn 0 = false ∧ (s.sget 0).toNat = 0 ∧
      2 ^ 40 ≤ ({ s.security with sigIndex := 2 ^ 40 } : Security).sigIndex ∧ ¬2 ^ 40 ≤ s.security.sigIndex ∧
      (field 0 52 12 < (s.part 0).cfg.ectx ∧ (s.sget 2).toNat % 64 = 0) := by
  unfold mayConfigure; decide +kernel

theorem witness_WarpEvents_tickets :
    let k : Ticket := ⟨0, 0, 0, 1, 0, none⟩
    k.part < 32 ∧ ((0x02 : Byte) = 0x02 ∧ ∃ lane < 64, ∃ kind < 8, (0x3F07 : W32).toNat = 256 * lane + kind) ∧ (ts.part 0).msgs.length < 1023 ∧
      (0x20 : Byte) ≠ 0x02 ∧ 1 ≤ (4 : W32).toNat ∧ (4 : W32).toNat ≤ 4 ∧ ({ tw with pending := some ⟨0x03, 0, 0, 0, 0, 4, false, 0⟩ }).causeArm.isSome = true := by
  refine ⟨by decide, ⟨rfl, 63, by decide, 7, by decide, by decide⟩, by decide +kernel⟩

theorem witness_Distribution_others :
    let s := ld.modPart 0 fun p => { p with cfg := { p.cfg with drain := 0, flags := 1 } }
    let t := { lwait with grids := lwait.grids.map fun (g : Grid) => { g with desc := { g.desc with timed := true } } }.modPart 0 fun p =>
      { p with cfg := { p.cfg with tcl := 1 } }
    ((s.part 0).cfg.drain = 0 ∧ (s.part 0).cfg.flags = 1) ∧ ¬((ld.part 0).cfg.drain = 0 ∧ (ld.part 0).cfg.flags = 1) ∧ (t.descOf lteam.grid).timed = true ∧
      (lwait.part 0).state ≠ .free ∧ (let x := lwait.setPart 0 { lwait.part 0 with state := .suspended }; x.runs 0 = false) := by decide +kernel

/-! ## Dies, repair, stops and the module -/

theorem witness_Dies_second :
    let k : CoreId := ⟨7, 3, 1⟩
    let d (l : List (Nat × Nat × Nat)) : State := ts.modDie 7 fun x => { x with state := .active, lanes := l }
    ((d [(13, 0, 4)]).die k.die).defects 13 0 = [4] ∧ 4 ≠ 5 ∧ (d []).holder k = none := by decide +kernel

theorem witness_Repairs_links :
    let down := ts.modDie 0 fun x => { x with state := .dropped }
    let l : DieLink := ⟨false, 0, 0⟩
    down.linkDown l = true ∧ (ts.modDie 0 fun x => { x with state := .active }).linkDown l = false ∧ (Tab.get ts.dieLinks (linkNumber l) .blank).lost = false ∧
      ts.spareSlice 255 = some 263 ∧ { ts with slices := [(225, BitVec.ofNat 64 (512 + 263))] }.spareSlice 255 = none ∧
      (ts.part 0).state = .free ∧ (0, 1) ∉ ts.channels := by decide +kernel

theorem witness_Repairs_rows :
    let s := { trow with rowsLeft := [(Config.bankGroup 3, 0)] }
    s.ownerAt (4096 * 3) = 64 ∧ Tab.get s.rowsLeft (Config.bankGroup 3) (Config.repairRows (Config.bankGroup 3)) = 0 :=
  ⟨by decide +kernel, by simp [Tab.get]⟩

theorem witness_StopPoints_module :
    let x : Stop := ⟨2, 0, 0xF000, 0, 0, 1, [0x062, 0x070], [0x062, 0x070], 0, 0, false, false, none⟩
    let s := { ts with moduleStop := some x }
    s.moduleStop = some x ∧ 0x062 ∈ x.left ∧ x.left.filter (· != 0x062) ≠ [] ∧ { x with left := [0x062] }.left.filter (· != 0x062) = [] ∧ 0x063 ∉ x.left ∧
      (tstop [0x100] true).mayStop 1 0x100 = true ∧ (tstop [0xF000] false).mayStop 1 0xF000 = true ∧ ((tstop [0x100] true).part 1).stop.isSome = true ∧
      (tstop [0x100] true).folioOn 1 = false := by decide +kernel

theorem witness_ModuleEvents_activation :
    let f := { ts with security := { ts.security with staged := some (2, [3]), activating := true } }
    f.security.activating = true ∧ f.moduleStop = none ∧ f.parts = [] ∧ f.security.staged = some (2, [3]) ∧
      (tstop [0x100] true).allStopped = false ∧ ts.security.activating = false ∧ ts.security.floor ≤ BitVec.ofNat 32 (leAt [0, 0, 0, 0] 0 4) := by decide +kernel

/-! ## The host link and groups -/

theorem witness_HostLink_bounds : 0 + 1 ≤ 2 ^ 30 * (1 + Config.hdmGib % 576) ∧
    2 ^ 30 * (1 + Config.hdmGib % 576) < 2 ^ 30 * (1 + Config.hdmGib % 576) + 1 ∧ ts.events.slots = [] ∧ ts.events.produced = ts.events.consumed := by
  refine ⟨by omega, by omega, by decide +kernel, by decide +kernel⟩

theorem witness_Groups_values :
    let y := (tgroup gRoot [gStep none [(2, [1], [])] none false]).group 0 0
    let s : List (W32 × Bool) := [(1, false), (2, true)]
    poisonedAt s = [1] ∧ (∃ z ∈ y.steps, z.n = 0 ∧ ∃ e ∈ z.partials, e.1 = 2) ∧ ((tgroup gLeaf [gStep (some (zeros 64)) [] none false]).group 0 0).root = false := by
  decide +kernel

end Sys2Proof.Tests
end

