-- ==== Sys2Proof/Tests/WitnessMemory.lean ====
section
/-! SUPPORT. Witnesses for the words of `SHADOW` and `DET` launches and of tasks, and for numbers. -/

open Sys2Proof Sys2Proof.Machine

namespace Sys2Proof.Tests

set_option Elab.async false

/-! ## Lane words that are held back -/

/-- `GRID_ID` of a `SHADOW` launch. -/
def shadowId : W64 := 0x0200000000000000
/-- The module of the lane-memory witnesses with its page in device memory (A and D set), and with lane `l` at 0x1000 + 8 l. -/
def lmd (v : Nat → W32) : State :=
  let s := ld.devWrite (loadRoot + 4 * 4096 + 8) (natToBytes 8 (loadFrame + 0x19F))
  { s with warp := { s.warp with block := some lmBlock, v := vset s.warp.v 0 (Vector.ofFn fun l => v l.val) } }
def lmApart : State := lmd fun l => 0x1000 + 8 * BitVec.ofNat 32 l
/-- The lanes that are left, with the translations of their addresses. -/
def trApart (l : Nat) : Trans := { trOf lmApart 0x1000 with pa := (trOf lmApart 0x1000).pa + 8 * l }
/-- A state in a `DET` launch, one inside a task, one of a leading warp and one of its shadow, which has two values to take. -/
def asDet (s : State) : State := { s with warp := { s.warp with gridId := s.warp.gridId ||| detId } }
def asTask (s : State) : State := { s with warp := { s.warp with task := some tTask } }
def asLead (s : State) : State := { s with warp := { s.warp with gridId := s.warp.gridId ||| shadowId } }
def asShadow (s : State) : State := { asLead s with shadowRun := true, shadowAlone := true, lvq := [.known 5, .known 6] }

theorem witness_holdsBack : holdsBack (asDet lm) ∧ (asDet lm).warp.task = none := by
  refine ⟨⟨by decide +kernel, by decide +kernel, by decide +kernel, by decide +kernel, ?_, by decide +kernel, ?_⟩, by decide +kernel⟩
  · have h : (asDet lm).warp.entries = [] := by decide +kernel
    simp [h]
  · have h : (asDet lm).warp.task = none := by decide +kernel
    simp [h]

theorem witness_holdsBack_task : holdsBack (asTask lmApart) ∧ (asTask lmApart).warp.task ≠ none ∧ (asTask lmApart).warp.det = false := by
  refine ⟨⟨by decide +kernel, by decide +kernel, by decide +kernel, by decide +kernel, ?_, by decide +kernel, ?_⟩, by decide +kernel, by decide +kernel⟩
  · have h : (asTask lmApart).warp.entries = [] := by decide +kernel
    simp [h]
  · have h : (asTask lmApart).warp.task = some tTask := by decide +kernel
    intro k hk
    rw [h] at hk
    cases hk
    decide

theorem witness_leads_follows : leads (asLead lm) ∧ leads (asLead lbuf) ∧ follows (asShadow lm) ∧ follows (asShadow lbuf) ∧
    (asShadow lm).lvq = (lanesInOrder (asShadow lm) lmBlock tHdr).map (fun l => .known (5 + l)) ++ [] ∧ (asShadow lm).warp.task = none := by
  unfold leads follows; decide +kernel

/-- The lanes of a word reach the page: in every kind of launch, to read, to write and to act on it. -/
theorem witness_reaches : ∀ s ∈ [asDet lm, asLead lm], ∀ l ∈ lanesInOrder s lmBlock tHdr,
    (reaches s accRead 1 0x1000 (trOf lm 0x1000) ∧ reaches s accWrite 1 0x1000 (trOf lm 0x1000) ∧ reaches s accAtomic 4 0x1000 (trOf lm 0x1000)) ∧
      atHome s (trOf lm 0x1000) 1 ∧ (laneView s lmBlock tHdr).va l = 0x1000 ∧ (laneView s lmBlock tHdr).vax tIdx l % 1 = 0 ∧
      pteMoving (trOf lm 0x1000).entry = false ∧ s.placePoisoned .host (trOf lm 0x1000).pa 4 = false := by
  unfold reaches atHome; decide +kernel

theorem witness_reaches_task : let s := asTask lmApart
    ∀ l ∈ lanesInOrder s lmBlock tHdr, (reaches s accRead 1 (0x1000 + 8 * l) (trApart l) ∧ reaches s accWrite 1 (0x1000 + 8 * l) (trApart l) ∧
      reaches s accAtomic 4 (0x1000 + 8 * l) (trApart l)) ∧ atHome s (trApart l) 1 ∧ (trApart l).place = .device ∧
      (laneView s lmBlock tHdr).va l = 0x1000 + 8 * l ∧ s.placePoisoned .device (trApart l).pa 4 = false ∧
      ∀ j ∈ lanesInOrder s lmBlock tHdr, l ≠ j → (trApart l).pa + 4 ≤ (trApart j).pa ∨ (trApart j).pa + 4 ≤ (trApart l).pa := by
  unfold reaches atHome; decide +kernel

theorem witness_LaneLoads_launches : ∀ s ∈ [asDet lm, asTask lmApart, asLead lm, asShadow lm],
    laneReady (.ld tHdr .n8 none) s lmBlock tHdr ∧ laneReady (.ldx tHdr .n8 tIdx) s lmBlock tHdr := by
  have h : ∀ s ∈ [asDet lm, asTask lmApart, asLead lm, asShadow lm], s.warp.block = some lmBlock ∧ tReady s lmBlock (.ld tHdr .n8 none) = true ∧
      tReady s lmBlock (.ldx tHdr .n8 tIdx) = true := by decide +kernel
  exact fun s hs => ⟨tReady_ready (h s hs).1 (h s hs).2.1, tReady_ready (h s hs).1 (h s hs).2.2⟩

theorem witness_LaneLoads_buffers : (∀ s ∈ [asLead lbuf, asShadow lbuf], ∀ i ∈ [Instr.lds tHdr .n8, .ldb tHdr .n8 .a .x1], laneReady i s lmBlock tHdr) ∧
    ∀ l ∈ lanesInOrder (asLead lbuf) lmBlock tHdr, let c := laneView (asLead lbuf) lmBlock tHdr
      c.sa l % 1 = 0 ∧ (asLead lbuf).scratch (asLead lbuf).warp (c.sa l) false false = .ok ⟨lbuf.warp.ident.crew, 1, 0⟩ ∧
      ((asLead lbuf).bufMem lbuf.warp.ident.grid ⟨lbuf.warp.ident.crew, 1, 0⟩).poisoned 0 1 = false := by
  have h : ∀ s ∈ [asLead lbuf, asShadow lbuf], s.warp.block = some lmBlock ∧ ∀ i ∈ [Instr.lds tHdr .n8, .ldb tHdr .n8 .a .x1], tReady s lmBlock i = true := by
    decide +kernel
  exact ⟨fun s hs i hi => tReady_ready (h s hs).1 ((h s hs).2 i hi), by decide +kernel⟩

theorem witness_AtomicForms_launches : ∀ x ∈ [(asDet lm, AUse.qtm), (asTask lmApart, .spc), (asLead lm, .unp)],
    laneReady (.atom tHdr .b32 { tAtom with use := x.2 }) x.1 lmBlock tHdr ∧ laneReady (.ared tHdr .b32 { tAtom with use := x.2 }) x.1 lmBlock tHdr ∧
      ∀ l ∈ lanesInOrder x.1 lmBlock tHdr, (laneView x.1 lmBlock tHdr).atomAddr tAtom l = if x.2 = .spc then 0x1000 + 8 * l else 0x1000 := by
  have h : ∀ x ∈ [(asDet lm, AUse.qtm), (asTask lmApart, .spc), (asLead lm, .unp)], x.1.warp.block = some lmBlock ∧
      tReady x.1 lmBlock (.atom tHdr .b32 { tAtom with use := x.2 }) = true ∧ tReady x.1 lmBlock (.ared tHdr .b32 { tAtom with use := x.2 }) = true ∧
      ∀ l ∈ lanesInOrder x.1 lmBlock tHdr, (laneView x.1 lmBlock tHdr).atomAddr tAtom l = if x.2 = .spc then 0x1000 + 8 * l else 0x1000 := by decide +kernel
  exact fun x hx => ⟨tReady_ready (h x hx).1 (h x hx).2.1, tReady_ready (h x hx).1 (h x hx).2.2.1, (h x hx).2.2.2⟩

theorem witness_Quanta_stores : ∀ s ∈ [asDet lm, asTask lmApart, asLead lm, asShadow lm], laneReady (.st tHdr .n8 none) s lmBlock tHdr ∧
    laneReady (.stx tHdr .n8 tIdx) s lmBlock tHdr := by
  have h : ∀ s ∈ [asDet lm, asTask lmApart, asLead lm, asShadow lm], s.warp.block = some lmBlock ∧ tReady s lmBlock (.st tHdr .n8 none) = true ∧
      tReady s lmBlock (.stx tHdr .n8 tIdx) = true := by decide +kernel
  exact fun s hs => ⟨tReady_ready (h s hs).1 (h s hs).2.1, tReady_ready (h s hs).1 (h s hs).2.2⟩

/-- A task's store to host memory; and stores to typed buffers by a task, by a leading warp and by its shadow. -/
theorem witness_Quanta_stops : let s := asTask lm
    s.warp.isShadowed = false ∧ s.warp.task ≠ none ∧ (∃ l ∈ lanesInOrder s lmBlock tHdr, (laneView s lmBlock tHdr).va l = 0x1000) ∧
      reaches s accWrite 1 0x1000 (trOf lm 0x1000) ∧ (trOf lm 0x1000).place ≠ .device := by
  unfold reaches; decide +kernel

theorem witness_Quanta_buffers : (∀ s ∈ [asTask lbuf, asLead lbuf, asShadow lbuf], ∀ i ∈ [Instr.sts tHdr .n8, .stb tHdr .n8 .a .x1],
    laneReady i s lmBlock tHdr) ∧ ∀ l ∈ lanesInOrder (asLead lbuf) lmBlock tHdr, let c := laneView (asLead lbuf) lmBlock tHdr
      c.sa l % 1 = 0 ∧ (asLead lbuf).scratch (asLead lbuf).warp (c.sa l) true false = .ok ⟨lbuf.warp.ident.crew, 1, 0⟩ := by
  have h : ∀ s ∈ [asTask lbuf, asLead lbuf, asShadow lbuf], s.warp.block = some lmBlock ∧
      ∀ i ∈ [Instr.sts tHdr .n8, .stb tHdr .n8 .a .x1], tReady s lmBlock i = true := by decide +kernel
  exact ⟨fun s hs i hi => tReady_ready (h s hs).1 ((h s hs).2 i hi), by decide +kernel⟩

/-- Offsets of `ldb` and `stb` lie in the buffer. -/
theorem witness_Quanta_offsets : ∀ s ∈ [asLead tb, asShadow tb], ∀ l < 2, (laneView s tBlock tHdr).sa l < 2 ^ 19 ∧ (laneView s tBlock tHdr).sa l % 1 = 0 := by
  decide +kernel

/-! ## Numbers -/

theorem witness_FloatRules_special :
    fval .f32 0x7FA00000 = .nan true false 0x200000 ∧ fval .f32 0x7F800000 = .inf false ∧ fval .f32 0x80000000 = .fin true 0 (-149) ∧
      (fval .f32 1).isNaN = false ∧ less (fval .f32 0x80000000) (.inf false) ∧ ¬(∃ e, fval .f32 1 = .fin false 0 e) := by
  refine ⟨by decide +kernel, by decide +kernel, by decide +kernel, by decide +kernel, ?_, ?_⟩
  · have h : fval .f32 0x80000000 = .fin true 0 (-149) := by decide +kernel
    rw [h]; exact rfl
  · have h : fval .f32 1 = .fin false 1 (-149) := by decide +kernel
    rintro ⟨e, he⟩
    rw [h] at he
    simp at he

/-- E5M2 operands of the dot product: infinity beside zero, a NaN, and infinities of both signs. -/
theorem witness_FloatRules_dot :
    (fval .e5m2 (0x7C % 256) = .inf false ∧ fval .e5m2 0 = .fin false 0 (-16)) ∧ (fval .e5m2 0x7D).isNaN = true ∧ fval .e5m2 0xFC = .inf true ∧
      signOf (fval .e5m2 0x3C) = false ∧ signOf (fval .e5m2 0xBC) = true := by decide +kernel

theorem witness_FloatRules_cvt :
    Fmt.f32 ≠ .e4m3 ∧ fval .f32 0x7FC00001 = .nan false false 0x400001 ∧ fval .f32 0xFF800000 = .inf true ∧ fval .f32 0 = .fin false 0 (-149) ∧
      fval .f32 0x3F800000 = .fin false 0x800000 (-23) ∧ (roundTo .e4m3 .rne 0 false 0x800000 (-23)).beyond = false ∧
      (roundTo .e4m3 .rne 0 false 0x800000 0).beyond = true ∧ (0x80000000 : Nat) < 2 ^ 32 ∧ (roundTo .f32 .rne 0 true 0x80000000 0).beyond = false ∧
      (roundTo .e4m3 .rne 0 true 0x80000000 0).beyond = true := by decide +kernel

theorem witness_AtomicForms_values : (0xFFFFFFFF : Nat) < 2 ^ 32 ∧ ATy.b32 ≠ .f32 ∧ (2 ^ 63 : Nat) < 2 ^ 64 := by decide

/-- The clauses of a matrix product's sums, of the guidance fold and of scaled blocks. -/
theorem witness_SlipEvents_sums :
    let one : FVal := fval .f32 0x3F800000
    let ps := List.replicate 16 (one, one)
    ps ≠ [] ∧ ps.length = 16 ∧ (blockSum ps).isSome = true ∧ blockSum [(.inf false, fval .f32 0)] = none ∧ blockSum [(.inf false, one)] = some 0x7F800000 ∧
      (blockSum [(fval .f32 0, one)]).isSome = true := by decide +kernel

theorem witness_SlipEvents_fold :
    (fval .f32 0x7FC00000).isNaN = true ∧ (fval .f32 0x40000000).isFin = true ∧ fval .f32 0x7F800000 = .inf false ∧ (0x40000000 : W32) ≠ 0x3F800000 ∧
      ratOf (fval .f32 0) = 0 ∧ fval .f32 0xFF800000 = .inf (!false) := by
  refine ⟨by decide +kernel, by decide +kernel, by decide +kernel, by decide, ?_, by decide +kernel⟩
  have h : fval .f32 0 = .fin false 0 (-149) := by decide +kernel
  rw [h]; simp [ratOf]

theorem witness_SlipEvents_scales :
    (fval .f32 0x7FC00000).isNaN = true ∧ mxScale 5 [fval .f32 0x7FC00000] = 255 ∧ mxScale 5 [fval .f32 0] = 127 ∧ mxScale 5 [fval .f32 0x3F800000] ≠ 255 ∧
      (fval .f32 0x3F800000).isFin = true ∧ signOf (fval .f32 0x3F800000) = false := by decide +kernel

end Sys2Proof.Tests
end

