-- ==== Sys2Proof/Tests/WitnessEvents.lean ====
section
/-! SUPPORT. Witnesses for further clauses: what slips, links, carrels, engines, the distributor and the fabric find when they act. -/

open Sys2Proof Sys2Proof.Machine

namespace Sys2Proof.Tests

set_option Elab.async false

/-! ## Control, slips and links -/

theorem witness_TrapEntry_held :
    let f := { tFork with other := { tArm with inFlight := true, block := some tBlock } }
    (tFork.first = none ∧ { tFork with first := some 1 }.first = some (1 - tFork.cur)) ∧
      (f.other.inFlight = true ∧ f.other.block ≠ none ∧ (f.other.pending = none ∨ f.other.wait ≠ .none)) := by decide +kernel

/-- The row-count table stands where an earlier slip writes. -/
theorem witness_SlipEntry_waits :
    let s := { sm.sset 6 0x0000000100400000 with slips := [slipFor (.zero hd16)] }
    let table := field (s.sget 6) 0 32
    bitsOf table 21 2 = 2 ∧ table % 2 = 0 ∧ s.rangeKind table (table % 2 ^ 19 + 2 * 1) = none ∧
      (∃ x ∈ s.slips, x.ofWarp s.warp.id = true ∧ ∃ m ∈ x.marks,
        m.meets ⟨(s.crewAtRank s.warp (bitsOf table 19 2)).getD 0, bitsOf table 21 2, table % 2 ^ 19, table % 2 ^ 19 + 2 * 1, false⟩ = true) ∧
      (s.slips.filter fun x => x.cluster == s.clusterOf s.warp).length < 32 := by decide +kernel

/-- Slips of every kind, each writing one element or more: the clauses on what they write. -/
theorem witness_SlipEvents_ops :
    let a := sm.warp.opndAt 2
    let b := sm.warp.opndAt 4
    (slipFor (.mul hd16 a b true)).blocks = 0 ∧ a.k = b.k ∧ 0 < hd16.rows ∧ 0 < hd16.cols ∧ 0 < [1].getD 0 0 ∧ hd16.cols % 32 ≠ 0 ∧
      { hd16 with cols := 32 }.cols % 32 = 0 ∧ 1 ≤ (sm.warp.opndAt 14).ty ∧ (sm.warp.opndAt 14).ty ≤ 4 ∧ (sm.warp.opndAt 12).ty ≤ 2 ∧
      (sm.slipWrites (slipFor (.zero hd16)) (SlipOp.zero hd16).blocks).length = 256 := by decide +kernel

/-- The transfer's teams and grid are there; and a transfer whose far end is the link that is lost. -/
theorem witness_Links_teams :
    let x : Transfer := ⟨sl.warp.ident.grid, 1, .n, 1, true, 1, 1, 0, 0, 0, 1, 64, 64, 3, 0, ⟨0, 0, 0, 1, 0, none⟩⟩
    let g : Grid := ⟨sl.warp.ident.grid, 0, 0, 0, 0, Desc.blank, [], false, 0⟩
    (sl.team? x.grid x.dstTeam).isSome = true ∧ ({ sl with grids := [g] }.grid? x.grid).isSome = true ∧ x.len % 8 = 0 ∧ x.dstOff % 8 = 0 ∧ x.dstBuf < 3 ∧
      Config.linkFar x.cluster x.plink = ((Config.linkFar 3 0).1 / 17 * 17 + (Config.linkFar 3 0).1 % 17, (Config.linkFar 3 0).2) := by
  refine ⟨by decide +kernel, by decide +kernel, by decide, by decide, by decide, ?_⟩
  rw [Nat.div_add_mod']

/-! ## Synchronisation -/

/-- A `SHADOW` launch meets the barriers and the timeline. -/
theorem witness_FenceAndSeal_shadow :
    let s := asLead (tbar 5 false)
    let tok (p : W64) : State := s.sset 1 ((3 <<< 56) ||| (p <<< 24) ||| 1)
    let t := (asLead ttl).sset 2 2
    (s.warp.fork = none ∧ s.warp.task = none ∧ s.warp.det = false ∧ s.warp.isShadowed = true) ∧ field ((tok 4).sget 1) 0 14 = 1 ∧
      field ((tok 4).sget 1) 0 14 < ((tok 4).part 0).cfg.barq ∧ ((tok 4).sget 1).extractLsb' 56 8 = ((tok 4).bar 0 1).gen ∧
      t.timeline (t.sget 1) = some (some 4, 2) ∧ (t.sget 2).toNat ≤ 2 ∧ t.warp.isShadowed = true := by decide +kernel

theorem witness_FenceAndSeal_values : (∃ r ∈ tremote.warp.remote, 64 ≤ r.lane ∨ r.lane < 64) ∧
    ¬∀ r ∈ ({ tremote with warp := { tremote.warp with remote := [tload, tload] } } : State).warp.remote, 64 ≤ r.lane := by decide +kernel

/-- Two warps of a `DET` launch, in ascending number, whose carrels hold host stores. -/
def dtwo : State :=
  let w (n : Nat) : Warp := { tdet.warp with id := n, ident := { tdet.warp.ident with global := n }, wait := .commit, carrel := storesOf .host }
  { tdet with warp := w 1, others := [w 2] }

theorem witness_Quanta_order :
    let order := dtwo.warp :: dtwo.others
    dtwo.warp.alive = true ∧ (dtwo.descOf 0).det = true ∧ dtwo.slips = [] ∧ (order.map (·.id)).Nodup ∧ order ≠ [] ∧
      order.Pairwise (fun v w => v.ident.global < w.ident.global) ∧
      ∀ w ∈ order, w.ident.grid = 0 ∧ w.alive = true ∧ w.wait = .commit ∧ w.fork = none ∧ Tab.get dtwo.pairs w.id [] = [] ∧
        w.carrel = tstores.map (fun e => .store .host e.1 e.2.1 e.2.2.1 e.2.2.2.1 e.2.2.2.2) ∧
        ∀ e ∈ tstores, ({ dtwo with warp := w } : State).sealedAt e.2.2.2.2 = false ∧ dtwo.hostErr .host e.1 e.2.1.length = false := by decide +kernel

/-- One warp of a `DET` launch with an empty carrel: the whole of its commit. -/
theorem witness_Quanta_one :
    let s := { tdet with warp := { tdet.warp with wait := .commit } }
    s.others = [] ∧ s.shadows = [] ∧ s.pairs = [] ∧ s.warp.alive = true ∧ s.warp.ident.grid = 0 ∧ (s.descOf 0).det = true ∧ s.slips = [] ∧ s.warp.wait = .commit ∧
      s.warp.fork = none ∧ s.warp.carrel.length = 0 := by decide +kernel

/-- Entries that are performed: in host memory, in device memory away from page tables, on a sealed page, and at a barrier. -/
theorem witness_Quanta_entries :
    let s := { tsp with warp := { tsp.warp with task := none } }
    let m := lmarked
    (Place.host ≠ .remote ∧ ts.sealedAt 0x1000 = false ∧ ts.warp.task = none ∧ ts.hostErr .host 64 4 = false ∧ ts.placePoisoned .host 64 4 = false) ∧
      (s.sealedAt 0x1000 = false ∧ s.warp.task = none ∧ s.placePoisoned .device 64 4 = false ∧
        ∀ i < 4, s.isTableSlot (64 + i) = false ∧ s.inTable (64 + i) 4 (s.part s.warp.ident.part).cfg.root = false) ∧
      (m.sealedAt 0x1000 = true ∧ m.warp.pending = none) ∧
      (let b := tbar 5 false;
        ((b.bar 0 1).count ≠ 0 ∧ (b.bar 0 1).abandoned = false ∧ b.warp.id ∉ (b.bar 0 1).arr0 ∧ (b.bar 0 1).arr0.length + 1 ≠ (b.bar 0 1).count0 ∧
          (b.bar 0 2).arr0.length + 1 = (b.bar 0 2).count0 ∧ (b.bar 0 2).arr1.length ≠ (b.bar 0 2).count1) ∧ (b.bar 0 3).count = 0) := by decide +kernel

theorem witness_Quanta_arrived :
    let s := { ts with parts := [(0, { Part.blank with cfg := { PartCfg.blank with barq := 4 }, bars := [(1, ⟨3, 5, 2, 2, 2, 1, false, [1], [1], []⟩)] })] }
    (s.bar 0 1).count ≠ 0 ∧ (s.bar 0 1).abandoned = false ∧ s.warp.id ∈ (s.bar 0 1).arr0 ∧ s.warp.id ∈ (s.bar 0 1).arr1 := by decide +kernel

/-- Pages that may be marked, and a range that may not: it is in no partition's page. -/
theorem witness_Quanta_marks :
    (lseal.part 0).cfg.root % 4096 = 0 ∧ sealRun lseal = (.ok (sealedPages lseal), (sealRun lseal).2) ∧
      (match (State.sealPages 0 0x5000 0x6000 2 0x5000 [] lseal).1 with | .ok _ => false | _ => true) = true :=
  ⟨by decide +kernel, pages_ok _ _ (by decide +kernel), by decide +kernel⟩

/-- A leading warp's task, doomed and not, with and without a store to a sealed page. -/
theorem witness_Tasks_shadow :
    let s (k : Task) : State := asLead { ts with warp := { tw with task := some k } }
    let m := asLead (inTask lmarked)
    (∀ k ∈ [{ taskOf true with carrel := [] }, { taskOf false with carrel := [] }], (s k).warp.fork = none ∧ (s k).warp.det = false ∧ (s k).warp.task = some k ∧
        k.s.length = 15 ∧ (s k).warp.isShadowed = true ∧ (s k).shadowRun = false ∧ (s k).releaseReady .grid = true) ∧
      (asShadow ts).shadowRun = true ∧ (lvqTaken (asShadow ts) 0).1 ≠ 0 ∧ (taskOf false).doomed = false ∧
      (taskOf false).carrel.findSome? m.sealedEntry = some 0x1000 := by decide +kernel

/-! ## Engines, partitions and security -/

theorem witness_EngineWords_numbers : ∀ s ∈ [lblk cpyMem, lblk gathBuf, lblk []],
    (s.ops.filter fun o => o.part == 0 && o.ctx == 0).length < 64 ∧ ∀ x ∈ s.ops, ¬(x.part = 0 ∧ x.ctx = 0 ∧ x.n = (s.ctxOf 0 0).s + 1) := by decide +kernel

theorem witness_EngineEvents_held :
    let s := { lhost with ops := [{ opOf (.pref 0x1000 64 0 true 0) false with held := true }] }
    s.ops.find? (fun x => x.part == 0 && x.ctx == 0 && !x.started) = some { opOf (.pref 0x1000 64 0 true 0) false with held := true } := by decide +kernel

theorem witness_EngineEvents_writable :
    let o := opOf (.cpy hCpy) true
    let h : Haul := ⟨.copy (.mem .host 0), .buf 0 1 64, 64, 0x1000, 0x200040⟩
    writable lhost [h, { h with dst := .mem .host 0 }, { h with dst := .mem .device 64 }, { h with dst := .bank 0 }] ∧ o.refused = none ∧ o.sent = false ∧ o.pos = 0 := by
  refine ⟨?_, by decide +kernel⟩
  intro x hx
  have he : lhost.hostErrs = [] := by decide +kernel
  simp only [List.mem_cons, List.not_mem_nil, or_false] at hx
  rcases hx with rfl | rfl | rfl | rfl <;> simp [State.hostErr, he]

theorem witness_Migration_room :
    let x : CdcLine := ⟨3, .device, 7, zeros 128, [], false, 0⟩
    (lmig.cdc.filter x.sameSet).length < 16 ∧ lmig.fills.find? (fun y => y.cluster == 3 && y.line == 7) = some x := by decide +kernel

theorem witness_PartitionWords_pending :
    let s := (lp1 .running).modPart 1 fun p => { p with newCluster := some (5, 0x1E7) }
    (s.part 1).newCluster ≠ none ∧ (∀ e, (s.part 1).newCluster = some e → e.1 ≠ 0) ∧ entryValid (Tab.get (s.part 1).clusters 0 0) = false := by
  have h : ((lp1 .running).modPart 1 fun p => { p with newCluster := some (5, 0x1E7) }).part 1 =
      { (lp1 .running).part 1 with newCluster := some (5, 0x1E7) } := by decide +kernel
  refine ⟨by rw [h]; simp, fun e he => ?_, by decide +kernel⟩
  rw [h] at he
  cases he; decide

/-- A refused `ckpt`, whose status goes to a page that takes it. -/
def lck : State := { ld with ops := [ckOp] }.devWrite (loadRoot + 4 * 4096 + 8) (natToBytes 8 0x397)

theorem witness_SecurityWords_status :
    let tr := trOf lck (0x1000 + 24)
    lck.runningOp 0 0 1 = some ckOp ∧ [(0x1000 + 24, 3)].dropLast = ([] : List (Nat × Nat)) ∧
      permCheck accWrite (lck.xlate ckOp.part (0x1000 + 24)) = .ok tr ∧ tr.place ≠ .remote ∧ lck.hostErr tr.place tr.pa 8 = false ∧ tr.pa % 8 = 0 ∧
      3 < 256 ∧ lck.moves = [] ∧ ckOp.folio = [] ∧ { ckOp with folio := [(0, false)] }.folio ≠ [] := by
  decide +kernel

theorem witness_SecurityWords_replied : (replied (lck.replies ckOp [(0x1000 + 24, 3)])).opAwaits ckOp = false ∧
    lck.replies ckOp [(0x1000 + 24, 3)] = .ok (replied (lck.replies ckOp [(0x1000 + 24, 3)])) :=
  ⟨by decide +kernel, replied_ok _ (by decide +kernel)⟩

/-! ## Warps and the distributor -/

theorem witness_WarpEvents_lanes :
    let k : Cause := ⟨0x03, 0, 0, 0, 0, 4, false, 0⟩
    let r := { tload with lane := 0, sreg := none }
    (∀ y, (tsw fun w => { w with remote := [r] }).warp.causeArm.bind (tsw fun w => { w with remote := [r] }).warp.select = some y → y.lanesDone = false) ∧
      (tsw fun w => { w with pending := some k }).warp.lanesDone = true ∧ tw.filling = none := by
  have h : (tsw fun w => { w with remote := [{ tload with lane := 0, sreg := none }] }).warp.causeArm = none := by decide +kernel
  refine ⟨fun y hy => ?_, by decide +kernel, by decide +kernel⟩
  rw [h] at hy
  simp at hy

/-- A crew that holds tokens alone, on its core, while another team waits. -/
def lheld : State :=
  let crew : Crew := ld.crews.headD (Grid.crew ⟨0, 0, 0, 0, 0, Desc.blank, [], false, 0⟩ 0)
  { ld with
    warp := .blank
    crews := [{ crew with state := .held, deque := [1] }, { crew with num := 1, team := 1, state := .waiting, core := none }]
    teams := ld.teams ++ [{ lteam with num := 1 }] }

theorem witness_Distribution_held :
    let t : Team := (lheld.teams.head?).getD lteam
    (lheld.crewAt 0).map (·.state) = some .held ∧ ((lheld.crewAt 0).bind lheld.teamOfCrew) = some t ∧ lheld.teamLeft t = true ∧
      lheld.waitingTeams (lheld.teamPart t) ≠ [] ∧ settled lheld (lheld.teamPart t) := by
  unfold settled; decide +kernel

/-- A slice of a partition with a waiting team and a placed one. -/
theorem witness_Distribution_slice :
    let s : State := { ld with
      teams := ld.teams ++ [{ lteam with num := 1 }]
      crews := ld.crews ++ [{ (ld.crews.headD (Grid.crew ⟨0, 0, 0, 0, 0, Desc.blank, [], false, 0⟩ 0)) with num := 1, team := 1, state := .waiting, core := none }] }
    (s.part 0).cfg.slice = 0 ∧ ((s.modPart 0 fun p => { p with cfg := { p.cfg with slice := 4 } }).part 0).cfg.slice ≠ 0 ∧
      (∀ y ∈ s.crews, (s.teamOfCrew y).isSome = true) ∧ s.waitingTeams 0 ≠ [] ∧ (s.untimed 0).filter (fun y => y.state == .placed) ≠ [] := by decide +kernel

/-! ## Links, stops and the module -/

theorem witness_Repairs_module :
    let up := ts.modDie 0 fun x => { x with state := .active }
    let l : DieLink := ⟨false, 0, 0⟩
    let x := Tab.get up.dieLinks (linkNumber l) .blank
    up.linkDown l = false ∧ x.lost = false ∧ (Tab.get up.dieLinks (partner (linkNumber l)) .blank).lost = false ∧ x.pending = [] ∧
      (∀ u ∈ ({ x with queue := [zeros 80] } : Link).queue ++ x.pending, u.length = 80) ∧ ts.fills = [] := by decide +kernel

theorem witness_StopPoints_again :
    let s := tstop [0x100] false
    let x : Stop := ⟨7, 0, 0xF000, 0, 0, 1, [0x100], [0x100], 0, 0, true, false, none⟩
    let a := s.modPart 1 fun p => { p with stop := some x }
    (a.part 1).stop = some x ∧ 0x100 ∈ x.left ∧ a.mayStop 1 0x100 = true ∧ x.left.filter (· != 0x100) = [] ∧ a.limits = [] ∧ a.security.activating = false ∧
      x.wasRunning = true ∧ (x.reason = 7 ∨ x.reason = 8) ∧ (tstop [0x100] true).folioOn 1 = false ∧
      { a with limits := [4] }.limits ≠ [] ∧ ((tstop [0x100] true).part 1).stop.map (·.runAfter) = some true := by decide +kernel

theorem witness_ModuleEvents_limits :
    let one := { ts with limits := [4] }
    let two := { ts with limits := [4, 5] }
    4 ∈ one.limits ∧ one.limits.filter (· != 4) = [] ∧ two.limits.filter (· != 4) ≠ [] ∧ one.security.activating = false := by decide +kernel

/-! ## The fabric and groups -/

theorem witness_Fabric_bad : uflGood [] = false ∧ ts.fabric.outbox = [] ∧ ts.fabric.groupOut = [] ∧ (ts.port 1).owed = 0 ∧ (ts.port 1).badLanes = [] ∧
    (ts.port 1).lost = false := by decide +kernel

theorem witness_Fabric_lanes : 1 ∈ (ts.port 1).liveLanes ∧ 2 ∉ (ts.port 1).liveLanes ∧ (∃ j ∈ (ts.port 1).liveLanes, j ≠ 1) ∧ (ts.port 1).unacked = [] ∧
    (∀ q ∈ ({ ts.fabric with ports := [(1, ts.port 1)] } : Fabric).ports, q.1 = 1) ∧ ts.parts = [] := by decide +kernel

theorem witness_Fabric_store : let o := { tout with returns := false, ans := 6, grp := none }
    o.returns = false ∧ o.grp = none ∧ tload.own = [] ∧ tload.lane < 64 ∧ tload.level = 0 := by decide

theorem witness_Groups_empty :
    let y := (tgroup gRoot []).group 0 0
    y.valid = true ∧ y.broken = false ∧ 2 ∈ y.children ∧ y.step.toNat ≤ 0 ∧ ([] : List (W32 × Bool)) = [] := by decide +kernel

theorem witness_Groups_leaf :
    let x := gStep (some (zeros 64)) [] none false
    let y := (tgroup gLeaf [x]).group 0 0
    y.first = some x ∧ y.root = false ∧ x.sentUp = false ∧ { x with sentUp := true }.sentUp = true ∧ (∀ q ∈ y.children, ∃ z ∈ x.partials, z.1 = q) ∧
      x.held = false ∧ y.multicast = false ∧ x.own = some (zeros 64) := by decide +kernel

end Sys2Proof.Tests
end

section
/-! SUPPORT. Special registers and `loc`: values through the load value queue, the marks of a walk, and O9. -/

namespace Sys2Proof

open Sys2Proof.Machine

/-! ## Values through the load value queue -/

@[simp] theorem viaLvq_warp (s : State) (x : Nat) : (s.viaLvq x).2.warp = s.warp :=
  (congrArg State.warp (s.viaLvq_frame x) :)

/-- The value that comes out of the load value queue (R198). -/
theorem viaLvq_value (s : State) (x : Nat) :
    (s.viaLvq x).1 = if s.warp.isShadowed = true ∧ s.shadowRun = true then (lvqTaken s x).1 else x := by
  unfold State.viaLvq lvqTaken
  cases s.warp.isShadowed <;> cases s.shadowRun <;> simp only [Bool.false_eq_true, and_false, and_true, if_true, if_false]
  cases s.lvq with
  | nil => rfl
  | cons v r => cases v <;> rfl

/-- The load value queue after a value has passed through it (R198). -/
theorem viaLvq_queue (s : State) (x : Nat) : (s.viaLvq x).2.lvq =
    if s.warp.isShadowed = false then s.lvq else if s.shadowRun = true then (lvqTaken s x).2 else s.lvq ++ [.known x] := by
  unfold State.viaLvq lvqTaken
  cases s.warp.isShadowed <;> cases s.shadowRun <;> simp only [Bool.false_eq_true, Bool.true_eq_false, if_true, if_false]
  cases hq : s.lvq with
  | nil => exact hq
  | cons v r =>
    cases v with
    | known y => rfl
    | awaited => exact hq

/-- A word that writes a value of the load value queue to a scalar register, in a state `u` that has the warp and the queue of `s`. -/
theorem writesVia_intro {i : Instr} {s u : State} {d : SReg} {v : W64} {n : Nat} (hw : u.warp = s.warp) (hl : u.lvq = s.lvq)
    (hr : u.shadowRun = s.shadowRun) (h : exec i s = setReg (u.viaLvq v.toNat).2 d (BitVec.ofNat 64 (u.viaLvq v.toNat).1) n) :
    writesVia i s u d v n := by
  have hq : lvqTaken u v.toNat = lvqTaken s v.toNat := by rw [lvqTaken, lvqTaken, hl]
  have hx : (if s.warp.isShadowed = true ∧ s.shadowRun = true then BitVec.ofNat 64 (lvqTaken s v.toNat).1 else v) =
      BitVec.ofNat 64 (u.viaLvq v.toNat).1 := by
    rw [viaLvq_value, hw, hr, hq]; split <;> simp
  have hu : (u.viaLvq v.toNat).2.warp = s.warp := by rw [viaLvq_warp, hw]
  rw [writesVia, hx]
  refine ⟨_, h, ?_, ?_, ?_, ?_, ?_⟩
  · rw [State.adv_warp, State.sset_warp, hu]; simp
  · rw [State.adv_warp, State.sset_warp, hu]; exact regsWith_pc (regsWith_sset s.warp d _) _
  · rw [State.adv_warp, State.sset_warp, hu]; exact onlyRegs_sset s.warp d _ _
  · exact congrArg (fun z : State => { z with warp := u.warp }) (u.viaLvq_frame v.toNat)
  · rw [State.adv_lvq, State.sset_lvq, viaLvq_queue, hw, hl, hr, hq]

/-! ## `srd` (R24, R123) -/

theorem srd_writesReg {s : State} {d : SReg} {n : BitVec 9} {v : W64} (hv : s.special n.toNat = some v) (hn : pairReads n = false) :
    writesReg (.srd d n) s d v 4 :=
  writesReg_intro (by show execSrd d n s = _; simp [execSrd, hv, hn, setReg])

theorem srd_writesVia {s : State} {d : SReg} {n : BitVec 9} {v : W64} (hv : s.special n.toNat = some v) (hn : pairReads n = true) :
    writesVia (.srd d n) s s d v 4 :=
  writesVia_intro rfl rfl rfl (by show execSrd d n s = _; simp [execSrd, hv, hn])

/-- The numbers of the special registers (R24). -/
theorem special_eq_none (s : State) (n : Nat)
    (h : n ∉ [0, 1, 2, 3, 4, 5, 6, 8, 9, 10, 16, 17, 18, 19, 20, 21, 24, 25, 26, 27, 32, 33]) : s.special n = none := by
  unfold State.special
  dsimp only
  split
  case h_23 => rfl
  all_goals simp at h

theorem lowLane_eq_some {w : Warp} {l : Nat} (hl : l < 64) (hon : w.am.getLsbD l = true) (hlow : ∀ k < l, w.am.getLsbD k = false) :
    w.lowLane = some l :=
  List.find?_range_eq_some.2 ⟨hon, List.mem_range.2 hl, fun k hk => by simp [hlow k hk]⟩

theorem lowLane_eq_none {w : Warp} (h : w.am = 0) : w.lowLane = none := by simp [Warp.lowLane, h]

theorem pairStat_plain {s : State} {w : Warp} (h : w.isTwin = false) : s.pairStat w = 0 := by simp [State.pairStat, h]

/-- `PAIR_STAT` of a warp of a `TWIN` launch, by what its twin waits for (R26). -/
theorem pairStat_twin {s : State} {w : Warp} (h : w.isTwin = true) :
    s.pairStat w =
      let p := s.rankOf w (if w.ident.rank % 2 = 0 then w.ident.rank + 1 else w.ident.rank - 1)
      let skip : Bool := (p.map (·.wait)) == some (.twin .tskip)
      0#32 ++ (w.seq ++ (0#12 ++ (BitVec.ofBool skip ++ (BitVec.ofBool p.isSome ++ (BitVec.ofNat 1 (w.ident.rank % 2) ++ 1#1))))) := by
  simp only [State.pairStat, State.twinOf, h, Bool.not_true, Bool.false_eq_true, if_true, if_false]
  cases s.rankOf w _ <;> rfl

/-! ## `swr` (R29, R32, R124) -/

/-- A write that a fork does not refuse changes the warp as it says, and is logged (R199). -/
theorem swr_next {s : State} {n : BitVec 9} {a : SReg} {f : Bool} {u : Warp} (hu : s.warp.special? n.toNat (s.sget a) = some (f, u))
    (hf : f = true → s.warp.fork = none) (hg : u.gridId = s.warp.gridId) (hp : u.pc = s.warp.pc) :
    exec (.swr n a) s =
      .next { s with warp := { u with pc := s.warp.pc + 4 }, items := logged s [⟨5, [(s.sget a).toNat], 0, 0⟩] } := by
  have hs : u.isShadowed = s.warp.isShadowed := by rw [Warp.isShadowed, Warp.isShadowed, hg]
  have hc : ¬(f = true ∧ s.warp.fork.isSome = true) := by rintro ⟨h1, h2⟩; simp [hf h1] at h2
  show execSwr n a s = _
  simp only [execSwr, hu, if_neg hc, State.item, State.itemAt, logged, hs, ← hp]
  split <;> rfl

/-- Every write but that of `AM` is refused while the warp is forked (R32). -/
theorem swr_forked {s : State} {n : BitVec 9} {a : SReg} {u : Warp} (hu : s.warp.special? n.toNat (s.sget a) = some (true, u))
    (hf : s.warp.fork ≠ none) : trapsAt (.swr n a) s 0x0A 0 4 := by
  have hc : s.warp.fork.isSome = true := Option.isSome_iff_ne_none.2 hf
  show execSwr n a s = _
  simp only [execSwr, hu, hc, and_self, if_true]
  rfl

/-- The numbers of the writable registers (R29). -/
theorem special?_eq_none (w : Warp) (n : Nat) (x : W64) (h : n ∉ [0x008, 0x00A, 0x011, 0x019, 0x01A, 0x01B]) : w.special? n x = none := by
  unfold Warp.special?
  split
  case h_7 => rfl
  all_goals simp at h

/-! ## Marking a leaf (R334) -/

/-- A mark in a leaf changes device memory and the keys of its lines alone. -/
theorem markLeaf_cases (s : State) (leaf : Nat) (d : Bool) : ∃ m t, s.markLeaf leaf d = { s with dev := m, tags := t } ∧ m.poison = s.dev.poison := by
  obtain ⟨m, t, h, -, hp⟩ := s.devSetByte_cases (leaf + 1) (s.devByte (leaf + 1) ||| 1)
  unfold State.markLeaf
  dsimp only
  split
  · obtain ⟨m', t', h', -, hp'⟩ := State.devSetByte_cases (s.devSetByte (leaf + 1) (s.devByte (leaf + 1) ||| 1)) leaf
      ((s.devSetByte (leaf + 1) (s.devByte (leaf + 1) ||| 1)).devByte leaf ||| 0x80)
    exact ⟨m', t', by rw [h', h], by rw [hp', h]; exact hp⟩
  · exact ⟨m, t, h, hp⟩

/-- A walk changes device memory and the keys of its lines alone. -/
theorem lookUp_cases (s : State) (p va : Nat) : ∃ m t, (s.lookUp p va).2 = { s with dev := m, tags := t } := by
  unfold State.lookUp
  split
  case h_1 x _ => obtain ⟨m, t, h, -⟩ := markLeaf_cases s x.leaf false; exact ⟨m, t, h⟩
  case h_2 leaf _ => obtain ⟨m, t, h, -⟩ := markLeaf_cases s leaf false; exact ⟨m, t, h⟩
  case h_3 => exact ⟨s.dev, s.tags, rfl⟩

/-! ## `loc` (R275, R276) -/

theorem field_eq (x : W64) (lo n : Nat) : field x lo n = (x.extractLsb' lo n).toNat := by
  simp [field, bitsOf, BitVec.extractLsb'_toNat, Nat.shiftRight_eq_div_pow]

/-- A `loc` delivers the place of its query, in the state that its walk leaves. -/
theorem loc_writesVia {s u : State} {d a : SReg} {v : W64} (hw : s.locWalk (s.sget a) = u) (hv : s.locate (s.sget a) = v)
    (hu : ∃ m t, u = { s with dev := m, tags := t }) : writesVia (.loc d a) s u d v 4 := by
  obtain ⟨m, t, rfl⟩ := hu
  refine writesVia_intro rfl rfl rfl ?_
  show execLoc d a s = _
  simp only [execLoc, hw, hv]

/-- The kind of an address and the zeros below it, as one field of the query. -/
theorem field_addr (q : W64) : field q 57 7 = 8 ↔ q.extractLsb' 60 4 = 1 ∧ q.extractLsb' 57 3 = 0 := by
  have hone : (1 : BitVec 4).toNat = 1 := rfl
  have hzero : (0 : BitVec 3).toNat = 0 := rfl
  rw [← BitVec.toNat_inj, ← BitVec.toNat_inj, ← field_eq, ← field_eq, hone, hzero]
  simp only [field, bitsOf]
  omega

/-- A query without an address walks nothing. -/
theorem locWalk_plain {s : State} {q : W64} (h : ¬(q.extractLsb' 60 4 = 1 ∧ q.extractLsb' 57 3 = 0)) : s.locWalk q = s :=
  if_neg (mt (field_addr q).1 h)

theorem locWalk_addr {s : State} {q : W64} (h : q.extractLsb' 60 4 = 1) (h' : q.extractLsb' 57 3 = 0) :
    s.locWalk q = (s.lookUp s.warp.ident.part (q.extractLsb' 0 57).toNat).2 := by
  rw [← field_eq]
  exact if_pos ((field_addr q).2 ⟨h, h'⟩)

/-- Any query but one of an address changes nothing but its destination. -/
theorem loc_plain {s : State} {d a : SReg} {v : W64} (hq : ¬((s.sget a).extractLsb' 60 4 = 1 ∧ (s.sget a).extractLsb' 57 3 = 0))
    (hv : s.locate (s.sget a) = v) : writesVia (.loc d a) s s d v 4 :=
  loc_writesVia (locWalk_plain hq) hv ⟨s.dev, s.tags, rfl⟩

/-- The kind of a query picks the field that it asks for (R275). -/
theorem field_kind {q : W64} {k : BitVec 4} (h : q.extractLsb' 60 4 = k) : field q 60 4 = k.toNat := by rw [field_eq, h]

theorem field_eq_zero {q : W64} {lo n : Nat} : field q lo n = 0 ↔ q.extractLsb' lo n = 0 := by
  rw [field_eq]
  exact ⟨fun h => BitVec.eq_of_toNat_eq (by simpa using h), fun h => by simp [h]⟩

theorem locWord_own (shelf cd core : Nat) :
    locWord 0 15 0 0 shelf cd core = BitVec.ofNat 64 (2 ^ 63 + 15 * 2 ^ 36 + shelf * 2 ^ 16 + cd * 2 ^ 12 + core * 2 ^ 10) :=
  congrArg (BitVec.ofNat 64) (by omega)

theorem locWord_home (slice stack dist cd : Nat) :
    locWord slice stack dist 0 0 cd 0 = BitVec.ofNat 64 (2 ^ 63 + slice * 2 ^ 40 + stack * 2 ^ 36 + dist * 2 ^ 32 + cd * 2 ^ 12) :=
  congrArg (BitVec.ofNat 64) (by omega)

theorem locWord_away (dist : Nat) : locWord 0 15 dist 0 0 0 0 = BitVec.ofNat 64 (2 ^ 63 + 15 * 2 ^ 36 + dist * 2 ^ 32) :=
  congrArg (BitVec.ofNat 64) (by omega)

theorem locWord_bank (wd : Nat) : locWord 0 15 3 wd 0 0 0 = BitVec.ofNat 64 (2 ^ 63 + 15 * 2 ^ 36 + 3 * 2 ^ 32 + wd * 2 ^ 24) :=
  congrArg (BitVec.ofNat 64) (by omega)

theorem locWord_cluster (dist k cd : Nat) :
    locWord 0 15 dist 0 k cd 0 = BitVec.ofNat 64 (2 ^ 63 + 15 * 2 ^ 36 + dist * 2 ^ 32 + k * 2 ^ 16 + cd * 2 ^ 12) :=
  congrArg (BitVec.ofNat 64) (by omega)

theorem locate_own {s : State} {shelf : Nat} (h : (s.team? s.warp.ident.grid s.warp.ident.team).bind (·.shelf) = some shelf) :
    s.locate 0 =
      BitVec.ofNat 64 (2 ^ 63 + 15 * 2 ^ 36 + shelf * 2 ^ 16 + s.clusterOf s.warp / 17 * 2 ^ 12 + s.warp.ident.core * 2 ^ 10) := by
  have hk : field (0 : W64) 60 4 = 0 := by decide
  rw [← locWord_own]
  simp only [State.locate, hk, ne_eq, not_true_eq_false, if_false, h, Option.getD_some]

theorem locate_own_malformed {s : State} {q : W64} (h : q.extractLsb' 60 4 = 0) (hq : q ≠ 0) : s.locate q = 0 := by
  have hk : field q 60 4 = 0 := field_kind h
  simp only [State.locate, hk, if_pos hq]

theorem locate_addr_malformed {s : State} {q : W64} (h : q.extractLsb' 60 4 = 1) (hq : q.extractLsb' 57 3 ≠ 0) : s.locate q = 0 := by
  have hk : field q 60 4 = 1 := field_kind h
  simp only [State.locate, hk, if_pos (mt field_eq_zero.1 hq)]

theorem locate_unmapped {s : State} {q : W64} (h : q.extractLsb' 60 4 = 1) (hq : q.extractLsb' 57 3 = 0)
    (hx : ∀ tr, s.xlate s.warp.ident.part (q.extractLsb' 0 57).toNat ≠ .ok tr) : s.locate q = 0 := by
  have hk : field q 60 4 = 1 := field_kind h
  have hz : ¬field q 57 3 ≠ 0 := not_not.2 (field_eq_zero.2 hq)
  simp only [State.locate, hk, if_neg hz, field_eq q 0 57]

/-- A query of an address gives the place of its translation. -/
theorem locate_mapped {s : State} {q : W64} {tr : Trans} (h : q.extractLsb' 60 4 = 1) (hq : q.extractLsb' 57 3 = 0)
    (htr : s.xlate s.warp.ident.part (q.extractLsb' 0 57).toNat = .ok tr) :
    (tr.place = .device →
      let slice := homeSlice tr.pa (pteNuma tr.entry) (pteDie tr.entry)
      s.locate q = locWord slice (tr.pa / 1024 % 12) (if slice / 32 = s.clusterOf s.warp / 17 then 2 else 3) 0 0 (slice / 32) 0) ∧
    (tr.place = .host → s.locate q = locWord 0 15 4 0 0 0 0) ∧ (tr.place = .remote → s.locate q = locWord 0 15 5 0 0 0 0) := by
  have hk : field q 60 4 = 1 := field_kind h
  have hz : ¬field q 57 3 ≠ 0 := not_not.2 (field_eq_zero.2 hq)
  refine ⟨fun hp => ?_, fun hp => ?_, fun hp => ?_⟩ <;> simp only [State.locate, hk, if_neg hz, field_eq q 0 57, htr, hp, stackOf]

theorem locate_bank {s : State} {q e : W64} (h : q.extractLsb' 60 4 = 2) (hq : q.extractLsb' 8 52 = 0)
    (he : Tab.get (s.part s.warp.ident.part).banks (q.extractLsb' 0 8).toNat 0 = e) :
    s.locate q =
      if e.getLsbD 8 then BitVec.ofNat 64 (2 ^ 63 + 15 * 2 ^ 36 + 3 * 2 ^ 32 + (e.extractLsb' 6 2).toNat * 2 ^ 24) else 0 := by
  have hk : field q 60 4 = 2 := field_kind h
  have hz : ¬field q 8 52 ≠ 0 := not_not.2 (field_eq_zero.2 hq)
  rw [← locWord_bank]
  simp only [State.locate, hk, if_neg hz, field_eq q 0 8, he, field_eq e 6 2]

theorem locate_cluster {s : State} {q e : W64} {k c : Nat} (h : q.extractLsb' 60 4 = 3) (hq : q.extractLsb' 7 53 = 0)
    (hk : (q.extractLsb' 0 7).toNat = k) (he : Tab.get (s.part s.warp.ident.part).clusters k 0 = e)
    (hc : (e.extractLsb' 5 3).toNat * 17 + (e.extractLsb' 0 5).toNat = c) :
    s.locate q =
      if e.getLsbD 8 then BitVec.ofNat 64 (2 ^ 63 + 15 * 2 ^ 36 +
        (if s.clusterOf s.warp = c then 1 else if s.clusterOf s.warp / 17 = c / 17 then 2 else 3) * 2 ^ 32 +
        k * 2 ^ 16 + (e.extractLsb' 5 3).toNat * 2 ^ 12) else 0 := by
  have h3 : field q 60 4 = 3 := field_kind h
  have hz : ¬field q 7 53 ≠ 0 := not_not.2 (field_eq_zero.2 hq)
  rw [← locWord_cluster]
  simp only [State.locate, h3, if_neg hz, field_eq q 0 7, hk, he, field_eq e 5 3, field_eq e 0 5, hc, distTo]

theorem locate_other {s : State} {q : W64} (h : 3 < (q.extractLsb' 60 4).toNat) : s.locate q = 0 := by
  rw [← field_eq] at h
  unfold State.locate
  dsimp only
  split
  case h_5 => rfl
  all_goals omega

/-- Settles O9: each number by the value that `special` or `special?` gives it, and each query by the field that `locate` answers. -/
theorem specialRegisters : Obligations.SpecialRegisters := by
  unfold Obligations.SpecialRegisters
  refine ⟨?_, ?_, ?_⟩
  · intro s d
    refine ⟨srd_writesReg rfl rfl, ?_, ?_, srd_writesReg rfl rfl, srd_writesReg rfl rfl, srd_writesReg rfl rfl, srd_writesReg rfl rfl,
      srd_writesReg rfl rfl, srd_writesReg rfl rfl, srd_writesReg rfl rfl, srd_writesReg rfl rfl, srd_writesReg rfl rfl,
      srd_writesReg rfl rfl, srd_writesReg rfl rfl, srd_writesReg rfl rfl, srd_writesReg rfl rfl, srd_writesReg rfl rfl,
      srd_writesReg rfl rfl, ?_, ?_, srd_writesReg rfl rfl, srd_writesReg rfl rfl, srd_writesReg rfl rfl, ?_⟩
    · intro l hl hon hlow
      have h := lowLane_eq_some hl hon hlow
      exact ⟨srd_writesVia (by simp [State.special, h]) rfl, srd_writesVia (by simp [State.special, h]) rfl⟩
    · intro h
      have h := lowLane_eq_none h
      exact ⟨srd_writesVia (by simp [State.special, h]) rfl, srd_writesVia (by simp [State.special, h]) rfl⟩
    · exact fun h => srd_writesVia (congrArg some (pairStat_plain h)) rfl
    · exact fun h => srd_writesVia (congrArg some (pairStat_twin h)) rfl
    · intro n hn
      show execSrd d n s = _
      simp only [execSrd, special_eq_none s n.toNat hn]
      rfl
  · intro s a
    refine ⟨swr_next (f := false) rfl (by simp) rfl rfl, ?_, ?_, ?_⟩
    · intro hf
      refine ⟨swr_next (f := true) rfl (fun _ => hf) rfl rfl, swr_next (f := true) rfl (fun _ => hf) rfl rfl,
        swr_next (f := true) rfl (fun _ => hf) rfl rfl, swr_next (f := true) rfl (fun _ => hf) rfl rfl, ?_⟩
      have hq : ((s.sget a).setWidth 32).toNat = (s.sget a).toNat % 2 ^ 32 := BitVec.toNat_setWidth _ _
      simp only [hq]
      exact swr_next (f := true) rfl (fun _ => hf) (by split <;> rfl) (by split <;> rfl)
    · intro hf n hn
      simp only [List.mem_cons, List.not_mem_nil, or_false] at hn
      obtain rfl | rfl | rfl | rfl | rfl := hn <;> exact swr_forked rfl hf
    · intro n hn
      show execSwr n a s = _
      simp only [execSwr, special?_eq_none s.warp n.toNat _ hn]
      rfl
  · intro s d a
    refine ⟨?_, ?_, ?_, ?_, ?_, ?_, ?_⟩
    · exact fun h hq => loc_plain (by simp [h]) (locate_own_malformed h hq)
    · intro shelf h hs
      exact loc_plain (by rw [h]; decide) (h ▸ locate_own hs)
    · exact fun h hq => loc_plain (fun c => hq c.2) (locate_addr_malformed h hq)
    · intro h hq
      have walked {v : W64} (hv : s.locate (s.sget a) = v) := loc_writesVia (d := d) (locWalk_addr h hq) hv (lookUp_cases s _ _)
      refine ⟨fun hx => walked (locate_unmapped h hq hx), fun tr htr => ?_⟩
      obtain ⟨hdev, hhost, hremote⟩ := locate_mapped h hq htr
      exact ⟨fun hp => walked ((hdev hp).trans (locWord_home _ _ _ _)), fun hp => walked ((hhost hp).trans (locWord_away 4)),
        fun hp => walked ((hremote hp).trans (locWord_away 5))⟩
    · exact fun h hq => loc_plain (by simp [h]) (locate_bank h hq rfl)
    · exact fun h hq => loc_plain (by simp [h]) (locate_cluster h hq rfl rfl rfl)
    · exact fun h => loc_plain (fun c => by simp [c.1] at h) (locate_other h)

end Sys2Proof
end

section
/-! SUPPORT. Turns, fetches and issue, and O50. -/

namespace Sys2Proof

open Sys2Proof.Machine

/-! ## Accesses and fetches (R62, R64, R334) -/

/-- An access sets bits of a leaf, or nothing. -/
theorem access_marks (s : State) (p va acc : Nat) : (s.access p va acc).2 = s ∨ ∃ leaf d, (s.access p va acc).2 = s.markLeaf leaf d := by
  simp only [State.access]
  cases s.xlate p va with
  | ok t =>
    cases permCheck acc (.ok t) with
    | ok => exact .inr ⟨t.leaf, acc == accWrite || acc == accAtomic, rfl⟩
    | miss => exact .inr ⟨t.leaf, false, rfl⟩
    | cause => exact .inr ⟨t.leaf, false, rfl⟩
  | miss k leaf =>
    cases leaf with
    | none => exact .inl rfl
    | some leaf => exact .inr ⟨leaf, false, rfl⟩
  | noncanon => exact .inl rfl

/-- An access changes device memory and the keys of its lines alone. -/
theorem access_cases (s : State) (p va acc : Nat) : ∃ m t, (s.access p va acc).2 = { s with dev := m, tags := t } := by
  rcases access_marks s p va acc with h | ⟨leaf, d, h⟩ <;> rw [h]
  · exact ⟨s.dev, s.tags, rfl⟩
  · obtain ⟨m, t, h, -⟩ := markLeaf_cases s leaf d; exact ⟨m, t, h⟩

@[simp] theorem access_warp (s : State) (p va acc : Nat) : (s.access p va acc).2.warp = s.warp := by
  obtain ⟨m, t, h⟩ := access_cases s p va acc; rw [h]

/-- What is permitted has a translation (R331). -/
theorem permCheck_ok {acc : Nat} {x : Xl} {tr : Trans} (h : permCheck acc x = .ok tr) : x = .ok tr := by
  unfold permCheck at h
  cases x with
  | ok t =>
    dsimp only at h
    split at h
    · cases h
    · split at h <;> cases h
      rfl
  | miss k leaf => cases h
  | noncanon => cases h

/-- An access that is permitted sets A in its leaf, and D where it writes. -/
theorem access_ok {s : State} {p va acc : Nat} {tr : Trans} (h : permCheck acc (s.xlate p va) = .ok tr) :
    s.access p va acc = (.ok tr, s.markLeaf tr.leaf (acc == accWrite || acc == accAtomic)) := by
  have hx := permCheck_ok h
  rw [hx] at h
  simp only [State.access, hx, h]

/-- Access counters are no memory (R339). -/
theorem countAccess_cases (s : State) (p va : Nat) (tr : Trans) : ∃ c d, s.countAccess p va tr = { s with migCounts := c, migDies := d } := by
  unfold State.countAccess
  split
  · exact ⟨s.migCounts, s.migDies, rfl⟩
  · split
    · exact ⟨_, _, rfl⟩
    · exact ⟨s.migCounts, s.migDies, rfl⟩

@[simp] theorem countAccess_warp (s : State) (p va : Nat) (tr : Trans) : (s.countAccess p va tr).warp = s.warp := by
  obtain ⟨c, d, h⟩ := countAccess_cases s p va tr; rw [h]

/-- A part of a fetch that gives bytes leaves the warp as it was. -/
theorem fetchPart_warp {s t : State} {va n : Nat} {bs : List Byte} (h : s.fetchPart va n = (.bytes bs, t)) : t.warp = s.warp := by
  have ha := access_warp s s.warp.ident.part va accFetch
  unfold State.fetchPart at h
  dsimp only at h
  generalize s.access s.warp.ident.part va accFetch = x at h ha
  obtain ⟨c, u⟩ := x
  cases c with
  | miss k => cases h
  | cause c k => cases h
  | ok tr =>
    have hc : (u.countAccess s.warp.ident.part va tr).warp = s.warp := (countAccess_warp u _ va tr).trans ha
    dsimp only at h
    split at h
    · split at h
      · cases h; exact hc
      · split at h <;> cases h
    · split at h <;> cases h
      exact hc

/-- A fetch that gives bytes leaves the warp as it was. -/
theorem fetch_warp {s t : State} {va n : Nat} {bs : List Byte} (h : s.fetch va n = (.bytes bs, t)) : t.warp = s.warp := by
  unfold State.fetch at h
  dsimp only at h
  split at h
  case h_1 cs u hu =>
    have hw := fetchPart_warp hu
    split at h
    · cases h; exact hw
    · split at h
      case h_1 ds v hv => cases h; exact (fetchPart_warp hv).trans hw
      case h_2 r hr => exact absurd h (hr bs t)
  case h_2 r hr => exact absurd h (hr bs t)

/-- Access counters are not what device memory reads from. -/
theorem devRead_counters (s : State) (c d : Tab Nat) (n : Nat) : ∀ a, { s with migCounts := c, migDies := d }.devRead a n = s.devRead a n := by
  induction n with
  | zero => intro a; rfl
  | succ n ih => intro a; exact congrArg (s.devByte a :: ·) (ih (a + 1))

/-- A fetch within one page that may be executed gives the bytes that stand there (R64). -/
theorem fetch_inPage {s : State} {va n : Nat} {tr : Trans} (hn : va % 4096 + n ≤ 4096)
    (htr : permCheck accFetch (s.xlate s.warp.ident.part va) = .ok tr) (hdev : tr.place = .device)
    (hclean : (s.markLeaf tr.leaf false).dev.poisoned tr.pa n = false) :
    s.fetch va n = (.bytes ((s.markLeaf tr.leaf false).devRead tr.pa n), (s.markLeaf tr.leaf false).countAccess s.warp.ident.part va tr) := by
  have hk : min n (4096 - va % 4096) = n := by omega
  have hpart : s.fetchPart va n =
      (.bytes ((s.markLeaf tr.leaf false).devRead tr.pa n), (s.markLeaf tr.leaf false).countAccess s.warp.ident.part va tr) := by
    obtain ⟨c, d, hc⟩ := countAccess_cases (s.markLeaf tr.leaf false) s.warp.ident.part va tr
    have ha : s.access s.warp.ident.part va accFetch = (.ok tr, s.markLeaf tr.leaf false) := access_ok htr
    simp only [State.fetchPart, ha, hdev, hc, State.placePoisoned, hclean, Bool.false_eq_true, if_false, State.placeRead, devRead_counters]
  simp only [State.fetch, hk, hpart, if_true]

/-! ## Issue (R62 to R66, R70, R95) -/

/-- What a turn of a warp comes to: a word that enters or leaves a handler, or ends the warp, waits for the lane words before it (R117, R183). -/
def turnEnd (s u : State) (o : Out) : Out :=
  match o with
  | .next t => .next (if (t.warp.alive = false ∨ t.warp.level ≠ s.warp.level) ∧ s.warp.lanesDone = false
      then { u with warp := { u.warp with wait := .order } } else t)
  | x => x

theorem settled_eq_turnEnd (f : State → Out) (u : State) : Machine.settled f u = turnEnd u u (f u) := by
  unfold Machine.settled turnEnd
  cases f u with
  | next t =>
    have hc : (u.turned t && !u.warp.lanesDone) = true ↔
        (t.warp.alive = false ∨ t.warp.level ≠ u.warp.level) ∧ u.warp.lanesDone = false := by
      simp [State.turned]
    simp only [hc]
    split <;> rfl
  | fault r => rfl
  | refused r => rfl

/-- A warp that is not forked and waits for nothing is ready. -/
theorem ready_plain {w : Warp} (ha : w.alive = true) (hf : w.fork = none) (he : w.evicted = false) (hw : w.wait = .none)
    (hq : w.quantumFull = false) : w.ready = true := by
  have hend : w.ended = false := by rw [Warp.ended, hw, hf]; rfl
  have hblock : w.blockTurn = true := by simp only [Warp.blockTurn, hf]
  rw [Warp.ready, ha, he, hw, hend, hq, hblock]; rfl

theorem select_unforked {w : Warp} (h : w.fork = none) : w.select 0 = some w := by simp only [Warp.select, h, if_true]

/-- The turn of a warp without a shadow that may issue executes one word of it. -/
theorem issue_plain {u : State} (hf : u.warp.fork = none) (hr : u.warp.ready = true) (hw : u.warp.wait = .none)
    (hs : ∀ x ∈ u.shadows, x.id ≠ u.warp.id) : issue exec u.warp.id 0 u = turnEnd u u (issueWord exec u) := by
  have hfocus : u.focus u.warp.id = u := if_pos rfl
  have hsel := select_unforked hf
  have htake : u.warp.taking = false := by simp [Warp.taking, hw]
  have hwarp : { u with warp := { u.warp with wait := .none } } = u := by rw [← hw]
  have hshadow : u.shadows.find? (fun x => x.id == u.warp.id) = none := List.find?_eq_none.2 fun x hx => by simpa using hs x hx
  calc issue exec u.warp.id 0 u
      = leadTurn (Machine.settled (issueWord exec)) { u with warp := { u.warp with wait := .none } } := by
        simp only [issue, hfocus, ne_eq, not_true_eq_false, if_false, hsel, hr, htake, Bool.and_false, Bool.false_and, Bool.false_eq_true, if_true]
    _ = leadTurn (Machine.settled (issueWord exec)) u := congrArg _ hwarp
    _ = Machine.settled (issueWord exec) u := by simp only [leadTurn, hshadow]
    _ = turnEnd u u (issueWord exec u) := settled_eq_turnEnd _ u

/-- The step that such a turn makes, by what its word comes to. -/
theorem step_issue {s : State} {r : List Turn} {o : Out} (hr : s.agenda = .issue s.warp.id 0 :: r) (ha : s.warp.alive = true)
    (hf : s.warp.fork = none) (he : s.warp.evicted = false) (hw : s.warp.wait = .none) (hq : s.warp.quantumFull = false)
    (hs : ∀ x ∈ s.shadows, x.id ≠ s.warp.id) (ho : issueWord exec { s with agenda := r } = o) :
    step s = turnEnd s { s with agenda := r } o := by
  have h : step s = issue exec s.warp.id 0 { s with agenda := r } := by simp only [step, State.nextTurn, hr, runTurn]
  rw [h, ← ho]
  exact issue_plain (u := { s with agenda := r }) hf (ready_plain ha hf he hw hq) hw hs

/-- Without a pending cause a turn executes the scalar word at the program counter, or the lane word of the open block. -/
theorem issueWord_scalar {u : State} (hp : u.warp.pending = none) (hb : u.warp.block = none) : issueWord exec u = issueScalar exec u := by
  simp only [issueWord, hp, hb]

theorem issueWord_lane {u : State} {b : Block} (hp : u.warp.pending = none) (hb : u.warp.block = some b) :
    issueWord exec u = issueLane exec b u := by
  simp only [issueWord, hp, hb]

/-- What a word has used of the code held for it is what stood at the program counter. -/
theorem upd_used {v : State} {pc : W64} (n : Nat) (h : v.warp.pc = pc) : v.upd (fun w => w.used w.pc.toNat n) = v.upd (·.used pc.toNat n) := by
  subst h; rfl

theorem runWord_used {v : State} {i : Instr} {pc : W64} (n : Nat) (h : v.warp.pc = pc) :
    runWord exec i (fun w => w.used w.pc.toNat n) v = runWord exec i (·.used pc.toNat n) v := by
  simp only [runWord, upd_used n h]

theorem except_ne_ok_iff {α ε : Type} {x : Except ε α} : (∀ i, x ≠ .ok i) ↔ ∃ e, x = .error e := by
  cases x <;> simp

/-- A scalar word of one word runs what it decodes to, or traps `ILLEGAL` (R66). -/
theorem issueScalar_word {u v : State} {bs : List Byte} {w : W32} (hf : u.fetch u.warp.pc.toNat 4 = (.bytes bs, v))
    (hw : BitVec.ofNat 32 (bytesToNat bs) = w) (hp : isPrefix w = false) :
    (∀ i, decodeWords (.scalar w) = .ok i → issueScalar exec u = runWord exec i (·.used u.warp.pc.toNat 8) v) ∧
    ((∀ i, decodeWords (.scalar w) ≠ .ok i) →
      issueScalar exec u = .next ((v.upd (·.used u.warp.pc.toNat 8)).illegalScalar w.toNat 4)) := by
  have hpc : v.warp.pc = u.warp.pc := congrArg Warp.pc (fetch_warp hf)
  have hd : decodeWords (.scalar w) = decodeScalar w 0 := by simp [decodeWords, hp]
  have hz : w.toNat + 2 ^ 32 * (0 : W32).toNat = w.toNat := by simp
  rw [hd, except_ne_ok_iff]
  refine ⟨fun i hi => ?_, fun ⟨e, he⟩ => ?_⟩
  · simp only [issueScalar, hf, hw, hp, hi, Bool.false_eq_true, if_false, runWord_used 8 hpc]
  · simp only [issueScalar, hf, hw, hp, he, Bool.false_eq_true, if_false, upd_used 8 hpc, hz]

/-- A pair runs what it decodes to with its immediate word, or traps `ILLEGAL` (R66, R70). -/
theorem issueScalar_pair {u v x : State} {bs cs : List Byte} {w imm : W32} (hf : u.fetch u.warp.pc.toNat 4 = (.bytes bs, v))
    (hf' : v.fetch (u.warp.pc + 4).toNat 4 = (.bytes cs, x)) (hw : BitVec.ofNat 32 (bytesToNat bs) = w)
    (himm : BitVec.ofNat 32 (bytesToNat cs) = imm) (hp : isPrefix w = true) :
    (∀ i, decodeWords (.pair w imm) = .ok i → issueScalar exec u = runWord exec i (·.used u.warp.pc.toNat 8) x) ∧
    ((∀ i, decodeWords (.pair w imm) ≠ .ok i) →
      issueScalar exec u = .next ((x.upd (·.used u.warp.pc.toNat 8)).illegalScalar (w.toNat + 2 ^ 32 * imm.toNat) 8)) := by
  have hv : v.warp.pc = u.warp.pc := congrArg Warp.pc (fetch_warp hf)
  have hpc : x.warp.pc = u.warp.pc := (congrArg Warp.pc (fetch_warp hf')).trans hv
  have hd : decodeWords (.pair w imm) = decodeScalar w imm := by simp [decodeWords, hp]
  rw [hd, except_ne_ok_iff]
  refine ⟨fun i hi => ?_, fun ⟨e, he⟩ => ?_⟩
  · simp only [issueScalar, hf, hw, hp, if_true, hv, hf', himm, hi, runWord_used 8 hpc]
  · simp only [issueScalar, hf, hw, hp, if_true, hv, hf', himm, he, upd_used 8 hpc]

/-- A lane word runs what it decodes to, or traps `ILLEGAL` (R66). -/
theorem issueLane_word {u v : State} {b : Block} {bs : List Byte} {w : BitVec 96} (hf : u.fetch b.wordAddr 12 = (.bytes bs, v))
    (hw : BitVec.ofNat 96 (bytesToNat bs) = w) :
    (∀ i, decodeWords (.lane w) = .ok i → issueLane exec b u = runWord exec i (·.used b.wordAddr 12) v) ∧
    ((∀ i, decodeWords (.lane w) ≠ .ok i) →
      issueLane exec b u = .next ((v.upd (·.used b.wordAddr 12)).trapLane cIllegal 0 0 (BitVec.ofNat 128 (bytesToNat bs)))) := by
  have hd : decodeWords (.lane w) = decodeLane w := rfl
  rw [hd, except_ne_ok_iff]
  refine ⟨fun i hi => ?_, fun ⟨e, he⟩ => ?_⟩
  · simp only [issueLane, hf, hw, hi]
  · simp only [issueLane, hf, hw, he]

/-- A fetch without bytes ends the word as one (R64, R194). -/
theorem issueScalar_noFetch {u v : State} {f : Fetch} (hf : u.fetch u.warp.pc.toNat 4 = (f, v)) (hb : ∀ bs, f ≠ .bytes bs) :
    issueScalar exec u = .next (v.fetchFail f 4) := by
  unfold issueScalar
  rw [hf]
  cases f with
  | bytes bs => exact absurd rfl (hb bs)
  | miss walk va => rfl
  | prot va => rfl
  | poison va => rfl
  | remote => rfl

theorem issueLane_noFetch {u v : State} {b : Block} {f : Fetch} (hf : u.fetch b.wordAddr 12 = (f, v)) (hb : ∀ bs, f ≠ .bytes bs) :
    issueLane exec b u = .next (v.fetchFail f 4) := by
  unfold issueLane
  rw [hf]
  cases f with
  | bytes bs => exact absurd rfl (hb bs)
  | miss walk va => rfl
  | prot va => rfl
  | poison va => rfl
  | remote => rfl

/-- Settles O50: the turn comes to what its word comes to, and the word by what the fetch gives and the decoder reads. -/
theorem stepRunsDecoded : Obligations.StepRunsDecoded := by
  unfold Obligations.StepRunsDecoded
  intro s r i
  refine ⟨?_, ?_, ?_, ?_⟩
  · intro h hi
    have he : isEvent i = true := by simp [isEvent, hi]
    simp only [step, State.nextTurn, h, runTurn, he, if_true]
  · intro h hup
    have he : isEvent .bringUp = true := rfl
    simp only [step, State.nextTurn, h, State.idleTurn, hup, Bool.false_eq_true, if_false, runTurn, he, if_true]
  · intro hr ha hf he hw hp hq hs
    have ends {o : Out} := step_issue (o := o) hr ha hf he hw hq hs
    dsimp only
    refine ⟨?_, ?_, ?_, ?_⟩
    · intro bs v hb hfetch hpre
      have hscalar := issueWord_scalar (u := { s with agenda := r }) hp hb
      obtain ⟨hok, hbad⟩ := issueScalar_word (u := { s with agenda := r }) hfetch rfl hpre
      exact ⟨fun hi => ends (hscalar.trans (hok i hi)), fun hi => ends (hscalar.trans (hbad hi))⟩
    · intro bs cs v x hb hfetch hpre hfetch'
      have hscalar := issueWord_scalar (u := { s with agenda := r }) hp hb
      obtain ⟨hok, hbad⟩ := issueScalar_pair (u := { s with agenda := r }) hfetch hfetch' rfl rfl hpre
      exact ⟨fun hi => ends (hscalar.trans (hok i hi)), fun hi => ends (hscalar.trans (hbad hi))⟩
    · intro b bs v hb hfetch
      have hlane := issueWord_lane (u := { s with agenda := r }) hp hb
      obtain ⟨hok, hbad⟩ := issueLane_word (u := { s with agenda := r }) hfetch rfl
      exact ⟨fun hi => ends (hlane.trans (hok i hi)), fun hi => ends (hlane.trans (hbad hi))⟩
    · intro f v hf'
      exact ⟨fun hb hfetch => ends ((issueWord_scalar (u := { s with agenda := r }) hp hb).trans (issueScalar_noFetch hfetch hf')),
        fun b hb hfetch => ends ((issueWord_lane (u := { s with agenda := r }) hp hb).trans (issueLane_noFetch hfetch hf'))⟩
  · intro va n tr _ hn htr hdev
    exact fetch_inPage hn htr hdev

end Sys2Proof
end

section
/-! SUPPORT. Partitions, mailboxes, launches and completions, and O43. -/

namespace Sys2Proof

open Sys2Proof.Machine

/-! ## Partitions, mailboxes and contexts after an update -/

theorem part_modPart (s : State) (p q : Nat) (f : Part → Part) : (s.modPart p f).part q = if q = p then f (s.part p) else s.part q :=
  Tab.get_set s.parts p q (f (s.part p)) .blank

@[simp] theorem part_modPart_same (s : State) (p : Nat) (f : Part → Part) : (s.modPart p f).part p = f (s.part p) := by simp [part_modPart]

theorem mbx_modMbx (s : State) (p m q k : Nat) (f : Mbx → Mbx) :
    (s.modMbx p m f).mbx q k = if q = p ∧ k = m then f (s.mbx p m) else s.mbx q k := by
  unfold State.modMbx State.mbx
  rw [part_modPart]
  by_cases h : q = p
  · subst h
    simp only [if_true, true_and]
    exact Tab.get_set _ m k _ Mbx.blank
  · simp [h]

@[simp] theorem mbx_modMbx_same (s : State) (p m : Nat) (f : Mbx → Mbx) : (s.modMbx p m f).mbx p m = f (s.mbx p m) := by simp [mbx_modMbx]

/-- A change of a mailbox is no change of anything else of its partition. -/
theorem part_modMbx (s : State) (p m q : Nat) (f : Mbx → Mbx) :
    { (s.modMbx p m f).part q with mbxs := (s.part q).mbxs } = s.part q := by
  unfold State.modMbx
  rw [part_modPart]
  split
  · next h => subst h; rfl
  · rfl

@[simp] theorem cfg_modMbx (s : State) (p m q : Nat) (f : Mbx → Mbx) : ((s.modMbx p m f).part q).cfg = (s.part q).cfg :=
  (congrArg Part.cfg (part_modMbx s p m q f) :)

@[simp] theorem state_modMbx (s : State) (p m q : Nat) (f : Mbx → Mbx) : ((s.modMbx p m f).part q).state = (s.part q).state :=
  (congrArg Part.state (part_modMbx s p m q f) :)

@[simp] theorem launches_modMbx (s : State) (p m q : Nat) (f : Mbx → Mbx) : ((s.modMbx p m f).part q).launches = (s.part q).launches :=
  (congrArg Part.launches (part_modMbx s p m q f) :)

@[simp] theorem ctxOf_modMbx (s : State) (p m q c : Nat) (f : Mbx → Mbx) : (s.modMbx p m f).ctxOf q c = s.ctxOf q c :=
  (congrArg (fun x : Part => Tab.get x.ctxs c .blank) (part_modMbx s p m q f) :)

/-- A change of a context is no change of anything else of its partition. -/
theorem part_modCtx (s : State) (p c q : Nat) (f : Ctx → Ctx) : { (s.modCtx p c f).part q with ctxs := (s.part q).ctxs } = s.part q := by
  unfold State.modCtx
  rw [part_modPart]
  split
  · next h => subst h; rfl
  · rfl

@[simp] theorem ctxOf_modCtx_same (s : State) (p c : Nat) (f : Ctx → Ctx) : (s.modCtx p c f).ctxOf p c = f (s.ctxOf p c) := by
  simp [State.modCtx, State.ctxOf]

@[simp] theorem mbx_modCtx (s : State) (p c q k : Nat) (f : Ctx → Ctx) : (s.modCtx p c f).mbx q k = s.mbx q k :=
  (congrArg (fun x : Part => Tab.get x.mbxs k .blank) (part_modCtx s p c q f) :)

/-! ## Arrivals (R376) -/

@[simp] theorem mbx_enqueue_same (s : State) (p m : Nat) (msg : List Byte) :
    (s.enqueue p m msg).mbx p m = { s.mbx p m with queue := (s.mbx p m).queue ++ [(s.arrivals + 1, msg)] } := by
  rw [State.enqueue, mbx_modMbx_same]
  rfl

@[simp] theorem running_enqueue (s : State) (p m q k : Nat) (msg : List Byte) : ((s.enqueue p m msg).mbx q k).running = (s.mbx q k).running := by
  rw [State.enqueue, mbx_modMbx]
  split
  · next h => obtain ⟨rfl, rfl⟩ := h; rfl
  · rfl

@[simp] theorem ctxOf_enqueue (s : State) (p m q c : Nat) (msg : List Byte) : (s.enqueue p m msg).ctxOf q c = s.ctxOf q c := by
  rw [State.enqueue, ctxOf_modMbx]
  rfl

/-- A mailbox that takes a message queues it (R376). -/
theorem arrival_takes {s : State} {p m : Nat} (h : takesMessage s p m) (msg : List Byte) : s.arrival p m msg = (0, s.enqueue p m msg) := by
  obtain ⟨hfree, hm, hreply, hroom, hbound⟩ := h
  have hq : s.queueOr p m msg = (0, s.enqueue p m msg) := if_neg (Nat.not_le.2 hroom)
  obtain hb | ⟨d, hb, ht⟩ := hbound
  · simp only [State.arrival, hfree, if_false, Nat.not_le.2 hm, hreply, hb, hq]
  · simp only [State.arrival, hfree, if_false, Nat.not_le.2 hm, hreply, hb, ht, Bool.false_eq_true, hq]

/-- Whether a mailbox takes a message depends on its partition's state and configuration, its queue and its binding. -/
theorem takesMessage_congr {s t : State} {p m : Nat} (hs : (t.part p).state = (s.part p).state) (hc : (t.part p).cfg = (s.part p).cfg)
    (hq : (t.mbx p m).queue = (s.mbx p m).queue) (hb : (t.mbx p m).binding = (s.mbx p m).binding) (h : takesMessage s p m) :
    takesMessage t p m := by
  unfold takesMessage
  rw [hs, hc, hq, hb]
  exact h

/-! ## The warps of a launch (R24, R34, R378) -/

/-- A scalar register of the current stream after a write of one. -/
theorem sget_sset_current (w : Warp) (d r : SReg) (x : W64) : (w.sset d x).sget r = if r = d ∧ d ≠ 0 then x else w.sget r := by
  have h := sget_sset w d x w.level r
  have hl : atLevel (w.sset d x) w.level = w.sset d x := by rw [atLevel, ← Warp.sset_level w d x]
  rw [hl] at h
  simpa [atLevel] using h

/-- Writes of scalar registers change scalar registers alone. -/
theorem foldl_sset_cases (f : Nat → SReg) (x : Nat → W64) (l : List Nat) :
    ∀ w : Warp, ∃ s b, l.foldl (fun w k => w.sset (f k) (x k)) w = { w with s := s, banks := b } := by
  induction l with
  | nil => exact fun w => ⟨w.s, w.banks, rfl⟩
  | cons k l ih =>
    intro w
    obtain ⟨s, b, h⟩ := ih (w.sset (f k) (x k))
    refine ⟨s, b, ?_⟩
    rw [List.foldl_cons, h]
    unfold Warp.sset
    split
    · rfl
    · split <;> rfl

/-- The registers `s1` to `sn` after they have been written in order. -/
theorem sget_foldl_sset (x : Nat → W64) (w : Warp) (n : Nat) (hn : n < 64) : ∀ j < 63,
    ((List.range n).foldl (fun w k => w.sset (BitVec.ofNat 6 (k + 1)) (x k)) w).sget (BitVec.ofNat 6 (j + 1)) =
      if j < n then x j else w.sget (BitVec.ofNat 6 (j + 1)) := by
  induction n with
  | zero => intro j _; simp
  | succ n ih =>
    intro j hj
    have hreg : BitVec.ofNat 6 (j + 1) = BitVec.ofNat 6 (n + 1) ↔ j = n := by
      rw [← BitVec.toNat_inj, BitVec.toNat_ofNat, BitVec.toNat_ofNat, Nat.mod_eq_of_lt (by omega), Nat.mod_eq_of_lt (by omega)]; omega
    have hzero : BitVec.ofNat 6 (n + 1) ≠ 0 := by
      rw [ne_eq, ← BitVec.toNat_inj, BitVec.toNat_ofNat, Nat.mod_eq_of_lt (by omega)]; simp
    rw [List.range_succ, List.foldl_append, List.foldl_cons, List.foldl_nil, sget_sset_current, ih (by omega) j hj]
    by_cases h : j = n
    · rw [if_pos ⟨hreg.2 h, hzero⟩, if_pos (by omega), h]
    · simp only [hreg, h, false_and, if_false, show j < n + 1 ↔ j < n by omega]

/-- The warp of a launch with GLOBAL `i`, at the descriptor's entry, with the message where `i` is 0 (R24, R34). -/
def launchedWarp (d : Desc) (msg : List Byte) (i : Nat) (w : Warp) : Prop :=
  w.alive = true ∧ w.pc = d.entry ∧ w.lcb = d.lcb ∧ w.regs = d.regs ∧ w.level = 0 ∧ w.am = BitVec.allOnes 64 ∧ w.ident.global = i ∧
    w.ident.rank = i % d.warps ∧ w.ident.crew = i / d.warps ∧ w.ident.team = i / d.warps / d.crews ∧
    ∀ k, 1 ≤ k → k ≤ 8 → w.sget (BitVec.ofNat 6 k) = if i = 0 then BitVec.ofNat 64 (leAt msg (8 * (k - 1)) 8) else 0

/-- The warp of a launch with GLOBAL `i`, before and after it has received the message. -/
def bareWarp (g : Grid) (first i : Nat) : Warp := g.warp (i / g.desc.warps) (i % g.desc.warps) (first + i)
def launchWarp (g : Grid) (msg : List Byte) (first i : Nat) : Warp := (bareWarp g first i).message msg

theorem bareWarp_global (g : Grid) (first i : Nat) : (bareWarp g first i).ident.global = i := Nat.div_add_mod i g.desc.warps

theorem sget_bareWarp (g : Grid) (first i k : Nat) (hk : k < 56) : (bareWarp g first i).sget (BitVec.ofNat 6 k) = 0 := by
  have hlt : (BitVec.ofNat 6 k).toNat < 56 := by rw [BitVec.toNat_ofNat, Nat.mod_eq_of_lt (by omega)]; exact hk
  unfold Warp.sget
  rw [dif_pos hlt]
  simp [bareWarp, Grid.warp, Warp.blank]

theorem launchWarp_spec (g : Grid) (msg : List Byte) (first i : Nat) : launchedWarp g.desc msg i (launchWarp g msg first i) := by
  have hglobal := bareWarp_global g first i
  unfold launchWarp Warp.message
  rw [hglobal]
  by_cases hi : i = 0
  · rw [if_pos hi]
    have hreg := sget_foldl_sset (fun k => BitVec.ofNat 64 (leAt msg (8 * k) 8)) (bareWarp g first i) 8 (by omega)
    obtain ⟨s, b, h⟩ := foldl_sset_cases (fun k => BitVec.ofNat 6 (k + 1)) (fun k => BitVec.ofNat 64 (leAt msg (8 * k) 8)) (List.range 8)
      (bareWarp g first i)
    rw [h] at hreg ⊢
    refine ⟨rfl, rfl, rfl, rfl, rfl, rfl, hglobal, rfl, rfl, rfl, fun k h1 h8 => ?_⟩
    obtain ⟨j, rfl⟩ := Nat.exists_eq_add_of_le' h1
    rw [if_pos hi, hreg j (by omega), if_pos (by omega)]
    rfl
  · rw [if_neg hi]
    refine ⟨rfl, rfl, rfl, rfl, rfl, rfl, hglobal, rfl, rfl, rfl, fun k h1 h8 => ?_⟩
    rw [if_neg hi, sget_bareWarp g first i k (by omega)]

/-- A wait of the warp is none of its launch values. -/
theorem launchedWarp_wait {d : Desc} {msg : List Byte} {i : Nat} {w : Warp} (h : launchedWarp d msg i w) (x : Wait) :
    launchedWarp d msg i { w with wait := x } := h

/-! ## Launches (R376 to R378) -/

/-- A grid has been launched in `u`: its warps stand behind the others, in order of GLOBAL. -/
def launchedIn (t u : State) (p m n : Nat) (d : Desc) (msg : List Byte) : Prop :=
  t.mbx p m = { u.mbx p m with running := (u.mbx p m).running + 1 } ∧ (t.part p).launches = ((u.part p).launches + 1) % 2 ^ 32 ∧
    t.grids = u.grids ++ [⟨u.nextId, p, m, (u.part p).launches, n, d, msg, false, 0⟩] ∧
    t.teams.length = u.teams.length + d.teams ∧
    t.crews = u.crews ++ (List.range (d.teams * d.crews)).map
      (Grid.crew ⟨u.nextId, p, m, (u.part p).launches, n, d, msg, false, 0⟩) ∧
    t.others.length = u.others.length + d.teams * d.crews * d.warps ∧
    ∀ i w, i < d.teams * d.crews * d.warps → t.others[u.others.length + i]? = some w → launchedWarp d msg i w

theorem launch_others (u : State) (p m n : Nat) (d : Desc) (msg : List Byte) :
    (u.launch p m n d msg).others = u.others ++ (List.range (d.teams * d.crews * d.warps)).map
      (launchWarp ⟨u.nextId, p, m, (u.part p).launches, n, d, msg, false, 0⟩ msg (u.nextId + 1)) := rfl

theorem launch_launchedIn (u : State) (p m n : Nat) (d : Desc) (msg : List Byte) : launchedIn (u.launch p m n d msg) u p m n d msg := by
  refine ⟨?_, ?_, rfl, ?_, rfl, ?_, fun i w hi hw => ?_⟩
  · rw [State.launch, mbx_modMbx_same, State.mbx, part_modPart_same]; rfl
  · rw [State.launch, launches_modMbx, part_modPart_same]; rfl
  · show (u.teams ++ (List.range d.teams).map _).length = _
    simp
  · rw [launch_others]; simp
  · rw [launch_others, List.getElem?_append_right (by omega), Nat.add_sub_cancel_left, List.getElem?_map, List.getElem?_range hi,
      Option.map_some, Option.some_inj] at hw
    rw [← hw]
    exact launchWarp_spec _ msg _ i

/-- A wait that a launched warp takes on changes nothing of its launch. -/
theorem launchedIn_wait {t u : State} {p m n : Nat} {d : Desc} {msg : List Byte} (h : launchedIn t u p m n d msg) (id : Nat) (x : Wait) :
    launchedIn (t.modWarp id fun w => { w with wait := x }) u p m n d msg := by
  unfold State.modWarp
  split
  · exact h
  · obtain ⟨hmbx, hlaunches, hgrids, hteams, hcrews, hothers, hwarps⟩ := h
    refine ⟨hmbx, hlaunches, hgrids, hteams, hcrews, by simpa using hothers, fun i w hi hw => ?_⟩
    obtain ⟨v, hv, rfl⟩ := Option.map_eq_some_iff.1 ((List.getElem?_map ..).symm.trans hw)
    split
    · exact launchedWarp_wait (hwarps i v hi hv) x
    · exact hwarps i v hi hv

/-- A mailbox after its oldest message has left it. -/
def withoutOldest (s : State) (p m : Nat) : State := s.modMbx p m fun x => { x with queue := x.queue.drop 1 }

/-- The oldest message that may launch launches with the descriptor of its mailbox (R376), and its warps stand behind the others. -/
theorem gridLaunch_launches {s : State} {p m n : Nat} {msg : List Byte} {d : Desc} (hl : s.launchable p m = some (n, msg))
    (hb : (s.mbx p m).binding = .handler d ∨ ((s.mbx p m).binding = .service ∧ d = serviceDesc))
    (hold : ∀ k ∈ (s.part p).mbxs, ∀ q, s.launchable p k.1 = some q → n ≤ q.1) :
    ∃ t, exec (.gridLaunch p m) s = .next t ∧ launchedIn t (withoutOldest s p m) p m n d msg ∧
      ((s.mbx p m).binding ≠ .service → t.others.take s.others.length = s.others) := by
  have hany : (s.part p).mbxs.any (fun k => (s.launchable p k.1).any fun q => decide (q.1 < n)) = false := by
    simp only [List.any_eq_false, Option.any_eq_true, decide_eq_true_eq, not_exists, not_and, Nat.not_lt]
    exact fun k hk q hq => hold k hk q hq
  have hlaunch := launch_launchedIn (withoutOldest s p m) p m n d msg
  obtain hb | ⟨hb, rfl⟩ := hb
  · refine ⟨(withoutOldest s p m).launch p m n d msg, ?_, hlaunch, fun _ => ?_⟩
    · show execGridLaunch p m s = _
      simp only [execGridLaunch, hl, hany, Bool.false_eq_true, if_false, hb, withoutOldest]
    · rw [launch_others]; exact List.take_left
  · refine ⟨(withoutOldest s p m).launchService p m n msg, ?_, launchedIn_wait hlaunch _ _, fun h => absurd hb h⟩
    show execGridLaunch p m s = _
    simp only [execGridLaunch, hl, hany, Bool.false_eq_true, if_false, hb, withoutOldest]

/-! ## Completion (R377) -/

/-- A grid of which nothing is left has no firmware to end. -/
theorem finishService_over {s : State} {g : Nat} {y : Grid} (hg : s.grid? g = some y) (ho : s.gridOver g = true) : s.finishService y = s := by
  have hid : y.id = g := by simpa using List.find?_some hg
  have hw : s.gridWarps g = [] := by
    simp only [State.gridOver, Bool.and_eq_true, List.isEmpty_iff] at ho
    exact ho.1.1.1.1.1
  rw [State.finishService, hid, hw]

/-- The state after a grid has left, before its completion is reported. -/
def withoutGrid (s : State) (y : Grid) : State :=
  { s with
    grids := s.grids.filter fun z => z.id != y.id
    teams := s.teams.filter fun z => z.grid != y.id
    crews := s.crews.filter fun z => z.grid != y.id }.modMbx y.part y.mbx fun z => { z with running := z.running - 1 }

theorem gridCompletion_next {s : State} {g : Nat} {y : Grid} (hg : s.grid? g = some y) (ho : s.gridOver g = true) (hd : y.desc.doneVa = 0) :
    exec (.gridCompletion g) s = .next ((withoutGrid s y).doneReport y) := by
  have hid : y.id = g := by simpa using List.find?_some hg
  show execGridCompletion g s = _
  simp only [execGridCompletion, hg, finishService_over hg ho, ho, if_true, State.doneWord, hd, withoutGrid, hid]

/-- The report of a grid that names a mailbox joins its queue. -/
theorem doneReport_enqueues {s : State} {y : Grid} {k : Nat} (hk : y.desc.doneMbx = some k) (ht : takesMessage s y.part k) :
    s.doneReport y = s.enqueue y.part k (layBytes [(1, 8), (1, y.halted.toNat), (2, 0), (4, y.launch), (2, y.mbx), (54, 0)]) := by
  have ha := arrival_takes ht (layBytes [(1, 8), (1, y.halted.toNat), (2, 0), (4, y.launch), (2, y.mbx), (54, 0)])
  obtain ⟨_, hm, hreply, _⟩ := ht
  have hc : ¬((s.part y.part).cfg.mbx ≤ k ∨ k = (s.part y.part).cfg.replyMbx) := by omega
  simp only [State.doneReport, hk, if_neg hc, ha]

/-- What a grid leaves behind when it has completed, whether or not its report has joined a queue. -/
def gridGone (t s : State) (y : Grid) : Prop :=
  t.grids = s.grids.filter (fun z => z.id != y.id) ∧ t.teams = s.teams.filter (fun z => z.grid != y.id) ∧
    t.crews = s.crews.filter (fun z => z.grid != y.id) ∧ (t.mbx y.part y.mbx).running = (s.mbx y.part y.mbx).running - 1

theorem withoutGrid_gridGone (s : State) (y : Grid) : gridGone (withoutGrid s y) s y :=
  ⟨rfl, rfl, rfl, by rw [withoutGrid, mbx_modMbx_same]; rfl⟩

theorem gridGone_enqueue {t s : State} {y : Grid} (h : gridGone t s y) (p m : Nat) (msg : List Byte) : gridGone (t.enqueue p m msg) s y := by
  obtain ⟨hg, ht, hc, hr⟩ := h
  exact ⟨hg, ht, hc, by rw [running_enqueue, hr]⟩

/-- A grid that leaves takes no message from a mailbox. -/
theorem mbx_withoutGrid (s : State) (y : Grid) (q k : Nat) :
    ((withoutGrid s y).mbx q k).queue = (s.mbx q k).queue ∧ ((withoutGrid s y).mbx q k).binding = (s.mbx q k).binding := by
  rw [withoutGrid, mbx_modMbx]
  split
  · next h => obtain ⟨rfl, rfl⟩ := h; exact ⟨rfl, rfl⟩
  · exact ⟨rfl, rfl⟩

theorem takesMessage_withoutGrid {s : State} {p m : Nat} (y : Grid) (h : takesMessage s p m) : takesMessage (withoutGrid s y) p m := by
  obtain ⟨hq, hb⟩ := mbx_withoutGrid s y p m
  exact takesMessage_congr (by rw [withoutGrid, state_modMbx]; rfl) (by rw [withoutGrid, cfg_modMbx]; rfl) hq hb h

/-! ## Deferred posts (R379) -/

theorem takesMessage_modCtx {s : State} {p m : Nat} (q c : Nat) (f : Ctx → Ctx) (h : takesMessage s p m) :
    takesMessage (s.modCtx q c f) p m :=
  takesMessage_congr (congrArg Part.state (part_modCtx s q c p f) :) (congrArg Part.cfg (part_modCtx s q c p f) :)
    (by rw [mbx_modCtx]) (by rw [mbx_modCtx]) h

/-- The first deferred post whose operation has ended joins the queue of its mailbox. -/
theorem deferredPost_next {s : State} {p ctx : Nat} {x : Deferred}
    (hx : (s.ctxOf p ctx).deferred.find? (fun z => decide (z.n ≤ (s.ctxOf p ctx).t)) = some x) (ht : takesMessage s x.part x.mbx) :
    exec (.deferredPost p ctx) s =
      .next ((s.modCtx p ctx fun c => { c with deferred := c.deferred.erase x }).enqueue x.part x.mbx (stamp x.part x.mbx x.src x.msg)) := by
  show execDeferredPost p ctx s = _
  simp only [execDeferredPost, hx, arrival_takes (takesMessage_modCtx p ctx _ ht)]

theorem stamp_eq (p m src : Nat) (msg : List Byte) :
    stamp p m src msg = if p = 0 ∧ m = 4095 ∧ src ≠ 0 then msg.take 2 ++ natToBytes 2 src ++ msg.drop 4 else msg := by
  simp only [stamp, isService, Bool.and_eq_true, beq_iff_eq, and_assoc]

/-- Settles O43: each of the three events by the state that it answers, and that state field by field. -/
theorem launches : Obligations.Launches := by
  unfold Obligations.Launches
  intro s p m n g ctx msg h
  refine ⟨?_, ?_, ?_⟩
  · intro hl hb hold
    obtain ⟨t, ht, ⟨hbox, hnumber, hgrids, hteams, hcrews, hothers, hwarps⟩, htake⟩ := gridLaunch_launches hl hb hold
    rw [withoutOldest, mbx_modMbx_same] at hbox
    rw [withoutOldest, launches_modMbx] at hnumber hgrids hcrews
    refine ⟨t, ht, by rw [hbox], by rw [hbox], hnumber, hgrids, hteams, fun c hc => ?_, ?_, htake, hothers, fun i w hi hw => hwarps i w hi hw⟩
    · rw [hcrews] at hc
      obtain ⟨k, -, rfl⟩ := List.mem_map.1 (List.drop_left ▸ hc)
      exact ⟨rfl, rfl, rfl, rfl, rfl, rfl, rfl⟩
    · rw [hcrews, List.length_append, List.length_map, List.length_range]; rfl
  · intro y hg ho hd hmbx
    have hid : y.id = g := by simpa using List.find?_some hg
    have hgone : gridGone ((withoutGrid s y).doneReport y) s y := by
      cases hk : y.desc.doneMbx with
      | none => rw [State.doneReport, hk]; exact withoutGrid_gridGone s y
      | some k =>
        rw [doneReport_enqueues hk (takesMessage_withoutGrid y (hmbx k hk))]
        exact gridGone_enqueue (withoutGrid_gridGone s y) _ _ _
    obtain ⟨hgrids, hteams, hcrews, hrunning⟩ := hgone
    refine ⟨_, gridCompletion_next hg ho hd, fun z => ?_, fun c hc => ?_, fun c hc => ?_, hrunning, fun k hk => ?_⟩
    · rw [hgrids]; simp [hid]
    · rw [hcrews] at hc; simpa [hid] using (List.mem_filter.1 hc).2
    · rw [hteams] at hc; simpa [hid] using (List.mem_filter.1 hc).2
    · rw [doneReport_enqueues hk (takesMessage_withoutGrid y (hmbx k hk)), mbx_enqueue_same, (mbx_withoutGrid s y _ _).1]
      rfl
  · intro x hx ht
    refine ⟨_, deferredPost_next hx ht, ?_, ?_⟩
    · rw [ctxOf_enqueue, ctxOf_modCtx_same]
    · rw [mbx_enqueue_same, mbx_modCtx, stamp_eq]
      rfl

end Sys2Proof
end

section
/-! SUPPORT. Events that befall a warp: pending causes, halts, fills, evictions, wakes and late errors, and O52. -/

namespace Sys2Proof

open Sys2Proof.Machine

/-! ## The current warp by its number -/

theorem findWarp_current {s : State} (h : s.warp.alive = true) : s.findWarp s.warp.id = some s.warp := by
  simp [State.findWarp, State.warps, h]

theorem focus_current (s : State) : s.focus s.warp.id = s := if_pos rfl

/-- A change of the current warp and its shadow (R198). -/
theorem modPair_current (s : State) (f : Warp → Warp) :
    s.modPair s.warp.id f = { s with warp := f s.warp, shadows := s.shadows.map fun w => if w.id = s.warp.id then f w else w } := by
  rw [State.modPair, State.modWarp, if_pos rfl]

@[simp] theorem swapArm_id (w : Warp) : w.swapArm.id = w.id := by
  unfold Warp.swapArm; split <;> rfl

theorem select_id {w y : Warp} {arm : Nat} (h : w.select arm = some y) : y.id = w.id := by
  unfold Warp.select at h
  split at h
  · split at h <;> cases h; rfl
  · split at h
    · split at h <;> cases h; rfl
    · split at h
      · cases h
      · obtain ⟨g, -, rfl⟩ := Option.map_eq_some_iff.1 h
        dsimp only
        split
        · rfl
        · rw [swapArm_id]

/-! ## Pending causes (R183, R188) -/

/-- The cause that the stream of a warp without a shadow has pending is taken as a trap. -/
theorem takeTrap_current {s : State} {y : Warp} {k : Cause} (hs : ∀ z ∈ s.shadows, z.id ≠ s.warp.id)
    (hp : Tab.get s.pairs s.warp.id [] = []) (hy : s.warp.causeArm.bind s.warp.select = some y) (hk : y.pending = some k)
    (ha : y.alive = true) (hw : y.wait = .none) :
    s.takeTrap s.warp.id = { s with warp := { y with pending := none } }.trap k := by
  obtain ⟨arm, -, hsel⟩ := Option.bind_eq_some_iff.1 hy
  have hid := select_id hsel
  have hahead : s.ahead.isEmpty = true := by rw [State.ahead, hp]; rfl
  have hshadow : s.shadows.find? (fun x => x.id == y.id) = none :=
    List.find?_eq_none.2 fun z hz => by simpa [hid] using hs z hz
  have hc : True ∧ y.alive = true ∧ y.wait = .none ∧ s.ahead.isEmpty = true := ⟨trivial, ha, hw, hahead⟩
  simp only [State.takeTrap, focus_current, hy, hk, if_pos hc, pairTurn, hshadow, nextOf]
  rfl

theorem trapEntry_next {s : State} {y : Warp} (ha : s.warp.alive = true) (he : s.warp.evicted = false) (hd : y.lanesDone = true)
    (hy : s.warp.causeArm.bind s.warp.select = some y) : exec (.trapEntry s.warp.id) s = .next (s.takeTrap s.warp.id) := by
  have hc : ¬(s.warp.evicted = true ∨ ¬(s.warp.causeArm.bind s.warp.select).any Warp.lanesDone = true) := by simp [he, hy, hd]
  show execTrapEntry s.warp.id s = _
  simp only [execTrapEntry, findWarp_current ha, if_neg hc]

/-- While a lane word before it is under way the cause stays pending (R183). -/
theorem trapEntry_waits {s : State} (ha : s.warp.alive = true)
    (hy : ∀ y, s.warp.causeArm.bind s.warp.select = some y → y.lanesDone = false) : exec (.trapEntry s.warp.id) s = .next s := by
  have hc : s.warp.evicted = true ∨ ¬(s.warp.causeArm.bind s.warp.select).any Warp.lanesDone = true := by
    refine .inr fun h => ?_
    obtain ⟨y, hs, hl⟩ := (Option.any_eq_true _ _).1 h
    simp [hy y hs] at hl
  show execTrapEntry s.warp.id s = _
  simp only [execTrapEntry, findWarp_current ha, if_pos hc]

/-- A warp that is not forked has one stream, which takes its cause. -/
theorem causeArm_unforked {x : Warp} {k : Cause} (hf : x.fork = none) (hw : x.wait = .none) (hk : x.pending = some k) :
    x.causeArm.bind x.select = some x := by
  have hc : x.causeArm = some 0 := by simp only [Warp.causeArm, hf, raisedNow, hw, hk]; rfl
  rw [hc, Option.bind_some, select_unforked hf]

/-! ## Messages (R192) -/

/-- A field of a record stands at the offset that the fields before it take. -/
theorem leAt_layBytes (pre post : List (Nat × Nat)) (n x : Nat) :
    leAt (layBytes (pre ++ (n, x) :: post)) (pre.map (·.1)).sum n = x % 256 ^ n := by
  have hlen : (layBytes pre).length = (pre.map (·.1)).sum := by simp [layBytes, List.length_flatMap, length_natToBytes]
  have hcat : layBytes (pre ++ (n, x) :: post) = layBytes pre ++ (natToBytes n x ++ layBytes post) := by simp [layBytes]
  rw [leAt, hcat, ← hlen, List.drop_left, List.take_left' (length_natToBytes n x), bytesToNat_natToBytes]

section
variable (kind code : Nat) (t : Ticket) (level detail : Nat) (mask : Mask) (va : Nat)

theorem ticketMsg_length : (ticketMsg kind code t level detail mask va).length = 64 := by
  simp [ticketMsg, layBytes, length_natToBytes]

theorem ticketMsg_kind : (ticketMsg kind code t level detail mask va).getD 0 0 = BitVec.ofNat 8 kind := rfl

theorem ticketMsg_code : (ticketMsg kind code t level detail mask va).getD 1 0 = BitVec.ofNat 8 code := rfl

theorem ticketMsg_launch : leAt (ticketMsg kind code t level detail mask va) 4 4 = t.launch % 2 ^ 32 :=
  leAt_layBytes [(1, kind), (1, code), (2, 0)] _ 4 t.launch

theorem ticketMsg_pc : leAt (ticketMsg kind code t level detail mask va) 16 8 = t.pc.toNat :=
  (leAt_layBytes [(1, kind), (1, code), (2, 0), (4, t.launch), (4, t.crew), (4, t.warp)] _ 8 t.pc.toNat).trans (Nat.mod_eq_of_lt t.pc.isLt)

theorem ticketMsg_detail : leAt (ticketMsg kind code t level detail mask va) 28 4 = detail % 2 ^ 32 :=
  leAt_layBytes [(1, kind), (1, code), (2, 0), (4, t.launch), (4, t.crew), (4, t.warp), (8, t.pc.toNat), (1, t.word.getD 255), (1, level), (2, 0)]
    _ 4 detail

theorem ticketMsg_mask : leAt (ticketMsg kind code t level detail mask va) 32 8 = mask.toNat :=
  (leAt_layBytes [(1, kind), (1, code), (2, 0), (4, t.launch), (4, t.crew), (4, t.warp), (8, t.pc.toNat), (1, t.word.getD 255), (1, level), (2, 0),
    (4, detail)] _ 8 mask.toNat).trans (Nat.mod_eq_of_lt mask.isLt)

theorem ticketMsg_va : leAt (ticketMsg kind code t level detail mask va) 40 8 = va % 2 ^ 64 :=
  leAt_layBytes [(1, kind), (1, code), (2, 0), (4, t.launch), (4, t.crew), (4, t.warp), (8, t.pc.toNat), (1, t.word.getD 255), (1, level), (2, 0),
    (4, detail), (8, mask.toNat)] _ 8 va
end

/-- A message that finds room stands behind those before it (R193). -/
theorem pushMsg_room {s : State} {p : Nat} (m : List Byte) (h : (s.part p).msgs.length < 1023) :
    s.pushMsg p m = s.setPart p { s.part p with msgs := (s.part p).msgs ++ [m] } := if_pos h

theorem pushMsg_msgs {s : State} {p : Nat} (m : List Byte) (h : (s.part p).msgs.length < 1023) :
    ((s.pushMsg p m).part p).msgs = (s.part p).msgs ++ [m] := by
  rw [pushMsg_room m h, State.part, State.setPart_parts, Tab.get_set_same]

@[simp] theorem pushMsg_warp (s : State) (p : Nat) (m : List Byte) : (s.pushMsg p m).warp = s.warp := by
  obtain ⟨x, f, h, -⟩ := s.pushMsg_frame p m; rw [h]

@[simp] theorem pushMsg_others (s : State) (p : Nat) (m : List Byte) : (s.pushMsg p m).others = s.others := by
  obtain ⟨x, f, h, -⟩ := s.pushMsg_frame p m; rw [h]

@[simp] theorem pushMsg_grids (s : State) (p : Nat) (m : List Byte) : (s.pushMsg p m).grids = s.grids := by
  obtain ⟨x, f, h, -⟩ := s.pushMsg_frame p m; rw [h]

@[simp] theorem pushMsg_dev (s : State) (p : Nat) (m : List Byte) : (s.pushMsg p m).dev = s.dev := by
  obtain ⟨x, f, h, -⟩ := s.pushMsg_frame p m; rw [h]

@[simp] theorem pushMsg_hostMem (s : State) (p : Nat) (m : List Byte) : (s.pushMsg p m).hostMem = s.hostMem := by
  obtain ⟨x, f, h, -⟩ := s.pushMsg_frame p m; rw [h]

/-! ## Halts (R191, R192, R196) -/

/-- The end of a warp leaves grids and partitions as they were. -/
theorem exitWarp_grids (s : State) (w : Warp) : (s.exitWarp w).grids = s.grids := (congrArg State.grids (s.exitWarp_frame w) :)

theorem exitWarp_parts (s : State) (w : Warp) : (s.exitWarp w).parts = s.parts := (congrArg State.parts (s.exitWarp_frame w) :)

theorem exitWarp_others (s : State) (w : Warp) : ∀ z ∈ (s.exitWarp w).others, z ∈ s.others := by
  intro z hz
  obtain ⟨cs, h⟩ := (s.retire w.id).crewAfter_frame w.ident.grid w.ident.crew
  rw [State.exitWarp, h] at hz
  exact (List.mem_filter.1 ((s.retire_others w.id) ▸ hz)).1

theorem exitWarp_dead {s : State} {w : Warp} (h : s.warp.id = w.id) : (s.exitWarp w).warp.alive = false := by
  rw [State.exitWarp, State.crewAfter_warp, State.retire_warp, if_pos h]

/-- What a halt of the current warp comes to, with its message where there is room for it. -/
theorem haltAt_spec {s : State} {w : Warp} (h : s.warp.id = w.id) (code detail : Nat) (mask : Mask) (va : Nat) (t : Ticket) :
    let u := s.haltAt w code detail mask va t
    u.warp.alive = false ∧ (∀ z ∈ u.others, z ∈ s.others) ∧ (∀ g ∈ u.grids, g.id = w.ident.grid → g.halted = true) ∧
      ((s.part w.ident.part).msgs.length < 1023 →
        (u.part w.ident.part).msgs = (s.part w.ident.part).msgs ++ [ticketMsg 1 code t w.level.val detail mask va]) := by
  refine ⟨?_, fun z hz => ?_, fun g hg hid => ?_, fun hroom => ?_⟩
  · exact exitWarp_dead (by simpa using h)
  · simpa using exitWarp_others _ _ z hz
  · rw [State.haltAt, exitWarp_grids] at hg
    obtain ⟨x, -, rfl⟩ := List.mem_map.1 hg
    split at hid
    · next hx => rw [if_pos hx]
    · next hx => exact absurd hid hx
  · rw [State.haltAt, State.part, exitWarp_parts]
    show (((s.pushMsg w.ident.part _).modPart w.ident.part (·.abandon w.id)).part w.ident.part).msgs = _
    rw [part_modPart_same]
    exact pushMsg_msgs _ hroom

/-- The DETAILs that a warp-fatal event of no word carries (R181). -/
theorem warpHalt_next {s : State} (ha : s.warp.alive = true) {f : Fatal} {info : FatalInfo} (hl : Fatal.lists f info.detail.toNat = true) :
    exec (.warpHalt s.warp.id f info) s =
      .next (s.haltAt s.warp (Fatal.code f) info.detail.toNat info.mask info.va.toNat s.warp.ticket) := by
  show execWarpHalt s.warp.id f info s = _
  simp only [execWarpHalt, findWarp_current ha, hl, if_true]

/-! ## Register fills (R16, R17) -/

theorem filling_id {x y : Warp} {l : List Nat} (h : x.filling = some (y, l)) : y.id = x.id := by
  unfold Warp.filling at h
  split at h
  · cases h; rfl
  · split at h <;> cases h
    exact swapArm_id x

theorem filling_current {x : Warp} {l : List Nat} (h : x.wait = .regfile l) : x.filling = some (x, l) := by simp only [Warp.filling, h]

/-- After its fill a word finds every register that it names resident. -/
theorem mem_fill (w : Warp) {l : List Nat} {r : Nat} (hr : r ∈ l) : r ∈ (w.fill l).resident := by
  unfold Warp.fill
  dsimp only
  by_cases h : r ∈ w.resident
  · refine List.mem_append_left _ (List.mem_filter.2 ⟨h, ?_⟩)
    have hkeep : r ∉ w.resident.filter (fun r => !l.contains r) := by simp [hr]
    simpa using fun hv => hkeep (List.mem_of_mem_take hv)
  · exact List.mem_append_right _ (List.mem_filter.2 ⟨hr, by simpa using h⟩)

/-- A warp with the registers filled that its waiting stream names. -/
def filled (w : Warp) : Warp :=
  match w.filling with
  | some (v, l) => v.fill l
  | none => w

theorem filled_eq {w y : Warp} {l : List Nat} (h : w.filling = some (y, l)) : filled w = y.fill l := by rw [filled, h]

theorem regfileFill_next {s : State} {y : Warp} {l : List Nat} (ha : s.warp.alive = true) (hf : s.warp.filling = some (y, l)) :
    exec (.regfileFill s.warp.id false) s = .next (s.modPair s.warp.id filled) := by
  show execRegfileFill s.warp.id false s = _
  simp only [execRegfileFill, findWarp_current ha, Option.bind_some, hf, Bool.false_eq_true, if_false]
  rfl

theorem regfileFill_poisoned {s : State} {y : Warp} {l : List Nat} (ha : s.warp.alive = true) (hf : s.warp.filling = some (y, l)) :
    exec (.regfileFill s.warp.id true) s = .next (s.haltAt y cPoison 2 0 0 y.ticket) := by
  show execRegfileFill s.warp.id true s = _
  simp only [execRegfileFill, findWarp_current ha, Option.bind_some, hf, if_true]

/-! ## Late errors (R195) -/

/-- An uncorrectable write error changes poison and retirement scores alone. -/
theorem spoil_cases (s : State) (p va : Nat) :
    ∃ d h sc ds, s.spoil p va = { s with dev := d, hostMem := h, scores := sc, dirtyScores := ds } := by
  unfold State.spoil
  cases s.xlate p va with
  | ok t =>
    obtain ⟨d, h, ht, -⟩ := s.placeTaint_cases t.place t.pa 1
    dsimp only
    rw [ht]
    split
    · unfold State.scoreError
      split
      · exact ⟨d, h, s.scores, s.dirtyScores, rfl⟩
      · exact ⟨d, h, _, _, rfl⟩
    · exact ⟨d, h, s.scores, s.dirtyScores, rfl⟩
  | miss => exact ⟨s.dev, s.hostMem, s.scores, s.dirtyScores, rfl⟩
  | noncanon => exact ⟨s.dev, s.hostMem, s.scores, s.dirtyScores, rfl⟩

/-- A code and DETAIL that R181 lists for the accesses of a warp. -/
theorem lateError_listed {code : Byte} {detail : W32}
    (h : (code = 0x02 ∧ ∃ lane < 64, ∃ kind < 8, detail.toNat = 256 * lane + kind) ∨
      ((code = 0x03 ∨ code = 0x04) ∧ ∃ lane < 64, detail.toNat = 256 * lane) ∨ code = 0x05 ∨
      (code = 0x20 ∧ 1 ≤ detail.toNat ∧ detail.toNat ≤ 4)) :
    accessCodes.contains code = true ∧ detailListed code detail.toNat = true := by
  rcases h with ⟨rfl, lane, hl, kind, hk, hd⟩ | ⟨hc, lane, hl, hd⟩ | rfl | ⟨rfl, h1, h4⟩
  · refine ⟨rfl, ?_⟩
    show (decide (detail.toNat / 256 < 64) && decide (detail.toNat % 256 < 8)) = true
    simp only [Bool.and_eq_true, decide_eq_true_eq]
    omega
  · have hlane : (decide (detail.toNat / 256 < 64) && decide (detail.toNat % 256 < 1)) = true := by
      simp only [Bool.and_eq_true, decide_eq_true_eq]
      omega
    obtain rfl | rfl := hc <;> exact ⟨rfl, hlane⟩
  · exact ⟨rfl, rfl⟩
  · exact ⟨rfl, decide_eq_true ⟨h1, h4⟩⟩

/-- A late error sends its message, in the state that its poison leaves. -/
theorem lateError_next {s : State} {k : Ticket} {code : Byte} {detail : W32} {mask : Mask} {va : VA} (hp : k.part < 32)
    (hl : accessCodes.contains code = true ∧ detailListed code detail.toNat = true) :
    ∃ u : State, exec (.lateError k code detail mask va) s = .next (u.pushMsg k.part (ticketMsg 2 code.toNat k 0 detail.toNat mask va.toNat)) ∧
      u.warp = s.warp ∧ u.others = s.others ∧ u.parts = s.parts ∧ (code ≠ 0x20 → u = s) := by
  have hc : k.part < 32 ∧ accessCodes.contains code = true ∧ detailListed code detail.toNat = true := ⟨hp, hl⟩
  refine ⟨if code.toNat = cPoison then s.spoil k.part va.toNat else s, ?_, ?_, ?_, ?_, fun hn => if_neg fun h => hn (BitVec.eq_of_toNat_eq h)⟩
  · show execLateError k code detail mask va s = _
    simp only [execLateError, if_pos hc, State.lateError]
  all_goals
    obtain ⟨d, h, sc, ds, hs⟩ := spoil_cases s k.part va.toNat
    rw [hs]
    split <;> rfl

/-! ## Evictions and wakes (R219, R220, R235) -/

theorem warpEviction_next {s : State} {c : Crew} (ha : s.warp.alive = true) (hc : s.crewOfWarp s.warp = some c) (hm : c.state = .marked)
    (hb : s.warp.blocked = true) (he : s.warp.evicted = false) (hs : ∀ y ∈ s.slips, y.warp ≠ s.warp.id ∧ y.twin ≠ some s.warp.id) :
    exec (.warpEviction s.warp.id) s = .next (s.modPair s.warp.id fun y => { y with evicted := true }) := by
  have hany : s.slips.any (fun y => y.warp == s.warp.id || y.twin == some s.warp.id) = false := by
    simp only [List.any_eq_false, Bool.or_eq_true, beq_iff_eq, not_or]
    exact hs
  have hcond : c.state = .marked ∧ s.warp.blocked = true ∧ ¬s.warp.evicted = true ∧
      ¬s.slips.any (fun y => y.warp == s.warp.id || y.twin == some s.warp.id) = true := ⟨hm, hb, by simp [he], by simp [hany]⟩
  show execWarpEviction s.warp.id s = _
  simp only [execWarpEviction, findWarp_current ha, hc, if_pos hcond]

theorem warpEviction_unmarked {s : State} {c : Crew} (ha : s.warp.alive = true) (hc : s.crewOfWarp s.warp = some c) (hm : c.state ≠ .marked) :
    exec (.warpEviction s.warp.id) s = .next s := by
  show execWarpEviction s.warp.id s = _
  simp only [execWarpEviction, findWarp_current ha, hc, hm, false_and, if_false]

theorem warpWake_next {s : State} {c : Crew} (ha : s.warp.alive = true) (hc : s.crewOfWarp s.warp = some c) (he : s.warp.evicted = true)
    (hw : s.wakeMet s.warp = true) (hs : (s.part s.warp.ident.part).stop = none) (hk : c.core ≠ none) (hp : c.state = .placed) :
    exec (.warpWake s.warp.id) s = .next (s.modPair s.warp.id fun y => { y with evicted := false }) := by
  have hcrew : (s.crewOfWarp s.warp).any (fun c => c.core.isSome && c.state == .placed) = true := by
    simp [hc, hp, Option.isSome_iff_ne_none.2 hk]
  have hcond : s.warp.evicted = true ∧ s.wakeMet s.warp = true ∧ (s.part s.warp.ident.part).stop.isNone = true ∧
      (s.crewOfWarp s.warp).any (fun c => c.core.isSome && c.state == .placed) = true := ⟨he, hw, by simp [hs], hcrew⟩
  show execWarpWake s.warp.id s = _
  simp only [execWarpWake, findWarp_current ha, if_pos hcond]

/-- Settles O52: each event by the state that it answers for the current warp, and a message by the fields of its record. -/
theorem warpEvents : Obligations.WarpEvents := by
  unfold Obligations.WarpEvents
  refine ⟨?_, ?_⟩
  · rintro s _ c ha - rfl
    refine ⟨?_, ?_, ?_, ?_, ?_, ?_, ?_⟩
    · intro y k hs hp he hd hy hk hya hw
      rw [trapEntry_next ha he hd hy, takeTrap_current hs hp hy hk hya hw]
    · exact fun k hf hw hk => causeArm_unforked hf hw hk
    · exact fun hy => trapEntry_waits ha hy
    · intro f detail mask va hdetail
      have hl : Fatal.lists f detail.toNat = true := by
        cases f with
        | poison => obtain rfl | rfl := hdetail <;> rfl
        | sdc => subst hdetail; rfl
        | drain => subst hdetail; rfl
      obtain ⟨hdead, hothers, hgrids, hmsgs⟩ := haltAt_spec (s := s) rfl (Fatal.code f) detail.toNat mask va.toNat s.warp.ticket
      refine ⟨_, warpHalt_next (info := ⟨detail, mask, va⟩) ha hl, hdead, hothers, hgrids, fun hroom => ⟨_, hmsgs hroom, ?_⟩⟩
      refine ⟨ticketMsg_length .., ticketMsg_kind .., (ticketMsg_code ..).trans (by cases f <;> rfl), ?_, ticketMsg_mask .., ?_⟩
      · rw [ticketMsg_detail, Nat.mod_eq_of_lt detail.isLt]
      · rw [ticketMsg_va, Nat.mod_eq_of_lt va.isLt]
    · intro y l hf
      refine ⟨⟨_, regfileFill_next ha hf, ?_⟩, ⟨_, regfileFill_poisoned ha hf, ?_⟩⟩
      · rw [modPair_current]
        dsimp only
        rw [filled_eq hf]
        exact ⟨rfl, fun r hr => mem_fill y hr, rfl, rfl⟩
      · exact (haltAt_spec (filling_id hf).symm _ _ _ _ _).1
    · exact fun l h => filling_current h
    · intro hc
      refine ⟨fun hm hb he hs => ?_, fun hm => warpEviction_unmarked ha hc hm, fun he hw hs hk hp => ?_⟩
      · rw [warpEviction_next ha hc hm hb he hs, modPair_current]
      · rw [warpWake_next ha hc he hw hs hk hp, modPair_current]
  · intro s k code detail mask va hp hcode
    obtain ⟨u, hu, hwarp, hothers, hparts, hmem⟩ := lateError_next (s := s) (mask := mask) (va := va) hp (lateError_listed hcode)
    have hpart : u.part k.part = s.part k.part := by rw [State.part, hparts]; rfl
    refine ⟨_, hu, ?_, ?_, fun hn => ?_, fun hroom => ?_⟩
    · rw [pushMsg_warp, hwarp]
    · rw [pushMsg_others, hothers]
    · rw [pushMsg_dev, pushMsg_hostMem, hmem hn]; exact ⟨rfl, rfl⟩
    · rw [← hpart] at hroom ⊢
      refine ⟨_, pushMsg_msgs _ hroom, ticketMsg_length .., ticketMsg_kind .., ?_, ticketMsg_launch .., ticketMsg_pc .., ?_, ticketMsg_mask .., ?_⟩
      · rw [ticketMsg_code, BitVec.ofNat_toNat, BitVec.setWidth_eq]
      · rw [ticketMsg_detail, Nat.mod_eq_of_lt detail.isLt]
      · rw [ticketMsg_va, Nat.mod_eq_of_lt va.isLt]

end Sys2Proof
end

section
/-! SUPPORT. A lane word that traps where no handler stands, and the refutations of O16 and O17: the warp that halts keeps what it had in flight, where the
statements ask that a word that is done has nothing in flight. -/

namespace Sys2Proof

open Sys2Proof.Machine

/-! ## What a halt leaves of the warp -/

/-- `exit` changes of the current warp whether it lives, and nothing else. -/
theorem exitWarp_inFlight (s : State) (w : Warp) : (s.exitWarp w).warp.inFlight = s.warp.inFlight := by
  rw [State.exitWarp, State.crewAfter_warp, State.retire_warp]
  split <;> rfl

theorem halt_inFlight (s : State) (code detail : Nat) (mask : Mask) (va : Nat) : (s.halt code detail mask va).warp.inFlight = s.warp.inFlight := by
  rw [State.halt, State.haltAt, exitWarp_inFlight]
  exact congrArg Warp.inFlight (pushMsg_warp _ _ _)

/-- Without a fork and without a handler a trap at level 0 halts the warp (R183, R191), which keeps what it had in flight. -/
theorem trap_inFlight_of_no_handler {u : State} (hf : u.warp.fork = none) (hl : u.warp.level = 0) (hh : u.warp.h1 = 0) (k : Cause) :
    (u.trap k).warp.inFlight = u.warp.inFlight := by
  have hheld : u.warp.trapHeld = false := by rw [Warp.trapHeld, hf]; rfl
  rcases u.trap_cases k with ⟨h, -⟩ | ⟨-, ⟨h, -⟩ | ⟨-, -, h⟩ | ⟨-, h, -⟩⟩
  · simp [hheld] at h
  · simp [hl] at h
  · rw [h, halt_inFlight, State.itemAt_warp]
  · exact absurd ⟨hl, hh⟩ h

/-! ## Words that find a word in flight -/

/-- Lanes that all raise the same flags raise them together. -/
theorem raisedBy_of_const {act : Mask} {op : Nat → W64 × Flags} {f : Flags} (hact : ∃ l < 64, act.getLsbD l = true)
    (hop : ∀ l < 64, (op l).2 = f) : raisedBy act op f := by
  obtain ⟨l, hl, ha⟩ := hact
  exact fun k => ⟨fun h => ⟨l, hl, ha, by rwa [hop l hl]⟩, fun ⟨j, hj, _, h⟩ => by rwa [hop j hj] at h⟩

/-- A word that halts its warp on an enabled flag, and leaves it with a word in flight, does not trap as R125 is stated: no state in which the word is
done, with nothing in flight, halts so. -/
theorem not_laneTraps_of_inFlight {i : Instr} {s t : State} {b : Block} {h : LaneHdr} {d : DestSpec} {n : Nat} {op : Nat → W64 × Flags}
    {f : Flags} {k : Nat} (hf : s.warp.fork = none) (hl : s.warp.level = 0) (hh : s.warp.h1 = 0) (he : exec i s = .next t)
    (ht : t.warp.inFlight = true) (hr : raisedBy (activeLanes s.warp b h) op f) (hk : (f &&& s.warp.fpxEn).getLsbD k = true)
    (hlow : ∀ j < k, (f &&& s.warp.fpxEn).getLsbD j = false) : ¬ laneTraps i s b h d n op := by
  intro htraps
  obtain ⟨u, hwrites, -, mask, -, hu⟩ := htraps f k hr hk hlow
  obtain ⟨-, -, -, -, ⟨hframe, -, hflight, -⟩, -⟩ := hwrites
  have hfork : u.warp.fork = none := (congrArg Warp.fork hframe : _).trans hf
  have hlevel : u.warp.level = 0 := (congrArg Warp.level hframe : _).trans hl
  have hh1 : u.warp.h1 = 0 := (congrArg Warp.h1 hframe : _).trans hh
  have htu : t = u.trap _ := Host.Outcome.next.inj (he.symm.trans hu)
  rw [htu, trap_inFlight_of_no_handler hfork hlevel hh1, hflight] at ht
  cases ht

/-! ## The counterexample -/

/-- A block of one word under the full mask, the header that names `v0` alone, and a warp without a handler in that block: a word is on its way, INV is
enabled, and every lane register holds a signalling NaN. -/
def nanBlock : Block :=
  ⟨0, 0, 0, 1, 0, BitVec.allOnes 64, Vector.replicate 64 0, Vector.replicate 4 (Vector.replicate 64 0), 0⟩
def nanHdr : LaneHdr := ⟨false, 0, .v 0, .v 0, .v 0, ⟨0, 0, false, false, false⟩, none, 0, 0, false, 0⟩
def nanState : State :=
  { State.reset with
    warp := { Warp.blank with
      alive := true, inFlight := true, fpxEn := 1, block := some nanBlock, v := Vector.replicate 256 (Vector.replicate 64 0x7F800001) } }

theorem nanState_active : ∃ l < 64, (activeLanes nanState.warp nanBlock nanHdr).getLsbD l = true := ⟨0, by decide, by decide +kernel⟩

/-- The words of the counterexample: the smaller of two values, in a lane and over all lanes. -/
theorem fmin_nanReady : laneReady (.fmin nanHdr .f32 false) nanState nanBlock nanHdr :=
  ⟨rfl, by decide +kernel, _, _, rfl, by decide +kernel, by decide +kernel, by decide +kernel⟩
theorem xred_nanReady : laneReady (.xred nanHdr .f32 .min false) nanState nanBlock nanHdr :=
  ⟨rfl, by decide +kernel, _, _, rfl, by decide +kernel, by decide +kernel, by decide +kernel⟩

/-- In the counterexample a word whose lanes all raise INV does not complete as stated. -/
theorem not_laneFloats_nanState {i : Instr} {t : State} {d : DestSpec} {n : Nat} {op : Nat → W64 × Flags} (he : exec i nanState = .next t)
    (ht : t.warp.inFlight = true) (hop : ∀ l < 64, (op l).2 = 1) : ¬ laneFloats i nanState nanBlock nanHdr d n op :=
  fun h => not_laneTraps_of_inFlight (k := 0) rfl rfl rfl he ht (raisedBy_of_const nanState_active hop) (by decide +kernel)
    (fun j hj => absurd hj (Nat.not_lt_zero j)) h.2

/-- Refutes O17: `fmin` of signalling NaNs under an enabled INV, in a warp without a handler that has a word in flight already. The word halts the warp as
it stands, in flight, where R125 as stated asks for nothing in flight. -/
theorem not_laneFloat : ¬ Obligations.LaneFloat := by
  unfold Obligations.LaneFloat
  intro h
  obtain ⟨-, -, -, -, hmin, -⟩ := h nanState nanBlock nanHdr .f32 .rne false false false .eq .f16 .e4m3
    ⟨.flt .f32, .int .i32, .rne, false, false, 0, 0⟩
  exact not_laneFloats_nanState rfl (by decide +kernel) (by decide +kernel) (hmin fmin_nanReady)

/-- Refutes O16: `xred.min` of signalling NaNs in the same state. -/
theorem not_laneReduce : ¬ Obligations.LaneReduce := by
  unfold Obligations.LaneReduce
  intro h
  obtain ⟨hred, -⟩ := h nanState nanBlock nanHdr .f32 .min false false
  exact not_laneFloats_nanState rfl (by decide +kernel) (by decide +kernel) (hred xred_nanReady)

end Sys2Proof
end

section
/-! SUPPORT. Exact values and their rounding (R43, R46, R47): what `Dy` adds and multiplies to as rational numbers, and which multiple of a unit `roundsUp`
picks. -/

namespace Sys2Proof.Machine

/-! ## Exact values -/

theorem two_pow_toNat {d e : ℤ} (h : e ≤ d) : (2 : ℚ) ^ (d - e).toNat * 2 ^ e = 2 ^ d := by
  rw [← zpow_natCast, ← zpow_add₀ two_ne_zero, Int.toNat_of_nonneg (by omega), sub_add_cancel]

/-- The exact value that a `Dy` stands for. -/
def Dy.rat (x : Dy) : ℚ := ratOf (.fin x.neg x.m x.e)

theorem ratOf_fin (n : Bool) (m : Nat) (e : Int) : ratOf (.fin n m e) = (if n then -1 else 1) * (m * (2 : ℚ) ^ e) := rfl

theorem ratOf_fin_eq_zero {n : Bool} {m : Nat} {e : Int} : ratOf (.fin n m e) = 0 ↔ m = 0 := by
  cases n <;> simp [ratOf_fin, zpow_ne_zero]

theorem abs_ratOf_fin (n : Bool) (m : Nat) (e : Int) : |ratOf (.fin n m e)| = m * (2 : ℚ) ^ e := by
  have h : (0 : ℚ) ≤ m * 2 ^ e := by positivity
  cases n <;> simp [ratOf_fin, abs_of_nonneg h]

theorem Dy.rat_eq_zero {x : Dy} : x.rat = 0 ↔ x.m = 0 := ratOf_fin_eq_zero

theorem Dy.units_rat (x : Dy) {e : ℤ} (h : e ≤ x.e) : (x.units e : ℚ) * 2 ^ e = x.rat := by
  rw [Dy.rat, ratOf_fin, ← two_pow_toNat h, Dy.units]
  push_cast
  split <;> ring

theorem Dy.rat_mul (x y : Dy) : (x.mul y).rat = x.rat * y.rat := by
  simp only [Dy.rat, ratOf_fin, Dy.mul, Nat.cast_mul, zpow_add₀ (two_ne_zero (α := ℚ))]
  cases x.neg <;> cases y.neg <;> simp <;> ring

/-- The signed sum of the significands of two values, in the smaller unit. -/
def Dy.total (x y : Dy) : Int := x.units (min x.e y.e) + y.units (min x.e y.e)

theorem Dy.total_rat (x y : Dy) : (x.total y : ℚ) * 2 ^ min x.e y.e = x.rat + y.rat := by
  rw [Dy.total, Int.cast_add, add_mul, x.units_rat (min_le_left _ _), y.units_rat (min_le_right _ _)]

theorem Dy.total_eq_zero {x y : Dy} : x.total y = 0 ↔ x.rat + y.rat = 0 := by
  rw [← Dy.total_rat]
  simp [zpow_ne_zero]

theorem Dy.add_of_zero {x y : Dy} (mode : RMode) (h : x.total y = 0) :
    Dy.add mode x y = ⟨if x.neg = y.neg then x.neg else mode == .rdn, 0, min x.e y.e⟩ := if_pos h

theorem Dy.add_of_ne {x y : Dy} (mode : RMode) (h : x.total y ≠ 0) :
    Dy.add mode x y = ⟨decide (x.total y < 0), (x.total y).natAbs, min x.e y.e⟩ := if_neg h

theorem Dy.rat_add (mode : RMode) (x y : Dy) : (Dy.add mode x y).rat = x.rat + y.rat := by
  rw [← Dy.total_rat]
  by_cases h : x.total y = 0
  · rw [Dy.add_of_zero mode h, h]; simp [Dy.rat_eq_zero]
  · rw [Dy.add_of_ne mode h, Dy.rat, ratOf_fin, Nat.cast_natAbs]
    by_cases hn : x.total y < 0
    · simp [hn, abs_of_neg hn]
    · simp [hn, abs_of_nonneg (not_lt.1 hn)]

/-- The sign of a zero sum (R43). -/
theorem Dy.neg_add_of_zero {mode : RMode} {x y : Dy} (h : x.rat + y.rat = 0) :
    (Dy.add mode x y).neg = if x.neg = y.neg then x.neg else mode == .rdn := by
  rw [Dy.add_of_zero mode (Dy.total_eq_zero.2 h)]

theorem Dy.rat_nonneg {x : Dy} (h : x.neg = false) : 0 ≤ x.rat := by
  rw [Dy.rat, ratOf_fin, h]; simp only [Bool.false_eq_true, if_false, one_mul]; positivity

theorem Dy.rat_nonpos {x : Dy} (h : x.neg = true) : x.rat ≤ 0 := by
  have h0 : (0 : ℚ) ≤ x.m * 2 ^ x.e := by positivity
  rw [Dy.rat, ratOf_fin, h]; simpa using h0

/-- Terms of one sign add up to that sign. -/
theorem Dy.neg_add_of_same {mode : RMode} {x y : Dy} {n : Bool} (hx : x.neg = n) (hy : y.neg = n) : (Dy.add mode x y).neg = n := by
  by_cases h : x.total y = 0
  · rw [Dy.add_of_zero mode h, hx, hy]; exact if_pos rfl
  · rw [Dy.add_of_ne mode h]
    have hp : (0 : ℚ) < 2 ^ min x.e y.e := by positivity
    have hs := Dy.total_rat x y
    cases n with
    | false =>
      have : (0 : ℚ) ≤ x.total y := by
        by_contra hc
        have := mul_neg_of_neg_of_pos (not_le.1 hc) hp
        linarith [Dy.rat_nonneg hx, Dy.rat_nonneg hy]
      exact decide_eq_false (not_lt.2 (by exact_mod_cast this))
    | true =>
      have : (x.total y : ℚ) ≤ 0 := by
        by_contra hc
        have := mul_pos (not_le.1 hc) hp
        linarith [Dy.rat_nonpos hx, Dy.rat_nonpos hy]
      have : x.total y ≤ 0 := by exact_mod_cast this
      exact decide_eq_true (by omega)

/-- A zero sum with terms of both signs is −0 only when rounding down, and stays so whatever is added to make zero again (R43). -/
theorem Dy.neg_add_of_mixed {mode : RMode} {x y : Dy} (hx : x.m = 0 → x.neg = (mode == .rdn)) (h : (Dy.add mode x y).m = 0) :
    (Dy.add mode x y).neg = (mode == .rdn) := by
  have hsum : x.rat + y.rat = 0 := (Dy.rat_add mode x y).symm.trans (Dy.rat_eq_zero.2 h)
  rw [Dy.neg_add_of_zero hsum]
  split
  · next hxy =>
    refine hx (Dy.rat_eq_zero.1 ?_)
    cases hn : x.neg with
    | false => linarith [Dy.rat_nonneg hn, Dy.rat_nonneg (hxy ▸ hn : y.neg = false)]
    | true => linarith [Dy.rat_nonpos hn, Dy.rat_nonpos (hxy ▸ hn : y.neg = true)]
  · rfl

theorem Dy.neg_add_of_differ {mode : RMode} {x y : Dy} (hxy : x.neg ≠ y.neg) (h : (Dy.add mode x y).m = 0) :
    (Dy.add mode x y).neg = (mode == .rdn) := by
  have hsum : x.rat + y.rat = 0 := (Dy.rat_add mode x y).symm.trans (Dy.rat_eq_zero.2 h)
  rw [Dy.neg_add_of_zero hsum, if_neg hxy]

/-! ## Sums of many terms -/

theorem Dy.rat_foldl_add (mode : RMode) (l : List Dy) : ∀ x : Dy, (l.foldl (Dy.add mode) x).rat = x.rat + (l.map Dy.rat).sum := by
  induction l with
  | nil => intro x; simp
  | cons y l ih => intro x; rw [List.foldl_cons, ih, Dy.rat_add, List.map_cons, List.sum_cons, add_assoc]

theorem Dy.neg_foldl_add_of_same (mode : RMode) {n : Bool} (l : List Dy) :
    ∀ x : Dy, x.neg = n → (∀ y ∈ l, y.neg = n) → (l.foldl (Dy.add mode) x).neg = n := by
  induction l with
  | nil => exact fun x hx _ => hx
  | cons y l ih =>
    exact fun x hx h => ih _ (Dy.neg_add_of_same hx (h y List.mem_cons_self)) fun z hz => h z (List.mem_cons_of_mem y hz)

theorem Dy.neg_foldl_add_of_mixed (mode : RMode) (l : List Dy) :
    ∀ x : Dy, (x.m = 0 → x.neg = (mode == .rdn)) ∨ (∃ y ∈ l, y.neg ≠ x.neg) → (l.foldl (Dy.add mode) x).m = 0 →
      (l.foldl (Dy.add mode) x).neg = (mode == .rdn) := by
  induction l with
  | nil => rintro x (hx | ⟨y, hy, -⟩) h; exacts [hx h, absurd hy List.not_mem_nil]
  | cons y l ih =>
    intro x hx
    refine ih (Dy.add mode x y) ?_
    rcases hx with hx | ⟨z, hz, hne⟩
    · exact .inl (Dy.neg_add_of_mixed hx)
    · by_cases hy : y.neg = x.neg
      · rcases List.mem_cons.1 hz with rfl | hz
        · exact absurd hy hne
        · exact .inr ⟨z, hz, by rwa [Dy.neg_add_of_same rfl hy]⟩
      · exact .inl (Dy.neg_add_of_differ (Ne.symm hy))

/-! ## What is delivered of an exact value -/

theorem Dy.round_zero {x : Dy} (h : x.m = 0) (f : Fmt) (rm : RMode) (draw : Nat) : x.round f rm draw = (signBit f x.neg, 0) := if_pos h

theorem Dy.round_roundsTo {x : Dy} (h : x.rat ≠ 0) (f : Fmt) (rm : RMode) (draw : Nat) : roundsTo f rm draw x.rat (x.round f rm draw) :=
  ⟨x.neg, x.m, x.e, fun hm => h (Dy.rat_eq_zero.2 hm), rfl, rfl⟩

/-- An exact value is delivered rounded, a zero with the sign it has. -/
theorem Dy.round_delivers {x : Dy} {n : Bool} (h : x.m = 0 → x.neg = n) (f : Fmt) (rm : RMode) (draw : Nat) :
    delivers f rm draw n x.rat (x.round f rm draw) := by
  refine ⟨fun h0 => ?_, fun h0 => Dy.round_roundsTo h0 f rm draw⟩
  have hm := Dy.rat_eq_zero.1 h0
  rw [Dy.round_zero hm, h hm]

/-! ## The neighbour that a mode picks -/

/-- The multiple of 2^q that the mode picks for m × 2^e. -/
def nearUnits (mode : RMode) (draw : Nat) (neg : Bool) (m : Nat) (e q : Int) : Nat :=
  if roundsUp mode draw neg (unitsOf m e q).1 (unitsOf m e q).2.1 (unitsOf m e q).2.2 then (unitsOf m e q).1 + 1 else (unitsOf m e q).1

theorem unitsOf_rest_lt (m : Nat) (e q : Int) : (unitsOf m e q).2.1 < 2 ^ (unitsOf m e q).2.2 := by
  unfold unitsOf
  split
  · exact Nat.one_pos
  · exact Nat.mod_lt _ (Nat.two_pow_pos _)

theorem unitsOf_rat (m : Nat) (e q : Int) :
    ((unitsOf m e q).1 + (unitsOf m e q).2.1 / 2 ^ (unitsOf m e q).2.2 : ℚ) * 2 ^ q = m * 2 ^ e := by
  unfold unitsOf
  split
  · next h => simp [mul_assoc, two_pow_toNat h]
  · next h =>
    have hm : (m : ℚ) = 2 ^ (q - e).toNat * (m / 2 ^ (q - e).toNat : Nat) + (m % 2 ^ (q - e).toNat : Nat) := by
      exact_mod_cast (Nat.div_add_mod m (2 ^ (q - e).toNat)).symm
    have hp : (2 : ℚ) ^ (q - e).toNat ≠ 0 := by positivity
    rw [← two_pow_toNat (le_of_not_ge h), ← mul_assoc]
    congr 1
    conv_rhs => rw [hm]
    field_simp

/-- The neighbour below or above `a` whole units and r / 2^k of one, by `roundsUp`. -/
theorem picks_roundsUp (rm : RMode) (draw : Nat) (neg : Bool) (a r k : Nat) {u : ℚ} (hu : 0 < u) (hr : r < 2 ^ k) :
    picks rm draw neg ((a + r / 2 ^ k) * u) u (if roundsUp rm draw neg a r k then a + 1 else a) := by
  have hk : (0 : ℚ) < 2 ^ k := by positivity
  have hfloor : ⌊(r / 2 ^ k : ℚ) * 2 ^ 32⌋ = ((r * 2 ^ 32 / 2 ^ k : Nat) : ℤ) := by
    have := Rat.floor_intCast_div_natCast ((r * 2 ^ 32 : Nat) : ℤ) (2 ^ k)
    push_cast at this ⊢
    rw [← this, div_mul_eq_mul_div]; norm_num
  set t : ℚ := r / 2 ^ k with ht
  have ht0 : 0 ≤ t := by positivity
  have ht1 : t < 1 := by rw [ht, div_lt_one hk]; exact_mod_cast hr
  have hfract : Int.fract ((a + t) * u / u) = t := by
    rw [mul_div_assoc, div_self hu.ne', mul_one, Int.fract_natCast_add, Int.fract_eq_self.2 ⟨ht0, ht1⟩]
  unfold picks
  rw [hfract, hfloor]
  by_cases hr0 : r = 0
  · have : t = 0 := by rw [ht, hr0]; simp
    simp [roundsUp, hr0, this, hu, hu.le, hu.ne]
  · have htp : 0 < t := by rw [ht]; have : 0 < r := Nat.pos_of_ne_zero hr0; positivity
    have hup : 0 < (1 - t) * u := mul_pos (by linarith) hu
    have hdown : 0 < t * u := mul_pos htp hu
    have hyu : ((a + 1 : Nat) : ℚ) * u - (a + t) * u = (1 - t) * u := by push_cast; ring
    have hyd : (a : ℚ) * u - (a + t) * u = -(t * u) := by ring
    have hhalf : 2 * r < 2 ^ k ↔ t < 1 / 2 := by
      rw [ht, div_lt_div_iff₀ hk two_pos, one_mul, mul_comm]; exact_mod_cast Iff.rfl
    have hhalf' : 2 ^ k < 2 * r ↔ 1 / 2 < t := by
      rw [ht, div_lt_div_iff₀ two_pos hk, one_mul, mul_comm (r : ℚ)]; exact_mod_cast Iff.rfl
    cases hb : roundsUp rm draw neg a r k with
    | true =>
      simp only [if_true]
      rw [hyu, abs_of_pos hup]
      refine ⟨by linarith, by linarith, ?_, ?_, fun _ => by linarith, ?_⟩
      · rintro rfl
        simp only [roundsUp, hr0, if_false, Bool.or_eq_true, decide_eq_true_eq, Bool.and_eq_true, beq_iff_eq] at hb
        have h1 : 1 / 2 ≤ t := by
          rcases hb with hb | ⟨hb, -⟩
          · exact (hhalf'.1 hb).le
          · exact not_lt.1 fun h => absurd (hhalf.2 h) (by omega)
        refine ⟨by nlinarith, fun he => ?_⟩
        have h2 : ¬ 1 / 2 < t := fun h => by nlinarith
        rcases hb with hb | ⟨-, hb⟩
        · exact absurd (hhalf'.1 hb) h2
        · omega
      · rintro (rfl | ⟨rfl, rfl⟩ | ⟨rfl, rfl⟩) <;> simp [roundsUp, hr0] at hb
      · rintro rfl
        simp only [roundsUp, hr0, if_false, decide_eq_true_eq] at hb
        exact ⟨fun _ => by exact_mod_cast hb, fun _ => by linarith⟩
    | false =>
      simp only [Bool.false_eq_true, if_false]
      rw [hyd, abs_neg, abs_of_pos hdown]
      refine ⟨by linarith, by linarith, ?_, fun _ => by linarith, ?_, ?_⟩
      · rintro rfl
        simp only [roundsUp, hr0, if_false, Bool.or_eq_false_iff, decide_eq_false_iff_not, Bool.and_eq_false_iff, beq_eq_false_iff_ne] at hb
        obtain ⟨hb, hb'⟩ := hb
        have h1 : t ≤ 1 / 2 := not_lt.1 fun h => hb (hhalf'.2 h)
        refine ⟨by nlinarith, fun he => ?_⟩
        have h2 : ¬ t < 1 / 2 := fun h => by nlinarith
        rcases hb' with hb' | hb'
        · exact absurd (by have := mt hhalf.1 h2; omega) hb'
        · omega
      · rintro (⟨rfl, rfl⟩ | ⟨rfl, rfl⟩) <;> simp [roundsUp, hr0] at hb
      · rintro rfl
        simp only [roundsUp, hr0, if_false, decide_eq_false_iff_not] at hb
        exact ⟨fun h => by linarith, fun h => absurd (by exact_mod_cast h) hb⟩

theorem picks_nearUnits (rm : RMode) (draw : Nat) (neg : Bool) (m : Nat) (e q : Int) :
    picks rm draw neg (m * 2 ^ e) (2 ^ q) (nearUnits rm draw neg m e q) := by
  rw [← unitsOf_rat m e q]
  exact picks_roundsUp rm draw neg _ _ _ (by positivity) (unitsOf_rest_lt m e q)

/-- The rest is zero exactly where the value is the multiple that is picked. -/
theorem unitsOf_rest_eq_zero (rm : RMode) (draw : Nat) (neg : Bool) (m : Nat) (e q : Int) :
    (unitsOf m e q).2.1 = 0 ↔ (nearUnits rm draw neg m e q : ℚ) * 2 ^ q = m * 2 ^ e := by
  have hu : (0 : ℚ) < 2 ^ q := by positivity
  have hk : (0 : ℚ) < 2 ^ (unitsOf m e q).2.2 := by positivity
  rw [← unitsOf_rat m e q, mul_left_inj' hu.ne', nearUnits]
  constructor
  · intro h; simp [roundsUp, h]
  · intro h
    have hlt : ((unitsOf m e q).2.1 : ℚ) / 2 ^ (unitsOf m e q).2.2 < 1 := by
      rw [div_lt_one hk]; exact_mod_cast unitsOf_rest_lt m e q
    split at h
    · push_cast at h; linarith
    · have : ((unitsOf m e q).2.1 : ℚ) / 2 ^ (unitsOf m e q).2.2 = 0 := by linarith
      simpa [hk.ne'] using this

/-- A whole number of units is picked as it stands. -/
theorem picks_eq_of_whole {rm : RMode} {draw : Nat} {neg : Bool} {u : ℚ} {a n : Nat} (hu : 0 < u) (h : picks rm draw neg (n * u) u a) : a = n := by
  obtain ⟨hlo, hhi, -⟩ := h
  have h1 : (n : ℚ) - 1 < a := by by_contra hc; nlinarith
  have h2 : (a : ℚ) < n + 1 := by by_contra hc; nlinarith
  have h1 : n < a + 1 := by exact_mod_cast (by linarith : (n : ℚ) < a + 1)
  have h2 : a < n + 1 := by exact_mod_cast h2
  omega

end Sys2Proof.Machine
end

section
/-! SUPPORT. Bit patterns and rounding to a format (R36, R46, R47, R50): the fields of a pattern, what `roundTo` picks, and that what is delivered reads back. -/

namespace Sys2Proof.Machine

/-! ## Fields of a bit pattern (R36, R37) -/

theorem Fmt.bits_eq (f : Fmt) : f.bits = fracBits f + expBits f + 1 := by cases f <;> rfl

theorem fracBits_pos (f : Fmt) : 0 < fracBits f := by cases f <;> decide

/-- The value of a sign, an exponent field and a fraction field. -/
def fieldVal (f : Fmt) (neg : Bool) (ef fr : Nat) : FVal :=
  if hasInf f ∧ ef = 2 ^ expBits f - 1 then
    if fr = 0 then .inf neg else .nan (!fr.testBit (fracBits f - 1)) neg fr
  else if f = .e4m3 ∧ ef = 15 ∧ fr = 7 then .nan false neg fr
  else if ef = 0 then .fin neg fr (1 - bias f - fracBits f) else .fin neg (2 ^ fracBits f + fr) ((ef : Int) - bias f - fracBits f)

theorem fval_eq_fieldVal (f : Fmt) (x : Nat) :
    fval f x = fieldVal f (x.testBit (f.bits - 1)) (bitsOf x (fracBits f) (expBits f)) (bitsOf x 0 (fracBits f)) := rfl

theorem bitsOf_frac_lt (f : Fmt) (x : Nat) : bitsOf x 0 (fracBits f) < 2 ^ fracBits f := Nat.mod_lt _ (Nat.two_pow_pos _)
theorem bitsOf_exp_lt (f : Fmt) (x : Nat) : bitsOf x (fracBits f) (expBits f) < 2 ^ expBits f := Nat.mod_lt _ (Nat.two_pow_pos _)

theorem signBit_eq (f : Fmt) (neg : Bool) : signBit f neg = 2 ^ fracBits f * (2 ^ expBits f * neg.toNat) := by
  rw [signBit, Fmt.bits_eq, Nat.add_sub_cancel, Nat.pow_add]
  cases neg <;> simp

/-- A pattern put together from its fields has those fields. -/
theorem fval_fields {f : Fmt} (neg : Bool) {ef fr : Nat} (he : ef < 2 ^ expBits f) (hf : fr < 2 ^ fracBits f) :
    fval f (signBit f neg + ef * 2 ^ fracBits f + fr) = fieldVal f neg ef fr := by
  have hx : signBit f neg + ef * 2 ^ fracBits f + fr = fr + 2 ^ fracBits f * (ef + 2 ^ expBits f * neg.toNat) := by
    rw [signBit_eq]; ring
  have hdiv : (fr + 2 ^ fracBits f * (ef + 2 ^ expBits f * neg.toNat)) / 2 ^ fracBits f = ef + 2 ^ expBits f * neg.toNat := by
    rw [Nat.add_mul_div_left _ _ (Nat.two_pow_pos _), Nat.div_eq_of_lt hf, Nat.zero_add]
  have hfrac : bitsOf (fr + 2 ^ fracBits f * (ef + 2 ^ expBits f * neg.toNat)) 0 (fracBits f) = fr := by
    rw [bitsOf, pow_zero, Nat.div_one, Nat.add_mul_mod_self_left, Nat.mod_eq_of_lt hf]
  have hexp : bitsOf (fr + 2 ^ fracBits f * (ef + 2 ^ expBits f * neg.toNat)) (fracBits f) (expBits f) = ef := by
    rw [bitsOf, hdiv, Nat.add_mul_mod_self_left, Nat.mod_eq_of_lt he]
  have hneg : (fr + 2 ^ fracBits f * (ef + 2 ^ expBits f * neg.toNat)).testBit (f.bits - 1) = neg := by
    rw [Fmt.bits_eq, Nat.add_sub_cancel, Nat.testBit_eq_decide_div_mod_eq, Nat.pow_add, ← Nat.div_div_eq_div_mul, hdiv,
      Nat.add_mul_div_left _ _ (Nat.two_pow_pos _), Nat.div_eq_of_lt he, Nat.zero_add]
    cases neg <;> rfl
  rw [hx, fval_eq_fieldVal, hfrac, hexp, hneg]

/-- The fields of a pattern of the format's width. -/
theorem eq_fields_of_lt {f : Fmt} {x : Nat} (h : x < 2 ^ f.bits) :
    x = signBit f (x.testBit (f.bits - 1)) + bitsOf x (fracBits f) (expBits f) * 2 ^ fracBits f + bitsOf x 0 (fracBits f) := by
  have hd : x / 2 ^ fracBits f / 2 ^ expBits f < 2 := by
    rw [Nat.div_div_eq_div_mul, ← Nat.pow_add]
    rw [Fmt.bits_eq, Nat.pow_succ] at h
    exact Nat.div_lt_of_lt_mul h
  have hs : (x.testBit (f.bits - 1)).toNat = x / 2 ^ fracBits f / 2 ^ expBits f := by
    rw [Fmt.bits_eq, Nat.add_sub_cancel, Nat.testBit_eq_decide_div_mod_eq, Nat.pow_add, ← Nat.div_div_eq_div_mul, Nat.mod_eq_of_lt hd]
    generalize x / 2 ^ fracBits f / 2 ^ expBits f = d at hd
    interval_cases d <;> rfl
  rw [signBit_eq, hs, bitsOf, bitsOf, pow_zero, Nat.div_one]
  calc x = 2 ^ fracBits f * (x / 2 ^ fracBits f) + x % 2 ^ fracBits f := (Nat.div_add_mod _ _).symm
    _ = 2 ^ fracBits f * (2 ^ expBits f * (x / 2 ^ fracBits f / 2 ^ expBits f) + x / 2 ^ fracBits f % 2 ^ expBits f) + x % 2 ^ fracBits f := by
      rw [Nat.div_add_mod (x / 2 ^ fracBits f) (2 ^ expBits f)]
    _ = _ := by ring

theorem fieldVal_of_finite {f : Fmt} {neg : Bool} {ef fr : Nat} (h : ¬(hasInf f = true ∧ ef = 2 ^ expBits f - 1))
    (h' : ¬(f = .e4m3 ∧ ef = 15 ∧ fr = 7)) :
    fieldVal f neg ef fr =
      if ef = 0 then .fin neg fr (1 - bias f - fracBits f) else .fin neg (2 ^ fracBits f + fr) ((ef : Int) - bias f - fracBits f) := by
  rw [fieldVal, if_neg h, if_neg h']

/-! ## The limits of a format (R36) -/

theorem maxSig_bounds (f : Fmt) : 2 ^ fracBits f ≤ maxSig f ∧ maxSig f < 2 ^ (fracBits f + 1) := by cases f <;> decide

/-- The exponent field of the largest finite value: all ones where the format has no infinities, and one less elsewhere. -/
theorem maxExp_add_bias (f : Fmt) : maxExp f + bias f = (2 ^ expBits f : Int) - if hasInf f then 2 else 1 := by cases f <;> rfl

theorem maxExp_pos (f : Fmt) : 2 ≤ maxExp f + bias f := by cases f <;> decide

/-! ## Packing a significand -/

theorem packFin_carry (f : Fmt) (neg : Bool) (q : Int) :
    packFin f neg (2 ^ (fracBits f + 1)) q = packFin f neg (2 ^ fracBits f) (q + 1) := by
  have h : (2 : Nat) ^ fracBits f ≠ 2 ^ (fracBits f + 1) := by rw [Nat.pow_succ]; have := Nat.two_pow_pos (fracBits f); omega
  simp only [packFin, if_true, if_neg h]

theorem packFin_subnormal {f : Fmt} (neg : Bool) {a : Nat} (q : Int) (h : a < 2 ^ fracBits f) : packFin f neg a q = signBit f neg + a := by
  have h' : a ≠ 2 ^ (fracBits f + 1) := by rw [Nat.pow_succ]; omega
  simp only [packFin, if_neg h', if_pos h]

theorem packFin_normal {f : Fmt} (neg : Bool) {a : Nat} (q : Int) (h : 2 ^ fracBits f ≤ a) (h' : a < 2 ^ (fracBits f + 1)) :
    packFin f neg a q = signBit f neg + (q - (1 - bias f - fracBits f)).toNat * 2 ^ fracBits f + a := by
  simp only [packFin, if_neg h'.ne, if_neg (not_lt.2 h)]

/-- A significand without a carry reads back. -/
theorem fval_packFin_of_lt {f : Fmt} (neg : Bool) {a : Nat} {q : Int} (hq : 1 - bias f - fracBits f ≤ q) (ha : a < 2 ^ (fracBits f + 1))
    (hs : a < 2 ^ fracBits f → q = 1 - bias f - fracBits f) (hmax : (a : ℚ) * 2 ^ q ≤ maxSig f * 2 ^ (maxExp f - fracBits f)) :
    fval f (packFin f neg a q) = .fin neg a q := by
  have hpos := maxExp_pos f
  have htop := maxExp_add_bias f
  have hfull : 0 < 2 ^ expBits f := Nat.two_pow_pos _
  by_cases h : a < 2 ^ fracBits f
  · rw [packFin_subnormal neg q h]
    have hfields := fval_fields neg hfull h
    rw [Nat.zero_mul, Nat.add_zero] at hfields
    rw [hfields, fieldVal_of_finite, if_pos rfl, hs h]
    · rintro ⟨hi, he⟩
      rw [if_pos hi] at htop
      have : (2 : Int) ^ expBits f = (2 ^ expBits f : Nat) := by push_cast; rfl
      omega
    · rintro ⟨-, h0, -⟩; cases h0
  · rw [not_lt] at h
    have hqmax : q ≤ maxExp f - fracBits f := by
      by_contra hc
      have h1 : (2 : ℚ) ^ (maxExp f - fracBits f) * 2 ≤ 2 ^ q := by
        rw [← zpow_add_one₀ two_ne_zero]; exact zpow_le_zpow_right₀ one_le_two (by omega)
      have h2 : (maxSig f : ℚ) < 2 ^ fracBits f * 2 := by rw [← pow_succ]; exact_mod_cast (maxSig_bounds f).2
      have h3 : (2 : ℚ) ^ fracBits f ≤ a := by exact_mod_cast h
      have h4 : (0 : ℚ) < 2 ^ (maxExp f - fracBits f) := by positivity
      have h5 : (0 : ℚ) < 2 ^ fracBits f := by positivity
      nlinarith [mul_le_mul h3 h1 (by positivity) (by positivity)]
    have hef : ((q - (1 - bias f - fracBits f)).toNat : Int) = q - (1 - bias f - fracBits f) := Int.toNat_of_nonneg (by omega)
    have hcast : (2 : Int) ^ expBits f = (2 ^ expBits f : Nat) := by push_cast; rfl
    have hfr : a - 2 ^ fracBits f < 2 ^ fracBits f := by rw [Nat.pow_succ] at ha; omega
    have hlt : (q - (1 - bias f - fracBits f)).toNat + 1 < 2 ^ expBits f ∨
        ((q - (1 - bias f - fracBits f)).toNat + 1 = 2 ^ expBits f - 1 ∧ hasInf f = false) := by
      cases hi : hasInf f with
      | true => rw [hi, if_pos rfl] at htop; left; omega
      | false =>
        rw [hi, if_neg Bool.false_ne_true] at htop
        rcases hqmax.lt_or_eq with hlt | rfl
        · left; omega
        · right; exact ⟨by omega, rfl⟩
    have hpack : packFin f neg a q =
        signBit f neg + ((q - (1 - bias f - fracBits f)).toNat + 1) * 2 ^ fracBits f + (a - 2 ^ fracBits f) := by
      rw [packFin_normal neg q h ha, Nat.add_mul]; omega
    rw [hpack, fval_fields neg (by omega) hfr, fieldVal_of_finite, if_neg (Nat.succ_ne_zero _), Nat.add_sub_cancel' h]
    · congr 1; push_cast; rw [hef]; ring
    · rintro ⟨hi, he⟩
      rw [if_pos hi] at htop
      omega
    · rintro ⟨rfl, h15, h7⟩
      have hq' : q = maxExp .e4m3 - fracBits .e4m3 := by simp only [maxExp, fracBits, bias] at *; omega
      rw [hq', mul_le_mul_iff_left₀ (by positivity)] at hmax
      have : a ≤ 14 := by exact_mod_cast hmax
      simp only [fracBits] at h7
      omega

/-- A significand, carried over or not, is packed to a pattern that reads back as its value. -/
theorem fval_packFin {f : Fmt} (neg : Bool) {a : Nat} {q : Int} (hq : 1 - bias f - fracBits f ≤ q) (ha : a ≤ 2 ^ (fracBits f + 1))
    (hs : a < 2 ^ fracBits f → q = 1 - bias f - fracBits f) (hmax : (a : ℚ) * 2 ^ q ≤ maxSig f * 2 ^ (maxExp f - fracBits f)) :
    ∃ (m : Nat) (e : Int), fval f (packFin f neg a q) = .fin neg m e ∧ (m : ℚ) * 2 ^ e = a * 2 ^ q := by
  rcases ha.lt_or_eq with ha | rfl
  · exact ⟨a, q, fval_packFin_of_lt neg hq ha hs hmax, rfl⟩
  · have hval : ((2 ^ fracBits f : Nat) : ℚ) * 2 ^ (q + 1) = (2 ^ (fracBits f + 1) : Nat) * 2 ^ q := by
      rw [zpow_add_one₀ two_ne_zero, Nat.pow_succ]; push_cast; ring
    refine ⟨2 ^ fracBits f, q + 1, ?_, hval⟩
    rw [packFin_carry]
    refine fval_packFin_of_lt neg (by omega) (Nat.pow_lt_pow_right one_lt_two (Nat.lt_succ_self _)) (fun h => absurd h (lt_irrefl _)) ?_
    rw [hval]; exact hmax

/-! ## The exponent of a value -/

theorem two_zpow_le_of_bitLen {m : Nat} (h : m ≠ 0) (e : Int) : (2 : ℚ) ^ ((bitLen m : Int) - 1 + e) ≤ m * 2 ^ e := by
  have hb : (bitLen m : Int) - 1 = (Nat.log2 m : Nat) := by simp [bitLen, h]
  rw [hb, zpow_add₀ two_ne_zero, zpow_natCast]
  exact mul_le_mul_of_nonneg_right (by exact_mod_cast Nat.log2_self_le h) (by positivity)

theorem lt_two_zpow_of_bitLen {m : Nat} (h : m ≠ 0) (e : Int) : m * (2 : ℚ) ^ e < 2 ^ ((bitLen m : Int) - 1 + e + 1) := by
  have hb : (bitLen m : Int) - 1 + e + 1 = (Nat.log2 m + 1 : Nat) + e := by simp [bitLen, h]; ring
  rw [hb, zpow_add₀ two_ne_zero, zpow_natCast]
  exact mul_lt_mul_of_pos_right (by exact_mod_cast Nat.lt_log2_self) (by positivity)

/-! ## Rounding to a format (R46, R47, R50) -/

section
variable (f : Fmt) (rm : RMode) (draw : Nat) (neg : Bool) (m : Nat) (e : Int)

theorem roundTo_q :
    (roundTo f rm draw neg m e).q = max ((bitLen m : Int) - 1 + e - fracBits f) (1 - bias f - fracBits f) := rfl

theorem roundTo_a : (roundTo f rm draw neg m e).a = nearUnits rm draw neg m e (roundTo f rm draw neg m e).q := rfl

theorem roundTo_least : 1 - bias f - fracBits f ≤ (roundTo f rm draw neg m e).q := le_max_right _ _

theorem roundTo_picks :
    picks rm draw neg (m * 2 ^ e) (2 ^ (roundTo f rm draw neg m e).q) (roundTo f rm draw neg m e).a := by
  rw [roundTo_a]; exact picks_nearUnits ..

theorem roundTo_inexact : (roundTo f rm draw neg m e).inexact = true ↔
    ((roundTo f rm draw neg m e).a : ℚ) * 2 ^ (roundTo f rm draw neg m e).q ≠ m * 2 ^ e := by
  rw [roundTo_a, Ne, ← unitsOf_rest_eq_zero rm draw neg]
  exact bne_iff_ne

theorem roundTo_beyond : (roundTo f rm draw neg m e).beyond =
    (decide (maxExp f - fracBits f < (roundTo f rm draw neg m e).q ∧ (roundTo f rm draw neg m e).a ≠ 0) &&
        decide (maxSig f < (roundTo f rm draw neg m e).a * 2 ^ ((roundTo f rm draw neg m e).q - (maxExp f - fracBits f)).toNat) ||
      (decide ((roundTo f rm draw neg m e).q = maxExp f - fracBits f) && decide (maxSig f < (roundTo f rm draw neg m e).a))) := rfl

theorem roundTo_tiny : (roundTo f rm draw neg m e).tiny =
    if rm = .sto then decide ((bitLen m : Int) - 1 + e < 1 - bias f)
    else decide ((bitLen m : Int) - 1 + e < 1 - bias f) && !(decide ((bitLen m : Int) - 1 + e = 1 - bias f - 1) &&
      decide (nearUnits rm draw neg m e ((bitLen m : Int) - 1 + e - fracBits f) = 2 ^ (fracBits f + 1))) := rfl

variable {m}
variable (hm : m ≠ 0)
include hm

/-- The value lies below 2^(p+1) units. -/
theorem roundTo_fits : m * (2 : ℚ) ^ e < 2 ^ (roundTo f rm draw neg m e).q * 2 ^ (fracBits f + 1) := by
  refine (lt_two_zpow_of_bitLen hm e).trans_le ?_
  rw [← zpow_natCast, ← zpow_add₀ two_ne_zero]
  refine zpow_le_zpow_right₀ one_le_two ?_
  have := le_max_left ((bitLen m : Int) - 1 + e - fracBits f) (1 - bias f - fracBits f)
  rw [roundTo_q]; push_cast; omega

/-- Above the least unit it has 2^p units or more. -/
theorem roundTo_full (h : 1 - bias f - fracBits f < (roundTo f rm draw neg m e).q) :
    (2 : ℚ) ^ (roundTo f rm draw neg m e).q * 2 ^ fracBits f ≤ m * 2 ^ e := by
  refine le_of_eq_of_le ?_ (two_zpow_le_of_bitLen hm e)
  rw [← zpow_natCast, ← zpow_add₀ two_ne_zero]
  congr 1
  rw [roundTo_q] at h ⊢
  omega

theorem roundTo_a_le : (roundTo f rm draw neg m e).a ≤ 2 ^ (fracBits f + 1) := by
  have hu : (0 : ℚ) < 2 ^ (roundTo f rm draw neg m e).q := by positivity
  obtain ⟨-, hlt, -⟩ := roundTo_picks f rm draw neg m e
  have hfit := roundTo_fits f rm draw neg e hm
  have : ((roundTo f rm draw neg m e).a : ℚ) < 2 ^ (fracBits f + 1) + 1 := by by_contra hc; nlinarith
  exact Nat.lt_succ_iff.1 (by exact_mod_cast this)

theorem roundTo_subnormal (h : (roundTo f rm draw neg m e).a < 2 ^ fracBits f) :
    (roundTo f rm draw neg m e).q = 1 - bias f - fracBits f := by
  refine ((roundTo_least f rm draw neg m e).lt_or_eq.resolve_left fun hlt => ?_).symm
  have hu : (0 : ℚ) < 2 ^ (roundTo f rm draw neg m e).q := by positivity
  obtain ⟨hlo, -⟩ := roundTo_picks f rm draw neg m e
  have hfull := roundTo_full f rm draw neg e hm hlt
  have h1 : (2 : ℚ) ^ fracBits f < (roundTo f rm draw neg m e).a + 1 := by by_contra hc; nlinarith
  have : 2 ^ fracBits f < (roundTo f rm draw neg m e).a + 1 := by exact_mod_cast h1
  omega

/-- A result beyond the largest finite value. -/
theorem roundTo_beyond_iff : (roundTo f rm draw neg m e).beyond = true ↔
    (maxSig f : ℚ) * 2 ^ (maxExp f - fracBits f) < (roundTo f rm draw neg m e).a * 2 ^ (roundTo f rm draw neg m e).q := by
  have ha := roundTo_a_le f rm draw neg e hm
  rw [roundTo_beyond]
  generalize (roundTo f rm draw neg m e).a = a at ha ⊢
  generalize (roundTo f rm draw neg m e).q = q
  have hu : (0 : ℚ) < 2 ^ (maxExp f - fracBits f) := by positivity
  rcases lt_trichotomy q (maxExp f - fracBits f) with hq | rfl | hq
  · have hq' : ¬ maxExp f - fracBits f < q := not_lt.2 hq.le
    simp only [hq', hq.ne, false_and, decide_false, Bool.false_and, Bool.or_self, Bool.false_eq_true, false_iff, not_lt]
    have h1 : (2 : ℚ) ^ q * 2 ≤ 2 ^ (maxExp f - fracBits f) := by
      rw [← zpow_add_one₀ two_ne_zero]; exact zpow_le_zpow_right₀ one_le_two (by omega)
    have h2 : (a : ℚ) ≤ 2 ^ fracBits f * 2 := by rw [← pow_succ]; exact_mod_cast ha
    have h3 : (2 : ℚ) ^ fracBits f ≤ maxSig f := by exact_mod_cast (maxSig_bounds f).1
    have h4 : (0 : ℚ) < 2 ^ q := by positivity
    have h5 : (0 : ℚ) < 2 ^ fracBits f := by positivity
    nlinarith [mul_le_mul h3 h1 (by positivity) (by positivity)]
  · simp only [lt_irrefl, false_and, decide_false, Bool.false_and, decide_true, Bool.true_and, Bool.false_or, decide_eq_true_eq]
    rw [mul_lt_mul_iff_left₀ hu, Nat.cast_lt]
  · have hval : (a : ℚ) * 2 ^ q = (a * 2 ^ (q - (maxExp f - fracBits f)).toNat : Nat) * 2 ^ (maxExp f - fracBits f) := by
      rw [← two_pow_toNat hq.le]; push_cast; ring
    simp only [hq, hq.ne', true_and, decide_false, Bool.false_and, Bool.or_false, Bool.and_eq_true, decide_eq_true_eq]
    rw [hval, mul_lt_mul_iff_left₀ hu, Nat.cast_lt]
    refine ⟨And.right, fun h => ⟨?_, h⟩⟩
    rintro rfl
    simp at h

/-- A result within the format reads back as the multiple that was picked. -/
theorem fval_packFin_roundTo (h : (roundTo f rm draw neg m e).beyond = false) :
    ∃ (m' : Nat) (e' : Int), fval f (packFin f neg (roundTo f rm draw neg m e).a (roundTo f rm draw neg m e).q) = .fin neg m' e' ∧
      (m' : ℚ) * 2 ^ e' = (roundTo f rm draw neg m e).a * 2 ^ (roundTo f rm draw neg m e).q := by
  refine fval_packFin neg (roundTo_least f rm draw neg m e) (roundTo_a_le f rm draw neg e hm) (roundTo_subnormal f rm draw neg e hm) (not_lt.1 ?_)
  rw [← roundTo_beyond_iff f rm draw neg e hm, h]
  exact Bool.false_ne_true

end

/-! ## Tininess (R50) -/

/-- Where the value lies below an even number of units, whether the neighbour that is picked is not that number. -/
theorem picks_ne_iff {rm : RMode} {draw n b : Nat} {neg : Bool} {x u : ℚ} (hu : 0 < u) (hn : n % 2 = 0) (hs : rm ≠ .sto) (hx : x < n * u)
    (h : picks rm draw neg x u b) :
    b ≠ n ↔ if rm = .rne then x < n * u - u / 2
      else if (rm = .rdn ∧ neg = true) ∨ (rm = .rup ∧ neg = false) then x ≤ n * u - u else x < n * u := by
  obtain ⟨hlo, hhi, hrne, hdown, hup, -⟩ := h
  have hle : b ≤ n := by
    have : (b : ℚ) < n + 1 := by by_contra hc; nlinarith
    exact Nat.lt_succ_iff.1 (by exact_mod_cast this)
  have hsucc (hne : b ≠ n) : (b : ℚ) * u ≤ n * u - u := by
    have : (b : ℚ) + 1 ≤ n := by exact_mod_cast lt_of_le_of_ne hle hne
    nlinarith
  split
  · next hr =>
    obtain ⟨hnear, htie⟩ := hrne hr
    obtain ⟨hlo', hhi'⟩ := abs_le.1 (show |(b : ℚ) * u - x| ≤ u / 2 by linarith)
    refine ⟨fun hne => not_le.1 fun hc => ?_, ?_⟩
    · /- a tie between n − 1 and n, of which the even one is picked -/
      have hb := hsucc hne
      have heven := htie (by rw [abs_of_nonpos (by linarith)]; linarith)
      have hsame : (b : ℚ) + 1 = n := by
        have : ((b : ℚ) + 1) * u = n * u := by linarith
        exact mul_right_cancel₀ hu.ne' this
      have : b + 1 = n := by exact_mod_cast hsame
      omega
    · rintro hc rfl
      linarith
  · split
    · next hr =>
      have := hup hr
      refine ⟨fun hne => this.trans (hsucc hne), ?_⟩
      rintro hle rfl
      linarith
    · next hr hr' =>
      refine iff_of_true ?_ hx
      rintro rfl
      have : (b : ℚ) * u ≤ x := hdown (by cases rm <;> cases neg <;> simp_all)
      linarith

/-- R50: tiny is what lies, rounded with an unbounded exponent, below the smallest normal. -/
theorem roundTo_tiny_iff (f : Fmt) (rm : RMode) (draw : Nat) (neg : Bool) {m : Nat} (e : Int) (hm : m ≠ 0) :
    (roundTo f rm draw neg m e).tiny = true ↔
      if rm = .rne then m * (2 : ℚ) ^ e < 2 ^ (1 - (bias f : Int)) - 2 ^ (-(bias f : Int) - fracBits f) / 2
      else if (rm = .rdn ∧ neg = true) ∨ (rm = .rup ∧ neg = false) then
        m * (2 : ℚ) ^ e ≤ 2 ^ (1 - (bias f : Int)) - 2 ^ (-(bias f : Int) - fracBits f)
      else m * (2 : ℚ) ^ e < 2 ^ (1 - (bias f : Int)) := by
  have hlo := two_zpow_le_of_bitLen hm e
  have hhi := lt_two_zpow_of_bitLen hm e
  have hpick := picks_nearUnits rm draw neg m e ((bitLen m : Int) - 1 + e - fracBits f)
  rw [roundTo_tiny]
  generalize (bitLen m : Int) - 1 + e = ex at hlo hhi hpick ⊢
  generalize (m : ℚ) * 2 ^ e = x at hlo hhi hpick ⊢
  have hstep : (0 : ℚ) < 2 ^ (-(bias f : Int) - fracBits f) := by positivity
  /- the smallest normal has 2^(p + 1) steps -/
  have hnormal : (2 : ℚ) ^ (1 - (bias f : Int)) = (2 ^ (fracBits f + 1) : Nat) * 2 ^ (-(bias f : Int) - fracBits f) := by
    push_cast
    rw [← zpow_natCast, ← zpow_add₀ two_ne_zero]
    congr 1; push_cast; ring
  rcases lt_trichotomy ex (1 - bias f - 1) with hex | rfl | hex
  · have hx : x * 2 < 2 ^ (1 - (bias f : Int)) := by
      have : (2 : ℚ) ^ (ex + 1) * 2 ≤ 2 ^ (1 - (bias f : Int)) := by
        rw [← zpow_add_one₀ two_ne_zero]; exact zpow_le_zpow_right₀ one_le_two (by omega)
      linarith
    have hsmall : (2 : ℚ) ^ (-(bias f : Int) - fracBits f) * 2 ≤ 2 ^ (1 - (bias f : Int)) := by
      rw [← zpow_add_one₀ two_ne_zero]; exact zpow_le_zpow_right₀ one_le_two (by omega)
    have h1 : ex < 1 - bias f := by omega
    have h2 : ex ≠ 1 - bias f - 1 := hex.ne
    refine iff_of_true (by simp only [h1, h2, decide_true, decide_false, Bool.false_and, Bool.not_false, Bool.and_self, ite_self]) ?_
    split
    · linarith
    · split <;> linarith
  · have hu : (1 - (bias f : Int) - 1 - fracBits f) = -(bias f : Int) - fracBits f := by ring
    rw [hu] at hpick ⊢
    rw [sub_add_cancel] at hhi
    by_cases hs : rm = .sto
    · subst hs
      refine iff_of_true (by simp) ?_
      simpa using hhi
    · rw [hnormal] at hhi ⊢
      rw [← picks_ne_iff hstep (by simp [Nat.pow_succ]) hs hhi hpick]
      simp [hs]
  · have hx : (2 : ℚ) ^ (1 - (bias f : Int)) ≤ x := (zpow_le_zpow_right₀ one_le_two (by omega)).trans hlo
    have h1 : ¬ ex < 1 - bias f := by omega
    refine iff_of_false (by simp [h1]) ?_
    split
    · linarith
    · split <;> linarith

/-! ## What is delivered (R46, R50) -/

theorem overInf_iff (rm : RMode) (neg : Bool) :
    overInf rm neg = true ↔ rm = .rne ∨ rm = .sto ∨ (rm = .rdn ∧ neg = true) ∨ (rm = .rup ∧ neg = false) := by
  cases rm <;> cases neg <;> simp [overInf]

theorem Rounded.flags_beyond {r : Rounded} (h : r.beyond = true) : r.flags = 20 := by rw [Rounded.flags, if_pos h]; rfl

theorem Rounded.flags_within {r : Rounded} (h : r.beyond = false) :
    r.flags = if r.inexact then (if r.tiny then 24 else 16) else 0 := by
  rw [Rounded.flags, h]
  cases r.inexact <;> cases r.tiny <;> rfl

theorem roundF_within {f : Fmt} {rm : RMode} {draw : Nat} {neg : Bool} {m : Nat} {e : Int} (hm : m ≠ 0)
    (h : (roundTo f rm draw neg m e).beyond = false) :
    roundF f rm draw neg m e =
      (packFin f neg (roundTo f rm draw neg m e).a (roundTo f rm draw neg m e).q, (roundTo f rm draw neg m e).flags) := by
  simp only [roundF, if_neg hm, h, Bool.false_eq_true, if_false]

theorem roundF_beyond {f : Fmt} {rm : RMode} {draw : Nat} {neg : Bool} {m : Nat} {e : Int} (hm : m ≠ 0)
    (h : (roundTo f rm draw neg m e).beyond = true) :
    roundF f rm draw neg m e = (if overInf rm neg then infBits f neg else maxBits f neg, 20) := by
  simp only [roundF, if_neg hm, h, if_true, Rounded.flags_beyond h]

theorem signBit_fval (f : Fmt) (neg : Bool) : fval f (signBit f neg) = .fin neg 0 (1 - bias f - fracBits f) := by
  have := fval_packFin_of_lt (f := f) neg (a := 0) (q := 1 - bias f - fracBits f) le_rfl (Nat.two_pow_pos _) (fun _ => rfl)
    (by simp; positivity)
  rwa [packFin_subnormal neg _ (Nat.two_pow_pos _)] at this

/-- A value that the format holds is delivered as it is. -/
theorem roundF_exact {f : Fmt} (rm : RMode) (draw : Nat) (neg : Bool) {m K : Nat} {e j : Int} (hval : (m : ℚ) * 2 ^ e = K * 2 ^ j)
    (hK : K ≤ maxSig f) (hj : 1 - bias f - fracBits f ≤ j) (hj' : j ≤ maxExp f - fracBits f) :
    ∃ (m' : Nat) (e' : Int), fval f (roundF f rm draw neg m e).1 = .fin neg m' e' ∧ (m' : ℚ) * 2 ^ e' = m * 2 ^ e := by
  by_cases hm : m = 0
  · refine ⟨0, 1 - bias f - fracBits f, ?_, by simp [hm]⟩
    rw [roundF, if_pos hm]
    exact signBit_fval f neg
  have hK0 : K ≠ 0 := by
    rintro rfl
    simp [hm, zpow_ne_zero] at hval
  have hq : (roundTo f rm draw neg m e).q ≤ j := by
    have h1 := (two_zpow_le_of_bitLen hm e).trans_eq hval
    have h2 : (K : ℚ) * 2 ^ j < 2 ^ ((fracBits f : Int) + 1 + j) := by
      rw [zpow_add₀ two_ne_zero]
      refine mul_lt_mul_of_pos_right ?_ (by positivity)
      exact_mod_cast hK.trans_lt (maxSig_bounds f).2
    have h3 := (zpow_lt_zpow_iff_right₀ one_lt_two).1 (h1.trans_lt h2)
    rw [roundTo_q]
    omega
  have hwhole : (m : ℚ) * 2 ^ e = (K * 2 ^ (j - (roundTo f rm draw neg m e).q).toNat : Nat) * 2 ^ (roundTo f rm draw neg m e).q := by
    rw [hval, ← two_pow_toNat hq]; push_cast; ring
  have hy : ((roundTo f rm draw neg m e).a : ℚ) * 2 ^ (roundTo f rm draw neg m e).q = m * 2 ^ e := by
    have := roundTo_picks f rm draw neg m e
    rw [hwhole] at this ⊢
    rw [picks_eq_of_whole (by positivity) this]
  have hbeyond : (roundTo f rm draw neg m e).beyond = false := by
    rw [← Bool.not_eq_true, roundTo_beyond_iff f rm draw neg e hm, hy, hval, not_lt]
    exact mul_le_mul (by exact_mod_cast hK) (zpow_le_zpow_right₀ one_le_two hj') (by positivity) (by positivity)
  rw [roundF_within hm hbeyond]
  obtain ⟨m', e', hf, hv⟩ := fval_packFin_roundTo f rm draw neg e hm hbeyond
  exact ⟨m', e', hf, hv.trans hy⟩

end Sys2Proof.Machine
end

section
/-! SUPPORT. Arithmetic and order of floating-point values (R42, R43, R137 to R141): what each operation answers, case by case. -/

namespace Sys2Proof.Machine

/-! ## Operands that are NaN, and zero times infinity (R42, R137) -/

theorem zeroTimesInf_iff {x y : FVal} : zeroTimesInf x y = true ↔
    ∃ n m e, (x = .inf n ∧ y = .fin m 0 e) ∨ (y = .inf n ∧ x = .fin m 0 e) := by
  cases x <;> cases y <;> simp [zeroTimesInf]

theorem zeroTimesInf_of_nan {x y : FVal} (h : x.isNaN = true ∨ y.isNaN = true) : zeroTimesInf x y = false := by
  cases x <;> cases y <;> simp_all [zeroTimesInf, FVal.isNaN]

theorem addV_of_nan {x y : FVal} (h : x.isNaN = true ∨ y.isNaN = true) (f : Fmt) (rm : RMode) (r : Nat) :
    addV f rm r x y = (canonNaN f, x.sigFlag ||| y.sigFlag) := by
  cases x <;> cases y <;> simp_all [addV, FVal.isNaN]

theorem mulV_of_nan {x y : FVal} (h : x.isNaN = true ∨ y.isNaN = true) (f : Fmt) (rm : RMode) (r : Nat) :
    mulV f rm r x y = (canonNaN f, x.sigFlag ||| y.sigFlag) := by
  cases x <;> cases y <;> simp_all [mulV, FVal.isNaN]

theorem fmaV_of_zeroTimesInf {x y : FVal} (h : zeroTimesInf x y = true) (f : Fmt) (rm : RMode) (r : Nat) (z : FVal) :
    fmaV f rm r x y z = (canonNaN f, 1) := if_pos h

theorem fmaV_of_nan {x y z : FVal} (hz : zeroTimesInf x y = false) (h : x.isNaN = true ∨ y.isNaN = true ∨ z.isNaN = true) (f : Fmt) (rm : RMode)
    (r : Nat) : fmaV f rm r x y z = (canonNaN f, x.sigFlag ||| y.sigFlag ||| z.sigFlag) := by
  have h' : (x.isNaN || y.isNaN || z.isNaN) = true := by simpa [or_assoc] using h
  simp only [fmaV, hz, h', Bool.false_eq_true, if_false, if_true]

/-! ## Infinite operands (R137) -/

@[simp] theorem FVal.sigFlag_inf (n : Bool) : (FVal.inf n).sigFlag = 0 := rfl
@[simp] theorem FVal.sigFlag_fin (n : Bool) (m : Nat) (e : Int) : (FVal.fin n m e).sigFlag = 0 := rfl

section
variable (f : Fmt) (rm : RMode) (r : Nat) (n m : Bool) (i : Int)

theorem addV_inf_opposite : addV f rm r (.inf n) (.inf !n) = (canonNaN f, 1) := by cases n <;> rfl
theorem addV_inf_same : addV f rm r (.inf n) (.inf n) = (infBits f n, 0) := by simp [addV]
theorem addV_inf_fin (a : Nat) : addV f rm r (.inf n) (.fin m a i) = (infBits f n, 0) := by simp [addV]
theorem addV_fin_inf (a : Nat) : addV f rm r (.fin m a i) (.inf n) = (infBits f n, 0) := by simp [addV]
theorem mulV_inf_inf : mulV f rm r (.inf n) (.inf m) = (infBits f (n != m), 0) := by simp [mulV]

variable {a : Nat} (ha : a ≠ 0)
include ha
theorem mulV_inf_fin : mulV f rm r (.inf n) (.fin m a i) = (infBits f (n != m), 0) := by simp [mulV, ha]
theorem mulV_fin_inf : mulV f rm r (.fin m a i) (.inf n) = (infBits f (n != m), 0) := by cases n <;> cases m <;> simp [mulV, ha]
end

/-! ## Products (R137) -/

/-- The product of two values that are no NaN, one of them infinite and neither zero. -/
theorem prodV_inf {x y : FVal} (hx : x.isNaN = false) (hy : y.isNaN = false) (h : (∃ n, x = .inf n) ∨ ∃ n, y = .inf n) :
    (prodV x y).1 = some (signOf x != signOf y) := by
  rcases h with ⟨n, rfl⟩ | ⟨n, rfl⟩
  · cases y <;> simp_all [prodV, signOf, FVal.isNaN]
  · cases x <;> simp_all [prodV, signOf, FVal.isNaN]

/-! ## A fused multiply-add with an infinite part (R137) -/

theorem fmaV_inf_product {x y z : FVal} {a : Bool} (hz : zeroTimesInf x y = false) (hx : x.isNaN = false) (hy : y.isNaN = false)
    (hz' : z.isNaN = false) (h : (prodV x y).1 = some a) (f : Fmt) (rm : RMode) (r : Nat) :
    fmaV f rm r x y z = if z = .inf (!a) then (canonNaN f, 1) else (infBits f a, 0) := by
  rcases hp : prodV x y with ⟨p, d⟩
  rw [hp] at h
  subst h
  simp only [fmaV, hz, hx, hy, hz', hp, Bool.or_self, Bool.false_eq_true, if_false]
  cases z with
  | nan => cases hz'
  | inf b => cases a <;> cases b <;> rfl
  | fin => rfl

theorem fmaV_fin_inf (f : Fmt) (rm : RMode) (r : Nat) (n m k : Bool) (a c : Nat) (i j : Int) :
    fmaV f rm r (.fin n a i) (.fin m c j) (.inf k) = (infBits f k, 0) := rfl

/-! ## Finite operands (R43) -/

/-- The sign of an exact sum that is zero. -/
theorem Dy.neg_add {mode : RMode} {x y : Dy} (h : (Dy.add mode x y).m = 0) :
    (Dy.add mode x y).neg = if x.neg = y.neg then x.neg else mode == .rdn :=
  Dy.neg_add_of_zero ((Dy.rat_add mode x y).symm.trans (Dy.rat_eq_zero.2 h))

section
variable (f : Fmt) (rm : RMode) (r : Nat) (n m k : Bool) (a c d : Nat) (i j l : Int)

theorem addV_fin : addV f rm r (.fin n a i) (.fin m c j) = (Dy.add rm ⟨n, a, i⟩ ⟨m, c, j⟩).round f rm r := rfl
theorem mulV_fin : mulV f rm r (.fin n a i) (.fin m c j) = (Dy.mul ⟨n, a, i⟩ ⟨m, c, j⟩).round f rm r := rfl
theorem fmaV_fin : fmaV f rm r (.fin n a i) (.fin m c j) (.fin k d l) =
    (Dy.add rm (Dy.mul ⟨n, a, i⟩ ⟨m, c, j⟩) ⟨k, d, l⟩).round f rm r := rfl

theorem addV_delivers : delivers f rm r (if n = m then n else rm == .rdn) (ratOf (.fin n a i) + ratOf (.fin m c j))
    (addV f rm r (.fin n a i) (.fin m c j)) := by
  rw [addV_fin]
  have h := Dy.rat_add rm ⟨n, a, i⟩ ⟨m, c, j⟩
  simp only [Dy.rat] at h
  rw [← h]
  exact Dy.round_delivers Dy.neg_add f rm r

theorem mulV_delivers : delivers f rm r (n != m) (ratOf (.fin n a i) * ratOf (.fin m c j)) (mulV f rm r (.fin n a i) (.fin m c j)) := by
  rw [mulV_fin]
  have h := Dy.rat_mul ⟨n, a, i⟩ ⟨m, c, j⟩
  simp only [Dy.rat] at h
  rw [← h]
  exact Dy.round_delivers (fun _ => rfl) f rm r

theorem fmaV_delivers : delivers f rm r (if (n != m) = k then (n != m) else rm == .rdn)
    (ratOf (.fin n a i) * ratOf (.fin m c j) + ratOf (.fin k d l)) (fmaV f rm r (.fin n a i) (.fin m c j) (.fin k d l)) := by
  rw [fmaV_fin]
  have h := Dy.rat_add rm (Dy.mul ⟨n, a, i⟩ ⟨m, c, j⟩) ⟨k, d, l⟩
  rw [Dy.rat_mul] at h
  simp only [Dy.rat] at h
  rw [← h]
  exact Dy.round_delivers Dy.neg_add f rm r
end

/-! ## Order (R138, R139) -/

theorem Dy.units_lt {x y : Dy} : x.units (min x.e y.e) < y.units (min x.e y.e) ↔ x.rat < y.rat := by
  rw [← x.units_rat (min_le_left x.e y.e), ← y.units_rat (min_le_right x.e y.e), mul_lt_mul_iff_left₀ (by positivity), Int.cast_lt]

theorem Dy.units_eq {x y : Dy} : x.units (min x.e y.e) = y.units (min x.e y.e) ↔ x.rat = y.rat := by
  rw [← x.units_rat (min_le_left x.e y.e), ← y.units_rat (min_le_right x.e y.e), mul_left_inj' (by positivity), Int.cast_inj]

theorem fin_lt_iff {a b : Bool} {m n : Nat} {e d : Int} : (FVal.fin a m e).lt (.fin b n d) = true ↔
    ratOf (.fin a m e) < ratOf (.fin b n d) ∨ (a = true ∧ b = false ∧ m = 0 ∧ n = 0) := by
  have hlt := Dy.units_lt (x := ⟨a, m, e⟩) (y := ⟨b, n, d⟩)
  have heq := Dy.units_eq (x := ⟨a, m, e⟩) (y := ⟨b, n, d⟩)
  simp only [Dy.rat] at hlt heq
  simp only [FVal.lt, Bool.or_eq_true, Bool.and_eq_true, decide_eq_true_eq, Bool.not_eq_true', beq_iff_eq, hlt, heq, and_assoc]
  refine or_congr_right ⟨fun ⟨h, ha, hb, hm⟩ => ⟨ha, hb, hm, ?_⟩, fun ⟨ha, hb, hm, hn⟩ => ⟨?_, ha, hb, hm⟩⟩
  · exact ratOf_fin_eq_zero.1 (h.symm.trans (ratOf_fin_eq_zero.2 hm))
  · rw [ratOf_fin_eq_zero.2 hm, ratOf_fin_eq_zero.2 hn]

/-- The order of R138. -/
theorem lt_iff_before {x y : FVal} (hx : x.isNaN = false) (hy : y.isNaN = false) : x.lt y = true ↔ before x y := by
  unfold before
  cases x with
  | nan => cases hx
  | inf a => cases y <;> simp_all [FVal.lt, less, FVal.isNaN]
  | fin a m e =>
    cases y with
    | nan => cases hy
    | inf b => simp [FVal.lt, less]
    | fin b n d =>
      rw [fin_lt_iff, less]
      refine or_congr_right ?_
      simp [and_assoc, and_left_comm]

/-- The comparison of R139. -/
theorem numLt_iff_less {x y : FVal} (hx : x.isNaN = false) (hy : y.isNaN = false) : x.numLt y = true ↔ less x y := by
  cases x with
  | nan => cases hx
  | inf a => cases y <;> simp_all [FVal.numLt, FVal.lt, less, FVal.isNaN]
  | fin a m e =>
    cases y with
    | nan => cases hy
    | inf b => simp [FVal.numLt, FVal.lt, less]
    | fin b n d =>
      by_cases h : m = 0 ∧ n = 0
      · obtain ⟨rfl, rfl⟩ := h
        rw [less, ratOf_fin_eq_zero.2 rfl, ratOf_fin_eq_zero.2 rfl]
        simp [FVal.numLt]
      · have hlt : (FVal.fin a m e).numLt (.fin b n d) = (FVal.fin a m e).lt (.fin b n d) := by
          cases m <;> cases n <;> simp_all [FVal.numLt]
        rw [hlt, fin_lt_iff, less, or_iff_left]
        exact fun h' => h h'.2.2

theorem numEq_iff {x y : FVal} : x.numEq y = true ↔ ¬(x.isNaN = true ∨ y.isNaN = true) ∧ ¬less x y ∧ ¬less y x := by
  by_cases hn : x.isNaN = true ∨ y.isNaN = true
  · refine iff_of_false ?_ fun h => h.1 hn
    cases x <;> cases y <;> simp_all [FVal.numEq, FVal.isNaN]
  · obtain ⟨hx, hy⟩ : x.isNaN = false ∧ y.isNaN = false := by simpa using hn
    have heq : x.numEq y = (!x.numLt y && !y.numLt x) := by
      cases x <;> cases y <;> simp_all [FVal.numEq, FVal.isNaN]
    rw [heq, ← numLt_iff_less hx hy, ← numLt_iff_less hy hx]
    simp [hn]

theorem not_less_of_nan {x y : FVal} (h : x.isNaN = true ∨ y.isNaN = true) : ¬less x y := by
  cases x <;> cases y <;> simp_all [less, FVal.isNaN]

/-! ## `fmin` and `fmax`, `fset` (R138, R139) -/

section
variable (f : Fmt) (big nan : Bool) (a b : Nat)

theorem minmaxV_flags : (minmaxV f big nan a b).2 = (fval f a).sigFlag ||| (fval f b).sigFlag := by
  simp only [minmaxV, apply_ite Prod.snd, ite_self]

theorem minmaxV_of_nan (h : ((fval f a).isNaN = true ∧ (fval f b).isNaN = true) ∨
    (nan = true ∧ ((fval f a).isNaN = true ∨ (fval f b).isNaN = true))) : (minmaxV f big nan a b).1 = canonNaN f := by
  unfold minmaxV
  cases hx : (fval f a).isNaN <;> cases hy : (fval f b).isNaN <;> simp_all

theorem minmaxV_left_nan (hx : (fval f a).isNaN = true) (hy : (fval f b).isNaN = false) : (minmaxV f big false a b).1 = b := by
  simp [minmaxV, hx, hy]

theorem minmaxV_right_nan (hx : (fval f a).isNaN = false) (hy : (fval f b).isNaN = true) : (minmaxV f big false a b).1 = a := by
  simp [minmaxV, hx, hy]

/-- Of two numbers the second is answered where it is the larger, or the smaller, and the first elsewhere. -/
theorem minmaxV_of_numbers (hx : (fval f a).isNaN = false) (hy : (fval f b).isNaN = false) :
    ((if big then before (fval f a) (fval f b) else before (fval f b) (fval f a)) → (minmaxV f big nan a b).1 = b) ∧
      (¬(if big then before (fval f a) (fval f b) else before (fval f b) (fval f a)) → (minmaxV f big nan a b).1 = a) := by
  cases big with
  | true =>
    simp only [minmaxV, hx, hy, Bool.and_self, Bool.false_eq_true, if_false, if_true, ← lt_iff_before hx hy]
    exact ⟨fun h => by rw [if_pos h], fun h => by rw [if_neg h]⟩
  | false =>
    simp only [minmaxV, hx, hy, Bool.and_self, Bool.false_eq_true, if_false, ← lt_iff_before hy hx]
    exact ⟨fun h => by rw [if_pos h], fun h => by rw [if_neg h]⟩

theorem fsetV_lt : (fsetV f .lt a b).1 = true ↔ less (fval f a) (fval f b) := by
  by_cases hn : (fval f a).isNaN = true ∨ (fval f b).isNaN = true
  · refine iff_of_false ?_ (not_less_of_nan hn)
    have : ((fval f a).isNaN || (fval f b).isNaN) = true := by simpa using hn
    simp [fsetV, this]
  · obtain ⟨hx, hy⟩ : (fval f a).isNaN = false ∧ (fval f b).isNaN = false := by simpa using hn
    rw [← numLt_iff_less hx hy]
    simp [fsetV, hx, hy]

theorem fsetV_le : (fsetV f .le a b).1 = true ↔
    ¬((fval f a).isNaN = true ∨ (fval f b).isNaN = true) ∧ ¬less (fval f b) (fval f a) := by
  by_cases hn : (fval f a).isNaN = true ∨ (fval f b).isNaN = true
  · have : ((fval f a).isNaN || (fval f b).isNaN) = true := by simpa using hn
    simp [fsetV, this, hn]
  · obtain ⟨hx, hy⟩ : (fval f a).isNaN = false ∧ (fval f b).isNaN = false := by simpa using hn
    rw [← numLt_iff_less hy hx]
    simp [fsetV, hx, hy]

theorem fsetV_flags_lt : (fsetV f .lt a b).2 = if (fval f a).isNaN = true ∨ (fval f b).isNaN = true then 1 else 0 := by
  simp only [fsetV, Bool.or_eq_true]; rfl

theorem fsetV_flags_le : (fsetV f .le a b).2 = if (fval f a).isNaN = true ∨ (fval f b).isNaN = true then 1 else 0 :=
  fsetV_flags_lt f a b
end

end Sys2Proof.Machine
end

section
/-! SUPPORT. Rounding to integers, classes, conversions and sums of products (R52 to R55, R140, R141, R150): what each comes to, case by case. -/

namespace Sys2Proof.Machine

/-! ## Rounding to an integer (R140, R54) -/

section
variable (rm : RMode) (draw : Nat) (neg : Bool) (m : Nat) (e : Int)

theorem roundInt_picks : picks rm draw neg (m * 2 ^ e) 1 (roundInt rm draw neg m e).1 := by
  have := picks_nearUnits rm draw neg m e 0
  rwa [zpow_zero] at this

theorem roundInt_inexact : (roundInt rm draw neg m e).2 = true ↔ ((roundInt rm draw neg m e).1 : ℚ) ≠ m * 2 ^ e := by
  have := unitsOf_rest_eq_zero rm draw neg m e 0
  rw [zpow_zero, mul_one] at this
  rw [show (roundInt rm draw neg m e).1 = nearUnits rm draw neg m e 0 from rfl, Ne, ← this]
  exact bne_iff_ne

theorem roundInt_flag : (if (roundInt rm draw neg m e).2 then flagInx else 0) =
    if ((roundInt rm draw neg m e).1 : ℚ) = m * 2 ^ e then 0 else 16 := by
  by_cases h : (roundInt rm draw neg m e).2 = true
  · rw [if_pos h, if_neg ((roundInt_inexact ..).1 h)]; rfl
  · rw [if_neg h, if_pos (not_not.1 fun hne => h ((roundInt_inexact ..).2 hne))]

theorem roundInt_zero : (roundInt rm draw neg 0 e).1 = 0 :=
  picks_eq_of_whole (rm := rm) (draw := draw) (neg := neg) one_pos (by simpa using roundInt_picks rm draw neg 0 e)

theorem roundInt_of_whole (h : 0 ≤ e) : (roundInt rm draw neg m e).1 = m * 2 ^ e.toNat := by
  have hval : (m : ℚ) * 2 ^ e = (m * 2 ^ e.toNat : Nat) * 1 := by
    have := two_pow_toNat h
    rw [sub_zero, zpow_zero, mul_one] at this
    push_cast; rw [this, mul_one]
  refine picks_eq_of_whole (rm := rm) (draw := draw) (neg := neg) one_pos ?_
  rw [← hval]
  exact roundInt_picks rm draw neg m e
end

/-! ## Finite patterns (R36) -/

/-- The significand and exponent of a finite pattern. -/
theorem fval_fin_bounds {f : Fmt} {a m : Nat} {n : Bool} {p : Int} (h : fval f a = .fin n m p) :
    m < 2 ^ (fracBits f + 1) ∧ 1 - bias f - fracBits f ≤ p ∧ (hasInf f = true → p ≤ maxExp f - fracBits f) := by
  have hfr := bitsOf_frac_lt f a
  have hef := bitsOf_exp_lt f a
  rw [fval_eq_fieldVal] at h
  generalize bitsOf a 0 (fracBits f) = fr at h hfr
  generalize bitsOf a (fracBits f) (expBits f) = ef at h hef
  have htop := maxExp_add_bias f
  have hcast : (2 : Int) ^ expBits f = (2 ^ expBits f : Nat) := by push_cast; rfl
  by_cases h1 : hasInf f = true ∧ ef = 2 ^ expBits f - 1
  · rw [fieldVal, if_pos h1] at h
    split at h <;> cases h
  by_cases h2 : f = .e4m3 ∧ ef = 15 ∧ fr = 7
  · rw [fieldVal, if_neg h1, if_pos h2] at h
    cases h
  rw [fieldVal_of_finite h1 h2] at h
  rw [Nat.pow_succ]
  have hpos := maxExp_pos f
  split at h
  · cases h
    exact ⟨by omega, le_rfl, fun _ => by omega⟩
  · next h0 =>
    cases h
    refine ⟨by omega, by omega, fun hi => ?_⟩
    rw [if_pos hi] at htop
    have : ef ≠ 2 ^ expBits f - 1 := fun he => h1 ⟨hi, he⟩
    omega

/-- The pattern of a zero. -/
theorem eq_signBit_of_fval_zero {f : Fmt} {a : Nat} {n : Bool} {p : Int} (ha : a < 2 ^ f.bits) (h : fval f a = .fin n 0 p) :
    a = signBit f n := by
  have hfields := eq_fields_of_lt ha
  rw [fval_eq_fieldVal] at h
  generalize bitsOf a 0 (fracBits f) = fr at h hfields
  generalize bitsOf a (fracBits f) (expBits f) = ef at h hfields
  generalize a.testBit (f.bits - 1) = neg at h hfields
  have hp := Nat.two_pow_pos (fracBits f)
  unfold fieldVal at h
  split at h
  · split at h <;> cases h
  · split at h
    · cases h
    · split at h
      · next h0 => cases h; rw [hfields, h0]; simp
      · simp only [FVal.fin.injEq] at h; omega

/-! ## `frnd` and `fclass` (R140, R141) -/

theorem frndV_fin {f : Fmt} {a m : Nat} {n : Bool} {p : Int} (h : fval f a = .fin n m p) (rm : RMode) (draw : Nat) (exact' : Bool) :
    frndV f rm draw exact' a =
      ((roundF f .rne 0 n (roundInt rm draw n m p).1 0).1, if exact' && (roundInt rm draw n m p).2 then flagInx else 0) := by
  simp only [frndV, h]

/-- The neighbour among the integers is a value of the format. -/
theorem frndV_fin_value {f : Fmt} (hf : f = .f32 ∨ f = .f64) {a m : Nat} {n : Bool} {p : Int} (h : fval f a = .fin n m p) (rm : RMode)
    (draw : Nat) : ∃ (m' : Nat) (p' : Int), fval f (roundF f .rne 0 n (roundInt rm draw n m p).1 0).1 = .fin n m' p' ∧
      (m' : ℚ) * 2 ^ p' = (roundInt rm draw n m p).1 := by
  obtain ⟨hm, hlo, hhi⟩ := fval_fin_bounds h
  have hinf : hasInf f = true := by rcases hf with rfl | rfl <;> rfl
  have hsig : maxSig f = 2 ^ (fracBits f + 1) - 1 := by rcases hf with rfl | rfl <;> rfl
  have hzero : 1 - (bias f : Int) - fracBits f ≤ 0 ∧ 0 ≤ maxExp f - fracBits f := by rcases hf with rfl | rfl <;> decide
  have key : ∀ (K : Nat) (j : Int), ((roundInt rm draw n m p).1 : ℚ) = K * 2 ^ j → K ≤ maxSig f → 1 - (bias f : Int) - fracBits f ≤ j →
      j ≤ maxExp f - fracBits f → ∃ (m' : Nat) (p' : Int), fval f (roundF f .rne 0 n (roundInt rm draw n m p).1 0).1 = .fin n m' p' ∧
        (m' : ℚ) * 2 ^ p' = (roundInt rm draw n m p).1 := by
    intro K j hval hK hj hj'
    obtain ⟨m', p', hf', hv⟩ := roundF_exact (f := f) .rne 0 n (e := 0) (by rw [zpow_zero, mul_one]; exact hval) hK hj hj'
    rw [zpow_zero, mul_one] at hv
    exact ⟨m', p', hf', hv⟩
  rcases le_or_gt 0 p with hp | hp
  · refine key m p ?_ (by omega) hlo (hhi hinf)
    rw [roundInt_of_whole _ _ _ _ _ hp]
    have := two_pow_toNat hp
    rw [sub_zero, zpow_zero, mul_one] at this
    push_cast; rw [this]
  · refine key (roundInt rm draw n m p).1 0 (by rw [zpow_zero, mul_one]) ?_ hzero.1 hzero.2
    obtain ⟨-, hlt, -⟩ := roundInt_picks rm draw n m p
    have h1 : (2 : ℚ) ^ p ≤ 2⁻¹ := by
      rw [← zpow_neg_one]; exact zpow_le_zpow_right₀ one_le_two (by omega)
    have h2 : (m : ℚ) < 2 ^ fracBits f * 2 := by rw [← pow_succ]; exact_mod_cast hm
    have h3 : (m : ℚ) * 2 ^ p ≤ m * 2⁻¹ := mul_le_mul_of_nonneg_left h1 (by positivity)
    have h4 : ((roundInt rm draw n m p).1 : ℚ) < 2 ^ fracBits f + 1 := by linarith
    have h5 : (roundInt rm draw n m p).1 < 2 ^ fracBits f + 1 := by exact_mod_cast h4
    have := (maxSig_bounds f).1
    omega

theorem fclassV_fields {f : Fmt} (hi : hasInf f = true) (a : Nat) : fclassV f a =
    let e := bitsOf a (fracBits f) (expBits f)
    let fr := bitsOf a 0 (fracBits f)
    let neg := a.testBit (f.bits - 1)
    if e = 2 ^ expBits f - 1 then (if fr = 0 then (if neg then 4 else 512) else if fr.testBit (fracBits f - 1) then 2 else 1)
    else if e ≠ 0 then (if neg then 8 else 256) else if fr = 0 then (if neg then 32 else 64) else if neg then 16 else 128 := by
  have h4 (x y : Nat) : ¬(f = .e4m3 ∧ x = 15 ∧ y = 7) := by rintro ⟨rfl, -⟩; cases hi
  have hfr := bitsOf_frac_lt f a
  have hp := Nat.two_pow_pos (fracBits f)
  rw [fclassV, fval_eq_fieldVal, fieldVal]
  generalize bitsOf a 0 (fracBits f) = fr at hfr ⊢
  generalize bitsOf a (fracBits f) (expBits f) = e
  generalize a.testBit (f.bits - 1) = neg
  dsimp only
  by_cases he : e = 2 ^ expBits f - 1
  · rw [if_pos ⟨hi, he⟩, if_pos he]
    by_cases h0 : fr = 0
    · rw [if_pos h0, if_pos h0]; cases neg <;> rfl
    · rw [if_neg h0, if_neg h0]; cases fr.testBit (fracBits f - 1) <;> rfl
  · rw [if_neg fun h => he h.2, if_neg (h4 _ _), if_neg he]
    by_cases h0 : e = 0
    · simp only [hfr, h0, ne_eq, not_true_eq_false, if_false, if_true]
    · have h1 : 2 ^ fracBits f + fr ≠ 0 := by omega
      have h2 : ¬ 2 ^ fracBits f + fr < 2 ^ fracBits f := by omega
      simp only [h0, h1, h2, ne_eq, not_false_eq_true, if_false, if_true]

/-! ## Conversions (R41, R52 to R54) -/

/-- What a conversion delivers beyond the largest finite value (R52, R53). -/
def overflowBits (b : Fmt) (rm : RMode) (sat neg : Bool) : Nat :=
  if b = .e2m1 ∨ (sat = true ∧ (b = .e4m3 ∨ b = .e5m2)) ∨ overInf rm neg = false then maxBits b neg
  else if b = .e4m3 then 0x7F else infBits b neg

section
variable {a b : Fmt} {rm : RMode} {draw : Nat} {sat : Bool} {v m : Nat} {neg : Bool} {e : Int}

theorem cvtFF_zero (h : fval a v = .fin neg 0 e) : cvtFF a b rm draw sat v = (signBit b neg, 0) := by
  simp only [cvtFF, h, if_true]

theorem cvtFF_within (h : fval a v = .fin neg m e) (hm : m ≠ 0) (hb : (roundTo b rm draw neg m e).beyond = false) :
    cvtFF a b rm draw sat v = roundF b rm draw neg m e := by
  simp only [cvtFF, h, if_neg hm, hb, Bool.false_eq_true, if_false, roundF_within hm hb]

theorem cvtFF_beyond (h : fval a v = .fin neg m e) (hm : m ≠ 0) (hb : (roundTo b rm draw neg m e).beyond = true) :
    cvtFF a b rm draw sat v = (overflowBits b rm sat neg, 20) := by
  simp only [cvtFF, h, if_neg hm, hb, if_true, Rounded.flags_beyond hb, overflowBits]
  generalize overInf rm neg = big
  cases b <;> cases sat <;> cases big <;> simp [canonNaN]

theorem cvtFF_inf (h : fval a v = .inf neg) : cvtFF a b rm draw sat v =
    if b = .e2m1 then (maxBits b neg, 1) else if b = .e4m3 then (if sat then maxBits b neg else 0x7F, 1)
    else if b = .e5m2 ∧ sat = true then (maxBits b neg, 1) else (infBits b neg, 0) := by
  simp only [cvtFF, h]
  cases b <;> cases sat <;> rfl

variable {fr : Nat} {sig : Bool}

theorem cvtFF_nan (h : fval a v = .nan sig neg fr) (hb : b ≠ .e2m1) (hw : widens a b = false) :
    cvtFF a b rm draw sat v = (canonNaN b, if sig then 1 else 0) := by
  simp only [cvtFF, h, if_neg hb, hw, Bool.false_eq_true, if_false]; rfl

theorem cvtFF_nan_e2m1 (h : fval a v = .nan sig neg fr) : cvtFF a .e2m1 rm draw sat v = (0, 1) := by
  simp only [cvtFF, h, if_true]; rfl

/-- The upper bit of a number of i + 1 bits, set. -/
theorem set_top_bit {k i : Nat} (h : k < 2 ^ (i + 1)) : (if k.testBit i then k else k + 2 ^ i) = Nat.lor k (2 ^ i) := by
  change _ = k ||| 2 ^ i
  cases ht : k.testBit i with
  | true =>
    refine Nat.eq_of_testBit_eq fun j => ?_
    by_cases hj : j = i
    · subst hj; simp [ht]
    · simp [Ne.symm hj]
  | false =>
    have hlt : k < 2 ^ i := by
      rw [Nat.testBit_eq_decide_div_mod_eq, decide_eq_false_iff_not] at ht
      by_contra hc
      have h1 : 1 ≤ k / 2 ^ i := (Nat.one_le_div_iff (Nat.two_pow_pos _)).2 (not_lt.1 hc)
      have h2 : k / 2 ^ i < 2 := Nat.div_lt_of_lt_mul (by rwa [Nat.pow_succ] at h)
      omega
    have := Nat.two_pow_add_eq_or_of_lt hlt 1
    rw [Nat.mul_one] at this
    simp only [Bool.false_eq_true, if_false]
    rw [Nat.add_comm, this, Nat.or_comm]

theorem nan_frac_lt (h : fval a v = .nan sig neg fr) : fr < 2 ^ fracBits a := by
  have hfr := bitsOf_frac_lt a v
  rw [fval_eq_fieldVal, fieldVal] at h
  split at h
  · split at h <;> cases h
    exact hfr
  · split at h
    · cases h; exact hfr
    · split at h <;> cases h

/-- A NaN widened: its fraction with the quiet bit set (R41). -/
theorem cvtFF_nan_widens (h : fval a v = .nan sig neg fr) (hw : widens a b = true) :
    (cvtFF a b rm draw sat v).2 = (if sig then 1 else 0) ∧ fval b (cvtFF a b rm draw sat v).1 =
      .nan false neg (Nat.lor (fr * 2 ^ (fracBits b - fracBits a)) (2 ^ (fracBits b - 1))) := by
  have hb : b ≠ .e2m1 := by rintro rfl; cases a <;> cases hw
  have hinf : hasInf b = true := by revert hw; cases a <;> cases b <;> decide
  have hle : fracBits a ≤ fracBits b := by revert hw; cases a <;> cases b <;> decide
  have hp := fracBits_pos b
  have hk : fr * 2 ^ (fracBits b - fracBits a) < 2 ^ (fracBits b - 1 + 1) := by
    rw [Nat.sub_add_cancel hp]
    calc fr * 2 ^ (fracBits b - fracBits a) < 2 ^ fracBits a * 2 ^ (fracBits b - fracBits a) :=
          Nat.mul_lt_mul_of_pos_right (nan_frac_lt h) (Nat.two_pow_pos _)
      _ = 2 ^ fracBits b := by rw [← Nat.pow_add, Nat.add_sub_cancel' hle]
  have hw' : cvtFF a b rm draw sat v = (signBit b neg + (2 ^ expBits b - 1) * 2 ^ fracBits b +
      Nat.lor (fr * 2 ^ (fracBits b - fracBits a)) (2 ^ (fracBits b - 1)), if sig then 1 else 0) := by
    simp only [cvtFF, h, if_neg hb, hw, if_true, set_top_bit hk]; rfl
  have hlt : Nat.lor (fr * 2 ^ (fracBits b - fracBits a)) (2 ^ (fracBits b - 1)) < 2 ^ fracBits b := by
    have h2 : 2 ^ (fracBits b - 1) < 2 ^ fracBits b := Nat.pow_lt_pow_right one_lt_two (by omega)
    rw [Nat.sub_add_cancel hp] at hk
    exact Nat.or_lt_two_pow hk h2
  have htop : (Nat.lor (fr * 2 ^ (fracBits b - fracBits a)) (2 ^ (fracBits b - 1))).testBit (fracBits b - 1) = true := by
    change (_ ||| _ : Nat).testBit _ = true
    simp
  have hne : Nat.lor (fr * 2 ^ (fracBits b - fracBits a)) (2 ^ (fracBits b - 1)) ≠ 0 := by
    intro h0; rw [h0] at htop; simp at htop
  rw [hw']
  refine ⟨rfl, ?_⟩
  rw [fval_fields neg (Nat.sub_lt (Nat.two_pow_pos _) one_pos) hlt, fieldVal, if_pos ⟨hinf, rfl⟩, if_neg hne, htop]
  rfl
end

theorem cvtIF_within {i : Int} {b : Fmt} {rm : RMode} {draw : Nat} (sat : Bool) (hi : i ≠ 0)
    (hb : (roundTo b rm draw (decide (i < 0)) i.natAbs 0).beyond = false) :
    cvtIF i b rm draw sat = ((roundF b rm draw (decide (i < 0)) i.natAbs 0).1,
      if (roundTo b rm draw (decide (i < 0)) i.natAbs 0).inexact then 16 else 0) := by
  have hm : i.natAbs ≠ 0 := Int.natAbs_ne_zero.2 hi
  simp only [cvtIF, if_neg hi, hb, Bool.false_eq_true, if_false, roundF_within hm hb, Rounded.flags_within hb]
  cases (roundTo b rm draw (decide (i < 0)) i.natAbs 0).inexact <;> cases (roundTo b rm draw (decide (i < 0)) i.natAbs 0).tiny <;> rfl

theorem cvtIF_beyond {i : Int} {b : Fmt} {rm : RMode} {draw : Nat} (sat : Bool) (hi : i ≠ 0)
    (hb : (roundTo b rm draw (decide (i < 0)) i.natAbs 0).beyond = true) :
    cvtIF i b rm draw sat = (overflowBits b rm sat (decide (i < 0)), 20) := by
  have hflags : (20 : Flags) &&& (flagOvf ||| flagInx) = 20 := rfl
  simp only [cvtIF, if_neg hi, hb, if_true, Rounded.flags_beyond hb, hflags, overflowBits]
  generalize overInf rm (decide (i < 0)) = big
  cases b <;> cases sat <;> cases big <;> simp [canonNaN]

theorem overflowBits_max {b : Fmt} {rm : RMode} {sat neg : Bool}
    (h : b = .e2m1 ∨ (sat = true ∧ (b = .e4m3 ∨ b = .e5m2)) ∨ ¬overInf rm neg = true) : overflowBits b rm sat neg = maxBits b neg :=
  if_pos (by simpa using h)

theorem overflowBits_inf {b : Fmt} {rm : RMode} {sat neg : Bool} (hb : b ≠ .e2m1) (hs : ¬(sat = true ∧ (b = .e4m3 ∨ b = .e5m2)))
    (h : overInf rm neg = true) : overflowBits b rm sat neg = if b = .e4m3 then 0x7F else infBits b neg :=
  if_neg (by rintro (h' | h' | h'); exacts [hb h', hs h', by simp [h] at h'])

theorem widens_iff {a b : Fmt} : widens a b = true ↔ (a = .f32 ∧ b = .f64) ∨ ((a = .f16 ∨ a = .bf16) ∧ (b = .f32 ∨ b = .f64)) ∨
    (a = .e5m2 ∧ (b = .f64 ∨ b = .f32 ∨ b = .f16 ∨ b = .bf16)) := by
  cases a <;> cases b <;> simp [widens]

/-- The value of an integer operand of a type's width (R131). -/
theorem val_of_lt {t : ITy} {v n : Nat} (hn : n = if t.wide then 64 else 32) (h : v < 2 ^ n) : t.val (BitVec.ofNat 64 v) =
    if (t == .i32 || t == .i64) = true ∧ 2 ^ (n - 1) ≤ v then (v : Int) - 2 ^ n else v := by
  subst hn
  cases t <;> simp only [ITy.wide, Bool.false_eq_true, if_false, if_true] at h ⊢ <;> simp [ITy.val, BitVec.toInt_eq_toNat_cond]
  case i32 => split_ifs <;> omega
  case i64 => split_ifs <;> omega
  case n32 => omega
  case n64 => omega

/-! ## Sums of products (R55, R150) -/

/-- The exact products of a list of pairs. -/
def products (ps : List (FVal × FVal)) : List Dy := ps.map fun p => (prodV p.1 p.2).2

theorem prodV_rat {x y : FVal} (hx : x.isFin = true) (hy : y.isFin = true) : (prodV x y).2.rat = ratOf x * ratOf y := by
  cases x <;> cases y <;> simp_all only [FVal.isFin, reduceCtorEq]
  exact Dy.rat_mul _ _

theorem prodV_neg {x y : FVal} (hx : x.isFin = true) (hy : y.isFin = true) : (prodV x y).2.neg = (signOf x != signOf y) := by
  cases x <;> cases y <;> simp_all only [FVal.isFin, reduceCtorEq]
  rfl

theorem products_rat {ps : List (FVal × FVal)} (h : ∀ p ∈ ps, p.1.isFin = true ∧ p.2.isFin = true) :
    ((products ps).map Dy.rat).sum = (ps.map fun p => ratOf p.1 * ratOf p.2).sum := by
  rw [products, List.map_map]
  exact congrArg List.sum (List.map_congr_left fun p hp => prodV_rat (h p hp).1 (h p hp).2)

theorem products_neg {ps : List (FVal × FVal)} (h : ∀ p ∈ ps, p.1.isFin = true ∧ p.2.isFin = true) {P : Bool → Prop} :
    (∀ d ∈ products ps, P d.neg) ↔ ∀ p ∈ ps, P (signOf p.1 != signOf p.2) := by
  simp only [products, List.forall_mem_map]
  exact forall₂_congr fun p hp => by rw [prodV_neg (h p hp).1 (h p hp).2]

/-- A product that is no NaN and not zero times infinity is infinite where a factor is. -/
theorem prodV_eq_some {x y : FVal} {n : Bool} (hx : x.isNaN = false) (hy : y.isNaN = false) :
    (prodV x y).1 = some n ↔ ((∃ m, x = .inf m) ∨ ∃ m, y = .inf m) ∧ n = (signOf x != signOf y) := by
  by_cases h : (∃ m, x = .inf m) ∨ ∃ m, y = .inf m
  · rw [prodV_inf hx hy h]
    rw [Option.some.injEq, and_iff_right h, eq_comm]
  · refine iff_of_false ?_ fun h' => h h'.1
    cases x <;> cases y <;> simp_all [prodV, FVal.isNaN]

theorem isFin_of_not_inf {x : FVal} (hn : x.isNaN = false) (hi : ∀ m, x ≠ .inf m) : x.isFin = true := by
  cases x with
  | nan => cases hn
  | inf m => exact absurd rfl (hi m)
  | fin => rfl

end Sys2Proof.Machine
end

section
/-! SUPPORT. The FP8 dot product (R150), and O19. -/

namespace Sys2Proof

open Sys2Proof.Machine

/-! ## The FP8 dot product (R150) -/

section
variable (f g : Fmt) (rm : RMode) (draw : Nat) (a b c : W32)

/-- The pairs of factors of a dot product. -/
def dotPairs : List (FVal × FVal) :=
  (List.range 4).map fun i => (fval f (a.toNat / 2 ^ (8 * i) % 256), fval g (b.toNat / 2 ^ (8 * i) % 256))

/-- The flags of signalling NaNs among its operands. -/
def dotFlags : Flags := (dotPairs f g a b).foldl (fun h p => h ||| p.1.sigFlag ||| p.2.sigFlag) (fval .f32 c.toNat).sigFlag

theorem dotPairs_elem : (List.range 4).map (fun i => (fval f (elem a 8 i), fval g (elem b 8 i))) = dotPairs f g a b := rfl

theorem mem_dotPairs {P : FVal × FVal → Prop} : (∃ p ∈ dotPairs f g a b, P p) ↔
    ∃ i < 4, P (fval f (a.toNat / 2 ^ (8 * i) % 256), fval g (b.toNat / 2 ^ (8 * i) % 256)) := by
  simp [dotPairs]

theorem forall_dotPairs {P : FVal × FVal → Prop} : (∀ p ∈ dotPairs f g a b, P p) ↔
    ∀ i < 4, P (fval f (a.toNat / 2 ^ (8 * i) % 256), fval g (b.toNat / 2 ^ (8 * i) % 256)) := by
  simp [dotPairs]

/-- The exact sum, term after term. -/
theorem dotPairs_sum (x : ℚ) : (List.range 4).foldl (fun q i => q + ratOf (fval f (a.toNat / 2 ^ (8 * i) % 256)) *
    ratOf (fval g (b.toNat / 2 ^ (8 * i) % 256))) x = x + ((dotPairs f g a b).map fun p => ratOf p.1 * ratOf p.2).sum := by
  simp only [dotPairs, List.range, List.range.loop, List.foldl_cons, List.foldl_nil, List.map_cons, List.map_nil, List.sum_cons, List.sum_nil]
  ring

variable {f g a b c}

theorem dotFp8_of_zeroTimesInf (h : ∃ p ∈ dotPairs f g a b, zeroTimesInf p.1 p.2 = true) :
    dotFp8 f g rm draw a b c = (canonNaN .f32, dotFlags f g a b c ||| 1) := by
  simp only [dotFp8, dotPairs_elem, List.any_eq_true.2 h, if_true]
  rfl

variable (hbad : ¬∃ p ∈ dotPairs f g a b, zeroTimesInf p.1 p.2 = true)
include hbad

theorem dotFp8_of_nan (h : (fval .f32 c.toNat).isNaN = true ∨ ∃ p ∈ dotPairs f g a b, p.1.isNaN = true ∨ p.2.isNaN = true) :
    dotFp8 f g rm draw a b c = (canonNaN .f32, dotFlags f g a b c) := by
  have h1 : ((dotPairs f g a b).any fun p => zeroTimesInf p.1 p.2) = false := by rwa [← Bool.not_eq_true, List.any_eq_true]
  have h2 : ((fval .f32 c.toNat).isNaN || (dotPairs f g a b).any fun p => p.1.isNaN || p.2.isNaN) = true := by
    simpa only [Bool.or_eq_true, List.any_eq_true] using h
  simp only [dotFp8, dotPairs_elem, h1, h2, Bool.false_eq_true, if_false, if_true]
  rfl

variable (hnan : ¬((fval .f32 c.toNat).isNaN = true ∨ ∃ p ∈ dotPairs f g a b, p.1.isNaN = true ∨ p.2.isNaN = true))
include hnan

/-- With neither a NaN nor a product of zero and infinity, what counts is the signs of the infinite terms. -/
theorem dotFp8_of_terms {p n : Bool} (hp : (fval .f32 c.toNat = .inf false ∨ ∃ q ∈ dotPairs f g a b, (prodV q.1 q.2).1 = some false) ↔ p = true)
    (hn : (fval .f32 c.toNat = .inf true ∨ ∃ q ∈ dotPairs f g a b, (prodV q.1 q.2).1 = some true) ↔ n = true) :
    (p = true → n = true → dotFp8 f g rm draw a b c = (canonNaN .f32, 1)) ∧
    (p = true → n = false → dotFp8 f g rm draw a b c = (infBits .f32 false, 0)) ∧
    (p = false → n = true → dotFp8 f g rm draw a b c = (infBits .f32 true, 0)) ∧
    (p = false → n = false → ∀ s m e, fval .f32 c.toNat = .fin s m e →
      dotFp8 f g rm draw a b c = ((products (dotPairs f g a b)).foldl (Dy.add rm) ⟨s, m, e⟩).round .f32 rm draw) := by
  have h1 : ((dotPairs f g a b).any fun p => zeroTimesInf p.1 p.2) = false := by rwa [← Bool.not_eq_true, List.any_eq_true]
  have h2 : ((fval .f32 c.toNat).isNaN || (dotPairs f g a b).any fun p => p.1.isNaN || p.2.isNaN) = false := by
    rw [← Bool.not_eq_true]
    simpa only [Bool.or_eq_true, List.any_eq_true] using hnan
  have h3 : (fval .f32 c.toNat == .inf false || ((dotPairs f g a b).map fun p => prodV p.1 p.2).any fun t => t.1 == some false) = p := by
    rw [Bool.eq_iff_iff, ← hp]
    simp only [Bool.or_eq_true, beq_iff_eq, List.any_map, List.any_eq_true, Function.comp]
  have h4 : (fval .f32 c.toNat == .inf true || ((dotPairs f g a b).map fun p => prodV p.1 p.2).any fun t => t.1 == some true) = n := by
    rw [Bool.eq_iff_iff, ← hn]
    simp only [Bool.or_eq_true, beq_iff_eq, List.any_map, List.any_eq_true, Function.comp]
  simp only [dotFp8, dotPairs_elem, h1, h2, h3, h4, Bool.false_eq_true, if_false]
  refine ⟨?_, ?_, ?_, ?_⟩
  · rintro rfl rfl; rfl
  · rintro rfl rfl; rfl
  · rintro rfl rfl; rfl
  · rintro rfl rfl s m e hc
    simp only [hc, Bool.and_self, Bool.false_eq_true, if_false, products, List.foldl_map]
end

/-- A sum of exact products and one term more is delivered with the sign that R43 gives a zero: that of all terms, or −0 only when rounding down. -/
theorem products_delivers {ps : List (FVal × FVal)} (hps : ∀ p ∈ ps, p.1.isFin = true ∧ p.2.isFin = true) (rm : RMode) (x : Dy) (f : Fmt) (draw : Nat) :
    let sum : ℚ := x.rat + (ps.map fun p => ratOf p.1 * ratOf p.2).sum
    let w := ((products ps).foldl (Dy.add rm) x).round f rm draw
    (∀ n, x.neg = n → (∀ p ∈ ps, (signOf p.1 != signOf p.2) = n) → delivers f rm draw n sum w) ∧
      ((∃ p ∈ ps, (signOf p.1 != signOf p.2) ≠ x.neg) → delivers f rm draw (rm == .rdn) sum w) := by
  have hsum : ((products ps).foldl (Dy.add rm) x).rat = x.rat + (ps.map fun p => ratOf p.1 * ratOf p.2).sum := by
    rw [Dy.rat_foldl_add, products_rat hps]
  simp only [← hsum]
  refine ⟨fun n hx hn => ?_, fun hmix => ?_⟩
  · exact Dy.round_delivers (fun _ => Dy.neg_foldl_add_of_same rm _ x hx ((products_neg hps (P := (· = n))).2 hn)) f rm draw
  · refine Dy.round_delivers (Dy.neg_foldl_add_of_mixed rm _ x (.inr ?_)) f rm draw
    by_contra hc
    have hc : ∀ d ∈ products ps, d.neg = x.neg := fun d hd => not_not.1 fun hne => hc ⟨d, hd, hne⟩
    obtain ⟨p, hp, hne⟩ := hmix
    exact hne ((products_neg hps (P := (· = x.neg))).1 hc p hp)

end Sys2Proof
end

section
/-! SUPPORT. The rules of floating-point numbers, clause by clause: O19. -/

namespace Sys2Proof

open Sys2Proof.Machine

/-- Settles O19: each rule by the lemma about its operation, over the exact values of its operands. -/
theorem floatRules : Obligations.FloatRules := by
  unfold Obligations.FloatRules
  refine ⟨?_, ?_, ?_, ?_, ?_, ?_, ?_⟩
  · intro n
    cases n <;> decide
  · intro f rm r x y z n m k a c d i j l hf
    refine ⟨fun h => ⟨addV_of_nan h f rm r, mulV_of_nan h f rm r⟩, addV_inf_opposite .., addV_inf_same .., addV_inf_fin .., addV_fin_inf ..,
      addV_delivers .., rfl, rfl, mulV_inf_inf .., fun ha => ⟨mulV_inf_fin f rm r n m i ha, mulV_fin_inf f rm r n m i ha⟩, mulV_delivers .., rfl, rfl, fun h => ?_, fun h hne => ?_, ?_, fmaV_fin_inf .., fmaV_delivers ..⟩
    · exact fmaV_of_nan (zeroTimesInf_of_nan h) (or_assoc.1 (.inl h)) f rm r
    · refine fmaV_of_nan ?_ (.inr (.inr h)) f rm r
      rw [← Bool.not_eq_true, zeroTimesInf_iff]
      rintro ⟨p, q, e, ⟨hx, hy⟩ | ⟨hy, hx⟩⟩
      · exact (hne p q).1 ⟨hx, e, hy⟩
      · exact (hne p q).2 ⟨hy, e, hx⟩
    · intro p q hpq
      obtain ⟨hz, hp, hq, hprod⟩ : zeroTimesInf p q = false ∧ p.isNaN = false ∧ q.isNaN = false ∧ (prodV p q).1 = some (n != m) := by
        rcases hpq with ⟨rfl, rfl⟩ | ⟨ha, ⟨rfl, rfl⟩ | ⟨rfl, rfl⟩⟩
        · exact ⟨rfl, rfl, rfl, rfl⟩
        · exact ⟨beq_false_of_ne ha, rfl, rfl, rfl⟩
        · exact ⟨beq_false_of_ne ha, rfl, rfl, rfl⟩
      refine ⟨?_, ?_, ?_⟩
      · rw [fmaV_inf_product hz hp hq rfl hprod, if_neg (by cases n <;> cases m <;> simp)]
      · rw [fmaV_inf_product hz hp hq rfl hprod, if_pos (by cases n <;> cases m <;> rfl)]
      · rw [fmaV_inf_product hz hp hq rfl hprod, if_neg (by simp)]
  · intro f rm draw neg m e hm
    refine ⟨roundTo_least .., roundTo_fits f rm draw neg e hm, roundTo_full f rm draw neg e hm, roundTo_picks .., roundTo_inexact ..,
      roundTo_tiny_iff f rm draw neg e hm, roundTo_beyond_iff f rm draw neg e hm, fun h => ?_, fun h => ⟨?_, ?_⟩⟩
    · simp only [roundF_beyond hm h, overInf_iff]
    · simp only [roundF_within hm h, Rounded.flags_within h, roundTo_inexact, ne_eq, ite_not]
    · simp only [roundF_within hm h]
      exact fval_packFin_roundTo f rm draw neg e hm h
  · intro f a b big nan hf
    refine ⟨minmaxV_flags .., minmaxV_of_nan f big nan a b, ?_, ?_, fun h => ?_, fun h => ?_, ?_, ?_, fsetV_lt .., fsetV_le .., rfl, rfl,
      fun h => ⟨?_, ?_⟩, fun h => ⟨?_, ?_⟩⟩
    · rintro rfl; exact minmaxV_left_nan f big a b
    · rintro rfl; exact minmaxV_right_nan f big a b
    · obtain ⟨hx, hy⟩ := not_or.1 h
      exact (minmaxV_of_numbers f big nan a b (Bool.not_eq_true _ ▸ hx) (Bool.not_eq_true _ ▸ hy)).1
    · obtain ⟨hx, hy⟩ := not_or.1 h
      exact (minmaxV_of_numbers f big nan a b (Bool.not_eq_true _ ▸ hx) (Bool.not_eq_true _ ▸ hy)).2
    · exact numEq_iff
    · rw [show (fsetV f .neu a b).1 = !(fval f a).numEq (fval f b) from rfl, Bool.not_eq_true', ← Bool.not_eq_true, numEq_iff]
      tauto
    · rw [fsetV_flags_lt, if_pos h]
    · rw [fsetV_flags_le, if_pos h]
    · rw [fsetV_flags_lt, if_neg h]
    · rw [fsetV_flags_le, if_neg h]
  · intro f a rm draw exact' hf ha
    refine ⟨fun sig n p h => ?_, fun n h => ?_, fun n m p h => ?_, ?_⟩
    · simp only [frndV, h]; rfl
    · simp only [frndV, h]
    · obtain ⟨m', p', hv, hval⟩ := frndV_fin_value hf h rm draw
      rw [h, abs_ratOf_fin, frndV_fin h]
      refine ⟨_, m', p', roundInt_picks .., hv, hval, ?_, ?_⟩
      · rintro rfl
        rw [roundInt_zero, roundF, if_pos rfl]
        exact (eq_signBit_of_fval_zero ha h).symm
      · simp only [Bool.and_eq_true, roundInt_inexact, ne_comm]
        rfl
    · rw [fclassV_fields (by rcases hf with rfl | rfl <;> rfl)]
      simp only [bitsOf, pow_zero, Nat.div_one]
  · intro f g rm draw a b c hf hg x y z w flags bad nan inf sum one
    have hbad : bad ↔ ∃ p ∈ dotPairs f g a b, zeroTimesInf p.1 p.2 = true := by
      rw [mem_dotPairs]; simp only [zeroTimesInf_iff]; rfl
    have hnan : nan ↔ (z.isNaN = true ∨ ∃ p ∈ dotPairs f g a b, p.1.isNaN = true ∨ p.2.isNaN = true) := by
      rw [mem_dotPairs]
    have hinf (hn : ¬nan) (n : Bool) : (z = .inf n ∨ ∃ p ∈ dotPairs f g a b, (prodV p.1 p.2).1 = some n) ↔ inf n := by
      rw [mem_dotPairs]
      refine or_congr_right (exists_congr fun i => and_congr_right fun hi => ?_)
      obtain ⟨hx, hy⟩ := not_or.1 fun h => hn (.inr ⟨i, hi, h⟩)
      exact prodV_eq_some (Bool.not_eq_true _ ▸ hx) (Bool.not_eq_true _ ▸ hy)
    classical
    have hterms (hb : ¬bad) (hn : ¬nan) := dotFp8_of_terms rm draw (mt hbad.2 hb) (mt hnan.2 hn) (p := decide (inf false)) (n := decide (inf true))
      ((hinf hn false).trans (decide_eq_true_iff ..).symm) ((hinf hn true).trans (decide_eq_true_iff ..).symm)
    simp only [decide_eq_true_eq, decide_eq_false_iff_not] at hterms
    refine ⟨fun h => dotFp8_of_zeroTimesInf rm draw (hbad.1 h), fun hb hn => dotFp8_of_nan rm draw (mt hbad.2 hb) (hnan.1 hn), fun hb hn ht hf => ?_,
      fun n hb hn => ?_, fun hn ht hf => ?_⟩
    · exact (hterms hb hn).1 hf ht
    · obtain ⟨-, hpos, hneg, -⟩ := hterms hb hn
      cases n with
      | false => exact hpos
      | true => exact fun ht hf => hneg hf ht
    · have hnoinf (n : Bool) : ¬inf n := by cases n; exacts [hf, ht]
      have hfin (i : Nat) (hi : i < 4) : (x i).isFin = true ∧ (y i).isFin = true := by
        obtain ⟨hx, hy⟩ := not_or.1 fun h => hn (.inr ⟨i, hi, h⟩)
        exact ⟨isFin_of_not_inf (Bool.not_eq_true _ ▸ hx) fun m h => hnoinf _ (.inr ⟨i, hi, .inl ⟨m, h⟩, rfl⟩),
          isFin_of_not_inf (Bool.not_eq_true _ ▸ hy) fun m h => hnoinf _ (.inr ⟨i, hi, .inr ⟨m, h⟩, rfl⟩)⟩
      have hb : ¬bad := by
        rintro ⟨i, hi, k, m, e, ⟨h, -⟩ | ⟨h, -⟩⟩
        · exact hnoinf _ (.inr ⟨i, hi, .inl ⟨k, h⟩, rfl⟩)
        · exact hnoinf _ (.inr ⟨i, hi, .inr ⟨k, h⟩, rfl⟩)
      obtain ⟨s, m, e, hz⟩ : ∃ s m e, z = .fin s m e := by
        cases hz : z with
        | nan => exact absurd (.inl (by rw [hz]; rfl)) hn
        | inf k => exact absurd (.inl hz) (hnoinf k)
        | fin s m e => exact ⟨s, m, e, rfl⟩
      have hw : w = _ := (hterms hb hn).2.2.2 hf ht s m e hz
      obtain ⟨hsame, hmixed⟩ := products_delivers ((forall_dotPairs f g a b).2 hfin) rm ⟨s, m, e⟩ .f32 draw
      rw [← hw] at hsame hmixed
      have hsum : sum = Dy.rat ⟨s, m, e⟩ + ((dotPairs f g a b).map fun p => ratOf p.1 * ratOf p.2).sum := by
        rw [← dotPairs_sum, Dy.rat, ← hz]
      have hsign : signOf z = s := by rw [hz]; rfl
      rw [hsum]
      refine ⟨fun n ⟨hzn, hall⟩ => hsame n (hsign.symm.trans hzn) ((forall_dotPairs f g a b).2 hall), fun h1 h0 => hmixed ?_⟩
      have hone : ¬one s := by cases s; exacts [h0, h1]
      by_contra hc
      refine hone ⟨hsign, (forall_dotPairs f g a b (P := fun p => (signOf p.1 != signOf p.2) = s)).1 fun p hp => ?_⟩
      exact not_not.1 fun hne => hc ⟨p, hp, hne⟩
  · intro k a b t draw v hab n signed big beyond
    have hbig (neg : Bool) : overInf k.rm neg = true ↔ big neg := overInf_iff k.rm neg
    have hbeyond (neg : Bool) : beyond neg (overflowBits b k.rm k.sat neg) := by
      refine ⟨fun h => overflowBits_max (by rwa [hbig]), fun hb h => ⟨?_, ?_, fun h4 h5 => ?_⟩⟩
      · rintro rfl hs
        rw [overflowBits_inf hb (by simp [hs]) ((hbig neg).2 h), if_pos rfl]
      · rintro rfl hs
        rw [overflowBits_inf hb (by simp [hs]) ((hbig neg).2 h), if_neg (by decide)]
      · rw [overflowBits_inf hb (by simp [h4, h5]) ((hbig neg).2 h), if_neg h4]
    refine ⟨?_, ?_, ?_⟩
    · intro hs hd w wider
      have hw : w = cvtFF a b k.rm draw k.sat v := by simp only [w, convert, hs, hd]
      have hwider : widens a b = true ↔ wider := widens_iff
      rw [hw]
      refine ⟨fun sig neg fr h => ⟨?_, fun hb hn => ?_, fun hn => ?_⟩, fun neg h => cvtFF_inf h, fun neg m e h => ⟨?_, fun hm hb => ?_, fun hm hb => ?_⟩⟩
      · rintro rfl; exact cvtFF_nan_e2m1 h
      · exact cvtFF_nan h hb (Bool.eq_false_iff.2 (mt hwider.1 hn))
      · exact cvtFF_nan_widens h (hwider.2 hn)
      · rintro rfl; exact cvtFF_zero h
      · exact cvtFF_within h hm hb
      · rw [cvtFF_beyond h hm hb]; exact ⟨hbeyond neg, rfl⟩
    · intro hs hd w lo hi bits
      have hw : w = cvtFI a t.wide signed k.rm draw v := by simp only [w, convert, hs, hd]; rfl
      rw [hw]
      refine ⟨fun h => ?_, fun neg h => ?_, fun neg m e h => ⟨(roundInt k.rm draw neg m e).1, ?_, ?_⟩⟩
      · cases hv : fval a v with
        | nan => simp only [cvtFI, hv]; rfl
        | inf => rw [hv] at h; cases h
        | fin => rw [hv] at h; cases h
      · simp only [cvtFI, h]; rfl
      · rw [h, abs_ratOf_fin]; exact roundInt_picks ..
      · rw [h, abs_ratOf_fin, ← roundInt_flag]
        simp only [cvtFI, h]
        rfl
    · intro hs hd hv w i neg
      have hi : t.val (BitVec.ofNat 64 v) = i := val_of_lt rfl hv
      have hw : w = cvtIF i b k.rm draw k.sat := by simp only [w, convert, hs, hd, hi]
      rw [hw]
      refine ⟨fun h => ?_, fun h hb => ?_, fun h hb => ?_⟩
      · rw [h]; rfl
      · rw [cvtIF_within k.sat h hb]; exact ⟨rfl, rfl⟩
      · rw [cvtIF_beyond k.sat h hb]; exact ⟨hbeyond neg, rfl⟩

end Sys2Proof
end

section
/-! SUPPORT. Typed buffers under the writes of a slip (R235, R267): the bytes and the poison of every buffer after one write and after many. -/

namespace Sys2Proof.Machine

/-! ## Poison of a memory -/

theorem mem_foldl_numAdd (f : Nat → Nat) (g : Nat) (is : List Nat) : ∀ l, g ∈ is.foldl (fun l i => numAdd l (f i)) l ↔ (∃ i ∈ is, g = f i) ∨ g ∈ l := by
  induction is with
  | nil => intro l; simp
  | cons i is ih => intro l; rw [List.foldl_cons, ih, mem_numAdd]; simp only [List.mem_cons]; aesop

theorem Mem.mem_poison_taint (m : Mem) (a n g : Nat) :
    g ∈ (m.taint a n).poison ↔ (a / 8 ≤ g ∧ g < (a + n + 7) / 8) ∨ g ∈ m.poison := by
  rw [Mem.taint, mem_foldl_numAdd]
  refine or_congr_left ⟨?_, fun ⟨h, h'⟩ => ⟨g - a / 8, List.mem_range.2 (by omega), by omega⟩⟩
  rintro ⟨i, hi, rfl⟩
  have := List.mem_range.1 hi
  omega

theorem Mem.poisoned_one {m : Mem} {o : Nat} : m.poisoned o 1 = true ↔ o / 8 ∈ m.poison := by
  simp only [Mem.poisoned, Nat.add_sub_cancel, Bool.and_eq_true, List.any_eq_true, decide_eq_true_eq, bne_iff_ne, ne_eq, one_ne_zero,
    not_false_eq_true, true_and]
  exact ⟨fun ⟨g, hg, h, h'⟩ => le_antisymm h h' ▸ hg, fun h => ⟨_, h, le_rfl, le_rfl⟩⟩

/-- Bytes read one by one. -/
theorem Mem.read_eq_of_byte {m : Mem} {a : Nat} {bs : List Byte} (h : ∀ i < bs.length, m.byte (a + i) = bs.getD i 0) : m.read a bs.length = bs := by
  refine List.ext_getElem (by simp) fun i h1 h2 => ?_
  have hr := (Mem.read_getD m bs.length a i h2).trans (h i h2)
  simpa [List.getD_eq_getElem?_getD, h2] using hr

/-! ## Buffers of a crew -/

theorem Crew.setBuf_id (c : Crew) (b : Nat) (m : Mem) : (c.setBuf b m).grid = c.grid ∧ (c.setBuf b m).num = c.num := by
  unfold Crew.setBuf
  split
  · exact ⟨rfl, rfl⟩
  · split <;> exact ⟨rfl, rfl⟩

theorem Crew.bufOf_setBuf (c : Crew) {b q : Nat} (m : Mem) (hb : b < 3) (hq : q < 3) :
    (c.setBuf b m).bufOf q = if q = b then m else c.bufOf q := by
  interval_cases b <;> interval_cases q <;> rfl

theorem State.crew?_modCrew (s : State) (g c : Nat) {f : Crew → Crew} (hf : ∀ x, (f x).grid = x.grid ∧ (f x).num = x.num) (g' c' : Nat) :
    (s.modCrew g c f).crew? g' c' = if g' = g ∧ c' = c then (s.crew? g' c').map f else s.crew? g' c' := by
  have hsame : (fun x : Crew => (if x.grid = g ∧ x.num = c then f x else x).grid == g' && (if x.grid = g ∧ x.num = c then f x else x).num == c') =
      fun x : Crew => x.grid == g' && x.num == c' := by
    funext x; split
    · rw [(hf x).1, (hf x).2]
    · rfl
  rw [State.crew?, State.modCrew_crews, List.find?_map, Function.comp_def, hsame]
  change (s.crew? g' c').map _ = _
  cases hx : s.crew? g' c' with
  | none => simp
  | some x =>
    obtain ⟨hg, hc⟩ : x.grid = g' ∧ x.num = c' := by simpa using List.find?_some hx
    subst hg; subst hc
    rw [Option.map_some]
    split <;> simp

theorem State.crew?_setBufMem_eq_none {s : State} {g k : Nat} {a : BufAddr} {m : Mem} {g' : Nat} :
    (s.setBufMem g a m).crew? g' k = none ↔ s.crew? g' k = none := by
  rw [State.setBufMem, State.crew?_modCrew s g a.crew fun x => x.setBuf_id a.buf m]
  split <;> simp

/-- A buffer after a write of one. -/
theorem State.bufMem_setBufMem (s : State) (g : Nat) (a : BufAddr) (m : Mem) (g' : Nat) (b : BufAddr) (ha : a.buf < 3) (hb : b.buf < 3) :
    (s.setBufMem g a m).bufMem g' b =
      if g' = g ∧ b.crew = a.crew ∧ b.buf = a.buf ∧ s.crew? g' b.crew ≠ none then m else s.bufMem g' b := by
  rw [State.bufMem, State.setBufMem, State.crew?_modCrew s g a.crew fun x => x.setBuf_id a.buf m, State.bufMem]
  by_cases h : g' = g ∧ b.crew = a.crew
  · rw [if_pos h]
    cases hx : s.crew? g' b.crew with
    | none => simp
    | some x => simp [Crew.bufOf_setBuf x m ha hb, h.1, h.2]
  · rw [if_neg h, if_neg fun h' => h ⟨h'.1, h'.2.1⟩]

/-! ## One write of a slip -/

/-- A write reaches a byte of a buffer. -/
def SlipWrite.covers (z : SlipWrite) (k q o : Nat) : Prop := z.crew = k ∧ z.buf = q ∧ z.off ≤ o ∧ o < z.off + z.bytes.length

theorem slipPut_crew? {s : State} {g : Nat} {z : SlipWrite} {g' k : Nat} : (s.slipPut g z).crew? g' k = none ↔ s.crew? g' k = none :=
  State.crew?_setBufMem_eq_none

section
variable (s : State) {g : Nat} {z : SlipWrite} (g' k : Nat) {q : Nat} (hz : z.buf < 3) (hq : q < 3)
include hz hq

theorem slipPut_bufMem : (s.slipPut g z).bufMem g' ⟨k, q, 0⟩ =
    if g' = g ∧ k = z.crew ∧ q = z.buf ∧ s.crew? g' k ≠ none then
      (if z.bad then ((s.bufMem g ⟨z.crew, z.buf, z.off⟩).write z.off z.bytes).taint z.off z.bytes.length
        else (s.bufMem g ⟨z.crew, z.buf, z.off⟩).write z.off z.bytes)
    else s.bufMem g' ⟨k, q, 0⟩ := State.bufMem_setBufMem s g ⟨z.crew, z.buf, z.off⟩ _ g' ⟨k, q, 0⟩ hz hq

/-- A byte that the write does not reach is as before. -/
theorem slipPut_byte_other (o : Nat) (h : ¬(g' = g ∧ z.covers k q o)) :
    ((s.slipPut g z).bufMem g' ⟨k, q, 0⟩).byte o = (s.bufMem g' ⟨k, q, 0⟩).byte o := by
  rw [slipPut_bufMem s g' k hz hq]
  split
  · next hc =>
    obtain ⟨rfl, rfl, rfl, -⟩ := hc
    rw [apply_ite (fun m => Mem.byte m o), Mem.byte_taint, ite_self, Mem.byte_write, if_neg fun hr => h ⟨rfl, rfl, rfl, hr⟩]
    rfl
  · rfl

/-- A byte that it reaches holds what is written. -/
theorem slipPut_byte_covered (o : Nat) (hk : s.crew? g k ≠ none) (h : z.covers k q o) :
    ((s.slipPut g z).bufMem g ⟨k, q, 0⟩).byte o = z.bytes.getD (o - z.off) 0 := by
  obtain ⟨rfl, rfl, hlo, hhi⟩ := h
  rw [slipPut_bufMem s g z.crew hz hq, if_pos ⟨rfl, rfl, rfl, hk⟩, apply_ite (fun m => Mem.byte m o), Mem.byte_taint, ite_self, Mem.byte_write,
    if_pos ⟨hlo, hhi⟩]

/-- A poisoned write poisons the granules that it touches, and no write clears poison (R216, R267). -/
theorem slipPut_poisoned (o : Nat) (hk : s.crew? g' k ≠ none) (hbytes : z.bytes ≠ []) :
    ((s.slipPut g z).bufMem g' ⟨k, q, 0⟩).poisoned o 1 = true ↔ (s.bufMem g' ⟨k, q, 0⟩).poisoned o 1 = true ∨
      (z.bad = true ∧ g' = g ∧ z.crew = k ∧ z.buf = q ∧ z.off / 8 ≤ o / 8 ∧ o / 8 ≤ (z.off + z.bytes.length - 1) / 8) := by
  have hlen := List.length_pos_iff.2 hbytes
  rw [slipPut_bufMem s g' k hz hq, Mem.poisoned_one, Mem.poisoned_one]
  by_cases hc : g' = g ∧ k = z.crew ∧ q = z.buf
  · obtain ⟨rfl, rfl, rfl⟩ := hc
    rw [if_pos ⟨rfl, rfl, rfl, hk⟩]
    change _ ↔ o / 8 ∈ (s.bufMem g' ⟨z.crew, z.buf, z.off⟩).poison ∨ _
    cases z.bad with
    | false => simp
    | true =>
      rw [if_pos rfl, Mem.mem_poison_taint, Mem.poison_write, or_comm]
      refine or_congr_right ⟨fun h => ⟨rfl, rfl, rfl, rfl, h.1, by omega⟩, fun ⟨_, _, _, _, h, h'⟩ => ⟨h, by omega⟩⟩
  · rw [if_neg fun h => hc ⟨h.1, h.2.1, h.2.2.1⟩, or_iff_left]
    exact fun h => hc ⟨h.2.1, h.2.2.1.symm, h.2.2.2.1.symm⟩

end

/-! ## All writes of a slip -/

/-- The state after some writes of a slip. -/
def slipPuts (g : Nat) (ws : List SlipWrite) (s : State) : State := ws.foldl (fun t z => t.slipPut g z) s

@[simp] theorem slipPuts_nil (g : Nat) (s : State) : slipPuts g [] s = s := rfl
@[simp] theorem slipPuts_cons (g : Nat) (z : SlipWrite) (ws : List SlipWrite) (s : State) : slipPuts g (z :: ws) s = slipPuts g ws (s.slipPut g z) := rfl
theorem slipPuts_append (g : Nat) (ws vs : List SlipWrite) (s : State) : slipPuts g (ws ++ vs) s = slipPuts g vs (slipPuts g ws s) :=
  List.foldl_append

theorem slipPuts_frame (g : Nat) (ws : List SlipWrite) : ∀ s, { slipPuts g ws s with crews := s.crews } = s := by
  induction ws with
  | nil => exact fun _ => rfl
  | cons z ws ih => exact fun s => (congrArg (fun t : State => { t with crews := s.crews }) (ih (s.slipPut g z)) :)

theorem slipPuts_crew? {g : Nat} (ws : List SlipWrite) {g' k : Nat} : ∀ {s : State}, (slipPuts g ws s).crew? g' k = none ↔ s.crew? g' k = none := by
  induction ws with
  | nil => exact Iff.rfl
  | cons z ws ih => exact ih.trans slipPut_crew?

/-- A byte that no write reaches is as before. -/
theorem slipPuts_byte_other {g g' k q o : Nat} (hq : q < 3) (ws : List SlipWrite) : ∀ s, (∀ z ∈ ws, z.buf < 3) →
    (∀ z ∈ ws, ¬(g' = g ∧ z.covers k q o)) → ((slipPuts g ws s).bufMem g' ⟨k, q, 0⟩).byte o = (s.bufMem g' ⟨k, q, 0⟩).byte o := by
  induction ws with
  | nil => exact fun _ _ _ => rfl
  | cons z ws ih =>
    intro s hb h
    obtain ⟨hz, hws⟩ := List.forall_mem_cons.1 hb
    obtain ⟨h1, h2⟩ := List.forall_mem_cons.1 h
    rw [slipPuts_cons, ih _ hws h2, slipPut_byte_other s g' k hz hq o h1]

/-- A write that no later one reaches is read back. -/
theorem slipPuts_read {g : Nat} {z : SlipWrite} (ws vs : List SlipWrite) (s : State) (hb : ∀ y ∈ ws ++ z :: vs, y.buf < 3)
    (hk : s.crew? g z.crew ≠ none) (hlast : ∀ y ∈ vs, ∀ o, z.covers z.crew z.buf o → ¬y.covers z.crew z.buf o) :
    ((slipPuts g (ws ++ z :: vs) s).bufMem g ⟨z.crew, z.buf, 0⟩).read z.off z.bytes.length = z.bytes := by
  have hz : z.buf < 3 := hb z (by simp)
  refine Mem.read_eq_of_byte fun i hi => ?_
  have hcov : z.covers z.crew z.buf (z.off + i) := ⟨rfl, rfl, by omega, by omega⟩
  rw [slipPuts_append, slipPuts_cons, slipPuts_byte_other hz vs _ (fun y hy => hb y (by simp [hy])) fun y hy h => hlast y hy _ hcov h.2,
    slipPut_byte_covered _ _ hz hz _ (mt (slipPuts_crew? ws).1 hk) hcov, Nat.add_sub_cancel_left]

/-- Where only zeros are written, a byte that is reached reads zero. -/
theorem slipPuts_byte_zero {g k q o : Nat} (hq : q < 3) (ws : List SlipWrite) : ∀ s, (∀ z ∈ ws, z.buf < 3) → (∀ z ∈ ws, ∀ b ∈ z.bytes, b = 0) →
    s.crew? g k ≠ none → ((s.bufMem g ⟨k, q, 0⟩).byte o = 0 ∨ ∃ z ∈ ws, z.covers k q o) →
      ((slipPuts g ws s).bufMem g ⟨k, q, 0⟩).byte o = 0 := by
  induction ws with
  | nil => rintro s - - - (h | ⟨z, hz, -⟩); exacts [h, absurd hz List.not_mem_nil]
  | cons z ws ih =>
    intro s hb hzero hk h
    obtain ⟨hz, hws⟩ := List.forall_mem_cons.1 hb
    obtain ⟨hz0, hws0⟩ := List.forall_mem_cons.1 hzero
    refine ih _ hws hws0 (mt slipPut_crew?.1 hk) ?_
    by_cases hc : z.covers k q o
    · left
      rw [slipPut_byte_covered s k hz hq o hk hc]
      have hi : o - z.off < z.bytes.length := by have := hc.2.2; omega
      rw [List.getD_eq_getElem _ _ hi]
      exact hz0 _ (List.getElem_mem hi)
    · rw [slipPut_byte_other s g k hz hq o fun h' => hc h'.2]
      refine h.imp_right ?_
      rintro ⟨y, hy, hcy⟩
      rcases List.mem_cons.1 hy with rfl | hy
      · exact absurd hcy hc
      · exact ⟨y, hy, hcy⟩

/-- The poison of a buffer after some writes. -/
theorem slipPuts_poisoned {g g' k q o : Nat} (hq : q < 3) (ws : List SlipWrite) : ∀ s, (∀ z ∈ ws, z.buf < 3 ∧ z.bytes ≠ []) → s.crew? g' k ≠ none →
    (((slipPuts g ws s).bufMem g' ⟨k, q, 0⟩).poisoned o 1 = true ↔ (s.bufMem g' ⟨k, q, 0⟩).poisoned o 1 = true ∨
      ∃ z ∈ ws, z.bad = true ∧ g' = g ∧ z.crew = k ∧ z.buf = q ∧ z.off / 8 ≤ o / 8 ∧ o / 8 ≤ (z.off + z.bytes.length - 1) / 8) := by
  induction ws with
  | nil => intro s _ _; simp
  | cons z ws ih =>
    intro s hb hk
    obtain ⟨⟨hz, hz0⟩, hws⟩ := List.forall_mem_cons.1 hb
    rw [slipPuts_cons, ih _ hws (mt slipPut_crew?.1 hk), slipPut_poisoned s g' k hz hq o hk hz0, List.exists_mem_cons_iff, or_assoc]

end Sys2Proof.Machine
end

section
/-! SUPPORT. What a slip writes, element by element (R247 to R256): where each write stands in the list of all, and the row of products that it sums. -/

namespace Sys2Proof.Machine

/-! ## Lists cut into pieces of one length -/

section
variable {α : Type} {n c : Nat} {f : Nat → List α} (h : ∀ i < n, (f i).length = c)
include h

theorem length_flatMap_range : ((List.range n).flatMap f).length = n * c := by
  rw [List.length_flatMap, List.map_congr_left fun i hi => h i (List.mem_range.1 hi)]
  simp

theorem getElem?_flatMap_range {i j : Nat} (hi : i < n) (hj : j < c) : ((List.range n).flatMap f)[i * c + j]? = (f i)[j]? := by
  induction n with
  | zero => omega
  | succ n ih =>
    have hn : ∀ i < n, (f i).length = c := fun i hi => h i (by omega)
    rw [List.range_succ, List.flatMap_append, List.flatMap_singleton]
    rcases Nat.lt_succ_iff_lt_or_eq.1 hi with hi | rfl
    · have : i * c + j < n * c := by nlinarith
      rw [List.getElem?_append_left (by rwa [length_flatMap_range hn]), ih hn hi]
    · rw [List.getElem?_append_right (by rw [length_flatMap_range hn]; omega), length_flatMap_range hn, Nat.add_sub_cancel_left]
end

theorem length_gridOf (rows cols : Nat) : (gridOf rows cols).length = rows * cols := length_flatMap_range (by simp)

theorem getElem?_gridOf {rows cols i j : Nat} (hi : i < rows) (hj : j < cols) : (gridOf rows cols)[i * cols + j]? = some (i, j) := by
  rw [gridOf, getElem?_flatMap_range (by simp) hi hj]
  simp [hj]

theorem getElem?_map_gridOf {α : Type} (f : Nat × Nat → α) {rows cols i j : Nat} (hi : i < rows) (hj : j < cols) :
    ((gridOf rows cols).map f)[i * cols + j]? = some (f (i, j)) := by
  rw [List.getElem?_map, getElem?_gridOf hi hj, Option.map_some]

/-! ## Rows of factors -/

/-- A row of `k` factors, each with its poison. -/
def factorRow (k : Nat) (p : Nat → FVal × Bool) : Row := (((List.range k).map p).map (·.1), ((List.range k).map p).any (·.2))

theorem opndRow_eq (s : State) (g : Nat) (o : Opnd) (shift sshift r : Nat) : s.opndRow g o shift sshift r =
    factorRow o.k (o.elem (s.bufMem g ⟨o.crew, o.buf, 0⟩) (s.bufMem g ⟨o.screw, o.sbuf, 0⟩) (o.base + shift) (o.sbase + sshift) r) := rfl

/-- A whole row of products, from −0 or an element as it stands. -/
theorem prodElem_factorRow (k : Nat) (init : Nat × Bool) (p q : Nat → FVal × Bool) : prodElem 0 ((k + 15) / 16) init (factorRow k p) (factorRow k q) =
    (msum init.1 ((List.range k).map fun i => ((p i).1, (q i).1)),
      init.2 || (List.range k).any (fun i => (p i).2) || (List.range k).any fun i => (q i).2) := by
  have hzip : (factorRow k p).1.zip (factorRow k q).1 = (List.range k).map fun i => ((p i).1, (q i).1) := by
    simp only [factorRow, List.map_map, List.zip_map', Function.comp_def]
  have hlen : ((List.range k).map fun i => ((p i).1, (q i).1)).length ≤ 16 * ((k + 15) / 16) := by simp; omega
  rw [prodElem, hzip, List.take_of_length_le hlen, Nat.mul_zero, List.drop_zero]
  simp only [factorRow, List.any_map, Function.comp_def]

/-- Element (i, j) of a product of `k` factors: from −0 or from what stands there. -/
def dotElem (s : State) (x : Slip) (h : Handle) (z : Bool) (i j k : Nat) (p q : Nat → FVal × Bool) : Nat × Bool :=
  let start := if z then (0x80000000, false) else s.accAt x.grid x.crew h i j
  (msum start.1 ((List.range k).map fun n => ((p n).1, (q n).1)),
    start.2 || (List.range k).any (fun n => (p n).2) || (List.range k).any (fun n => (q n).2))

/-! ## Products (R247) -/

section
variable {s : State} {x : Slip} (hx : x.blocks = 0) (h : Handle) (z : Bool) (first k n c : Nat) (p q : Nat → Nat → FVal × Bool)

theorem length_products : (s.products x ((k + 15) / 16) h z first ((List.range n).map fun i => factorRow k (p i)) ((List.range c).map fun j => factorRow k (q j))).length =
    n * c := by
  simp [State.products, length_gridOf]

include hx in
theorem getElem?_products {i j : Nat} (hi : i < n) (hj : j < c) :
    (s.products x ((k + 15) / 16) h z first ((List.range n).map fun i => factorRow k (p i)) ((List.range c).map fun j => factorRow k (q j)))[i * c + j]? =
      some (first + i, j, dotElem s x h z (first + i) j k (p i) (q j)) := by
  have hrow (r : Nat → Nat → FVal × Bool) {m l : Nat} (hl : l < m) : ((List.range m).map fun i => factorRow k (r i)).getD l ([], false) = factorRow k (r l) := by
    simp [List.getD_eq_getElem?_getD, hl]
  have hinit : s.initOf x h z (first + i) j = if z then (0x80000000, false) else s.accAt x.grid x.crew h (first + i) j := by
    rw [State.initOf, hx]; simp
  rw [State.products, List.length_map, List.length_map, List.length_range, List.length_range, getElem?_map_gridOf _ hi hj, hrow p hi, hrow q hj, hx,
    prodElem_factorRow, hinit, dotElem]

theorem length_prodWrites (crew : Nat) (es : List (Nat × Nat × Nat × Bool)) : (prodWrites h crew es).length = es.length := List.length_map _

theorem getElem?_prodWrites (crew : Nat) (es : List (Nat × Nat × Nat × Bool)) {i a b : Nat} {v : Nat × Bool} (he : es[i]? = some (a, b, v)) :
    (prodWrites h crew es)[i]? = some (h.write crew a b v) := by
  rw [prodWrites, List.getElem?_map, he, Option.map_some]
end

/-! ## Groups (R248) -/

section
variable {α : Type} {c : Nat} {f : Nat × Nat × Nat → List α} (hf : ∀ t, (f t).length = t.2.2 * c)
include hf

theorem length_flatMap_groupStarts (counts : List Nat) : ∀ g row, ((groupStarts g row counts).flatMap f).length = counts.sum * c := by
  induction counts with
  | nil => intro g row; simp [groupStarts]
  | cons n counts ih => intro g row; rw [groupStarts, List.flatMap_cons, List.length_append, hf, ih, List.sum_cons, Nat.add_mul]

theorem getElem?_flatMap_groupStarts (counts : List Nat) : ∀ g row k r j, r < counts.getD k 0 → j < c →
    ((groupStarts g row counts).flatMap f)[((counts.take k).sum + r) * c + j]? =
      (f (g + k, row + (counts.take k).sum, counts.getD k 0))[r * c + j]? := by
  induction counts with
  | nil => intro g row k r j hr; simp at hr
  | cons n counts ih =>
    intro g row k r j hr hj
    rw [groupStarts, List.flatMap_cons]
    cases k with
    | zero =>
      have hr : r < n := hr
      have : r * c + j < n * c := by nlinarith
      rw [List.take_zero, List.sum_nil, Nat.zero_add, List.getElem?_append_left (by rwa [hf])]
      rfl
    | succ k =>
      have hr : r < counts.getD k 0 := hr
      have hidx : ((n + (counts.take k).sum) + r) * c + j = n * c + (((counts.take k).sum + r) * c + j) := by ring
      rw [List.take_succ_cons, List.sum_cons, hidx, List.getElem?_append_right (by rw [hf]; exact Nat.le_add_right _ _), hf,
        Nat.add_sub_cancel_left, ih _ _ _ _ _ hr hj]
      congr 3
      · omega
      · exact congrArg₂ Prod.mk (Nat.add_assoc _ _ _) rfl
end

/-! ## Twin pairs (R252) -/

theorem length_folded (g : W32) (cs us : List (Nat × Nat × Nat × Bool)) (h : cs.length = us.length) : (folded g cs us).length = us.length := by
  simp [folded, h]

theorem getElem?_folded (g : W32) {cs us : List (Nat × Nat × Nat × Bool)} {i a b a' b' : Nat} {v w : Nat × Bool} (hc : cs[i]? = some (a, b, v))
    (hu : us[i]? = some (a', b', w)) : (folded g cs us)[i]? = some (a, b, foldF32 w.1 v.1 g.toNat, v.2 || w.2) := by
  rw [folded, List.getElem?_map, (List.getElem?_zip_eq_some (z := ((a, b, v), (a', b', w)))).2 ⟨hc, hu⟩, Option.map_some]

end Sys2Proof.Machine
end

section
/-! SUPPORT. The writes of each kind of slip (R247 to R249, R252, R254 to R256): how many there are, and which one an element is. -/

namespace Sys2Proof.Machine

section
variable {s : State} {x : Slip} (hx : x.blocks = 0)

/-- Element (r, k) of an operand, some bytes on from its own place and from that of its scales. -/
def State.opndElem (s : State) (g : Nat) (o : Opnd) (d e r k : Nat) : FVal × Bool :=
  o.elem (s.bufMem g ⟨o.crew, o.buf, 0⟩) (s.bufMem g ⟨o.screw, o.sbuf, 0⟩) (o.base + d) (o.sbase + e) r k

/-- Element (j, k) of the weights of a bank (R249). -/
def State.weightElem (s : State) (ty n start j k : Nat) : FVal × Bool :=
  let row := start + j * weightRow ty n
  let off := row + k * tyHalves ty / 2
  let so := row + n * tyHalves ty / 2 + k / 32
  ((tyVal ty (rawAt s.bankMem ty off (k % 2 == 1))).scaled (s.bankMem.byte so).toNat, s.bankMem.poisoned off 1 || s.bankMem.poisoned so 1)

theorem opndRows_eq (s : State) (g : Nat) (o : Opnd) (shift sshift rows : Nat) :
    s.opndRows g o shift sshift rows = (List.range rows).map fun i => factorRow o.k (s.opndElem g o shift sshift i) := rfl

theorem weightRows_eq (s : State) (ty n start cols : Nat) :
    (List.range cols).map (s.weightRowOf ty n start) = (List.range cols).map fun j => factorRow n (s.weightElem ty n start j) := rfl

/-! ## Products -/

section
variable {h : Handle} {a b : Opnd} {z : Bool}

theorem slipWrites_mul (hop : x.op = .mul h a b z) (hk : a.k = b.k) : s.slipWrites x x.op.blocks =
    prodWrites h x.crew (s.products x ((a.k + 15) / 16) h z 0 ((List.range h.rows).map fun i => factorRow a.k (s.opndElem x.grid a 0 0 i))
      ((List.range h.cols).map fun j => factorRow a.k (s.opndElem x.grid b 0 0 j))) := by
  simp only [State.slipWrites, hop, SlipOp.blocks, opndRows_eq, hk]

theorem slipWrites_weight {bank off : Nat} (hop : x.op = .weight h a z bank off) : s.slipWrites x x.op.blocks =
    prodWrites h x.crew (s.products x ((a.k + 15) / 16) h z 0 ((List.range h.rows).map fun i => factorRow a.k (s.opndElem x.grid a 0 0 i))
      ((List.range h.cols).map fun j => factorRow a.k (s.weightElem a.ty a.k (8388608 * bank + off) j))) := by
  simp only [State.slipWrites, hop, SlipOp.blocks, opndRows_eq, weightRows_eq, Config.bankBytes]

/-- The writes of one group of an `mmg`, by its number, first row and row count. -/
def groupWrites (s : State) (x : Slip) (h : Handle) (a b : Opnd) (z : Bool) (pitch : Nat) (t : Nat × Nat × Nat) : List SlipWrite :=
  prodWrites h x.crew (s.products x ((a.k + 15) / 16) h z t.2.1
    ((List.range t.2.2).map fun i => factorRow a.k (s.opndElem x.grid a 0 0 (t.2.1 + i)))
    ((List.range h.cols).map fun j => factorRow a.k (s.opndElem x.grid b (64 * pitch * t.1) (t.1 * h.cols * b.k / 32) j)))

theorem length_groupWrites (s : State) (x : Slip) (h : Handle) (a b : Opnd) (z : Bool) (pitch : Nat) (t : Nat × Nat × Nat) :
    (groupWrites s x h a b z pitch t).length = t.2.2 * h.cols := by
  rw [groupWrites, length_prodWrites, length_products]

theorem slipWrites_group {pitch table : Nat} {counts : List Nat} (hop : x.op = .group h a b z pitch table counts) (hk : a.k = b.k) :
    s.slipWrites x x.op.blocks = (groupStarts 0 0 counts).flatMap (groupWrites s x h a b z pitch) := by
  simp only [State.slipWrites, hop, SlipOp.blocks, opndRows_eq]
  refine congrArg (fun f => List.flatMap f (groupStarts 0 0 counts)) (funext fun t => ?_)
  by_cases ht : t.2.2 = 0
  · rw [if_pos ht]
    exact (List.length_eq_zero_iff.1 (by rw [length_groupWrites, ht, Nat.zero_mul])).symm
  · rw [if_neg ht, groupWrites]
    simp only [groupShift, opndRow_eq, hk]
    rfl

theorem slipWrites_pair {hc hu : Handle} {ac au : Opnd} {fold : Bool} (hop : x.op = .pair hc hu ac au b z fold) (hk : ac.k = b.k) (hk' : au.k = b.k)
    (hr : hc.rows = hu.rows) (hcols : hc.cols = hu.cols) :
    let rb := (List.range hu.cols).map fun j => factorRow b.k (s.opndElem x.grid b 0 0 j)
    let c := s.products x ((b.k + 15) / 16) hc z 0 ((List.range hu.rows).map fun i => factorRow b.k (s.opndElem x.grid ac 0 0 i)) rb
    let u := s.products x ((b.k + 15) / 16) hu z 0 ((List.range hu.rows).map fun i => factorRow b.k (s.opndElem x.grid au 0 0 i)) rb
    s.slipWrites x x.op.blocks = prodWrites hu x.crew u ++ prodWrites hc x.crew (if fold then folded hc.fold c u else c) := by
  simp only [State.slipWrites, hop, SlipOp.blocks, opndRows_eq, hk, hk', hr, hcols, and_true]

section
variable {hc hu : Handle} {ac au : Opnd} {fold : Bool} (hop : x.op = .pair hc hu ac au b z fold) (hk : ac.k = b.k) (hk' : au.k = b.k)
  (hr : hc.rows = hu.rows) (hcols : hc.cols = hu.cols)
include hop hk hk' hr hcols

theorem length_slipWrites_pair : (s.slipWrites x x.op.blocks).length = 2 * (hu.rows * hu.cols) := by
  rw [slipWrites_pair hop hk hk' hr hcols, List.length_append, length_prodWrites, length_prodWrites, length_products,
    apply_ite List.length, length_folded _ _ _ (by rw [length_products, length_products]), length_products, length_products, ite_self, two_mul]

include hx in
/-- The two products of a pair: the one as it is, and the cond twin's, folded where its region asks for it. -/
theorem getElem?_slipWrites_pair {i j : Nat} (hi : i < hu.rows) (hj : j < hu.cols) :
    let u := dotElem s x hu z i j b.k (s.opndElem x.grid au 0 0 i) (s.opndElem x.grid b 0 0 j)
    let c := dotElem s x hc z i j b.k (s.opndElem x.grid ac 0 0 i) (s.opndElem x.grid b 0 0 j)
    (s.slipWrites x x.op.blocks)[i * hu.cols + j]? = some (hu.write x.crew i j u) ∧
      (s.slipWrites x x.op.blocks)[hu.rows * hu.cols + (i * hc.cols + j)]? =
        some (hc.write x.crew i j (if fold then (foldF32 u.1 c.1 hc.fold.toNat, c.2 || u.2) else c)) := by
  have heu := getElem?_products (s := s) hx hu z 0 b.k hu.rows hu.cols (fun i => s.opndElem x.grid au 0 0 i) (fun j => s.opndElem x.grid b 0 0 j) hi hj
  have hec := getElem?_products (s := s) hx hc z 0 b.k hu.rows hu.cols (fun i => s.opndElem x.grid ac 0 0 i) (fun j => s.opndElem x.grid b 0 0 j) hi hj
  rw [Nat.zero_add] at heu hec
  have hplace : i * hu.cols + j < hu.rows * hu.cols := by nlinarith
  rw [slipWrites_pair hop hk hk' hr hcols, hcols]
  refine ⟨?_, ?_⟩
  · rw [List.getElem?_append_left (by rwa [length_prodWrites, length_products])]
    exact getElem?_prodWrites hu x.crew _ heu
  · rw [List.getElem?_append_right (by rw [length_prodWrites, length_products]; exact Nat.le_add_right _ _), length_prodWrites, length_products,
      Nat.add_sub_cancel_left]
    cases fold
    · exact getElem?_prodWrites hc x.crew _ hec
    · exact getElem?_prodWrites hc x.crew _ (getElem?_folded hc.fold hec heu)
end

include hx in
theorem getElem?_slipWrites_group {pitch table : Nat} {counts : List Nat} (hop : x.op = .group h a b z pitch table counts) (hk : a.k = b.k)
    {g r j : Nat} (hr : r < counts.getD g 0) (hj : j < h.cols) :
    let i := (counts.take g).sum + r
    (s.slipWrites x x.op.blocks)[i * h.cols + j]? = some (h.write x.crew i j (dotElem s x h z i j a.k (s.opndElem x.grid a 0 0 i)
      (s.opndElem x.grid b (64 * pitch * g) (g * h.cols * b.k / 32) j))) := by
  dsimp only
  rw [slipWrites_group hop hk, getElem?_flatMap_groupStarts (length_groupWrites s x h a b z pitch) counts 0 0 g r j hr hj]
  simp only [groupWrites, Nat.zero_add]
  exact getElem?_prodWrites h x.crew _ (getElem?_products hx h z _ a.k _ _ (fun i => s.opndElem x.grid a 0 0 ((counts.take g).sum + i)) _ hr hj)

end

/-! ## Elements moved and converted (R254 to R256) -/

section
variable {h : Handle} {o : Opnd}

theorem slipWrites_zero (hop : x.op = .zero h) :
    s.slipWrites x x.op.blocks = (gridOf h.rows h.cols).map fun ij => h.write x.crew ij.1 ij.2 (0, false) := by
  simp only [State.slipWrites, hop]

theorem slipWrites_store (hop : x.op = .store h o) : s.slipWrites x x.op.blocks = (gridOf h.rows h.cols).map fun ij =>
    ⟨o.crew, o.buf, o.off o.base ij.1 ij.2, natToBytes 4 (s.accAt x.grid x.crew h ij.1 ij.2).1, (s.accAt x.grid x.crew h ij.1 ij.2).2⟩ := by
  simp only [State.slipWrites, hop]

/-- What `acc.ld` loads of an element (R254). -/
def loadElem (s : State) (g : Nat) (o : Opnd) (i j : Nat) : Nat × Bool :=
  let m := s.bufMem g ⟨o.crew, o.buf, 0⟩
  let n := if o.ty = 0 then 4 else 2
  let raw := bytesToNat (m.read (o.off o.base i j) n)
  (if o.ty = 0 then raw else (cvtFF (if o.ty = 1 then .bf16 else .f16) .f32 .rne 0 false raw).1, m.poisoned (o.off o.base i j) n)

theorem tyHalves_div {ty : Nat} (hty : ty ≤ 2) : tyHalves ty / 2 = if ty = 0 then 4 else 2 := by
  interval_cases ty <;> rfl

/-- The bits of an element of a type without a half byte. -/
theorem rawAt_whole (m : Mem) {ty : Nat} (off : Nat) (odd : Bool) (hty : ty ≤ 2) :
    rawAt m ty off odd = bytesToNat (m.read off (if ty = 0 then 4 else 2)) := by
  have hsize : (tyHalves ty + 1) / 2 = if ty = 0 then 4 else 2 := by interval_cases ty <;> rfl
  rw [rawAt, if_neg (by omega), hsize]

/-- The format of a half-width element that `acc.ld` loads. -/
theorem tyFmt_half {ty : Nat} (h0 : ty ≠ 0) (hty : ty ≤ 2) : tyFmt ty = if ty = 1 then .bf16 else .f16 := by
  interval_cases ty
  exacts [absurd rfl h0, rfl, rfl]

theorem slipWrites_load (hop : x.op = .load h o) (hty : o.ty ≤ 2) :
    s.slipWrites x x.op.blocks = (gridOf h.rows h.cols).map fun ij => h.write x.crew ij.1 ij.2 (loadElem s x.grid o ij.1 ij.2) := by
  simp only [State.slipWrites, hop]
  refine List.map_congr_left fun ij _ => congrArg (h.write x.crew ij.1 ij.2) ?_
  rw [loadElem, rawAt_whole _ _ _ hty, tyHalves_div hty]
  by_cases h0 : o.ty = 0
  · simp only [h0, if_true]
  · simp only [if_neg h0, tyFmt_half h0 hty]

theorem slipWrites_plain {rm : RMode} {sat : Bool} (hop : x.op = .convert h o rm sat) (hlo : 1 ≤ o.ty) (hhi : o.ty ≤ 4) :
    s.slipWrites x x.op.blocks = (gridOf h.rows h.cols).map fun ij =>
      ⟨o.crew, o.buf, o.off o.base ij.1 ij.2, natToBytes (if o.ty ≤ 2 then 2 else 1) (cvtFF .f32 (tyFmt o.ty) rm
        (x.drawAt (s.descOf x.grid).seedLo (s.descOf x.grid).seedHi o h.cols ij.1 ij.2) sat (s.accAt x.grid x.crew h ij.1 ij.2).1).1,
        (s.accAt x.grid x.crew h ij.1 ij.2).2⟩ := by
  have hmx : tyMx o.ty = false := decide_eq_false (by omega)
  have hsize : tyHalves o.ty / 2 = if o.ty ≤ 2 then 2 else 1 := by
    generalize o.ty = ty at hlo hhi
    interval_cases ty <;> rfl
  simp only [State.slipWrites, hop, hmx, Bool.false_eq_true, if_false, State.convertPlain, hsize]

theorem natToBytes_one (v : Nat) : natToBytes 1 v = [BitVec.ofNat 8 v] := by simp [natToBytes]

/-- The elements of a microscaled block, their scale, and the elements as written (R256). -/
def blockVals (s : State) (x : Slip) (h : Handle) (i b : Nat) : List FVal :=
  (List.range 32).map fun j => fval .f32 (s.accAt x.grid x.crew h i (32 * b + j)).1

/-- A value that is no finite number other than zero. -/
def noFinite : FVal → Bool
  | .fin _ m _ => m == 0
  | _ => true

theorem noFinite_iff {v : FVal} : noFinite v = true ↔ dyExp v = none := by
  cases v <;> simp [noFinite, dyExp]

theorem mxZeros_eq (vs : List FVal) : mxZeros vs = vs.all noFinite := by
  rw [mxZeros, Bool.eq_iff_iff, List.isEmpty_iff, List.filterMap_eq_nil_iff, List.all_eq_true]
  exact forall₂_congr fun v _ => noFinite_iff.symm

theorem slipWrites_mx {rm : RMode} {sat : Bool} (hop : x.op = .convert h o rm sat) (hlo : 5 ≤ o.ty) (hhi : o.ty ≤ 8) : s.slipWrites x x.op.blocks =
    (List.range h.rows).flatMap fun i => (List.range (h.cols / 32)).flatMap fun b => s.convertBlock x h o rm i b := by
  simp only [State.slipWrites, hop, if_pos (show tyMx o.ty = true from decide_eq_true ⟨hlo, hhi⟩)]

/-- Whether an element of a block is poisoned. -/
def blockBad (s : State) (x : Slip) (h : Handle) (i b : Nat) : Bool := (List.range 32).any fun j => (s.accAt x.grid x.crew h i (32 * b + j)).2

/-- An element of a block as it is written. -/
def blockElem (s : State) (x : Slip) (h : Handle) (o : Opnd) (rm : RMode) (i b j : Nat) : Nat :=
  mxElem o.ty rm (x.drawAt (s.descOf x.grid).seedLo (s.descOf x.grid).seedHi o h.cols i (32 * b + j)) (mxScale o.ty (blockVals s x h i b))
    ((blockVals s x h i b).all noFinite) ((blockVals s x h i b).getD j (.inf false))

theorem convertBlock_eq (s : State) (x : Slip) (h : Handle) (o : Opnd) (rm : RMode) (i b : Nat) : s.convertBlock x h o rm i b =
    (List.range (if o.ty = 8 then 16 else 32)).map (fun j => (⟨o.crew, o.buf, o.off o.base i (32 * b + if o.ty = 8 then 2 * j else j),
      [BitVec.ofNat 8 (if o.ty = 8 then blockElem s x h o rm i b (2 * j) + 16 * blockElem s x h o rm i b (2 * j + 1) else blockElem s x h o rm i b j)],
      blockBad s x h i b⟩ : SlipWrite)) ++
    [⟨o.screw, o.sbuf, o.sbase + (i * (h.cols / 32) + b), [BitVec.ofNat 8 (mxScale o.ty (blockVals s x h i b))], blockBad s x h i b⟩] := by
  have hvals : ((List.range 32).map fun j => s.accAt x.grid x.crew h i (32 * b + j)).map (fun c => fval .f32 c.1) = blockVals s x h i b := List.map_map
  have hbad : ((List.range 32).map fun j => s.accAt x.grid x.crew h i (32 * b + j)).any (·.2) = blockBad s x h i b := List.any_map
  simp only [State.convertBlock, hvals, hbad, mxZeros_eq, natToBytes_one, ← Nat.add_assoc, blockElem]
  split <;> rfl

theorem length_convertBlock (s : State) (x : Slip) (h : Handle) (o : Opnd) (rm : RMode) (i b : Nat) :
    (s.convertBlock x h o rm i b).length = (if o.ty = 8 then 16 else 32) + 1 := by
  simp only [convertBlock_eq, List.length_append, List.length_map, List.length_range, List.length_singleton]

/-- A write of a block stands at its own place in the list of all. -/
theorem getElem?_slipWrites_mx {rm : RMode} {sat : Bool} (hop : x.op = .convert h o rm sat) (hlo : 5 ≤ o.ty) (hhi : o.ty ≤ 8) {i b j n : Nat}
    (hn : n = if o.ty = 8 then 16 else 32) (hi : i < h.rows) (hb : b < h.cols / 32) (hj : j < n + 1) :
    (s.slipWrites x x.op.blocks)[(i * (h.cols / 32) + b) * (n + 1) + j]? = (s.convertBlock x h o rm i b)[j]? := by
  have hlen (i b : Nat) : (s.convertBlock x h o rm i b).length = n + 1 := hn ▸ length_convertBlock s x h o rm i b
  have hidx : (i * (h.cols / 32) + b) * (n + 1) + j = i * (h.cols / 32 * (n + 1)) + (b * (n + 1) + j) := by ring
  have hrow : b * (n + 1) + j < h.cols / 32 * (n + 1) := by nlinarith
  rw [slipWrites_mx hop hlo hhi, hidx, getElem?_flatMap_range (fun i _ => length_flatMap_range fun b _ => hlen i b) hi hrow,
    getElem?_flatMap_range (fun b _ => hlen i b) hb hj]

theorem getElem?_convertBlock_scale (s : State) (x : Slip) (h : Handle) (o : Opnd) (rm : RMode) (i b : Nat) :
    (s.convertBlock x h o rm i b)[if o.ty = 8 then 16 else 32]? =
      some ⟨o.screw, o.sbuf, o.sbase + (i * (h.cols / 32) + b), [BitVec.ofNat 8 (mxScale o.ty (blockVals s x h i b))], blockBad s x h i b⟩ := by
  rw [convertBlock_eq, List.getElem?_append_right (by simp)]
  simp

theorem getElem?_convertBlock_elem (s : State) (x : Slip) (h : Handle) (o : Opnd) (rm : RMode) (i b : Nat) {j : Nat}
    (hj : j < if o.ty = 8 then 16 else 32) : (s.convertBlock x h o rm i b)[j]? =
      some ⟨o.crew, o.buf, o.off o.base i (32 * b + if o.ty = 8 then 2 * j else j), [BitVec.ofNat 8 (if o.ty = 8 then
        blockElem s x h o rm i b (2 * j) + 16 * blockElem s x h o rm i b (2 * j + 1) else blockElem s x h o rm i b j)], blockBad s x h i b⟩ := by
  rw [convertBlock_eq, List.getElem?_append_left (by simpa using hj), List.getElem?_map, List.getElem?_range hj, Option.map_some]

end
end

end Sys2Proof.Machine
end

section
/-! SUPPORT. The events of a slip (R235, R238, R267): which slip an idle engine starts, and the state after a completion. -/

namespace Sys2Proof.Machine

/-! ## The start (R238) -/

/-- The slip that starts is an eligible one of its cluster, and of priority 1 where there is one of that priority. -/
theorem nextSlip_eq_some {s : State} {c : Nat} {x : Slip} (h : s.nextSlip c = some x) : x ∈ s.slips ∧ x.cluster = c ∧ s.eligible x = true ∧
    (x.priority ≠ 1 → ∀ y ∈ s.slips, y.cluster = c → s.eligible y = true → y.priority ≠ 1) := by
  have hmem {y : Slip} : y ∈ s.slips.filter (fun x => x.cluster == c && s.eligible x) ↔ y ∈ s.slips ∧ y.cluster = c ∧ s.eligible y = true := by
    simp [List.mem_filter]
  rw [State.nextSlip] at h
  cases hf : (s.slips.filter fun x => x.cluster == c && s.eligible x).find? fun x => x.priority == 1 with
  | some y =>
    obtain rfl : y = x := by simpa [hf] using h
    obtain ⟨h1, h2, h3⟩ := hmem.1 (List.mem_of_find?_eq_some hf)
    exact ⟨h1, h2, h3, fun hp => absurd (by simpa using List.find?_some hf) hp⟩
  | none =>
    obtain ⟨h1, h2, h3⟩ := hmem.1 (List.mem_of_head? (by simpa [hf] using h))
    refine ⟨h1, h2, h3, fun _ y hy hc he hp => ?_⟩
    exact List.find?_eq_none.1 hf y (hmem.2 ⟨hy, hc, he⟩) (by simpa using hp)

theorem execSlipStart_eq {s : State} {c : Nat} {x : Slip} (hidle : ∀ y ∈ s.slips, y.cluster = c → y.started = false) (h : s.nextSlip c = some x) :
    execSlipStart c s = .next { s with slips := s.slips.map fun y => if y.order = x.order then { y with started := true } else y } := by
  have hnone : (s.slips.any fun x => x.cluster == c && x.started) = false := by
    refine List.any_eq_false.2 fun y hy => ?_
    by_cases hc : y.cluster = c <;> simp [hc, hidle y hy]
  simp only [execSlipStart, hnone, Bool.false_eq_true, if_false, h]
  rfl

/-! ## The completion (R235, R267) -/

/-- A slip that no residue check has failed writes everything and leaves the table. -/
theorem execSlipComplete_eq {s : State} {n : Nat} {x : Slip} (hx : s.slips.find? (fun y => y.order == n && y.started && !y.held) = some x)
    (hf : x.failed = false) : execSlipComplete n false s = .next (slipPuts x.grid (s.slipWrites x x.op.blocks) (s.dropSlip n)) := by
  simp only [execSlipComplete, hx, hf, Bool.false_eq_true, if_false, Bool.false_and]
  rfl

section
variable {s : State} {n g : Nat} {ws : List SlipWrite}

theorem slipPuts_dropSlip_slips (y : Slip) : y ∈ (slipPuts g ws (s.dropSlip n)).slips ↔ y ∈ s.slips ∧ y.order ≠ n := by
  have hslips : (slipPuts g ws (s.dropSlip n)).slips = (s.dropSlip n).slips := (congrArg State.slips (slipPuts_frame g ws (s.dropSlip n)) :)
  rw [hslips]
  simp [State.dropSlip, List.mem_filter]

theorem slipPuts_dropSlip_frame : { slipPuts g ws (s.dropSlip n) with slips := s.slips, crews := s.crews } = s :=
  congrArg (fun t : State => { t with slips := s.slips }) (slipPuts_frame g ws (s.dropSlip n))

/-- The write at a place of the list that no later one reaches is read back. -/
theorem slipPuts_read_getElem? {i : Nat} {z : SlipWrite} (hb : ∀ y ∈ ws, y.buf < 3) (hz : ws[i]? = some z) (hk : s.crew? g z.crew ≠ none)
    (hlast : ∀ (j : Nat) (y : SlipWrite), i < j → ws[j]? = some y →
      y.crew ≠ z.crew ∨ y.buf ≠ z.buf ∨ y.off + y.bytes.length ≤ z.off ∨ z.off + z.bytes.length ≤ y.off) :
    ((slipPuts g ws s).bufMem g ⟨z.crew, z.buf, 0⟩).read z.off z.bytes.length = z.bytes := by
  obtain ⟨hi, hzi⟩ := List.getElem?_eq_some_iff.1 hz
  have hsplit : ws = ws.take i ++ z :: ws.drop (i + 1) := by rw [← hzi, List.getElem_cons_drop, List.take_append_drop]
  have hread := slipPuts_read (ws.take i) (ws.drop (i + 1)) s (hsplit ▸ hb) hk fun y hy o hzo hyo => ?_
  · rwa [← hsplit] at hread
  obtain ⟨j, hj⟩ := List.mem_iff_getElem?.1 hy
  obtain ⟨-, -, h1, h2⟩ := hzo
  obtain ⟨h3, h4, h5, h6⟩ := hyo
  have := hlast (i + 1 + j) y (by omega) (by rwa [List.getElem?_drop] at hj)
  omega

end

/-- A memory reads as zero where every byte is. -/
theorem bytesToNat_read_eq_zero {m : Mem} (n : Nat) : ∀ a, (∀ i < n, m.byte (a + i) = 0) → bytesToNat (m.read a n) = 0 := by
  induction n with
  | zero => exact fun _ _ => rfl
  | succ n ih =>
    intro a h
    have h0 : m.byte a = 0 := h 0 (by omega)
    have hrest : bytesToNat (m.read (a + 1) n) = 0 := ih (a + 1) fun i hi => by rw [Nat.add_assoc, Nat.add_comm 1]; exact h (i + 1) (by omega)
    rw [Mem.read, bytesToNat, h0, hrest]
    rfl

/-- After the zeros of an `acc.zero`, every element of its region is zero (R254). -/
theorem slipPuts_zero {s : State} {g crew : Nat} {h : Handle} (hk : s.crew? g crew ≠ none) {i j : Nat} (hi : i < h.rows) (hj : j < h.cols) :
    bytesToNat (((slipPuts g ((gridOf h.rows h.cols).map fun ij => h.write crew ij.1 ij.2 (0, false)) s).bufMem g ⟨crew, 2, 0⟩).read
      (h.base + 4 * (i * h.cols + j)) 4) = 0 := by
  refine bytesToNat_read_eq_zero 4 _ fun d hd => slipPuts_byte_zero (by omega) _ s ?_ ?_ hk ?_
  · rintro z hz
    obtain ⟨ij, -, rfl⟩ := List.mem_map.1 hz
    exact Nat.lt_succ_self 2
  · rintro z hz b hb
    obtain ⟨ij, -, rfl⟩ := List.mem_map.1 hz
    simpa [Handle.write, natToBytes] using hb
  · exact .inr ⟨_, List.mem_of_getElem? (getElem?_map_gridOf _ hi hj), rfl, rfl, Nat.le_add_right _ _, Nat.add_lt_add_left hd _⟩

end Sys2Proof.Machine
end

section
/-! SUPPORT. The order of a product's sums (R55): blocks of 16, each with one rounding, their invalid and infinite cases. -/

namespace Sys2Proof.Machine

/-! ## One term of a block -/

/-- A product that makes its element the canonical NaN. -/
def badTerm (p : FVal × FVal) : Bool := p.1.isNaN || p.2.isNaN || zeroTimesInf p.1 p.2

/-- A product that is an infinity of sign `n`. -/
def infTerm (n : Bool) (p : FVal × FVal) : Bool := !badTerm p && (prodV p.1 p.2).1 == some n

theorem badTerm_iff {p : FVal × FVal} : badTerm p = true ↔ p.1.isNaN = true ∨ p.2.isNaN = true ∨
    ∃ n m e, (p.1 = .inf n ∧ p.2 = .fin m 0 e) ∨ (p.1 = .fin m 0 e ∧ p.2 = .inf n) := by
  rw [badTerm, Bool.or_eq_true, Bool.or_eq_true, or_assoc, zeroTimesInf_iff]
  simp only [and_comm (a := p.2 = _)]

theorem infTerm_iff {p : FVal × FVal} {n : Bool} (h : badTerm p = false) :
    infTerm n p = true ↔ ((∃ m, p.1 = .inf m) ∨ ∃ m, p.2 = .inf m) ∧ (signOf p.1 != signOf p.2) = n := by
  obtain ⟨⟨hx, hy⟩, -⟩ : (p.1.isNaN = false ∧ p.2.isNaN = false) ∧ zeroTimesInf p.1 p.2 = false := by simpa [badTerm] using h
  rw [infTerm, h, Bool.not_false, Bool.true_and, beq_iff_eq, prodV_eq_some hx hy, eq_comm (a := n)]

/-- With neither an invalid nor an infinite term, every factor is finite. -/
theorem isFin_of_terms {p : FVal × FVal} (hb : badTerm p = false) (hi : ∀ n, infTerm n p = false) : p.1.isFin = true ∧ p.2.isFin = true := by
  obtain ⟨⟨hx, hy⟩, -⟩ : (p.1.isNaN = false ∧ p.2.isNaN = false) ∧ zeroTimesInf p.1 p.2 = false := by simpa [badTerm] using hb
  have hni : ¬((∃ m, p.1 = .inf m) ∨ ∃ m, p.2 = .inf m) := fun h =>
    Bool.false_ne_true ((hi _).symm.trans ((infTerm_iff hb).2 ⟨h, rfl⟩))
  exact ⟨isFin_of_not_inf hx fun m h => hni (.inl ⟨m, h⟩), isFin_of_not_inf hy fun m h => hni (.inr ⟨m, h⟩)⟩

/-! ## A block -/

/-- What a block has gathered after its first term. -/
def Acc.first (p : FVal × FVal) : Acc :=
  if badTerm p then ⟨true, false, false, ⟨false, 0, 0⟩⟩
  else
    match prodV p.1 p.2 with
    | (some true, _) => ⟨false, false, true, ⟨false, 0, 0⟩⟩
    | (some false, _) => ⟨false, true, false, ⟨false, 0, 0⟩⟩
    | (none, d) => ⟨false, false, false, d⟩

theorem Acc.first_flags (p : FVal × FVal) : (Acc.first p).nan = badTerm p ∧ (Acc.first p).pinf = infTerm false p ∧ (Acc.first p).ninf = infTerm true p := by
  cases hb : badTerm p with
  | true => simp [Acc.first, infTerm, hb]
  | false => rcases hp : prodV p.1 p.2 with ⟨_ | _ | _, d⟩ <;> simp [Acc.first, infTerm, hb, hp]

theorem FVal.eq_fin_of_isFin {x : FVal} (h : x.isFin = true) : ∃ n m e, x = .fin n m e := by
  cases x with
  | fin n m e => exact ⟨n, m, e, rfl⟩
  | nan | inf => cases h

theorem Acc.first_sum {p : FVal × FVal} (hx : p.1.isFin = true) (hy : p.2.isFin = true) : (Acc.first p).sum = (prodV p.1 p.2).2 := by
  obtain ⟨x, y⟩ := p
  obtain ⟨n, m, e, rfl⟩ := FVal.eq_fin_of_isFin hx
  obtain ⟨k, l, d, rfl⟩ := FVal.eq_fin_of_isFin hy
  rfl

/-- What it delivers. -/
def Acc.result (a : Acc) : Option Nat :=
  if a.nan || (a.pinf && a.ninf) then none
  else if a.pinf then some (infBits .f32 false)
  else if a.ninf then some (infBits .f32 true)
  else some (a.sum.round .f32 .rne 0).1

theorem blockSum_cons (p : FVal × FVal) (r : List (FVal × FVal)) :
    blockSum (p :: r) = (r.foldl (fun (a : Acc) q => a.addProd q.1 q.2) (Acc.first p)).result := rfl

theorem Acc.addProd_flags (a : Acc) (p : FVal × FVal) : (a.addProd p.1 p.2).nan = (a.nan || badTerm p) ∧
    (a.addProd p.1 p.2).pinf = (a.pinf || infTerm false p) ∧ (a.addProd p.1 p.2).ninf = (a.ninf || infTerm true p) := by
  by_cases hb : badTerm p = true
  · have hp : a.addProd p.1 p.2 = { a with nan := true } := if_pos hb
    simp [hp, infTerm, hb]
  · rw [Bool.not_eq_true] at hb
    rcases hp : prodV p.1 p.2 with ⟨_ | _ | _, d⟩ <;>
      simp [Acc.addProd, infTerm, hb, hp, show (p.1.isNaN || p.2.isNaN || zeroTimesInf p.1 p.2) = false from hb]

theorem Acc.foldl_flags (r : List (FVal × FVal)) : ∀ a : Acc,
    let t := r.foldl (fun (a : Acc) q => a.addProd q.1 q.2) a
    t.nan = (a.nan || r.any badTerm) ∧ t.pinf = (a.pinf || r.any (infTerm false)) ∧ t.ninf = (a.ninf || r.any (infTerm true)) := by
  induction r with
  | nil => intro a; simp
  | cons p r ih =>
    intro a
    obtain ⟨h1, h2, h3⟩ := a.addProd_flags p
    obtain ⟨i1, i2, i3⟩ := ih (a.addProd p.1 p.2)
    simp only [List.foldl_cons, List.any_cons, ← Bool.or_assoc, ← h1, ← h2, ← h3]
    exact ⟨i1, i2, i3⟩

theorem Acc.foldl_sum (r : List (FVal × FVal)) (h : ∀ p ∈ r, p.1.isFin = true ∧ p.2.isFin = true) : ∀ a : Acc,
    (r.foldl (fun (a : Acc) q => a.addProd q.1 q.2) a).sum = (products r).foldl (Dy.add .rne) a.sum := by
  induction r with
  | nil => exact fun _ => rfl
  | cons p r ih =>
    intro a
    obtain ⟨⟨hx, hy⟩, hr⟩ := List.forall_mem_cons.1 h
    have hsum : (a.addProd p.1 p.2).sum = Dy.add .rne a.sum (prodV p.1 p.2).2 := by
      obtain ⟨x, y⟩ := p
      obtain ⟨n, m, e, rfl⟩ := FVal.eq_fin_of_isFin hx
      obtain ⟨k, l, d, rfl⟩ := FVal.eq_fin_of_isFin hy
      rfl
    rw [List.foldl_cons, ih hr, hsum]
    rfl

section
variable {ps : List (FVal × FVal)} (hps : ps ≠ [])
include hps

/-- A block by its terms: the invalid ones, the infinite ones of each sign, or the rounded sum. -/
theorem blockSum_eq_result : ∃ a : Acc, blockSum ps = a.result ∧ a.nan = ps.any badTerm ∧ a.pinf = ps.any (infTerm false) ∧ a.ninf = ps.any (infTerm true) := by
  obtain ⟨p, r, rfl⟩ := List.exists_cons_of_ne_nil hps
  obtain ⟨h1, h2, h3⟩ := Acc.first_flags p
  refine ⟨_, blockSum_cons p r, ?_⟩
  simp only [List.any_cons, ← h1, ← h2, ← h3]
  exact Acc.foldl_flags r (Acc.first p)

theorem blockSum_eq_none : blockSum ps = none ↔ ps.any badTerm = true ∨ (ps.any (infTerm true) = true ∧ ps.any (infTerm false) = true) := by
  obtain ⟨a, ha, h1, h2, h3⟩ := blockSum_eq_result hps
  rw [ha, ← h1, ← h2, ← h3, Acc.result]
  cases a.nan <;> cases a.pinf <;> cases a.ninf <;> simp

theorem blockSum_of_inf {n : Bool} (hb : ps.any badTerm = false) (hn : ps.any (infTerm n) = true) (hn' : ps.any (infTerm !n) = false) :
    blockSum ps = some (infBits .f32 n) := by
  obtain ⟨a, ha, h1, h2, h3⟩ := blockSum_eq_result hps
  rw [ha, Acc.result, h1, h2, h3, hb]
  cases n
  · rw [hn, show ps.any (infTerm true) = false from hn']; rfl
  · rw [hn, show ps.any (infTerm false) = false from hn']; rfl

/-- The rounded sum of a block of finite terms. -/
theorem blockSum_of_finite (hb : ps.any badTerm = false) (hi : ∀ n, ps.any (infTerm n) = false) :
    let sum : ℚ := (ps.map fun p => ratOf p.1 * ratOf p.2).sum
    (sum = 0 → blockSum ps = some (if ps.all fun p => signOf p.1 != signOf p.2 then 0x80000000 else 0)) ∧
      (sum ≠ 0 → ∃ w, roundsTo .f32 .rne 0 sum w ∧ blockSum ps = some w.1) := by
  have hfin : ∀ p ∈ ps, p.1.isFin = true ∧ p.2.isFin = true := fun p hp =>
    isFin_of_terms (Bool.eq_false_iff.2 fun h => List.any_eq_false.1 hb p hp h) fun n => Bool.eq_false_iff.2 fun h => List.any_eq_false.1 (hi n) p hp h
  obtain ⟨p, r, rfl⟩ := List.exists_cons_of_ne_nil hps
  obtain ⟨hp, hr⟩ := List.forall_mem_cons.1 hfin
  obtain ⟨f1, f2, f3⟩ := Acc.foldl_flags r (Acc.first p)
  obtain ⟨h1, h2, h3⟩ := Acc.first_flags p
  have hval : blockSum (p :: r) = some (((products r).foldl (Dy.add .rne) (prodV p.1 p.2).2).round .f32 .rne 0).1 := by
    rw [h1, ← List.any_cons, hb] at f1
    rw [h2, ← List.any_cons, hi] at f2
    rw [h3, ← List.any_cons, hi] at f3
    rw [blockSum_cons, Acc.result, f1, f2, f3, Acc.foldl_sum r hr, Acc.first_sum hp.1 hp.2]
    rfl
  obtain ⟨hsame, hmixed⟩ := products_delivers hr .rne (prodV p.1 p.2).2 .f32 0
  rw [prodV_rat hp.1 hp.2, prodV_neg hp.1 hp.2] at hsame hmixed
  rw [hval, List.map_cons, List.sum_cons]
  by_cases hall : ∀ q ∈ r, (signOf q.1 != signOf q.2) = (signOf p.1 != signOf p.2)
  · have hz := hsame _ rfl hall
    refine ⟨fun h => ?_, fun h => ⟨_, hz.2 h, rfl⟩⟩
    have hsign : (p :: r).all (fun q => signOf q.1 != signOf q.2) = (signOf p.1 != signOf p.2) := by
      rw [List.all_cons]
      cases hp' : (signOf p.1 != signOf p.2)
      · exact Bool.false_and _
      · simpa [hp'] using hall
    rw [hz.1 h, hsign]
    cases signOf p.1 != signOf p.2 <;> rfl
  · have hz := hmixed (by simpa using hall)
    refine ⟨fun h => ?_, fun h => ⟨_, hz.2 h, rfl⟩⟩
    have hsign : (p :: r).all (fun q => signOf q.1 != signOf q.2) = false := by
      refine Bool.eq_false_iff.2 fun ht => hall ?_
      obtain ⟨hp', hr'⟩ := List.forall_mem_cons.1 (List.all_eq_true.1 ht)
      exact fun q hq => (hr' q hq).trans hp'.symm
    rw [hz.1 h, hsign]
    rfl
end

/-! ## Blocks of 16 -/

/-- Fuel for every element is enough. -/
theorem runs16_of_le {α : Type} : ∀ (n : Nat) (l : List α), l.length ≤ n → runs16 n l = runs16 l.length l
  | 0, l, h => by rw [Nat.le_zero.1 h]
  | n + 1, [], _ => rfl
  | n + 1, a :: l, h => by
    have hd : ((a :: l).drop 16).length ≤ l.length := by rw [List.length_drop, List.length_cons]; omega
    have h : l.length ≤ n := Nat.le_of_succ_le_succ h
    have hn := runs16_of_le n ((a :: l).drop 16) (hd.trans h)
    have hl := runs16_of_le l.length ((a :: l).drop 16) hd
    rw [List.length_cons, runs16, runs16, hn, hl]
termination_by _ l => l.length

theorem runs16_length {α : Type} {l : List α} (h : l ≠ []) : runs16 l.length l = l.take 16 :: runs16 (l.drop 16).length (l.drop 16) := by
  obtain ⟨a, r, rfl⟩ := List.exists_cons_of_ne_nil h
  have hd : ((a :: r).drop 16).length ≤ r.length := by rw [List.length_drop, List.length_cons]; omega
  rw [List.length_cons, runs16, runs16_of_le _ _ hd]
  rfl

/-- One block of a sum. -/
def sumBlock (acc : Nat) (b : List (FVal × FVal)) : Nat :=
  match blockSum b with
  | none => canonNaN .f32
  | some s => addF32 acc s

theorem msum_nil (init : Nat) : msum init [] = init := rfl

theorem msum_step {init : Nat} {ps : List (FVal × FVal)} (h : ps ≠ []) : msum init ps = msum (sumBlock init (ps.take 16)) (ps.drop 16) := by
  rw [msum, runs16_length h, List.foldl_cons]
  rfl

theorem msum_append {init : Nat} {ps : List (FVal × FVal)} (h : ps.length = 16) (qs : List (FVal × FVal)) : msum init (ps ++ qs) = msum (msum init ps) qs := by
  have h0 : ps ≠ [] := List.ne_nil_of_length_pos (by omega)
  rw [msum_step (List.append_ne_nil_of_left_ne_nil h0 qs), msum_step h0, List.take_left' h, List.drop_left' h, List.take_of_length_le h.le,
    List.drop_of_length_le h.le, msum_nil]

theorem msum_block {init : Nat} {ps : List (FVal × FVal)} (h0 : ps ≠ []) (h : ps.length ≤ 16) : msum init ps = sumBlock init ps := by
  rw [msum_step h0, List.take_of_length_le h, List.drop_of_length_le h, msum_nil]

end Sys2Proof.Machine
end

section
/-! SUPPORT. The guidance fold (R59): u + g × (c − u) with one rounding, its exact cases and its infinite ones. -/

namespace Sys2Proof.Machine

/-! ## Numbers and infinities -/

@[simp] theorem FVal.isNaN_fin (n : Bool) (m : Nat) (e : Int) : (FVal.fin n m e).isNaN = false := rfl
@[simp] theorem FVal.isNaN_inf (n : Bool) : (FVal.inf n).isNaN = false := rfl
@[simp] theorem FVal.isFin_fin (n : Bool) (m : Nat) (e : Int) : (FVal.fin n m e).isFin = true := rfl
@[simp] theorem FVal.isFin_inf (n : Bool) : (FVal.inf n).isFin = false := rfl
@[simp] theorem FVal.neg_fin (n : Bool) (m : Nat) (e : Int) : (FVal.fin n m e).neg = .fin (!n) m e := rfl
@[simp] theorem FVal.neg_inf (n : Bool) : (FVal.inf n).neg = .inf (!n) := rfl

/-- The zeros of FP32 are the patterns without magnitude. -/
theorem fval_f32_zero_iff {x : Nat} (hx : x < 2 ^ 32) : (∃ n p, fval .f32 x = .fin n 0 p) ↔ x % 2 ^ 31 = 0 := by
  constructor
  · rintro ⟨n, p, h⟩
    rw [eq_signBit_of_fval_zero (f := .f32) hx h]
    cases n <;> rfl
  · intro h
    have hs : x = signBit .f32 (decide (2 ^ 31 ≤ x)) := by
      by_cases hx' : 2 ^ 31 ≤ x
      · rw [decide_eq_true hx']
        change x = 2 ^ 31
        omega
      · rw [decide_eq_false hx']
        change x = 0
        omega
    exact ⟨_, _, hs ▸ signBit_fval .f32 _⟩

theorem ratOf_eq_zero_iff {v : FVal} (h : v.isFin = true) : ratOf v = 0 ↔ ∃ n p, v = .fin n 0 p := by
  obtain ⟨n, m, e, rfl⟩ := FVal.eq_fin_of_isFin h
  rw [ratOf_fin_eq_zero]
  constructor
  · rintro rfl; exact ⟨n, e, rfl⟩
  · rintro ⟨_, _, h⟩; cases h; rfl

section
variable {u c g : Nat}

theorem foldF32_nan (h : ¬((fval .f32 u).isNaN = false ∧ (fval .f32 c).isNaN = false ∧ (fval .f32 g).isNaN = false)) :
    foldF32 u c g = canonNaN .f32 := by
  have h' : ((fval .f32 u).isNaN || (fval .f32 c).isNaN || (fval .f32 g).isNaN) = true := by
    by_contra hc
    exact h (by simpa [and_assoc] using hc)
  exact if_pos h'

/-! ## Finite u and c -/

section
variable {n m : Bool} {a b : Nat} {i j : Int} (hu : fval .f32 u = .fin n a i) (hc : fval .f32 c = .fin m b j)
include hu hc

/-- g = 0 delivers u and g = 1 delivers c, as they stand. -/
theorem foldF32_whole (hg : (fval .f32 g).isNaN = false) (h : g % 2 ^ 31 = 0 ∨ g = 0x3F800000) : foldF32 u c g = if g = 0x3F800000 then c else u := by
  have h' : (g % 2 ^ 31 == 0 || g == 0x3F800000) = true := by simpa using h
  simp only [foldF32, hu, hc, hg, h', FVal.isNaN_fin, FVal.isFin_fin, Bool.or_self, Bool.false_eq_true, if_false, Bool.and_self, if_true]

/-- Any other g multiplies the exact difference. -/
theorem foldF32_part (hg : (fval .f32 g).isNaN = false) (h0 : g % 2 ^ 31 ≠ 0) (h1 : g ≠ 0x3F800000) : foldF32 u c g =
    let x := Dy.add .rne ⟨m, b, j⟩ ⟨!n, a, i⟩
    (fmaV .f32 .rne 0 (fval .f32 g) (.fin x.neg x.m x.e) (.fin n a i)).1 := by
  have h' : (g % 2 ^ 31 == 0 || g == 0x3F800000) = false := by rw [beq_false_of_ne h0, beq_false_of_ne h1]; rfl
  simp only [foldF32, hu, hc, hg, h', FVal.isNaN_fin, FVal.isFin_fin, FVal.neg_fin, Bool.or_self, Bool.false_eq_true, if_false, Bool.and_false]

end

/-! ## An infinite difference -/

/-- The difference of equal infinities is invalid. -/
theorem foldF32_same_inf {a : Bool} (hc : fval .f32 c = .inf a) (hu : fval .f32 u = .inf a) : foldF32 u c g = canonNaN .f32 := by
  by_cases hg : (fval .f32 g).isNaN = false
  · simp [foldF32, hu, hc, hg]
  · exact foldF32_nan fun h => hg h.2.2

theorem foldF32_inf_diff {a : Bool} (hu : (fval .f32 u).isNaN = false) (hg : (fval .f32 g).isNaN = false)
    (h : (fval .f32 c = .inf a ∧ fval .f32 u ≠ .inf a) ∨ (fval .f32 u = .inf (!a) ∧ (fval .f32 c).isFin = true)) :
    foldF32 u c g = (fmaV .f32 .rne 0 (fval .f32 g) (.inf a) (fval .f32 u)).1 := by
  rcases h with ⟨hc, hne⟩ | ⟨hinf, hfin⟩
  · cases hv : fval .f32 u with
    | nan => rw [hv] at hu; cases hu
    | inf b =>
      obtain rfl : b = !a := by rw [hv] at hne; cases a <;> cases b <;> simp_all
      simp [foldF32, hv, hc, hg]
    | fin n m e =>
      simp [foldF32, hv, hc, hg]
  · obtain ⟨n, m, e, hc⟩ := FVal.eq_fin_of_isFin hfin
    simp [foldF32, hinf, hc, hg]

end

/-! ## A multiple of an infinity -/

theorem fmaV_zero_inf {g : FVal} (h0 : g.isFin = true) (h : ratOf g = 0) (a : Bool) (f : Fmt) (rm : RMode) (r : Nat) (z : FVal) :
    fmaV f rm r g (.inf a) z = (canonNaN f, 1) := by
  obtain ⟨n, p, rfl⟩ := (ratOf_eq_zero_iff h0).1 h
  exact fmaV_of_zeroTimesInf rfl f rm r z

theorem fmaV_times_inf {g z : FVal} {a : Bool} (hg : g.isNaN = false) (hz : z.isNaN = false) (h : g.isFin = false ∨ ratOf g ≠ 0) (f : Fmt) (rm : RMode)
    (r : Nat) : fmaV f rm r g (.inf a) z = if z = .inf (!(signOf g != a)) then (canonNaN f, 1) else (infBits f (signOf g != a), 0) := by
  have hz0 : zeroTimesInf g (.inf a) = false := by
    rw [← Bool.not_eq_true, zeroTimesInf_iff]
    rintro ⟨n, m, e, ⟨-, h'⟩ | ⟨-, rfl⟩⟩
    · cases h'
    · rcases h with h | h
      · cases h
      · exact h (ratOf_fin_eq_zero.2 rfl)
  exact fmaV_inf_product hz0 hg rfl hz (prodV_inf hg rfl (.inr ⟨a, rfl⟩)) f rm r

/-! ## The fold of finite u and c -/

/-- The exact difference c − u. -/
theorem rat_sub_fin (n m : Bool) (a b : Nat) (i j : Int) :
    ratOf (.fin (Dy.add .rne ⟨m, b, j⟩ ⟨!n, a, i⟩).neg (Dy.add .rne ⟨m, b, j⟩ ⟨!n, a, i⟩).m (Dy.add .rne ⟨m, b, j⟩ ⟨!n, a, i⟩).e) =
      ratOf (.fin m b j) - ratOf (.fin n a i) := by
  have h : (Dy.add .rne ⟨m, b, j⟩ ⟨!n, a, i⟩).rat = ratOf (.fin m b j) + ratOf (.fin (!n) a i) := Dy.rat_add .rne _ _
  have hneg : ratOf (.fin (!n) a i) = -ratOf (.fin n a i) := by cases n <;> simp [ratOf_fin]
  rw [hneg, ← sub_eq_add_neg] at h
  exact h

section
variable {u c : Nat} {g : W32} (hu : (fval .f32 u).isFin = true) (hc : (fval .f32 c).isFin = true)
include hu hc

theorem foldF32_zero (hg : (fval .f32 g.toNat).isFin = true) (h : ratOf (fval .f32 g.toNat) = 0) : foldF32 u c g.toNat = u := by
  obtain ⟨n, a, i, hu⟩ := FVal.eq_fin_of_isFin hu
  obtain ⟨m, b, j, hc⟩ := FVal.eq_fin_of_isFin hc
  have hz := (fval_f32_zero_iff g.isLt).1 ((ratOf_eq_zero_iff hg).1 h)
  obtain ⟨k, l, e, hgv⟩ := FVal.eq_fin_of_isFin hg
  rw [foldF32_whole hu hc (by rw [hgv]; rfl) (.inl hz), if_neg (by omega)]

theorem foldF32_one : foldF32 u c 0x3F800000 = c := by
  obtain ⟨n, a, i, hu⟩ := FVal.eq_fin_of_isFin hu
  obtain ⟨m, b, j, hc⟩ := FVal.eq_fin_of_isFin hc
  rw [foldF32_whole hu hc rfl (.inr rfl), if_pos rfl]

/-- u + g × (c − u), evaluated exactly, with one rounding. -/
theorem foldF32_rounds (hg : (fval .f32 g.toNat).isFin = true) (h0 : ratOf (fval .f32 g.toNat) ≠ 0) (h1 : g ≠ 0x3F800000) :
    let sum : ℚ := ratOf (fval .f32 u) + ratOf (fval .f32 g.toNat) * (ratOf (fval .f32 c) - ratOf (fval .f32 u))
    (sum = 0 → foldF32 u c g.toNat = 0 ∨ foldF32 u c g.toNat = 0x80000000) ∧
      (sum ≠ 0 → ∃ z, roundsTo .f32 .rne 0 sum z ∧ foldF32 u c g.toNat = z.1) := by
  obtain ⟨n, a, i, hu⟩ := FVal.eq_fin_of_isFin hu
  obtain ⟨m, b, j, hc⟩ := FVal.eq_fin_of_isFin hc
  have hg0 : g.toNat % 2 ^ 31 ≠ 0 := fun h => h0 ((ratOf_eq_zero_iff hg).2 ((fval_f32_zero_iff g.isLt).2 h))
  have hg1 : g.toNat ≠ 0x3F800000 := fun h => h1 (BitVec.eq_of_toNat_eq h)
  obtain ⟨k, l, e, hgv⟩ := FVal.eq_fin_of_isFin hg
  have hw := foldF32_part hu hc (by rw [hgv]; rfl) hg0 hg1
  have hd := fmaV_delivers .f32 .rne 0 k (Dy.add .rne ⟨m, b, j⟩ ⟨!n, a, i⟩).neg n l (Dy.add .rne ⟨m, b, j⟩ ⟨!n, a, i⟩).m a e
    (Dy.add .rne ⟨m, b, j⟩ ⟨!n, a, i⟩).e i
  rw [rat_sub_fin, add_comm] at hd
  simp only [hu, hc, hgv] at hw ⊢
  rw [hw]
  refine ⟨fun h => ?_, fun h => ⟨_, hd.2 h, rfl⟩⟩
  rw [hd.1 h]
  generalize (if (k != (Dy.add .rne ⟨m, b, j⟩ ⟨!n, a, i⟩).neg) = n then _ else _) = t
  cases t
  · exact .inl rfl
  · exact .inr rfl

/-- An infinite g: its product with the difference, invalid where there is none. -/
theorem foldF32_inf {s : Bool} (hg : fval .f32 g.toNat = .inf s) : foldF32 u c g.toNat =
    if ratOf (fval .f32 c) = ratOf (fval .f32 u) then canonNaN .f32 else infBits .f32 (s != decide (ratOf (fval .f32 c) < ratOf (fval .f32 u))) := by
  obtain ⟨n, a, i, hu⟩ := FVal.eq_fin_of_isFin hu
  obtain ⟨m, b, j, hc⟩ := FVal.eq_fin_of_isFin hc
  have hg0 : g.toNat % 2 ^ 31 ≠ 0 := fun h => by
    obtain ⟨k, p, hz⟩ := (fval_f32_zero_iff g.isLt).2 h
    rw [hg] at hz
    cases hz
  have hg1 : g.toNat ≠ 0x3F800000 := fun h => by
    rw [h] at hg
    cases hg
  rw [foldF32_part hu hc (by rw [hg]; rfl) hg0 hg1, hg, hu, hc]
  have hx := rat_sub_fin n m a b i j
  revert hx
  generalize Dy.add .rne ⟨m, b, j⟩ ⟨!n, a, i⟩ = x
  obtain ⟨xn, xm, xe⟩ := x
  intro hx
  dsimp only at hx ⊢
  have hz : zeroTimesInf (.inf s) (.fin xn xm xe) = (xm == 0) := rfl
  by_cases hm : xm = 0
  · have heq : ratOf (.fin m b j) = ratOf (.fin n a i) := sub_eq_zero.1 (hx.symm.trans (ratOf_fin_eq_zero.2 hm))
    rw [if_pos heq, fmaV_of_zeroTimesInf (hz.trans (beq_iff_eq.2 hm))]
  · have hne : ratOf (.fin m b j) ≠ ratOf (.fin n a i) := fun h => hm (ratOf_fin_eq_zero.1 (hx.trans (sub_eq_zero.2 h)))
    have hsign : decide (ratOf (.fin m b j) < ratOf (.fin n a i)) = xn := by
      rw [Bool.eq_iff_iff, decide_eq_true_eq, ← sub_neg, ← hx]
      have hpos : 0 < (xm : ℚ) * 2 ^ xe := by positivity
      rw [ratOf_fin]
      cases xn
      · simpa using hpos.le
      · simpa using hpos
    rw [if_neg hne, hsign, fmaV_inf_product (hz.trans (beq_false_of_ne hm)) rfl rfl rfl rfl, if_neg (by simp)]

end

end Sys2Proof.Machine
end

section
/-! SUPPORT. Elements of microscaled blocks (R38 to R40): their values under a scale, their place in a row, and the scale and elements of a block
that is converted. -/

namespace Sys2Proof.Machine

/-! ## Values (R38, R39) -/

theorem tyVal_float {ty : Nat} (raw : Nat) (h : ty ≤ 8) (h7 : ty ≠ 7) :
    tyVal ty raw = fval ([Fmt.f32, .bf16, .f16, .e4m3, .e5m2, .e4m3, .e5m2, .e4m3, .e2m1].getD ty .f32) raw := by
  have hfmt : tyFmt ty = [Fmt.f32, .bf16, .f16, .e4m3, .e5m2, .e4m3, .e5m2, .e4m3, .e2m1].getD ty .f32 := by interval_cases ty <;> rfl
  rw [tyVal, if_neg h7, hfmt]

/-- The value of a fixed-point pattern with sign and magnitude apart. -/
theorem ratOf_int (i : Int) (e : Int) : ratOf (.fin (decide (i < 0)) i.natAbs e) = i * (2 : ℚ) ^ e := by
  have hi : ((if decide (i < 0) then -1 else 1) * i.natAbs : ℚ) = i := by
    by_cases h : i < 0
    · rw [decide_eq_true h, if_pos rfl, Nat.cast_natAbs, abs_of_neg h]; push_cast; ring
    · rw [decide_eq_false h, if_neg Bool.false_ne_true, Nat.cast_natAbs, abs_of_nonneg (not_lt.1 h), one_mul]
  rw [ratOf_fin, ← mul_assoc, hi]

theorem ratOf_tyVal_mxint8 {raw : Nat} (h : raw < 256) : ratOf (tyVal 7 raw) = (if raw < 128 then (raw : ℚ) else raw - 256) / 64 := by
  have hint : ((BitVec.ofNat 8 raw).toInt : ℚ) = if raw < 128 then (raw : ℚ) else raw - 256 := by
    rw [BitVec.toInt_eq_toNat_cond, BitVec.toNat_ofNat, Nat.mod_eq_of_lt h]
    by_cases h' : raw < 128
    · rw [if_pos (by omega), if_pos h', Int.cast_natCast]
    · rw [if_neg (by omega), if_neg h']
      push_cast
      rfl
  rw [tyVal, if_pos rfl, ratOf_int, hint]
  norm_num [div_eq_mul_inv]

theorem FVal.scaled_fin {code : Nat} (h : code ≠ 255) (n : Bool) (m : Nat) (e : Int) : (FVal.fin n m e).scaled code = .fin n m (e + code - 127) := if_neg h

theorem ratOf_scaled_fin {code : Nat} (h : code ≠ 255) (n : Bool) (m : Nat) (e : Int) :
    ratOf ((FVal.fin n m e).scaled code) = ratOf (.fin n m e) * (2 : ℚ) ^ ((code : ℤ) - 127) := by
  rw [FVal.scaled_fin h, ratOf_fin, ratOf_fin, add_sub_assoc, zpow_add₀ two_ne_zero]
  ring

theorem FVal.scaled_not_fin {v : FVal} {code : Nat} (h : code ≠ 255) (hv : v.isFin = false) : v.scaled code = v := by
  cases v with
  | fin => cases hv
  | nan | inf => exact if_neg h

/-! ## Places (R240) -/

theorem rotated_zero (r o : Nat) : rotated 0 r o = o := if_pos rfl

/-- A rotation moves a word within its 256 bytes. -/
theorem rotated_place {rot : Nat} (h : rot ≠ 0) (r o : Nat) : rotated rot r o % 4 = o % 4 ∧ rotated rot r o / 256 = o / 256 ∧
    rotated rot r o / 4 % 64 = (o / 4 + r * 2 ^ (rot - 1)) % 64 := by
  rw [rotated, if_neg h]
  generalize r * 2 ^ (rot - 1) = y
  omega

/-! ## The scale of a block (R40) -/

theorem mxScale_of_nan {vs : List FVal} (ty : Nat) (h : ∃ x ∈ vs, x.isNaN = true) : mxScale ty vs = 255 := if_pos (List.any_eq_true.2 h)

theorem dyExp_eq_none {x : FVal} : dyExp x = none ↔ ratOf x = 0 := by
  cases x with
  | fin n m e => rw [ratOf_fin_eq_zero]; by_cases h : m = 0 <;> simp [dyExp, h]
  | nan | inf => exact iff_of_true rfl rfl

/-- The power of two of a finite value other than zero. -/
theorem dyExp_bounds {x : FVal} {p : Int} (h : dyExp x = some p) : (2 : ℚ) ^ p ≤ |ratOf x| ∧ |ratOf x| < (2 : ℚ) ^ (p + 1) := by
  cases x with
  | nan | inf => cases h
  | fin n m e =>
    by_cases hm : m = 0
    · simp [dyExp, hm] at h
    · obtain rfl : (bitLen m : Int) - 1 + e = p := by simpa [dyExp, hm] using h
      rw [abs_ratOf_fin]
      exact ⟨two_zpow_le_of_bitLen hm e, lt_two_zpow_of_bitLen hm e⟩

section
variable {vs : List FVal} (ty : Nat) (hnan : ∀ x ∈ vs, x.isNaN = false)
include hnan

theorem mxScale_of_zeros (h : ∀ x ∈ vs, ratOf x = 0) : mxScale ty vs = 127 := by
  have hn : ¬vs.any (·.isNaN) = true := by simpa using hnan
  have hnil : vs.filterMap dyExp = [] := List.filterMap_eq_nil_iff.2 fun x hx => dyExp_eq_none.2 (h x hx)
  rw [mxScale, if_neg hn, hnil]

/-- The scale follows the greatest power of two of the block. -/
theorem mxScale_of_max (h : ∃ x ∈ vs, ratOf x ≠ 0) : ∃ p : Int, (∃ x ∈ vs, (2 : ℚ) ^ p ≤ |ratOf x|) ∧
    (∀ x ∈ vs, |ratOf x| < (2 : ℚ) ^ (p + 1)) ∧ (mxScale ty vs : Int) = max (-127) (min 127 (p - mxEmax ty)) + 127 := by
  have hn : ¬vs.any (·.isNaN) = true := by simpa using hnan
  cases hl : vs.filterMap dyExp with
  | nil =>
    obtain ⟨x, hx, hne⟩ := h
    exact absurd (dyExp_eq_none.1 (List.filterMap_eq_nil_iff.1 hl x hx)) hne
  | cons e r =>
    have hmem {k : Int} : k ∈ e :: r ↔ ∃ x ∈ vs, dyExp x = some k := by rw [← hl, List.mem_filterMap]
    obtain ⟨hp, hmax⟩ := List.max?_eq_some_iff.1 (List.max?_cons' (x := e) (xs := r))
    refine ⟨r.foldl max e, ?_, fun x hx => ?_, ?_⟩
    · obtain ⟨x, hx, hd⟩ := hmem.1 hp
      exact ⟨x, hx, (dyExp_bounds hd).1⟩
    · cases hd : dyExp x with
      | none => rw [dyExp_eq_none.1 hd, abs_zero]; positivity
      | some k =>
        have hk : k ≤ r.foldl max e := hmax k (hmem.2 ⟨x, hx, hd⟩)
        exact (dyExp_bounds hd).2.trans_le (zpow_le_zpow_right₀ one_le_two (by omega))
    · rw [mxScale, if_neg hn, hl]
      exact Int.toNat_of_nonneg (by omega)
end

/-! ## The elements of a block (R40) -/

theorem tyFmt_mx {ty : Nat} (hlo : 5 ≤ ty) (hhi : ty ≤ 8) (h7 : ty ≠ 7) :
    tyFmt ty = if ty = 5 then .e4m3 else if ty = 6 then .e5m2 else .e2m1 := by
  interval_cases ty
  exacts [rfl, rfl, absurd rfl h7, rfl]

section
variable {ty : Nat} (rm : RMode) (draw : Nat) {scale : Nat} (hs : scale ≠ 255)

theorem mxElem_scale_nan (ty : Nat) (zeros : Bool) (v : FVal) : mxElem ty rm draw 255 zeros v = 0 := by
  cases v <;> rw [mxElem, if_pos rfl]

include hs

theorem mxElem_zeros {v : FVal} (h : v.isNaN = false) : mxElem ty rm draw scale true v = if ty = 7 ∨ ty = 8 then 0 else signBit (tyFmt ty) (signOf v) := by
  cases v with
  | nan => cases h
  | inf | fin => rw [mxElem, if_neg hs, if_pos rfl]; rfl

theorem mxElem_inf (n : Bool) : mxElem ty rm draw scale false (.inf n) = if ty = 7 then (if n then 0x81 else 0x7F) else maxBits (tyFmt ty) n :=
  if_neg hs

variable (n : Bool) (m : Nat) (e : Int)

theorem mxElem_int : mxElem 7 rm draw scale false (.fin n m e) =
    let k := (roundInt rm draw n m (e + 127 - scale + 6)).1
    if n then (256 - min 127 k) % 256 else min 127 k := if_neg hs

theorem mxElem_zero (h7 : ty ≠ 7) : mxElem ty rm draw scale false (.fin n 0 e) = signBit (tyFmt ty) n := by
  rw [mxElem, if_neg hs]
  simp [h7]

variable {m} in
theorem mxElem_float (h7 : ty ≠ 7) (hm : m ≠ 0) : mxElem ty rm draw scale false (.fin n m e) =
    let d := e + 127 - scale
    if (roundTo (tyFmt ty) rm draw n m d).beyond then maxBits (tyFmt ty) n else (roundF (tyFmt ty) rm draw n m d).1 := by
  rw [mxElem, if_neg hs]
  simp only [Bool.false_eq_true, if_false, if_neg h7, if_neg hm]
  cases hb : (roundTo (tyFmt ty) rm draw n m (e + 127 - scale)).beyond with
  | true => rfl
  | false => rw [roundF_within hm hb]

omit hs in
/-- The magnitude of an element under its scale. -/
theorem abs_ratOf_unscaled (scale : Nat) : |ratOf (.fin n m e)| * (2 : ℚ) ^ ((127 : ℤ) - scale) = m * (2 : ℚ) ^ (e + 127 - scale) := by
  rw [abs_ratOf_fin, mul_assoc, ← zpow_add₀ two_ne_zero, add_sub_assoc]
end

end Sys2Proof.Machine
end

section
/-! SUPPORT. Slips, clause by clause: O28. -/

namespace Sys2Proof

open Sys2Proof.Machine

/-- Settles O28: the events by the writes of a slip, and each write by its place in the list of all; the sums, the fold and the microscaled elements by
the exact values of their terms. -/
theorem slipEvents : Obligations.SlipEvents := by
  unfold Obligations.SlipEvents
  refine ⟨?_, ?_, ?_, ?_, ?_, ?_⟩
  · intro s c n x
    refine ⟨fun hidle hnext => ?_, rfl, fun hx hf => ⟨_, execSlipComplete_eq hx hf, slipPuts_dropSlip_slips, slipPuts_dropSlip_frame, ?_, ?_, ?_, ?_⟩⟩
    · obtain ⟨hmem, hcluster, heligible, hpriority⟩ := nextSlip_eq_some hnext
      exact ⟨hmem, hcluster, heligible, hpriority, execSlipStart_eq hidle hnext⟩
    · intro h hop hk i hi j hj
      rw [slipWrites_zero hop]
      exact slipPuts_zero (s := s.dropSlip n) hk hi hj
    · intro ws i z hb hz hk hlast
      exact slipPuts_read_getElem? (s := s.dropSlip n) hb hz hk hlast
    · intro g k q o hno hq hb
      exact slipPuts_byte_other hq _ (s.dropSlip n) hb hno
    · intro g k q o hq hk hb
      exact slipPuts_poisoned hq _ (s.dropSlip n) hb hk
  · intro s x hx
    simp only [Nat.zero_add]
    refine ⟨?_, ?_, ?_, ?_, ?_, ?_, ?_, ?_⟩
    · intro h a b z hop hk
      rw [slipWrites_mul hop hk, length_prodWrites, length_products]
      exact ⟨rfl, fun i hi j hj => getElem?_prodWrites _ _ _ ((getElem?_products hx _ _ _ _ _ _ _ _ hi hj).trans (by rw [Nat.zero_add]))⟩
    · intro h a b z pitch table counts hop hk
      refine ⟨?_, fun g r hr j hj => getElem?_slipWrites_group hx hop hk hr hj⟩
      rw [slipWrites_group hop hk, length_flatMap_groupStarts (length_groupWrites s x h a b z pitch)]
    · intro h a z bank off hop
      rw [slipWrites_weight hop, length_prodWrites, length_products]
      exact ⟨rfl, fun i hi j hj => getElem?_prodWrites _ _ _ ((getElem?_products hx _ _ _ _ _ _ _ _ hi hj).trans (by rw [Nat.zero_add]))⟩
    · intro hc hu ac au b z fold hop hk hk' hr hcols
      exact ⟨length_slipWrites_pair hop hk hk' hr hcols, fun i hi j hj => getElem?_slipWrites_pair hx hop hk hk' hr hcols hi hj⟩
    · intro h hop
      rw [slipWrites_zero hop, List.length_map, length_gridOf]
      exact ⟨rfl, fun i hi j hj => getElem?_map_gridOf _ hi hj⟩
    · intro h o hop hty
      rw [slipWrites_load hop hty, List.length_map, length_gridOf]
      exact ⟨rfl, fun i hi j hj => getElem?_map_gridOf _ hi hj⟩
    · intro h o hop
      rw [slipWrites_store hop, List.length_map, length_gridOf]
      exact ⟨rfl, fun i hi j hj => getElem?_map_gridOf _ hi hj⟩
    · intro h o rm sat hop
      refine ⟨fun hlo hhi => ?_, fun hlo hhi _ i hi b hb => ?_⟩
      · rw [slipWrites_plain hop hlo hhi, List.length_map, length_gridOf]
        exact ⟨rfl, fun i hi j hj => getElem?_map_gridOf _ hi hj⟩
      · refine ⟨(getElem?_slipWrites_mx hop hlo hhi rfl hi hb (Nat.lt_succ_self _)).trans (getElem?_convertBlock_scale s x h o rm i b), fun j hj => ?_⟩
        exact (getElem?_slipWrites_mx hop hlo hhi rfl hi hb (Nat.lt_succ_of_lt hj)).trans (getElem?_convertBlock_elem s x h o rm i b hj)
  · intro init ps qs bad inf sum
    have hbad : ps.any badTerm = true ↔ ∃ p ∈ ps, bad p := by
      rw [List.any_eq_true]
      exact exists_congr fun p => and_congr_right fun _ => badTerm_iff
    have hnone (hb : ∀ p ∈ ps, ¬bad p) : ps.any badTerm = false := Bool.eq_false_iff.2 fun h => by
      obtain ⟨p, hp, hpb⟩ := hbad.1 h
      exact hb p hp hpb
    have hinf (hb : ∀ p ∈ ps, ¬bad p) (n : Bool) : ps.any (infTerm n) = true ↔ inf n := by
      rw [List.any_eq_true]
      exact exists_congr fun p => and_congr_right fun hp => infTerm_iff (Bool.eq_false_iff.2 fun h => hb p hp (badTerm_iff.1 h))
    refine ⟨rfl, fun h => msum_append h qs, fun h0 h => ?_⟩
    have hmsum := msum_block (init := init) h0 h
    refine ⟨fun hb => by rw [hmsum, sumBlock, hb]; rfl, fun b hb => by rw [hmsum, sumBlock, hb]; rfl, ?_, ?_, ?_⟩
    · rw [blockSum_eq_none h0, hbad]
      by_cases hb : ∃ p ∈ ps, bad p
      · exact iff_of_true (.inl hb) (.inl hb)
      · have hb' : ∀ p ∈ ps, ¬bad p := fun p hp h => hb ⟨p, hp, h⟩
        rw [hinf hb', hinf hb']
    · intro n hb hn hn'
      exact blockSum_of_inf h0 (hnone hb) ((hinf hb n).2 hn) (Bool.eq_false_iff.2 fun h => hn' ((hinf hb _).1 h))
    · intro hb ht hf
      refine blockSum_of_finite h0 (hnone hb) fun n => Bool.eq_false_iff.2 fun h => ?_
      cases n
      · exact hf ((hinf hb _).1 h)
      · exact ht ((hinf hb _).1 h)
  · intro u c g a b vu vc vg w sum none'
    refine ⟨foldF32_nan, fun hu hc => ⟨fun h0 hg => foldF32_zero hu hc hg h0, ?_, foldF32_rounds hu hc, foldF32_inf hu hc⟩, foldF32_same_inf, ?_⟩
    · rintro rfl
      exact foldF32_one hu hc
    · rintro ⟨hu, hc, hg⟩ h
      have hw : w = (fmaV .f32 .rne 0 vg (.inf a) vu).1 := foldF32_inf_diff hu hg h
      refine ⟨fun hgf h0 => ?_, fun hg0 => ⟨fun huf => ?_, fun hub => ?_⟩⟩
      · rw [hw, fmaV_zero_inf hgf h0]
        rfl
      · rw [hw, fmaV_times_inf hg hu hg0, if_neg]
        intro h
        rw [h] at huf
        cases huf
      · rw [hw, fmaV_times_inf hg hu hg0, hub]
        cases b <;> cases (signOf vg != a) <;> rfl
  · intro ty raw code v o base r k
    refine ⟨tyVal_float raw, ratOf_tyVal_mxint8, rfl, fun h => ⟨?_, FVal.scaled_not_fin h⟩, ?_, ?_⟩
    · rintro n m e rfl
      rw [FVal.scaled_fin h]
      exact ⟨rfl, rfl, FVal.scaled_fin h n m e ▸ ratOf_scaled_fin h n m e⟩
    · intro h
      rw [Opnd.off, h]
      exact rotated_zero r _
    · intro h
      exact rotated_place h r _
  · intro ty draw scale rm vs v n zeros hlo hhi
    refine ⟨mxScale_of_nan ty, mxScale_of_zeros ty, mxScale_of_max ty, ?_, ?_, ?_, ?_⟩
    · rintro rfl
      exact mxElem_scale_nan rm draw ty zeros v
    · rintro hs rfl hv
      have hz := mxElem_zeros (ty := ty) rm draw hs hv
      by_cases h7 : ty = 7
      · rw [if_pos (.inl h7)] at hz ⊢
        exact hz
      · rwa [tyFmt_mx hlo hhi h7] at hz
    · rintro hs rfl rfl
      have hi := mxElem_inf (ty := ty) rm draw hs n
      by_cases h7 : ty = 7
      · rw [if_pos h7] at hi ⊢
        exact hi
      · rwa [tyFmt_mx hlo hhi h7] at hi
    · rintro hs rfl hv rfl
      obtain ⟨n, m, e, rfl⟩ := FVal.eq_fin_of_isFin hv
      simp only [abs_ratOf_unscaled, signOf]
      refine ⟨?_, fun h7 h0 => ?_, fun h7 h0 => ?_⟩
      · rintro rfl
        have hunits : (m : ℚ) * 2 ^ (e + 127 - scale + 6) = 64 * (m * 2 ^ (e + 127 - scale)) := by
          rw [zpow_add₀ two_ne_zero]
          ring
        exact ⟨_, hunits ▸ roundInt_picks rm draw n m _, mxElem_int rm draw hs n m e⟩
      · obtain rfl : m = 0 := by simpa [zpow_ne_zero] using h0
        rw [mxElem_zero rm draw hs n e h7, tyFmt_mx hlo hhi h7]
      · have hm : m ≠ 0 := by rintro rfl; exact h0 (by simp)
        exact ⟨m, _, hm, rfl, by rw [mxElem_float rm draw hs n e h7 hm, tyFmt_mx hlo hhi h7]; rfl⟩

end Sys2Proof
end

section
/-! SUPPORT. Scalar arithmetic and compares, and what `lx` does to outstanding loads: O1, O2 and O3. -/

namespace Sys2Proof

open Sys2Proof.Machine

/-! ## Arithmetic (R99) -/

/-- A shift amount is the low six bits of its operand. -/
theorem amount_eq (y : W64) : amount y = (y.extractLsb' 0 6).toNat := by
  simp [amount, BitVec.extractLsb'_toNat]

theorem amount_setWidth (n : BitVec 6) : amount (n.setWidth 64) = n.toNat := by
  have hn : n.toNat < 64 := n.isLt
  rw [amount, BitVec.toNat_setWidth]
  omega

theorem pick_slt_min (x y : W64) : pick (x.slt y) x y = BitVec.ofInt 64 (min x.toInt y.toInt) := by
  simp only [pick, BitVec.slt, decide_eq_true_eq]
  split
  case isTrue h => rw [min_eq_left h.le, BitVec.ofInt_toInt]
  case isFalse h => rw [min_eq_right (not_lt.1 h), BitVec.ofInt_toInt]

theorem pick_slt_max (x y : W64) : pick (y.slt x) x y = BitVec.ofInt 64 (max x.toInt y.toInt) := by
  simp only [pick, BitVec.slt, decide_eq_true_eq]
  split
  case isTrue h => rw [max_eq_left h.le, BitVec.ofInt_toInt]
  case isFalse h => rw [max_eq_right (not_lt.1 h), BitVec.ofInt_toInt]

theorem pick_ult_min (x y : W64) : pick (x.ult y) x y = BitVec.ofNat 64 (min x.toNat y.toNat) := by
  simp only [pick, BitVec.ult, decide_eq_true_eq]
  split
  case isTrue h => rw [min_eq_left h.le, BitVec.ofNat_toNat, BitVec.setWidth_eq]
  case isFalse h => rw [min_eq_right (not_lt.1 h), BitVec.ofNat_toNat, BitVec.setWidth_eq]

theorem pick_ult_max (x y : W64) : pick (y.ult x) x y = BitVec.ofNat 64 (max x.toNat y.toNat) := by
  simp only [pick, BitVec.ult, decide_eq_true_eq]
  split
  case isTrue h => rw [max_eq_left h.le, BitVec.ofNat_toNat, BitVec.setWidth_eq]
  case isFalse h => rw [max_eq_right (not_lt.1 h), BitVec.ofNat_toNat, BitVec.setWidth_eq]

/-- A word that answers `setReg` writes that register, with the value however it is written. -/
theorem writesReg_setReg {i : Instr} {s : State} {d : SReg} {x v : W64} {n : Nat} (h : exec i s = setReg s d x n) (hv : x = v) :
    writesReg i s d v n :=
  writesReg_intro (h.trans (by rw [setReg, hv]))

/-- Settles O1: each word answers `setReg` with its value; shift amounts are six bits, and `pick` is a minimum or a maximum. -/
theorem scalarArithmetic : Obligations.ScalarArithmetic := by
  unfold Obligations.ScalarArithmetic
  intro s d a b p i n e w x y z by6
  refine ⟨writesReg_intro rfl, writesReg_intro rfl, writesReg_intro rfl, writesReg_intro rfl, writesReg_intro rfl, writesReg_intro rfl,
    writesReg_intro rfl, writesReg_intro rfl, writesReg_intro rfl, writesReg_intro rfl, writesReg_intro rfl, writesReg_intro rfl,
    writesReg_intro rfl, writesReg_intro rfl, writesReg_intro rfl, writesReg_intro rfl, ?_, ?_, ?_, ?_, ?_, ?_, ?_, ?_, ?_, ?_,
    writesReg_intro rfl, writesReg_intro rfl, writesReg_intro rfl, writesReg_intro rfl⟩
  · exact writesReg_setReg (x := x <<< amount y) rfl (by rw [amount_eq])
  · exact writesReg_setReg (x := x <<< amount (n.setWidth 64)) rfl (by rw [amount_setWidth])
  · exact writesReg_setReg (x := x >>> amount y) rfl (by rw [amount_eq])
  · exact writesReg_setReg (x := x >>> amount (n.setWidth 64)) rfl (by rw [amount_setWidth])
  · exact writesReg_setReg (x := x.sshiftRight (amount y)) rfl (by rw [amount_eq])
  · exact writesReg_setReg (x := x.sshiftRight (amount (n.setWidth 64))) rfl (by rw [amount_setWidth])
  · exact writesReg_setReg rfl (pick_slt_min x y)
  · exact writesReg_setReg rfl (pick_slt_max x y)
  · exact writesReg_setReg rfl (pick_ult_min x y)
  · exact writesReg_setReg rfl (pick_ult_max x y)

/-! ## Compares (R100) -/

theorem writesPred_compare {i : Instr} {s : State} {c : PReg} {x b : Bool} {n : Nat} (h : exec i s = compare s c x n) (hb : x = b) :
    writesPred i s c b n :=
  writesPred_intro (hb ▸ h)

/-- Settles O2: every form of `scmp` is one `compare` of its condition. -/
theorem scalarCompare : Obligations.ScalarCompare := by
  unfold Obligations.ScalarCompare
  intro s cc c a b i e w holds
  have hcond (x y : W64) : cc.holds x y = holds x y := by
    cases cc with
    | ne => simp [Cond.holds, holds, bne, beq_eq_decide]
    | eq | lt | ge | le | gt | ltn | gen => rfl
  exact ⟨writesPred_compare rfl (hcond _ _), writesPred_compare rfl (hcond _ _), writesPred_compare rfl (hcond _ _)⟩

/-! ## Lane issue (R63, R107) -/

/-- An `lx` under a mask that is not empty opens a block. -/
theorem lx_opens {s : State} (k : BitVec 6) (d : BitVec 20) (h : s.warp.am ≠ 0) :
    exec (.lx k d) s = .next (s.upd (·.openBlock d.toNat (k.toNat + 1))) := by
  show execLx k d s = _
  rw [execLx, if_neg h]

/-- A warp with lane 0 active that awaits the value of a remote load of an earlier block, which is to go to latch 0 as well as to `v1`. -/
def awaitingLatch : State :=
  { State.reset with
    warp := { Warp.blank with alive := true, am := 1, live := 1, remote := [⟨0, 1, 0, 1, 4, false, false, some 0, none, 0, 0, 0, [], none⟩] } }

/-- Refutes O3: the statement asks that an `lx` changes the program counter and the block alone. A value that a remote module has still to send to a latch
of an earlier block is no longer to go there once a new block is open (R21), so the warp's outstanding loads change too. -/
theorem not_branches : ¬ Obligations.Branches := by
  unfold Obligations.Branches
  intro h
  obtain ⟨-, hopen⟩ := h.2 awaitingLatch 0 0
  obtain ⟨t, ht, -, -, hframe, -⟩ := hopen (by decide)
  obtain rfl : _ = t := Host.Outcome.next.inj ((lx_opens 0 0 (by decide)).symm.trans ht)
  have hremote : (awaitingLatch.warp.openBlock 0 1).remote = awaitingLatch.warp.remote := (congrArg Warp.remote hframe :)
  exact absurd hremote (by decide)

end Sys2Proof
end

section
/-! SUPPORT. The gates that words pass first, the traps of jumps, accesses and returns, and O4. -/

namespace Sys2Proof

open Sys2Proof.Machine

/-- Every word that goes through the gate of R245 makes its first three checks alike. -/
theorem matrixGate_traps {i : Instr} {s : State} {k : State → State} (h : exec i s = .next (s.matrixGate k)) :
    (s.warp.fork ≠ none → trapsAt i s 0x0A 0 4) ∧
    (s.warp.fork = none → s.warp.am ≠ s.warp.live → trapsAt i s 0x09 0 4) ∧
    (s.warp.fork = none → s.warp.am = s.warp.live → s.warp.task ≠ none → trapsAt i s 0x0C 25 4) := by
  refine ⟨fun hf => h.trans ?_, fun hf ha => h.trans ?_, fun hf ha ht => h.trans ?_⟩
  · rw [State.matrixGate, State.unforked, if_pos (Option.isSome_iff_ne_none.2 hf)]
    rfl
  · rw [State.matrixGate, State.unforked_plain _ _ _ hf, State.fullMask, if_pos ha]
    rfl
  · rw [State.matrixGate, State.unforked_plain _ _ _ hf, State.fullMask_plain _ _ _ ha, Option.isSome_iff_ne_none.2 ht]
    rfl

/-- A word that uses a handle traps where it is not bound, after those checks. -/
theorem matrixGate_unbound {i : Instr} {s : State} {h : AReg} {k : Handle → State → State}
    (he : exec i s = .next (s.matrixGate fun s => s.withHandle h k)) (hf : s.warp.fork = none) (ha : s.warp.am = s.warp.live)
    (ht : s.warp.task = none) (hh : vget s.warp.acc h.toNat none = none) : trapsAt i s 0x0C 16 4 := by
  refine he.trans ?_
  rw [State.matrixGate, State.unforked_plain _ _ _ hf, State.fullMask_plain _ _ _ ha, ht, Option.isSome_none, State.modeIf_false,
    State.withHandle, hh]
  rfl

/-- A privileged word traps where its launch does not hold the level that it needs. -/
theorem privGate_traps {i : Instr} {s : State} {level : Nat} {k : State → State} (h : exec i s = .next (s.privGate level k))
    (hf : s.warp.fork = none) (ht : s.warp.task = none) (hl : s.holds s.warp level = false) : trapsAt i s 0x02 0 4 := by
  refine h.trans ?_
  rw [State.privGate, State.unforked_plain _ _ _ hf, ht, Option.isSome_none, State.modeIf_false, hl]
  rfl

/-- `clr` makes the first checks of an engine word, and then that of its privilege (R344). -/
theorem clr_traps {s : State} {d a b : SReg} (hf : s.warp.fork = none) (ha : s.warp.am = s.warp.live) (ht : s.warp.task = none)
    (hl : s.holds s.warp 2 = false) : trapsAt (.clr d a b) s 0x02 0 4 := by
  show execClr d a b s = _
  rw [execClr, State.engineGate, State.unforked_plain _ _ _ hf, State.fullMask_plain _ _ _ ha, ht, Option.isSome_none, State.modeIf_false, hl]
  rfl

theorem holds_eq_false {s : State} {level : Nat} :
    s.holds s.warp level = false ↔ s.warp.priv = false ∨ (s.part s.warp.ident.part).cfg.level < level := by
  rw [State.holds, Bool.and_eq_false_iff, decide_eq_false_iff_not, not_le]

/-! ## Jumps and accesses (R105, R120) -/

theorem jumpTo_misaligned {s : State} {x : W64} (h : x.toNat % 4 ≠ 0) : jumpTo s x = s.trapScalar cAlign 0 4 := by
  have hlow : x.extractLsb' 0 2 ≠ 0 := fun hx => h (by simpa [BitVec.extractLsb'_toNat] using congrArg BitVec.toNat hx)
  rw [jumpTo, if_neg hlow]

/-- The first check of a scalar access is that of its alignment. -/
theorem scalarAccess_misaligned {s : State} {acc n va size : Nat} {k : Trans → State → State} (h : va % n ≠ 0) :
    scalarAccess s acc n va size k = s.trapAccess cAlign 0 size va := if_pos h

theorem load_traps {i : Instr} {s : State} {d a : SReg} {off : W64} {n size : Nat} {signed : Bool}
    (he : exec i s = scalarLoad s d a off n signed size) (h : (s.sget a + off).toNat % n ≠ 0) :
    trapsFor i s 0x03 0 size (s.sget a + off).toNat := by
  rw [trapsFor, he, scalarLoad, scalarAccess_misaligned h]
  rfl

theorem store_traps {i : Instr} {s : State} {d a : SReg} {off : W64} {n size : Nat} (he : exec i s = scalarStore s d a off n size)
    (h : (s.sget a + off).toNat % n ≠ 0) : trapsFor i s 0x03 0 size (s.sget a + off).toNat := by
  rw [trapsFor, he, scalarStore, scalarAccess_misaligned h]
  rfl

/-! ## Returns (R186) -/

theorem rett_illegal {s : State} (enc : Nat) (skip : Bool) (h : s.warp.level = 0) : s.rett enc skip = s.illegalScalar enc 4 := if_pos h

theorem rett_depth {s : State} (enc : Nat) (skip : Bool) (h : s.warp.level ≠ 0)
    (hd : s.warp.stack.length ≠ (vget s.warp.save (s.warp.level.val - 1) .zero).depth) : s.rett enc skip = s.trapScalar cStackOvf 3 4 := by
  rw [State.rett, if_neg h, if_pos hd]

/-- Settles O4: each word by the gate that it passes first. -/
theorem scalarTraps : Obligations.ScalarTraps := by
  unfold Obligations.ScalarTraps
  refine ⟨?_, ?_, ?_, ?_⟩
  · intro s d a i w va vx traps
    refine ⟨fun h => ?_, fun h => ?_, fun h => ?_, fun h => ?_, fun h => ?_, fun h => ?_, fun h => ?_, fun h => ?_⟩
    · exact congrArg Host.Outcome.next (jumpTo_misaligned h)
    · exact congrArg Host.Outcome.next (jumpTo_misaligned h)
    all_goals exact ⟨load_traps rfl h, load_traps rfl h, store_traps rfl h⟩
  · intro s illegal
    refine ⟨fun h => ?_, fun h hd => ?_⟩
    · exact ⟨congrArg Host.Outcome.next (rett_illegal _ _ h), congrArg Host.Outcome.next (rett_illegal _ _ h)⟩
    · exact ⟨congrArg Host.Outcome.next (rett_depth _ _ h hd), congrArg Host.Outcome.next (rett_depth _ _ h hd)⟩
  · intro s h d a b z sat lr fold rm dir uses i hi
    have huses : ∀ i ∈ uses, ∃ k, exec i s = .next (s.matrixGate fun s => s.withHandle h k) := by
      simp only [uses, List.forall_mem_cons, List.not_mem_nil, false_imp_iff, implies_true, and_true]
      exact ⟨⟨_, rfl⟩, ⟨_, rfl⟩, ⟨_, rfl⟩, ⟨_, rfl⟩, ⟨_, rfl⟩⟩
    have hothers : ∀ i ∈ [Instr.accZero h a, .accLd h a b, .mmt h a b lr fold z, .mmtSolo h a b lr z, .tskip, .nnPush d a b dir, .nnPull d a b dir],
        ∃ k, exec i s = .next (s.matrixGate k) := by
      simp only [List.forall_mem_cons, List.not_mem_nil, false_imp_iff, implies_true, and_true]
      exact ⟨⟨_, rfl⟩, ⟨_, rfl⟩, ⟨_, rfl⟩, ⟨_, rfl⟩, ⟨_, rfl⟩, ⟨_, rfl⟩, ⟨_, rfl⟩⟩
    have hgate : ∃ k, exec i s = .next (s.matrixGate k) := by
      rcases List.mem_append.1 hi with hu | ho
      · obtain ⟨k, hk⟩ := huses i hu
        exact ⟨_, hk⟩
      · exact hothers i ho
    obtain ⟨k, hk⟩ := hgate
    obtain ⟨hfork, hmask, htask⟩ := matrixGate_traps hk
    refine ⟨hfork, hmask, htask, fun hf ha ht hu hh => ?_⟩
    obtain ⟨k, hk⟩ := huses i hu
    exact matrixGate_unbound hk hf ha ht hh
  · intro s d a b hf ht lacks
    have hlevel {level : Nat} (hl : lacks level) : s.holds s.warp level = false := holds_eq_false.2 hl
    have hlower (hl : lacks 1) : lacks 2 := hl.imp_right fun h => h.trans (by decide)
    refine ⟨fun hl => ⟨?_, ?_, ?_, ?_⟩, fun hl => ?_⟩
    · have traps {i : Instr} {k : State → State} (h : exec i s = .next (s.privGate 2 k)) := privGate_traps h hf ht (hlevel hl)
      simp only [List.forall_mem_cons, List.not_mem_nil, false_imp_iff, implies_true, and_true]
      exact ⟨traps rfl, traps rfl, traps rfl, traps rfl, traps rfl, traps rfl, traps rfl, traps rfl, traps rfl, traps rfl, traps rfl, traps rfl⟩
    · exact fun ha => clr_traps hf ha ht (hlevel hl)
    · intro hp
      have hneed : lacks (if field (s.sget a) 12 5 = s.warp.ident.part then 1 else 2) := by rwa [if_neg hp]
      exact ⟨privGate_traps rfl hf ht (hlevel hneed), privGate_traps rfl hf ht (hlevel hneed)⟩
    · intro hp
      have hneed : lacks (if field (s.sget a) 0 5 = s.warp.ident.part then 1 else 2) := by rwa [if_neg hp]
      exact ⟨privGate_traps rfl hf ht (hlevel hneed), privGate_traps rfl hf ht (hlevel hneed)⟩
    · have hneed (own : Prop) [Decidable own] : s.holds s.warp (if own then 1 else 2) = false := by
        split
        · exact hlevel hl
        · exact hlevel (hlower hl)
      have traps {i : Instr} {k : State → State} {own : Prop} [Decidable own] (h : exec i s = .next (s.privGate (if own then 1 else 2) k)) :=
        privGate_traps h hf ht (hneed own)
      simp only [List.forall_mem_cons, List.not_mem_nil, false_imp_iff, implies_true, and_true]
      exact ⟨traps rfl, traps rfl, traps rfl, traps rfl⟩

end Sys2Proof
end

section
/-! SUPPORT. `split` and `join` (R110 to R113), case by case, and O8. -/

namespace Sys2Proof

open Sys2Proof.Machine

/-! ## `split` (R111) -/

/-- The arms of a `split`: the active lanes in which its mask is set, and those in which it is not. -/
def setLanes (w : Warp) (m : MReg) : Mask := w.am &&& w.mget m
def clearLanes (w : Warp) (m : MReg) : Mask := w.am &&& ~~~(w.mget m)

section
variable {s : State} {m : MReg} (els jn : BitVec 16)

theorem split_empty (ha : setLanes s.warp m = 0) (hb : clearLanes s.warp m = 0) : goesTo (.split m els jn) s (s.target jn + 4) :=
  congrArg Host.Outcome.next (if_pos ⟨ha, hb⟩)

theorem split_forks (ha : setLanes s.warp m ≠ 0) (hb : clearLanes s.warp m ≠ 0) (hf : s.warp.fork = none) :
    exec (.split m els jn) s =
      .next (s.upd (·.forkAt (setLanes s.warp m) (clearLanes s.warp m) (s.target els) (s.target jn) (s.warp.pc + 8))) :=
  congrArg Host.Outcome.next ((if_neg fun h => ha h.1).trans (if_pos ⟨Option.isNone_iff_eq_none.2 hf, ha, hb⟩))

/-- Lanes in one arm alone, or in a fork that is open already: the stack takes an entry. -/
theorem split_stacks (h : setLanes s.warp m ≠ 0 ∨ clearLanes s.warp m ≠ 0)
    (hone : s.warp.fork ≠ none ∨ setLanes s.warp m = 0 ∨ clearLanes s.warp m = 0) :
    exec (.split m els jn) s = .next (
      if s.warp.stack.length = 32 then s.trapScalar cStackOvf 0 8
      else s.upd fun w =>
        ({ w with
          stack := ⟨w.am, if setLanes s.warp m = 0 then 0 else clearLanes s.warp m, s.target els, s.target jn⟩ :: w.stack
          pc := if setLanes s.warp m = 0 then s.target els else w.pc + 8 }).setAm
        (if setLanes s.warp m = 0 then clearLanes s.warp m else setLanes s.warp m)) := by
  have hnone : ¬(s.warp.fork.isNone = true ∧ setLanes s.warp m ≠ 0 ∧ clearLanes s.warp m ≠ 0) := by
    rw [Option.isNone_iff_eq_none]
    tauto
  refine congrArg Host.Outcome.next ((if_neg (by tauto)).trans ((if_neg hnone).trans ?_))
  simp only [← ite_not (p := setLanes s.warp m = 0)]
  rfl

end

/-! ## `join` (R112, R113) -/

/-- The base of the fork record is that of no fork where the warp is not forked. -/
theorem forkBase_lt {w : Warp} {n : Nat} (hn : 0 < n) (h : ∀ f, w.fork = some f → f.b0 < n) : (w.fork.map (·.b0)).getD 0 < n := by
  cases hf : w.fork with
  | none => exact hn
  | some f => exact h f hf

theorem join_entry {s : State} {e : StackEnt} {rest : List StackEnt} (hs : s.warp.stack = e :: rest)
    (h : ∀ f, s.warp.fork = some f → f.b0 < s.warp.stack.length) :
    exec .join s = .next (
      if e.jn ≠ s.warp.pc then s.trapScalar cStackOvf 2 4
      else if e.pending ≠ 0 then s.upd fun w => ({ w with stack := { e with pending := 0 } :: rest, pc := e.els }).setAm e.pending
      else s.upd fun w => ({ w with stack := rest, pc := w.pc + 4 }).setAm e.saved) := by
  have hb : (s.warp.fork.map (·.b0)).getD 0 < (e :: rest).length := hs ▸ forkBase_lt (by simp [hs]) h
  show execJoin s = _
  simp only [execJoin, if_pos hb, hs]

theorem join_nothing {s : State} (hs : s.warp.stack = []) (hf : s.warp.fork = none) : exec .join s = .next (s.trapScalar cStackOvf 1 4) := by
  show execJoin s = _
  simp only [execJoin, hs, hf]

theorem join_fork {s : State} {f : Fork} (hf : s.warp.fork = some f) (h : s.warp.stack.length ≤ f.b0) :
    exec .join s = .next (
      if f.jn ≠ s.warp.pc then s.trapScalar cStackOvf 2 4
      else if f.other.wait = .joined then s.upd (·.merge f)
      else s.waitOn .joined) := by
  show execJoin s = _
  cases hs : s.warp.stack with
  | nil => simp only [execJoin, hs, hf]
  | cons e rest =>
    have hb : ¬((some f.b0).getD 0 < (e :: rest).length) := not_lt.2 (hs ▸ h)
    simp only [execJoin, hs, hf, Option.map_some, if_neg hb]

/-! ## The merge (R113) -/

section
variable {w : Warp} {f : Fork}

theorem merge_fallThrough (h : f.cur = 0) : w.merge f = { w with fork := none, wait := .none, pc := f.jn + 4, am := f.saved &&& w.live } := by
  rw [Warp.merge, if_pos h]
  rfl

/-- In the else arm the warp's own fields first become those of the other arm, the fall-through one. -/
theorem merge_else (hf : w.fork = some f) (h : f.cur ≠ 0) :
    w.merge f = { w with
      s := f.other.s, banks := w.banks.set f.level.val f.other.bank f.level.isLt, c := f.other.c, stack := f.other.stack
      block := f.other.block, partDone := f.other.partDone, inFlight := f.other.inFlight, pending := f.other.pending
      fork := none, wait := .none, pc := f.jn + 4, am := f.saved &&& w.live } := by
  simp only [Warp.merge, if_neg h, Warp.swapArm, hf, Warp.setAm]

end

theorem get_set_bank {α : Type} {n : Nat} (v : Vector α n) (i k : Fin n) (x : α) : (v.set i.val x i.isLt).get k = if k = i then x else v.get k := by
  simp only [Vector.get_eq_getElem, Vector.getElem_set, Fin.ext_iff, eq_comm (a := k.val)]

/-- Settles O8: every case of a `split` and of a `join` by the branch that it takes. -/
theorem splitAndJoin : Obligations.SplitAndJoin := by
  unfold Obligations.SplitAndJoin
  refine ⟨?_, ?_⟩
  · intro s m els jn a b e j
    refine ⟨split_empty els jn, fun ha hb hf => ⟨_, split_forks els jn ha hb hf, ?_⟩, fun h hone hfull => ?_, fun h hone hroom => ?_⟩
    · refine ⟨rfl, rfl, ⟨_, rfl, rfl, rfl, rfl, rfl, rfl, rfl, rfl, rfl, rfl, rfl, rfl, rfl, rfl, rfl⟩, ?_, rfl⟩
      rw [← hf]
      rfl
    · rw [trapsAt, trapsFor, split_stacks els jn h hone, if_pos hfull]
      rfl
    · rw [split_stacks els jn h hone, if_neg hroom]
      rfl
  · intro s w
    refine ⟨fun e rest hs h => ?_, join_nothing, fun f hf h => ?_⟩
    · rw [trapsAt, trapsFor, join_entry hs h]
      refine ⟨fun hj => ?_, fun hj hp => ?_, fun hj hp => ?_⟩
      · rw [if_pos hj]
        rfl
      · rw [if_neg (not_not.2 hj), if_pos hp]
        rfl
      · rw [if_neg (not_not.2 hj), if_neg (not_not.2 hp)]
        rfl
    · rw [trapsAt, trapsFor, completes, join_fork hf h]
      refine ⟨fun hj => ?_, fun hj hw => ?_, fun hj hw => ?_⟩
      · rw [if_pos hj]
        rfl
      · rw [if_neg (not_not.2 hj), if_neg hw]
        rfl
      · rw [if_neg (not_not.2 hj), if_pos hw]
        refine ⟨_, rfl, ?_⟩
        rw [State.upd_warp]
        by_cases hc : f.cur = 0
        · rw [merge_fallThrough hc]
          exact ⟨rfl, rfl, rfl, rfl, (if_pos hc).symm, fun k => (if_neg fun h => h.2 hc).symm, (if_pos hc).symm, (if_pos hc).symm,
            rfl, rfl, rfl, rfl⟩
        · rw [merge_else hf hc]
          refine ⟨rfl, rfl, rfl, rfl, (if_neg hc).symm, fun k => ?_, (if_neg hc).symm, (if_neg hc).symm, rfl, rfl, rfl, rfl⟩
          simp only [hc, not_false_eq_true, and_true, ne_eq]
          exact get_set_bank w.banks f.level k f.other.bank

end Sys2Proof
end

section
/-! SUPPORT. The end of a warp by a halt or by `exit` (R117, R118, R183, R191 to R193, R196), and O11. -/

namespace Sys2Proof

open Sys2Proof.Machine

/-- A state in which items are logged for comparison, where the warp has a shadow (R199). -/
def withItems (s : State) (l : List Item) : State := { s with items := logged s l }

theorem itemAt_eq (s : State) (d : Nat) (v : List Nat) (m : Mask) (a : Nat) : s.itemAt d v m a = withItems s [⟨d, v, m, a⟩] := by
  unfold State.itemAt withItems logged
  split <;> rfl

/-! ## What the end of the current warp leaves (R117, R191) -/

theorem crewWarps_exitWarp (s : State) (w : Warp) (g c : Nat) : (s.exitWarp w).crewWarps g c = (s.retire w.id).crewWarps g c := by
  obtain ⟨cs, hc⟩ := (s.retire w.id).crewAfter_frame w.ident.grid w.ident.crew
  rw [State.exitWarp, hc]
  rfl

section
variable {s : State} {w : Warp} (h : s.warp = w)
include h

theorem retire_current :
    s.retire w.id = { s with
      warp := { w with alive := false }
      others := s.others.filter fun x => x.id != w.id
      shadows := s.shadows.filter fun x => x.id != w.id
      pairs := Tab.del s.pairs w.id } := by
  subst h
  exact if_pos rfl

theorem exitWarp_warp : (s.exitWarp w).warp = { w with alive := false } := by rw [State.exitWarp, State.crewAfter_warp, retire_current h]

theorem mem_others_exitWarp {x : Warp} : x ∈ (s.exitWarp w).others ↔ x ∈ s.others ∧ x.id ≠ w.id := by
  obtain ⟨cs, hc⟩ := (s.retire w.id).crewAfter_frame w.ident.grid w.ident.crew
  rw [State.exitWarp, hc, retire_current h, List.mem_filter, bne_iff_ne]

theorem mem_shadows_exitWarp {x : Warp} : x ∈ (s.exitWarp w).shadows ↔ x ∈ s.shadows ∧ x.id ≠ w.id := by
  obtain ⟨cs, hc⟩ := (s.retire w.id).crewAfter_frame w.ident.grid w.ident.crew
  rw [State.exitWarp, hc, retire_current h, List.mem_filter, bne_iff_ne]

/-! ## The crew of the warp (R229, R380) -/

theorem exitWarp_crews_kept (hc : (s.exitWarp w).crewWarps w.ident.grid w.ident.crew ≠ []) : (s.exitWarp w).crews = s.crews := by
  rw [crewWarps_exitWarp] at hc
  rw [State.exitWarp, State.crewAfter, if_neg (by simpa using hc), retire_current h]

theorem exitWarp_crews_emptied (hc : (s.exitWarp w).crewWarps w.ident.grid w.ident.crew = []) :
    (s.exitWarp w).crews = s.crews.map fun x =>
      if x.grid = w.ident.grid ∧ x.num = w.ident.crew then x.emptied (s.ops.any fun o => o.holds w.ident.grid w.ident.crew) else x := by
  rw [crewWarps_exitWarp] at hc
  rw [State.exitWarp, State.crewAfter, if_pos (List.isEmpty_iff.2 hc), retire_current h]
  rfl

end

theorem emptied_eq (x : Crew) (busy : Bool) : x.emptied busy =
    if x.deque = [] then (if x.state = .placed ∨ x.state = .marked then { x with state := .done, core := if busy then x.core else none } else x)
      else if x.state = .placed then { x with state := .held } else x := by
  simp only [Crew.emptied, List.isEmpty_iff]

/-! ## `exit` (R114, R117, R118) -/

/-- A warp of a `DET` launch leaves its carrel behind, as a warp that lives no longer (R202). -/
theorem leaveCarrel_cases (s : State) (w : Warp) : ∃ os, s.leaveCarrel w = { s with others := os } ∧
    ∀ x, x ∈ os ↔ x ∈ s.others ∨ (w.det = true ∧ w.carrel ≠ [] ∧ x = { w with alive := false, wait := .commit }) := by
  unfold State.leaveCarrel
  split
  case isTrue h => exact ⟨_, rfl, fun x => by simp only [h, true_and, ne_eq, not_false_eq_true, List.mem_cons, or_comm]⟩
  case isFalse h => exact ⟨s.others, rfl, fun x => by simp only [← and_assoc, h, false_and, or_false]⟩

/-- The carrel of a warp that has gone is no live warp of its crew. -/
theorem crewWarps_leaveCarrel (s : State) (w : Warp) (g c : Nat) : (s.leaveCarrel w).crewWarps g c = s.crewWarps g c := by
  unfold State.leaveCarrel
  split
  · simp [State.crewWarps, State.warps, List.filter_cons]
  · rfl

theorem exit_forked {s : State} (h : s.warp.fork ≠ none) : trapsAt .exit s 0x0A 0 4 :=
  congrArg Host.Outcome.next (if_pos (Option.isSome_iff_ne_none.2 h))

theorem exit_next {s : State} (h : s.warp.fork = none) :
    exec .exit s = .next (((withItems s [⟨8, [], 0, 0⟩]).exitWarp s.warp).leaveCarrel s.warp) := by
  show execExit s = _
  rw [execExit, State.unforked_plain _ _ _ h, State.exitNow, State.item, itemAt_eq]
  rfl

/-! ## A trap without a handler (R183, R191) -/

/-- The levels at which a trap finds no handler registered (R183). -/
def noHandler (w : Warp) : Prop := (w.level = 0 ∧ w.h1 = 0) ∨ (w.level = 1 ∧ w.h2 = 0) ∨ w.level = 2

/-- Outside a fork a trap without a handler halts the warp: with its cause at level 0, and with `DOUBLE_TRAP` above. -/
theorem trap_halts {s : State} (hf : s.warp.fork = none) (hh : noHandler s.warp) (c : Cause) :
    s.trap c = (withItems s [⟨7, [c.code.toNat, c.mask.toNat], c.mask, c.va⟩]).halt
      (if s.warp.level = 0 then c.code.toNat else 0x22) (if s.warp.level = 0 then c.detail.toNat else c.code.toNat) c.mask c.va := by
  have hheld : s.warp.trapHeld = false := by rw [Warp.trapHeld, hf]; rfl
  rw [← itemAt_eq]
  rcases s.trap_cases c with ⟨h, -⟩ | ⟨-, ⟨habove, h⟩ | ⟨hlevel, -, h⟩ | ⟨habove, hlevel, -⟩⟩
  · simp [hheld] at h
  · have hne : s.warp.level ≠ 0 := by rcases habove with h | ⟨h, -⟩ <;> simp [h]
    rw [h, if_neg hne, if_neg hne]
    rfl
  · rw [h, if_pos hlevel, if_pos hlevel]
  · rcases hh with h | h | h
    · exact absurd h hlevel
    · exact absurd (.inr h) habove
    · exact absurd (.inl h) habove

/-! ## What a halt leaves (R191 to R193, R196) -/

theorem ticketMsg_crew (kind code : Nat) (t : Ticket) (level detail : Nat) (mask : Mask) (va : Nat) :
    leAt (ticketMsg kind code t level detail mask va) 8 4 = t.crew % 2 ^ 32 :=
  leAt_layBytes [(1, kind), (1, code), (2, 0), (4, t.launch)] _ 4 t.crew

theorem ticketMsg_warp (kind code : Nat) (t : Ticket) (level detail : Nat) (mask : Mask) (va : Nat) :
    leAt (ticketMsg kind code t level detail mask va) 12 4 = t.warp % 2 ^ 32 :=
  leAt_layBytes [(1, kind), (1, code), (2, 0), (4, t.launch), (4, t.crew)] _ 4 t.warp

theorem ticket_crew (w : Warp) : w.ticket.crew = w.ident.crew := by unfold Warp.ticket; split <;> rfl
theorem ticket_warp (w : Warp) : w.ticket.warp = w.ident.global := by unfold Warp.ticket; split <;> rfl

/-- A message that finds room leaves the overflow record as it was (R193). -/
theorem pushMsg_overflow {s : State} {p : Nat} (m : List Byte) (h : (s.part p).msgs.length < 1023) :
    ((s.pushMsg p m).part p).overflow = (s.part p).overflow := by
  rw [pushMsg_room m h, State.part, State.setPart_parts, Tab.get_set_same]

/-- A message that finds none is counted in the overflow record (R193). -/
theorem pushMsg_full {s : State} {p : Nat} (m : List Byte) (h : 1023 ≤ (s.part p).msgs.length) :
    ((s.pushMsg p m).part p).msgs = (s.part p).msgs ∧
      ∃ o, ((s.pushMsg p m).part p).overflow = some o ∧ o.count = (s.part p).overflow.elim 1 fun x => x.count + 1 := by
  have hfull : ¬(s.part p).msgs.length < Config.faultMessages := not_lt.2 h
  simp only [State.pushMsg, if_neg hfull, State.now]
  rw [State.part, State.setPart_parts, Tab.get_set_same]
  refine ⟨rfl, _, rfl, ?_⟩
  cases (s.part p).overflow <;> rfl

section
variable (s : State) (code detail : Nat) (mask : Mask) (va : Nat)

/-- A halt sends its message, abandons barriers and marks the grid before it ends the warp. -/
theorem halt_eq : ∃ u : State, s.halt code detail mask va = u.exitWarp s.warp ∧ u.warp = s.warp ∧ u.others = s.others ∧
    u.dev = s.dev ∧ u.hostMem = s.hostMem ∧ u.bankMem = s.bankMem := by
  obtain ⟨x, f, hx, -⟩ := s.pushMsg_frame s.warp.ident.part (ticketMsg 1 code s.warp.ticket s.warp.level.val detail mask va)
  refine ⟨_, rfl, ?_⟩
  rw [hx]
  exact ⟨rfl, rfl, rfl, rfl, rfl⟩

/-- The message of a halt stands behind those before it where there is room, and is counted in the overflow record where there is none (R193). -/
theorem halt_message :
    let p := s.part s.warp.ident.part
    let q := (s.halt code detail mask va).part s.warp.ident.part
    (p.msgs.length < 1023 → q.overflow = p.overflow ∧
      q.msgs = p.msgs ++ [ticketMsg 1 code s.warp.ticket s.warp.level.val detail mask va]) ∧
    (1023 ≤ p.msgs.length → q.msgs = p.msgs ∧ ∃ o, q.overflow = some o ∧ o.count = p.overflow.elim 1 fun x => x.count + 1) := by
  have hpart : (s.halt code detail mask va).part s.warp.ident.part = ((s.pushMsg s.warp.ident.part
      (ticketMsg 1 code s.warp.ticket s.warp.level.val detail mask va)).part s.warp.ident.part).abandon s.warp.id := by
    rw [State.halt, State.haltAt, State.part, exitWarp_parts]
    exact part_modPart_same (s.pushMsg s.warp.ident.part _) _ (·.abandon s.warp.id)
  intro p q
  rw [show q = _ from hpart]
  exact ⟨fun h => ⟨pushMsg_overflow _ h, pushMsg_msgs _ h⟩, pushMsg_full _⟩

end

/-- Settles O11: a trap without a handler is the halt of `halt_eq`, and an `exit` the end of the warp with the carrel that it leaves. -/
theorem warpEnds : Obligations.WarpEnds := by
  unfold Obligations.WarpEnds
  refine ⟨?_, ?_⟩
  · intro s code w hf hh
    have hcode : (BitVec.ofNat 32 code.toNat).toNat = code.toNat := by rw [BitVec.toNat_ofNat, Nat.mod_eq_of_lt (by omega)]
    let v := withItems s [⟨7, [0x18, 0], 0, 0⟩]
    let cause : Nat := if w.level = 0 then 0x18 else 0x22
    let detail : Nat := if w.level = 0 then (BitVec.ofNat 32 code.toNat).toNat else 0x18
    obtain ⟨u, hu, hwarp, hothers, hdev, hhost, hbank⟩ := halt_eq v cause detail 0 0
    obtain ⟨-, -, hgrids, -⟩ := haltAt_spec (s := v) rfl cause detail 0 0 v.warp.ticket
    have hmemory := u.exitWarp_frame w
    refine ⟨v.halt cause detail 0 0, congrArg Host.Outcome.next (trap_halts hf hh _), ?_, ?_, ?_, hgrids, ?_, ?_, ?_, ?_⟩
    · rw [hu]
      exact exitWarp_warp hwarp
    · rw [hu]
      exact fun x hx => hothers ▸ (mem_others_exitWarp hwarp).1 hx
    · rw [hu]
      exact fun x hx hid => (mem_others_exitWarp hwarp).2 ⟨hothers ▸ hx, hid⟩
    · rintro p q rfl rfl
      obtain ⟨hroom, hfull⟩ := halt_message v cause detail 0 0
      refine ⟨fun h => ⟨(hroom h).1, _, (hroom h).2, ticketMsg_length .., ticketMsg_kind .., ?_, ?_, ?_, ?_⟩, fun h => ⟨(hfull h).1, ?_⟩⟩
      · rw [ticketMsg_code]
        show BitVec.ofNat 8 (if w.level = 0 then 0x18 else 0x22) = _
        split <;> rfl
      · rw [ticketMsg_detail]
        show (if w.level = 0 then (BitVec.ofNat 32 code.toNat).toNat else 0x18) % 2 ^ 32 = _
        split
        · rw [hcode, Nat.mod_eq_of_lt (by omega)]
        · rfl
      · rw [ticketMsg_crew, ticket_crew]
        rfl
      · rw [ticketMsg_warp, ticket_warp]
        rfl
      · obtain ⟨o, ho, hcount⟩ := (hfull h).2
        refine ⟨o, ho, hcount.trans ?_⟩
        show (s.part w.ident.part).overflow.elim 1 (fun x => x.count + 1) = _
        cases (s.part w.ident.part).overflow <;> rfl
    · rw [hu]
      exact (congrArg State.dev hmemory).trans hdev
    · rw [hu]
      exact (congrArg State.hostMem hmemory).trans hhost
    · rw [hu]
      exact (congrArg State.bankMem hmemory).trans hbank
  · intro s w busy
    have hw : (withItems s [⟨8, [], 0, 0⟩]).warp = w := rfl
    refine ⟨exit_forked, fun hf => ⟨_, exit_next hf, ?_⟩⟩
    dsimp only
    obtain ⟨os, hos, hmem⟩ := leaveCarrel_cases ((withItems s [⟨8, [], 0, 0⟩]).exitWarp w) w
    rw [crewWarps_leaveCarrel, hos]
    refine ⟨exitWarp_warp hw, fun x => ?_, fun x => mem_shadows_exitWarp hw, exitWarp_crews_kept hw, fun hc => ?_, ?_, ?_⟩
    · rw [hmem, mem_others_exitWarp hw]
      rfl
    · rw [exitWarp_crews_emptied hw hc]
      simp only [emptied_eq]
      rfl
    · exact (congrArg State.items ((withItems s [⟨8, [], 0, 0⟩]).exitWarp_frame w) :)
    · exact (congrArg (fun t : State => { t with items := s.items }) ((withItems s [⟨8, [], 0, 0⟩]).exitWarp_frame w) :)

end Sys2Proof
end

section
/-! SUPPORT. Where a translation leads, the checks of a scalar access, scalar loads, and O5. -/

namespace Sys2Proof

open Sys2Proof.Machine

/-! ## Where a translation leads (R331, R333) -/

theorem pageBytes_dvd (size : Nat) : 4096 ∣ pageBytes size := by
  unfold pageBytes
  split <;> decide

/-- A leaf keeps the offset of an address in its 4 KiB frame. -/
theorem leafEnd_offset {s : State} {p va leaf e : Nat} {tr : Trans} (h : s.leafEnd p va leaf e = .ok tr) : tr.pa % 4096 = va % 4096 := by
  have hpa : tr.pa = pteFrame e + va % pageBytes (pteSize e) := by
    unfold State.leafEnd at h
    dsimp only at h
    split at h
    · split at h
      · cases h
      · split at h <;> cases h
        rfl
    · cases h
      rfl
    · split at h <;> cases h
      rfl
  have hframe : pteFrame e % 4096 = 0 := Nat.mul_mod_left _ _
  rw [hpa, Nat.add_mod, hframe, Nat.mod_mod_of_dvd _ (pageBytes_dvd _)]
  omega

/-- A walk that gives a translation ends at a leaf. -/
theorem walk_leaf {s : State} {p va : Nat} {tr : Trans} (level : Nat) :
    ∀ table, s.walk p va level table = .ok tr → ∃ leaf e, s.leafEnd p va leaf e = .ok tr := by
  induction level using Nat.strong_induction_on with
  | _ level ih =>
    intro table h
    unfold State.walk at h
    split at h
    · cases h
    · dsimp only at h
      split at h
      · cases h
      · split at h
        · split at h
          · cases h
          · exact ⟨_, _, h⟩
        · split at h
          · cases h
          · split at h
            · cases h
            · exact ih _ (Nat.lt_succ_self _) _ h

theorem xlate_offset {s : State} {p va : Nat} {tr : Trans} (h : s.xlate p va = .ok tr) : tr.pa % 4096 = va % 4096 := by
  unfold State.xlate at h
  split at h
  · cases h
  · obtain ⟨leaf, e, h⟩ := walk_leaf _ _ h
    exact leafEnd_offset h

/-! ## Bytes of a range -/

theorem devRead_eq_map (s : State) (n : Nat) : ∀ a, s.devRead a n = (List.range' a n).map s.devByte := by
  induction n with
  | zero => intro a; rfl
  | succ n ih => intro a; rw [State.devRead, ih, List.range'_succ, List.map_cons]

theorem memRead_eq_map (m : Mem) (n : Nat) : ∀ a, m.read a n = (List.range' a n).map m.byte := by
  induction n with
  | zero => intro a; rfl
  | succ n ih => intro a; rw [Mem.read, ih, List.range'_succ, List.map_cons]

theorem range'_within {a k n m : Nat} (h : k + n ≤ m) : ((List.range' a m).drop k).take n = List.range' (a + k) n := by
  have hsplit : m - k = n + (m - k - n) := by omega
  rw [List.drop_range', Nat.mul_one, hsplit, ← List.range'_append_1, List.take_left' (List.length_range' ..)]

/-- Part of a range of bytes. -/
theorem placeRead_within (s : State) (p : Place) (a : Nat) {k n m : Nat} (h : k + n ≤ m) :
    ((s.placeRead p a m).drop k).take n = s.placeRead p (a + k) n := by
  cases p with
  | device => simp only [State.placeRead, devRead_eq_map, ← List.map_drop, ← List.map_take, range'_within h]
  | host => simp only [State.placeRead, memRead_eq_map, ← List.map_drop, ← List.map_take, range'_within h]
  | remote =>
    rw [State.placeRead, State.placeRead, List.drop_replicate, List.take_replicate, Nat.min_eq_left (by omega)]

/-- The poison of a range within 8 aligned bytes is that of all of them (R216). -/
theorem placePoisoned_granule (s : State) (p : Place) {pa n : Nat} (hn : n ≠ 0) (h : pa % 8 + n ≤ 8) :
    s.placePoisoned p (pa / 8 * 8) 8 = s.placePoisoned p pa n := by
  have hmem (m : Mem) : m.poisoned (pa / 8 * 8) 8 = m.poisoned pa n := by
    have hlo : pa / 8 * 8 / 8 = pa / 8 := by omega
    have hhi : (pa / 8 * 8 + 8 - 1) / 8 = (pa + n - 1) / 8 := by omega
    simp only [Mem.poisoned, hlo, hhi, bne_iff_ne.2 hn]
    rfl
  have hhost : s.hostErr .host (pa / 8 * 8) 8 = s.hostErr .host pa n := by
    have hlo : pa / 8 * 8 / 128 = pa / 128 := by omega
    have hhi : (pa / 8 * 8 + 8 - 1) / 128 = (pa + n - 1) / 128 := by omega
    simp only [State.hostErr, hlo, hhi]
  cases p with
  | device => exact hmem s.dev
  | host => rw [State.placePoisoned, State.placePoisoned, hmem, hhost]
  | remote => rfl

/-! ## The checks of a scalar access (R120) -/

/-- A warp of no `SHADOW` launch has nothing that a shadow has still to confirm. -/
theorem unconfirmed_plain {s : State} (h : s.warp.isShadowed = false) : s.unconfirmed = [] := by rw [State.unconfirmed, h]; rfl
theorem behind_plain {s : State} (h : s.warp.isShadowed = false) : s.behind = false := by rw [State.behind, h]; rfl

/-- An access waits for nothing, and its mode allows it: inside a task it is to device memory (R318), a write that is not held back finds no move of
its page (R340), an SO page no access under way (R427), and a carrel has room (R312). -/
theorem before_passes {s : State} {acc : Nat} {tr : Trans} (hs : s.warp.isShadowed = false) (htask : s.warp.task.isSome = true → tr.place = .device)
    (hmove : acc ≠ accRead → s.warp.buffered = false → pteMoving tr.entry = false) (hso : pteMode tr.entry = 1 → s.awaiting (·.so) = false)
    (hroom : acc ≠ accRead → s.warp.det = true → carrelCount s.warp.carrel + newLines s.warp.carrel acc [tr] ≤ 2048) (m k : State → State) :
    s.before acc [tr] m k = k s := by
  have h44 : (s.warp.task.isSome && [tr].any fun t => t.place != .device) = false := by simpa using htask
  have hm : (acc != accRead && !s.warp.buffered && [tr].any fun t => pteMoving t.entry) = false := by simpa using hmove
  have hw : (([tr].any fun t => pteMode t.entry == 1) && (s.awaiting (·.so) || (([] : List Held).filterMap Held.va?).any s.soAt)) = false := by
    simpa using hso
  have hr : (acc != accRead && s.warp.det && !s.warp.carrel.isEmpty &&
      decide (Config.carrelLines < carrelCount s.warp.carrel + newLines s.warp.carrel acc [tr])) = false := by
    refine Bool.eq_false_iff.2 fun h => ?_
    simp only [Bool.and_eq_true, bne_iff_ne, decide_eq_true_eq] at h
    obtain ⟨⟨⟨ha, hd⟩, -⟩, hfull⟩ := h
    exact absurd hfull (not_lt.2 (hroom ha hd))
  simp only [State.before, behind_plain hs, unconfirmed_plain hs, h44, hm, hw, hr, List.any_nil, Bool.and_false, Bool.or_false,
    Bool.false_eq_true, if_false]

theorem buffered_eq_false {w : Warp} (h : w.buffered = false) : w.det = false ∧ w.task = none := by
  simpa [Warp.buffered] using h

/-- A plain access waits for nothing. -/
theorem before_plain {s : State} {acc n va : Nat} {tr : Trans} (h : plainAccess s acc n va tr) (m k : State → State) :
    s.before acc [tr] m k = k s := by
  obtain ⟨-, -, -, hbuf, hs, hmoving, hso⟩ := h
  obtain ⟨hdet, htask⟩ := buffered_eq_false hbuf
  exact before_passes hs (by simp [htask]) (fun ha _ => (hmoving ha).1) hso (by simp [hdet]) m k

/-- An access that passes its checks and waits for nothing is performed, in the state that its walk leaves. -/
theorem scalarAccess_ok {s : State} {acc n va size : Nat} {tr : Trans} (hn : va % n = 0)
    (htr : permCheck acc (s.xlate s.warp.ident.part va) = .ok tr) (hs : s.warp.isShadowed = false)
    (hb : ∀ m k, s.before acc [tr] m k = k s) (k : Trans → State → State) :
    scalarAccess s acc n va size k = k tr (s.markLeaf tr.leaf (acc == accWrite || acc == accAtomic)) := by
  have hts : s.scalarTrans acc va = [tr] := by rw [State.scalarTrans, htr]
  rw [scalarAccess, if_neg (not_not.2 hn), hts, hb, behind_plain hs, access_ok htr]
  rfl

/-! ## Loads (R119, R264) -/

/-- Without a copy of the line in its cache, the cluster reads 8 aligned bytes from memory. -/
theorem cdcRead_home {s : State} {tr : Trans} (base : Nat) (hbase : base / 128 = tr.pa / 128)
    (hc : cdcFind s.cdc (s.clusterOf s.warp) tr.place (tr.pa / 128) = none) :
    s.cdcRead { tr with pa := base } 8 = (s.placeRead tr.place base 8, s.placePoisoned tr.place base 8) := by
  simp only [State.cdcRead, hbase, hc]
  split <;> rfl

theorem cdcTouch_cases (s : State) (tr : Trans) (hint : Nat) : ∃ f, s.cdcTouch tr hint = { s with fills := f } := by
  unfold State.cdcTouch
  dsimp only
  split
  · exact ⟨s.fills, rfl⟩
  · split
    · exact ⟨_, rfl⟩
    · exact ⟨_, rfl⟩

theorem taskRead_plain {w : Warp} (h : w.task = none) (p : Place) (pa : Nat) : w.taskRead p pa = w := by simp only [Warp.taskRead, h]

/-- A load of bytes that stand at their home without poison gives them, and asks for their line. -/
theorem loadHome_plain {s : State} {tr : Trans} {n : Nat} (hint : Nat) (hn : n ≠ 0) (hpa : tr.pa % 8 + n ≤ 8) (hb : s.warp.buffered = false)
    (hs : s.warp.isShadowed = false) (hh : atHome s tr n) :
    ∃ f, s.loadHome tr n hint = (s.placeRead tr.place tr.pa n, false, { s with fills := f }) := by
  obtain ⟨hclean, hcopy⟩ := hh
  obtain ⟨-, htask⟩ := buffered_eq_false hb
  have hfirst : s.firstRead tr = s := by rw [State.firstRead, htask]; rfl
  have hread := cdcRead_home (s := s) (tr := tr) (tr.pa / 8 * 8) (by omega) hcopy
  rw [placePoisoned_granule s tr.place hn hpa, hclean] at hread
  have hbytes := placeRead_within s tr.place (tr.pa / 8 * 8) hpa
  rw [show tr.pa / 8 * 8 + tr.pa % 8 = tr.pa by omega] at hbytes
  obtain ⟨f, hf⟩ := cdcTouch_cases s tr hint
  refine ⟨f, ?_⟩
  simp only [State.loadHome, hfirst, behind_plain hs, hread, hb, unconfirmed_plain hs, hf]
  have hover (win : List Byte) : overlay (memHeld []) tr.place (tr.pa / 8 * 8) win = win := rfl
  simp [hover, hbytes, State.upd, taskRead_plain htask]

theorem placeRead_countAccess (s : State) (p va : Nat) (tr : Trans) (q : Place) (a n : Nat) :
    (s.countAccess p va tr).placeRead q a n = s.placeRead q a n := by
  obtain ⟨c, d, h⟩ := countAccess_cases s p va tr
  rw [h]
  cases q with
  | device => exact devRead_counters s c d n a
  | host => rfl
  | remote => rfl

theorem atHome_countAccess {s : State} {tr : Trans} {n : Nat} (p va : Nat) (t : Trans) (h : atHome s tr n) : atHome (s.countAccess p va t) tr n := by
  obtain ⟨c, d, hc⟩ := countAccess_cases s p va t
  rw [hc]
  exact h

/-- A plain load delivers the bytes at the home of its address, may count the access, and asks for the line. -/
theorem load_plain {s : State} {tr : Trans} {n : Nat} (p va : Nat) (lanes : Mask) (r : RemoteLoad) (hn : n ≠ 0) (hpa : tr.pa % 8 + n ≤ 8)
    (hb : s.warp.buffered = false) (hs : s.warp.isShadowed = false) (hr : tr.place ≠ .remote) (hh : atHome s tr n) :
    ∃ f, s.load p va tr n 0 lanes r =
      ⟨{ s.countAccess p va tr with fills := f }, some (bytesToNat (s.placeRead tr.place tr.pa n)), false, false⟩ := by
  have hs' : (s.countAccess p va tr).warp.isShadowed = false := by rwa [countAccess_warp]
  obtain ⟨f, hf⟩ := loadHome_plain 0 hn hpa (by rwa [countAccess_warp]) hs' (atHome_countAccess p va tr hh)
  refine ⟨f, ?_⟩
  simp only [State.load, State.itemAt_plain _ _ _ _ _ hs', hr, false_and, if_false, hf, placeRead_countAccess, Bool.false_eq_true]
  rw [State.viaLvq_plain { s.countAccess p va tr with fills := f } _ hs']

theorem extendLoad_eq (signed : Bool) (n x : Nat) : extendLoad signed n x =
    if signed then BitVec.ofInt 64 (if x < 2 ^ (8 * n - 1) then x else (x : Int) - 2 ^ (8 * n)) else BitVec.ofNat 64 x := by
  cases signed with
  | false => rfl
  | true =>
    unfold extendLoad
    by_cases hx : x < 2 ^ (8 * n - 1)
    · simp [hx]
    · simp [hx, not_lt.1 hx]

theorem atHome_markLeaf {s : State} {tr : Trans} {n : Nat} (leaf : Nat) (d : Bool) (h : atHome s tr n) : atHome (s.markLeaf leaf d) tr n := by
  obtain ⟨m, t, hm, hp⟩ := markLeaf_cases s leaf d
  obtain ⟨hclean, hcopy⟩ := h
  rw [hm]
  refine ⟨?_, hcopy⟩
  rw [← hclean]
  cases tr.place with
  | device => simp only [State.placePoisoned, Mem.poisoned, hp]
  | host => rfl
  | remote => rfl

@[simp] theorem markLeaf_warp (s : State) (leaf : Nat) (d : Bool) : (s.markLeaf leaf d).warp = s.warp := by
  obtain ⟨m, t, h, -⟩ := markLeaf_cases s leaf d
  rw [h]

/-- An aligned access of 1, 2, 4 or 8 bytes lies within 8 aligned bytes, at its address and at its home. -/
theorem access_within {va pa n : Nat} (hn : n ∈ [1, 2, 4, 8]) (hva : va % n = 0) (hpa : pa % 4096 = va % 4096) : n ≠ 0 ∧ pa % 8 + n ≤ 8 := by
  simp only [List.mem_cons, List.not_mem_nil, or_false] at hn
  obtain rfl | rfl | rfl | rfl := hn <;> omega

/-- A register write and the advance behind the word, in a state that has the warp of another. -/
theorem sset_adv_spec {v s : State} (hw : v.warp = s.warp) (d : SReg) (x : W64) (n : Nat) :
    ((v.sset d x).adv n).warp.pc = s.warp.pc + BitVec.ofNat 64 n ∧ regsWith ((v.sset d x).adv n).warp s.warp d x ∧
      onlyRegs ((v.sset d x).adv n).warp s.warp := by
  rw [State.adv_warp, State.sset_warp, hw]
  exact ⟨by simp, regsWith_pc (regsWith_sset s.warp d x) _, onlyRegs_sset s.warp d x _⟩

/-- What a plain scalar load comes to. -/
theorem scalarLoad_plain {s : State} {d a : SReg} {off : W64} {n size : Nat} {signed : Bool} {tr : Trans} (hn : n ∈ [1, 2, 4, 8])
    (h : plainAccess s accRead n (s.sget a + off).toNat tr) (hh : atHome s tr n) :
    let u := s.markLeaf tr.leaf false
    ∃ f, scalarLoad s d a off n signed size = .next
      (({ u.countAccess s.warp.ident.part (s.sget a + off).toNat tr with fills := f }.sset d
        (extendLoad signed n (bytesToNat (u.placeRead tr.place tr.pa n)))).adv size) := by
  intro u
  obtain ⟨hva, htr, hr, hb, hs, -⟩ := id h
  obtain ⟨hzero, hpa⟩ := access_within hn hva (xlate_offset (permCheck_ok htr))
  obtain ⟨f, hload⟩ := load_plain (s := u) s.warp.ident.part (s.sget a + off).toNat 0
    ⟨0, 0, 0, 0, 0, signed, false, none, some d, 0, 0, 0, [], none⟩ hzero hpa (by rwa [markLeaf_warp]) (by rwa [markLeaf_warp]) hr
    (atHome_markLeaf _ _ hh)
  refine ⟨f, ?_⟩
  have hmark : (accRead == accWrite || accRead == accAtomic) = false := rfl
  rw [scalarLoad, scalarAccess_ok hva htr hs (before_plain h), hmark, hload]
  rfl

/-- Settles O5: every form is one `scalarLoad`. -/
theorem scalarLoads : Obligations.ScalarLoads := by
  unfold Obligations.ScalarLoads
  intro s d a i w loads
  have load {x : Instr} {off : W64} {n size : Nat} {signed : Bool} (hn : n ∈ [1, 2, 4, 8]) (hx : exec x s = scalarLoad s d a off n signed size) :
      loads x off n signed size := by
    intro tr h hh
    obtain ⟨f, hnext⟩ := scalarLoad_plain (d := d) (size := size) (signed := signed) hn h hh
    obtain ⟨c, k, hc⟩ := countAccess_cases (s.markLeaf tr.leaf false) s.warp.ident.part (s.sget a + off).toNat tr
    refine ⟨_, hx.trans hnext, ?_⟩
    rw [extendLoad_eq]
    have hw : ((s.markLeaf tr.leaf false).countAccess s.warp.ident.part (s.sget a + off).toNat tr).warp = s.warp := by
      rw [countAccess_warp, markLeaf_warp]
    obtain ⟨hpc, hreg, honly⟩ := sset_adv_spec (v := { (s.markLeaf tr.leaf false).countAccess _ _ tr with fills := f }) hw d _ size
    refine ⟨hpc, hreg, honly, ?_⟩
    rw [hc]
    rfl
  exact ⟨load (by decide) rfl, load (by decide) rfl, load (by decide) rfl, load (by decide) rfl, load (by decide) rfl, load (by decide) rfl,
    load (by decide) rfl, load (by decide) rfl, load (by decide) rfl, load (by decide) rfl, load (by decide) rfl, load (by decide) rfl,
    load (by decide) rfl, load (by decide) rfl, load (by decide) rfl, load (by decide) rfl⟩

end Sys2Proof
end

section
/-! SUPPORT. Device memory after a write, the central write, carrels, scalar stores, and O6. -/

namespace Sys2Proof

open Sys2Proof.Machine

/-! ## Bytes of device memory after a write (R330) -/

theorem devByte_keyed {s : State} {a : Nat} (h : s.keyed (a / 128) = true) : s.devByte a = s.dev.byte a := by
  unfold State.keyed at h
  unfold State.devByte
  cases ht : tagIn s.tags (a / 128) with
  | none => rfl
  | some t =>
    rw [ht] at h
    exact if_pos (beq_iff_eq.1 h)

/-- A line that nothing has been written to reads the same. -/
theorem devByte_congr {s t : State} {a : Nat} (htag : tagIn t.tags (a / 128) = tagIn s.tags (a / 128))
    (hkey : t.keyAt (a / 128) = s.keyAt (a / 128)) (hbyte : ∀ x, x / 128 = a / 128 → t.dev.byte x = s.dev.byte x) : t.devByte a = s.devByte a := by
  have hread : t.dev.read (a / 128 * 128) 128 = s.dev.read (a / 128 * 128) 128 := by
    rw [memRead_eq_map, memRead_eq_map]
    refine List.map_congr_left fun x hx => hbyte x ?_
    rw [List.mem_range'_1] at hx
    omega
  unfold State.devByte
  rw [htag, hkey, hbyte a rfl, hread]

theorem devRead_getD {s : State} {n i : Nat} (a : Nat) (h : i < n) : (s.devRead a n).getD i 0 = s.devByte (a + i) := by
  rw [devRead_eq_map]
  simp [h]

theorem keyed_rekey (s : State) (line : Nat) : (s.rekey line).keyed line = true := by
  unfold State.rekey
  split
  · assumption
  · simp [State.keyed, tagIn, State.keyAt]

/-- A line under its frame's present key reads as it did before. -/
theorem devByte_rekey (s : State) (line a : Nat) : (s.rekey line).devByte a = s.devByte a := by
  by_cases hk : s.keyed line = true
  · rw [State.rekey, if_pos hk]
  by_cases ha : a / 128 = line
  · rw [devByte_keyed (by rw [ha]; exact keyed_rekey s line), State.rekey, if_neg hk]
    have hlen : (s.devRead (128 * line) 128).length = 128 := by rw [devRead_eq_map, List.length_map, List.length_range']
    show (s.dev.write (128 * line) (s.devRead (128 * line) 128)).byte a = _
    rw [Mem.byte_write, hlen, if_pos (by omega), devRead_getD _ (by omega)]
    congr 1
    omega
  · rw [State.rekey, if_neg hk]
    have hlen : (s.devRead (128 * line) 128).length = 128 := by rw [devRead_eq_map, List.length_map, List.length_range']
    refine devByte_congr ?_ rfl fun x hx => ?_
    · simp only [tagIn]
      rw [if_neg (by omega)]
    · rw [Mem.byte_write, hlen, if_neg (by omega)]

/-- A byte of device memory reads as it was last written. -/
theorem devByte_devSetByte (s : State) (a x : Nat) (b : Byte) : (s.devSetByte a b).devByte x = if x = a then b else s.devByte x := by
  have hkeyed := keyed_rekey s (a / 128)
  rw [← devByte_rekey s (a / 128) x]
  unfold State.devSetByte
  generalize s.rekey (a / 128) = u at hkeyed ⊢
  by_cases hx : x / 128 = a / 128
  · rw [devByte_keyed (s := u) (hx ▸ hkeyed), devByte_keyed (by rw [hx]; exact hkeyed)]
    exact Mem.byte_setByte u.dev a x b
  · rw [if_neg (by rintro rfl; exact hx rfl)]
    refine devByte_congr rfl rfl fun y hy => ?_
    rw [Mem.byte_setByte, if_neg (by rintro rfl; exact hx hy.symm)]

theorem devByte_devWrite (bs : List Byte) : ∀ (s : State) (a x : Nat),
    (s.devWrite a bs).devByte x = if a ≤ x ∧ x < a + bs.length then bs.getD (x - a) 0 else s.devByte x := by
  induction bs with
  | nil => intro s a x; simp [State.devWrite]
  | cons b r ih =>
    intro s a x
    rw [State.devWrite, ih, devByte_devSetByte, List.length_cons]
    by_cases hx : x = a
    · subst hx
      rw [if_neg (by omega), if_pos rfl, if_pos (by omega), Nat.sub_self]
      rfl
    · by_cases hr : a + 1 ≤ x ∧ x < a + 1 + r.length
      · rw [if_pos hr, if_pos (by omega), show x - a = x - (a + 1) + 1 by omega]
        rfl
      · rw [if_neg hr, if_neg hx, if_neg (by omega)]

/-! ## Stores to page-table entries (R332, R336, R341) -/

/-- The slots from `lo` to `hi` have been looked at as page-table entries: MOVING bits in them may have been cleared, and cached copies may have gone. -/
def slotsSettled (t s : State) (lo hi : Nat) : Prop :=
  { t with dev := s.dev, tags := s.tags, cdc := s.cdc, fills := s.fills } = s ∧ t.dev.poison = s.dev.poison ∧
    ∀ a, t.devByte a &&& (if lo ≤ a / 8 ∧ a / 8 ≤ hi then keepMoving a else 0xFF) =
      s.devByte a &&& (if lo ≤ a / 8 ∧ a / 8 ≤ hi then keepMoving a else 0xFF)

theorem slotsSettled_refl (s : State) (lo hi : Nat) : slotsSettled s s lo hi := ⟨rfl, rfl, fun _ => rfl⟩

theorem slotsSettled_trans {t u s : State} {lo hi : Nat} (h : slotsSettled t u lo hi) (h' : slotsSettled u s lo hi) : slotsSettled t s lo hi := by
  obtain ⟨hframe, hpoison, hbyte⟩ := h
  obtain ⟨hframe', hpoison', hbyte'⟩ := h'
  refine ⟨?_, hpoison.trans hpoison', fun a => (hbyte a).trans (hbyte' a)⟩
  calc { t with dev := s.dev, tags := s.tags, cdc := s.cdc, fills := s.fills }
      = { u with dev := s.dev, tags := s.tags, cdc := s.cdc, fills := s.fills } :=
        (congrArg (fun z : State => { z with dev := s.dev, tags := s.tags, cdc := s.cdc, fills := s.fills }) hframe :)
    _ = s := hframe'

/-- Cached copies are no memory. -/
theorem leafPurge_settled (s : State) (e lo hi : Nat) : slotsSettled (s.leafPurge e) s lo hi := by
  unfold State.leafPurge
  split
  · exact ⟨rfl, rfl, fun _ => rfl⟩
  · exact slotsSettled_refl s lo hi

/-- MOVING is the bit that a store to a page-table entry does not set (R332). -/
theorem clearMoving_settled (s : State) {g lo hi : Nat} (hlo : lo ≤ g) (hhi : g ≤ hi) :
    slotsSettled (s.devSetByte (8 * g + 6) (s.devByte (8 * g + 6) &&& ~~~0x10#8)) s lo hi := by
  obtain ⟨d, t, h, -, hp⟩ := s.devSetByte_cases (8 * g + 6) (s.devByte (8 * g + 6) &&& ~~~0x10#8)
  refine ⟨by rw [h], by rw [h]; exact hp, fun a => ?_⟩
  rw [devByte_devSetByte]
  split
  case isTrue ha =>
    subst ha
    have hslot : lo ≤ (8 * g + 6) / 8 ∧ (8 * g + 6) / 8 ≤ hi := by omega
    have hmask : ~~~0x10#8 &&& (0xEF : Byte) = 0xEF := by decide
    rw [if_pos hslot, keepMoving, if_pos (by omega), BitVec.and_assoc, hmask]
  case isFalse => rfl

/-- What a store does to the page-table entry of one slot while no page moves. -/
theorem pteStored_settled {s : State} (h : still s) (old new : Nat) {g lo hi : Nat} (hlo : lo ≤ g) (hhi : g ≤ hi) :
    slotsSettled (s.pteStored (8 * g) old new) s lo hi := by
  have hmoves : s.moves.filter (fun m => m.flying && m.hasLeaf (8 * g)) = [] := by
    rw [List.filter_eq_nil_iff]
    intro m hm
    rw [h m hm]
    simp
  unfold State.pteStored
  rw [hmoves, List.foldl_nil]
  dsimp only
  split
  · exact slotsSettled_refl s lo hi
  · have hpurged : slotsSettled (if pteSealed old != pteSealed new then (s.leafPurge old).leafPurge new else s) s lo hi := by
      split
      · exact slotsSettled_trans (leafPurge_settled _ new lo hi) (leafPurge_settled s old lo hi)
      · exact slotsSettled_refl s lo hi
    generalize (if pteSealed old != pteSealed new then (s.leafPurge old).leafPurge new else s) = u at hpurged ⊢
    split
    · exact slotsSettled_trans (clearMoving_settled _ hlo hhi) hpurged
    · exact hpurged

theorem slotsSettled_still {t s : State} {lo hi : Nat} (h : slotsSettled t s lo hi) (hs : still s) : still t := by
  have hmoves : t.moves = s.moves := (congrArg State.moves h.1 :)
  unfold still
  rwa [hmoves]

/-- The same for every slot that a store touches. -/
theorem foldl_pteStored_settled (f g : Nat → Nat) {lo hi : Nat} (l : List Nat) (hl : ∀ i ∈ l, lo + i ≤ hi) : ∀ {s : State}, still s →
    slotsSettled (l.foldl (fun u i => u.pteStored (8 * (lo + i)) (f i) (g i)) s) s lo hi := by
  induction l with
  | nil => intro s _; exact slotsSettled_refl s lo hi
  | cons i l ih =>
    intro s hs
    have hone := pteStored_settled hs (f i) (g i) (Nat.le_add_right lo i) (hl i List.mem_cons_self)
    exact slotsSettled_trans (ih (fun j hj => hl j (List.mem_cons_of_mem i hj)) (slotsSettled_still hone hs)) hone

/-! ## The central write (R319) -/

/-- A warp but for whether its task is doomed. -/
def undoomed (w : Warp) : Warp := { w with task := w.task.map fun k => { k with doomed := false } }

theorem undoomed_doomBy (w : Warp) (p : Place) (lo hi : Nat) : undoomed (w.doomBy p lo hi) = undoomed w := by
  unfold Warp.doomBy undoomed
  cases ht : w.task with
  | none => simp only [ht]
  | some k =>
    dsimp only
    split
    · rfl
    · rw [ht]

theorem doomBy_plain {w : Warp} (h : w.task = none) (p : Place) (lo hi : Nat) : w.doomBy p lo hi = w := by simp only [Warp.doomBy, h]

theorem map_undoomed_doomBy (l : List Warp) (p : Place) (lo hi : Nat) : (l.map fun w => w.doomBy p lo hi).map undoomed = l.map undoomed := by
  rw [List.map_map]
  exact List.map_congr_left fun w _ => undoomed_doomBy w p lo hi

/-- The bytes of a store at their home, before its slots are looked at as page-table entries. -/
theorem placeWrite_wrote {s : State} {q : Place} (pa : Nat) (bs : List Byte) :
    wrote (s.placeWrite q pa bs) s q pa bs := by
  cases q with
  | device =>
    obtain ⟨d, t, h, -, hp⟩ := State.devWrite_cases bs s pa
    refine ⟨fun a => ?_, fun a => ?_, ?_, ?_⟩
    · rw [State.placeWrite, devByte_devWrite]
      simp only [true_and]
    · rw [State.placeWrite, h]
      simp
    · rw [State.placeWrite, h]
      exact hp
    · rw [State.placeWrite, h]
  | host =>
    refine ⟨fun a => ?_, fun a => ?_, rfl, ?_⟩
    · simp only [reduceCtorEq, false_and, if_false]
      rfl
    · rw [State.placeWrite]
      simp only [true_and]
      exact Mem.byte_write bs s.hostMem pa a
    · exact Mem.poison_write bs s.hostMem pa
  | remote =>
    refine ⟨fun a => ?_, fun a => ?_, rfl, rfl⟩
    · simp only [reduceCtorEq, false_and, if_false]
      rfl
    · simp only [reduceCtorEq, false_and, if_false]
      rfl

theorem slotsSettled_wrote {t u s : State} {pa : Nat} {bs : List Byte} (h : slotsSettled t u (pa / 8) ((pa + bs.length - 1) / 8))
    (hw : wrote u s .device pa bs) : wrote t s .device pa bs := by
  obtain ⟨hsame, hpoison, hbyte⟩ := h
  obtain ⟨hdev, hhost, hdevPoison, hhostPoison⟩ := hw
  have hmem : t.hostMem = u.hostMem := (congrArg State.hostMem hsame :)
  refine ⟨fun a => ?_, fun a => ?_, hpoison.trans hdevPoison, ?_⟩
  · have h := hdev a
    simp only [true_and] at h ⊢
    exact (hbyte a).trans h
  · rw [hmem]
    exact hhost a
  · rw [hmem]
    exact hhostPoison

theorem slotsSettled_storeFrame {t u s : State} {lo hi : Nat} (h : slotsSettled t u lo hi) (hf : storeFrame u s) : storeFrame t s := by
  obtain ⟨hsame, -, -⟩ := h
  obtain ⟨hframe, hothers, hshadows⟩ := hf
  refine ⟨?_, ?_, ?_⟩
  · exact (congrArg (fun z : State => { z with
      warp := s.warp, others := s.others, shadows := s.shadows, dev := s.dev, tags := s.tags, hostMem := s.hostMem, cdc := s.cdc,
      fills := s.fills, migCounts := s.migCounts, migDies := s.migDies }) hsame).trans hframe
  · rw [← hothers, ← congrArg State.others hsame]
  · rw [← hshadows, ← congrArg State.shadows hsame]

/-- A write at its home, outside tasks and while no page moves: its bytes, and what it does to caches and to the tasks of other warps. -/
theorem put_spec {s : State} (q : Place) (pa : Nat) {bs : List Byte} (hbs : 0 < bs.length) (ht : s.warp.task = none) (hs : still s) :
    (s.put q pa bs).warp = s.warp ∧ wrote (s.put q pa bs) s q pa bs ∧ storeFrame (s.put q pa bs) s := by
  have hwrite := placeWrite_wrote (s := s) (q := q) pa bs
  obtain ⟨d, t, hm, hcases, -⟩ := s.placeWrite_cases q pa bs
  have hdoom : ((s.placeWrite q pa bs).doom q pa bs.length).warp = s.warp := by
    rw [hcases]
    exact doomBy_plain ht ..
  have hframe : storeFrame ((s.placeWrite q pa bs).doom q pa bs.length) s := by
    rw [hcases]
    exact ⟨rfl, map_undoomed_doomBy .., map_undoomed_doomBy ..⟩
  cases q with
  | host => exact ⟨hdoom, hwrite, hframe⟩
  | remote => exact ⟨hdoom, hwrite, hframe⟩
  | device =>
    have hstill : still ((s.placeWrite .device pa bs).doom .device pa bs.length) := by
      rw [hcases]
      exact hs
    have hput : slotsSettled (s.put .device pa bs) ((s.placeWrite .device pa bs).doom .device pa bs.length) (pa / 8) ((pa + bs.length - 1) / 8) :=
      foldl_pteStored_settled _ _ _ (fun i hi => by rw [List.mem_range] at hi; omega) hstill
    obtain ⟨hsame, -, -⟩ := id hput
    exact ⟨(congrArg State.warp hsame).trans hdoom, slotsSettled_wrote hput hwrite, slotsSettled_storeFrame hput hframe⟩

/-! ## Plain stores (R119, R264, R339) -/

/-- The state in which a store of the current warp writes its bytes: the access is counted, copies of the line are updated and fills of it dropped. -/
def storing (s : State) (p va : Nat) (tr : Trans) (bs : List Byte) : State := (s.countAccess p va tr).cdcStore tr.place tr.pa bs

/-- Counters and caches are no memory. -/
theorem storing_cases (s : State) (p va : Nat) (tr : Trans) (bs : List Byte) :
    ∃ c k x f, storing s p va tr bs = { s with migCounts := c, migDies := k, cdc := x, fills := f } := by
  obtain ⟨c, k, h⟩ := countAccess_cases s p va tr
  exact ⟨c, k, _, _, by rw [storing, h]; rfl⟩

/-- A store that is performed: its bytes, beside the marks of its leaf, and its frame. -/
theorem storing_put {s : State} {leaf : Nat} (p va : Nat) (tr : Trans) {bs : List Byte} (hbs : 0 < bs.length) (ht : s.warp.task = none)
    (hs : still s) :
    let t := (storing (s.markLeaf leaf true) p va tr bs).put tr.place tr.pa bs
    t.warp = s.warp ∧ wrote t (s.markLeaf leaf true) tr.place tr.pa bs ∧ storeFrame t s := by
  obtain ⟨m, g, hmark, -⟩ := markLeaf_cases s leaf true
  obtain ⟨c, k, y, f, hu⟩ := storing_cases (s.markLeaf leaf true) p va tr bs
  have hwarp : (storing (s.markLeaf leaf true) p va tr bs).warp = s.warp := by
    rw [hu]
    exact markLeaf_warp ..
  have hstill : still (storing (s.markLeaf leaf true) p va tr bs) := by
    rw [hu, hmark]
    exact hs
  obtain ⟨hput, hwrote, hframe⟩ := put_spec tr.place tr.pa hbs (by rwa [hwarp]) hstill
  dsimp only
  generalize (storing (s.markLeaf leaf true) p va tr bs).put tr.place tr.pa bs = t at hput hwrote hframe ⊢
  refine ⟨hput.trans hwarp, ?_, ?_⟩
  · rw [hu] at hwrote
    exact hwrote
  · rw [hu, hmark] at hframe
    obtain ⟨hsame, hothers, hshadows⟩ := hframe
    refine ⟨?_, hothers, hshadows⟩
    exact (congrArg (fun z : State => { z with
      dev := s.dev, tags := s.tags, cdc := s.cdc, fills := s.fills, migCounts := s.migCounts, migDies := s.migDies }) hsame :)

theorem store_plain {s : State} {tr : Trans} {bs : List Byte} (p va : Nat) (lanes : Mask) (hr : tr.place ≠ .remote) (hb : s.warp.buffered = false)
    (hs : s.warp.isShadowed = false) (he : s.hostErr tr.place tr.pa bs.length = false) :
    s.store p va tr bs lanes true = ⟨(storing s p va tr bs).put tr.place tr.pa bs, none, false, false⟩ := by
  have hs' : (s.countAccess p va tr).warp.isShadowed = false := by rwa [countAccess_warp]
  have hb' : (s.countAccess p va tr).warp.buffered = false := by rwa [countAccess_warp]
  have he' : (s.countAccess p va tr).hostErr tr.place tr.pa bs.length = false := by
    obtain ⟨c, k, hc⟩ := countAccess_cases s p va tr
    rw [hc]
    exact he
  simp only [State.store, State.itemAt_plain _ _ _ _ _ hs', hb', hs', hr, false_and, if_false, Bool.false_eq_true]
  cases hp : tr.place with
  | remote => exact absurd hp hr
  | device | host =>
    rw [hp] at he'
    simp only [he', Bool.false_eq_true, if_false, storing, hp]

/-- What a plain scalar store comes to. -/
theorem scalarStore_plain {s : State} {d a : SReg} {off : W64} {n size : Nat} {tr : Trans}
    (h : plainAccess s accWrite n (s.sget a + off).toNat tr) :
    let bs := natToBytes n (s.sget d).toNat
    scalarStore s d a off n size =
      .next (((storing (s.markLeaf tr.leaf true) s.warp.ident.part (s.sget a + off).toNat tr bs).put tr.place tr.pa bs).adv size) := by
  intro bs
  obtain ⟨hva, htr, hr, hb, hs, hmoving, -⟩ := id h
  have hlen : bs.length = n := length_natToBytes n _
  have he : (s.markLeaf tr.leaf true).hostErr tr.place tr.pa bs.length = false := by
    obtain ⟨m, t, hm, -⟩ := markLeaf_cases s tr.leaf true
    rw [hm, hlen]
    exact (hmoving (by decide)).2
  have hmark : (accWrite == accWrite || accWrite == accAtomic) = true := rfl
  have hreg : (s.markLeaf tr.leaf true).sget d = s.sget d := by rw [State.sget, State.sget, markLeaf_warp]
  rw [scalarStore, scalarAccess_ok hva htr hs (before_plain h), hmark, hreg,
    store_plain _ _ _ hr (by rwa [markLeaf_warp]) (by rwa [markLeaf_warp]) he]

/-! ## Stores that go to a carrel (R311, R318, R319) -/

theorem length_eraseDups_le {α : Type} [BEq α] (l : List α) : l.eraseDups.length ≤ l.length := by
  match l with
  | [] => exact Nat.le_refl _
  | a :: l =>
    have hrest : (l.filter fun b => !b == a).length ≤ l.length := List.length_filter_le _ l
    rw [List.eraseDups_cons]
    exact Nat.succ_le_succ ((length_eraseDups_le _).trans hrest)
termination_by l.length
decreasing_by exact Nat.lt_succ_of_le hrest

/-- An entry takes one line at most (R311). -/
theorem carrelCount_le (l : List CarrelEnt) : carrelCount l ≤ l.length := by
  unfold carrelCount
  refine (Nat.add_le_add_right (length_eraseDups_le _) _).trans ?_
  induction l with
  | nil => exact Nat.le_refl _
  | cons e l ih =>
    cases e with
    | store => exact (Nat.add_right_comm ..).trans_le (Nat.succ_le_succ ih)
    | atomic => exact Nat.succ_le_succ ih
    | arv | mark => exact ih.trans (Nat.le_succ _)

/-- A scalar store adds one line at most. -/
theorem newLines_store_le (es : List CarrelEnt) (tr : Trans) : newLines es accWrite [tr] ≤ 1 := by
  have hone : ([tr].map fun t => (t.place, t.pa / 128)).eraseDups.length ≤ 1 := length_eraseDups_le _
  exact (List.length_filter_le _ _).trans hone

theorem sized_frame (k : Task) : { k.sized with doomed := k.doomed } = k := by
  unfold Task.sized
  split <;> rfl

section
variable {w : Warp} (e : CarrelEnt)

theorem buffer_frame : w.buffer e = { w with carrel := (w.buffer e).carrel, task := (w.buffer e).task } := by
  unfold Warp.buffer
  split
  · split <;> rfl
  · rfl

theorem buffer_unopened (ht : w.task = none) : w.buffer e = { w with carrel := w.carrel ++ [e] } := by simp only [Warp.buffer, ht]

theorem buffer_task {k : Task} (hd : k.doomed = false) (ht : w.task = some k) :
    w.buffer e = { w with task := some { k with carrel := k.carrel ++ [e] }.sized } := by
  simp only [Warp.buffer, ht, hd, Bool.false_eq_true, if_false]

/-- An entry stands behind those before it. -/
theorem entries_buffer (h : ∀ k, w.task = some k → k.doomed = false) : (w.buffer e).entries = w.entries ++ [e] := by
  cases ht : w.task with
  | none => simp only [buffer_unopened e ht, Warp.entries, ht]
  | some k =>
    have hcarrel : ({ k with carrel := k.carrel ++ [e] } : Task).sized.carrel = k.carrel ++ [e] :=
      (congrArg Task.carrel (sized_frame { k with carrel := k.carrel ++ [e] }) :)
    simp only [buffer_task e (h k ht) ht, Warp.entries, ht, hcarrel]

end

/-- A store of a warp whose stores are held back joins its carrel, with its ticket. -/
theorem store_buffered {s : State} {tr : Trans} (p va : Nat) (bs : List Byte) (lanes : Mask) (hr : tr.place = .device)
    (hb : s.warp.buffered = true) (hs : s.warp.isShadowed = false) :
    s.store p va tr bs lanes true =
      ⟨(s.countAccess p va tr).upd (·.buffer (.store .device tr.pa bs s.warp.ticket lanes va)), none, false, false⟩ := by
  have hs' : (s.countAccess p va tr).warp.isShadowed = false := by rwa [countAccess_warp]
  simp only [State.store, State.itemAt_plain _ _ _ _ _ hs', countAccess_warp, hb, hr, reduceCtorEq, false_and, if_false, if_true]

/-- What a scalar store of such a warp comes to, while its carrel has room. -/
theorem scalarStore_buffered {s : State} {d a : SReg} {off : W64} {n size : Nat} {tr : Trans} (hva : (s.sget a + off).toNat % n = 0)
    (htr : permCheck accWrite (s.xlate s.warp.ident.part (s.sget a + off).toNat) = .ok tr) (hr : tr.place = .device)
    (hs : s.warp.isShadowed = false) (hb : s.warp.buffered = true) (hroom : s.warp.carrel.length < 2048)
    (hso : pteMode tr.entry = 1 → s.awaiting (·.so) = false) :
    let va := (s.sget a + off).toNat
    scalarStore s d a off n size = .next ((((s.markLeaf tr.leaf true).countAccess s.warp.ident.part va tr).upd
      (·.buffer (.store .device tr.pa (natToBytes n (s.sget d).toNat) s.warp.ticket 0 va))).adv size) := by
  intro va
  have hlines : carrelCount s.warp.carrel + newLines s.warp.carrel accWrite [tr] ≤ 2048 := by
    have hold := carrelCount_le s.warp.carrel
    have hnew := newLines_store_le s.warp.carrel tr
    omega
  have hmark : (accWrite == accWrite || accWrite == accAtomic) = true := rfl
  have hreg : (s.markLeaf tr.leaf true).sget d = s.sget d := by rw [State.sget, State.sget, markLeaf_warp]
  have hbefore := before_passes hs (fun _ => hr) (fun _ h => absurd hb (by simp [h])) hso (fun _ _ => hlines)
  rw [scalarStore, scalarAccess_ok hva htr hs hbefore, hmark, hreg,
    store_buffered _ _ _ _ hr (by rwa [markLeaf_warp]) (by rwa [markLeaf_warp]), markLeaf_warp]

/-- Settles O6: every form is one `scalarStore`, performed at once or held back. -/
theorem scalarStores : Obligations.ScalarStores := by
  unfold Obligations.ScalarStores
  refine ⟨?_, ?_⟩
  · intro s d a i w stores
    have store {x : Instr} {off : W64} {n size : Nat} (hn : 0 < n) (hx : exec x s = scalarStore s d a off n size) : stores x off n size := by
      intro tr h hstill
      refine ⟨_, hx.trans (scalarStore_plain h), ?_⟩
      obtain ⟨-, -, -, hb, -⟩ := h
      obtain ⟨-, htask⟩ := buffered_eq_false hb
      obtain ⟨hwarp, hwrote, hframe⟩ := storing_put (leaf := tr.leaf) s.warp.ident.part (s.sget a + off).toNat tr
        (bs := natToBytes n (s.sget d).toNat) (by rwa [length_natToBytes]) htask hstill
      refine ⟨?_, hwrote, hframe⟩
      rw [State.adv_warp, hwarp]
    exact ⟨store (by decide) rfl, store (by decide) rfl, store (by decide) rfl, store (by decide) rfl, store (by decide) rfl,
      store (by decide) rfl, store (by decide) rfl, store (by decide) rfl⟩
  · intro s d a i w tr stores
    have store {x : Instr} {off : W64} {n size : Nat} (hx : exec x s = scalarStore s d a off n size) : stores x off n size := by
      intro hva htr hr hs hb hd hroom hso
      refine ⟨_, hx.trans (scalarStore_buffered hva htr hr hs hb hroom hso), ?_⟩
      obtain ⟨m, g, hmark, -⟩ := markLeaf_cases s tr.leaf true
      obtain ⟨c, k, hc⟩ := countAccess_cases (s.markLeaf tr.leaf true) s.warp.ident.part (s.sget a + off).toNat tr
      have hwarp : ((s.markLeaf tr.leaf true).countAccess s.warp.ident.part (s.sget a + off).toNat tr).warp = s.warp := by
        rw [countAccess_warp, markLeaf_warp]
      rw [State.adv_warp, State.upd_warp, hwarp]
      refine ⟨entries_buffer _ hd, ?_, fun ht => ?_, fun k ht => ?_, fun x => ?_, ?_⟩
      · rw [show (s.warp.buffer _).pc = s.warp.pc from (congrArg Warp.pc (buffer_frame _) :)]
        exact congrArg (fun w : Warp => { w with pc := s.warp.pc + BitVec.ofNat 64 size }) (buffer_frame _)
      · rw [buffer_unopened _ ht]
        exact ht
      · rw [buffer_task _ (hd k ht) ht]
        exact ⟨rfl, _, rfl, congrArg (fun z : Task => { z with carrel := k.carrel }) (sized_frame _)⟩
      · rw [hc]
        rfl
      · rw [hc, hmark]
        rfl
    exact ⟨store rfl, store rfl, store rfl, store rfl, store rfl, store rfl, store rfl, store rfl⟩

end Sys2Proof
end

section
/-! SUPPORT. What a lane word without flags leaves (R79, R81, R125): lanes of registers, latches and masks after a write, and the end of the word. -/

namespace Sys2Proof.Machine

/-! ## Masks of tests -/

/-- A clear bit, set by addition. -/
theorem testBit_add_two_pow {x i : Nat} (h : x.testBit i = false) (j : Nat) : (x + 2 ^ i).testBit j = (decide (j = i) || x.testBit j) := by
  rcases lt_trichotomy j i with hj | rfl | hj
  · rw [Nat.add_comm, Nat.testBit_two_pow_add_gt hj, decide_eq_false hj.ne, Bool.false_or]
  · rw [Nat.add_comm, Nat.testBit_two_pow_add_eq, h, decide_eq_true rfl]
    rfl
  · have heven : x / 2 ^ i % 2 = 0 := by simpa [Nat.testBit_eq_decide_div_mod_eq] using h
    have hdiv : (x + 2 ^ i) / 2 ^ (i + 1) = x / 2 ^ (i + 1) := by
      rw [Nat.pow_succ, ← Nat.div_div_eq_div_mul, ← Nat.div_div_eq_div_mul, Nat.add_div_right x (Nat.two_pow_pos i)]
      omega
    obtain ⟨k, rfl⟩ := Nat.exists_eq_add_of_le' (Nat.succ_le_of_lt hj)
    rw [Nat.testBit_add, Nat.testBit_add, Nat.succ_eq_add_one, hdiv, decide_eq_false (by omega), Bool.false_or]

/-- The bits of a sum of different powers of two. -/
theorem testBit_sum_pow (p : Nat → Bool) (g : Nat → Nat) (n j : Nat) (hg : ∀ i < n, ∀ k < n, g i = g k → i = k) :
    ((List.range n).foldl (fun k i => if p i then k + 2 ^ g i else k) 0).testBit j = true ↔ ∃ i < n, g i = j ∧ p i = true := by
  induction n generalizing j with
  | zero => simp
  | succ n ih =>
    have hn (j : Nat) := ih j fun i hi k hk => hg i (by omega) k (by omega)
    rw [List.range_succ, List.foldl_append, List.foldl_cons, List.foldl_nil, Nat.exists_lt_succ_right]
    cases hp : p n with
    | false => simp [hn]
    | true =>
      have hclear : ((List.range n).foldl (fun k i => if p i then k + 2 ^ g i else k) 0).testBit (g n) = false := by
        refine Bool.eq_false_iff.2 fun h => ?_
        obtain ⟨i, hi, he, -⟩ := (hn _).1 h
        exact hi.ne (hg i (by omega) n (by omega) he)
      rw [if_pos rfl, testBit_add_two_pow hclear, Bool.or_eq_true, hn, decide_eq_true_eq, or_comm, and_iff_left rfl, eq_comm]

/-- The bits of bytes as a number (R7). -/
theorem testBit_bytesToNat (bs : List Byte) (j : Nat) : (bytesToNat bs).testBit j = (bs.getD (j / 8) 0).getLsbD (j % 8) := by
  induction bs generalizing j with
  | nil => simp [bytesToNat]
  | cons b bs ih =>
    have hb : b.toNat < 2 ^ 8 := b.isLt
    rw [bytesToNat, Nat.add_comm, Nat.testBit_two_pow_mul_add (i := 8) _ hb]
    split
    case isTrue h => simp [BitVec.getLsbD, Nat.div_eq_of_lt h, Nat.mod_eq_of_lt h]
    case isFalse h =>
      obtain ⟨k, rfl⟩ := Nat.exists_eq_add_of_le' (not_lt.1 h)
      rw [Nat.add_sub_cancel, ih, Nat.add_div_right k (by decide), List.getD_cons_succ, Nat.add_mod_right]

theorem getLsbD_laneMask (p : Nat → Bool) {l : Nat} (hl : l < 64) : (laneMask p).getLsbD l = p l := by
  have hbyte : (((List.range 8).map fun i =>
      BitVec.ofNat 8 ((List.range 8).foldl (fun n j => if p (8 * i + j) then n + 2 ^ j else n) 0)).getD (l / 8) 0).getLsbD (l % 8) = p l := by
    have hi : l / 8 < 8 := by omega
    have hj : l % 8 < 8 := by omega
    have hp : p (8 * (l / 8) + l % 8) = p l := congrArg p (Nat.div_add_mod l 8)
    rw [List.getD_eq_getElem _ _ (by simpa using hi), List.getElem_map, List.getElem_range, BitVec.getLsbD_ofNat, decide_eq_true hj,
      Bool.true_and, Bool.eq_iff_iff, ← hp]
    exact (testBit_sum_pow (fun j => p (8 * (l / 8) + j)) id 8 _ fun _ _ _ _ h => h).trans
      ⟨fun ⟨_, _, h, hi⟩ => h ▸ hi, fun h => ⟨_, hj, rfl, h⟩⟩
  rw [laneMask, BitVec.getLsbD_ofNat, decide_eq_true hl, Bool.true_and, testBit_bytesToNat, hbyte]

/-! ## Lanes after a write (R79, R81, R135) -/


section
variable (w : Warp) (m : Mask)

theorem vget_ofFn {α : Type} (f : Fin 64 → α) {l : Nat} (d : α) (h : l < 64) : vget (Vector.ofFn f) l d = f ⟨l, h⟩ := by
  simp [vget, h]

theorem vget_eq_get {α : Type} (v : Vector α 64) {l : Nat} (d : α) (h : l < 64) : vget v l d = v.get ⟨l, h⟩ := by
  simp [vget, h, Vector.get]

/-- A lane of a register after a write of the selected lanes of one. -/
theorem vlane_putV (x : Nat → W32) {n r l : Nat} (hr : r < 256) (hl : l < 64) :
    (w.putV n m x).vlane r l = if r = n ∧ m.getLsbD l = true then x l else w.vlane r l := by
  simp only [Warp.vlane, Warp.putV, vget_vset]
  by_cases h : n = r
  · subst h
    simp only [hr, and_self, if_true, true_and, vget_ofFn _ _ hl, vget_eq_get _ _ hl]
  · simp only [h, Ne.symm h, false_and, if_false]

/-- A lane of a register after a write of the selected lanes of a pair: the low half goes to the first register. -/
theorem vlane_putPair (x : Nat → W64) {n r l : Nat} (hr : r < 256) (hl : l < 64) :
    (w.putPair n m x).vlane r l =
      if m.getLsbD l = true ∧ n ≤ r ∧ r < n + 2 then (x l).extractLsb' (32 * (r - n)) 32 else w.vlane r l := by
  rw [Warp.putPair, vlane_putV _ _ _ hr hl, vlane_putV _ _ _ hr hl]
  rcases (by omega : r = n ∨ r = n + 1 ∨ (r < n ∨ n + 2 ≤ r)) with rfl | rfl | h
  · simp [BitVec.setWidth_eq_extractLsb']
  · simp
  · have h0 : ¬ r = n := by omega
    have h1 : ¬ r = n + 1 := by omega
    have h2 : ¬ (n ≤ r ∧ r < n + 2) := by omega
    simp only [h0, h1, h2, false_and, and_false, if_false]

/-- A mask after a write of one; `m0` keeps no write (R19). -/
theorem mget_mset (j k : MReg) (x : Mask) : (w.mset j x).mget k = if k = j ∧ k ≠ 0 then x else w.mget k := by
  unfold Warp.mset Warp.mget
  by_cases hk : k = 0
  · simp [hk]
  · by_cases hj : j = 0
    · simp [hj]
    · have htoFin : k.toFin = j.toFin ↔ k = j := ⟨fun h => BitVec.eq_of_toFin_eq h, congrArg _⟩
      simp only [hj, hk, if_false, ne_eq, not_false_eq_true, and_true, ← htoFin]
      exact get_set_bank w.m j.toFin k.toFin x

/-- A bit of a mask after a write of the selected lanes' bits of one. -/
theorem getLsbD_mget_putMask (j k : MReg) (x : Nat → Bool) {l : Nat} (hl : l < 64) :
    ((w.putMask j m x).mget k).getLsbD l = if m.getLsbD l = true ∧ k = j ∧ k ≠ 0 then x l else (w.mget k).getLsbD l := by
  rw [Warp.putMask, mget_mset]
  by_cases hk : k = j ∧ k ≠ 0
  · obtain ⟨rfl, h0⟩ := hk
    simp only [h0, ne_eq, not_false_eq_true, and_self, if_true, and_true, BitVec.getLsbD_or, BitVec.getLsbD_and, BitVec.getLsbD_not, hl,
      decide_true, Bool.true_and, getLsbD_laneMask x hl]
    cases m.getLsbD l <;> simp
  · rw [if_neg hk, if_neg fun h => hk h.2]

end

/-! ## What a result leaves (R21, R79) -/

section
variable {w : Warp} {h : LaneHdr} {d : DestSpec} {m : Mask} {x : Nat → W64}

/-- A result changes lane registers, masks and the latches of the open block alone. -/
theorem putResult_frame : { w.putResult h d m x with v := w.v, m := w.m, block := w.block } = w := by
  cases d with
  | none | run => rfl
  | mask => simp only [Warp.putResult, Warp.putMask, Warp.mset]; split <;> rfl
  | v64 => simp only [Warp.putResult]; split <;> rfl
  | v32 => simp only [Warp.putResult]; split <;> split <;> rfl

/-- A result stands in the active lanes of the registers that its word names. -/
theorem putResult_lanesHold (hd : ∀ n, d ≠ .run n) :
    lanesHold (w.putResult h d m x) w m h (regsOf d) fun j l => (x l).extractLsb' (32 * j) 32 := by
  intro r hr l hl
  cases d with
  | none => simp [Warp.putResult, regsOf]
  | run n => exact absurd rfl (hd n)
  | mask =>
    have hv : (w.putResult h .mask m x).vlane r l = w.vlane r l := congrArg (fun v => vget (vget v r _) l 0) (Warp.mset_v ..)
    simp [hv, regsOf]
  | v64 =>
    cases hw : h.wbs with
    | true => simp [Warp.putResult, hw]
    | false => simp only [Warp.putResult, hw, vlane_putPair _ _ _ hr hl, regsOf, Bool.false_eq_true, if_false, true_and]
  | v32 =>
    have hreg : (w.putResult h .v32 m x).vlane r l = (if h.wbs then w else w.putV h.dest.toNat m fun l => (x l).setWidth 32).vlane r l := by
      simp only [Warp.putResult]; split <;> split <;> rfl
    rw [hreg]
    cases hw : h.wbs with
    | true => simp
    | false =>
      have hone : h.dest.toNat ≤ r ∧ r < h.dest.toNat + 1 ↔ r = h.dest.toNat := by omega
      simp only [vlane_putV _ _ _ hr hl, regsOf, Bool.false_eq_true, if_false, true_and, hone]
      by_cases heq : r = h.dest.toNat
      · subst heq; simp [BitVec.setWidth_eq_extractLsb']
      · simp [heq]

/-- A result stands in the active lanes of the mask that its word names. -/
theorem putResult_mget (k : MReg) {l : Nat} (hl : l < 64) : ((w.putResult h d m x).mget k).getLsbD l =
    if m.getLsbD l = true ∧ d = .mask ∧ k = h.dest.setWidth 4 ∧ k ≠ 0 then decide (x l ≠ 0) else (w.mget k).getLsbD l := by
  cases d with
  | mask => simp [Warp.putResult, getLsbD_mget_putMask _ _ _ _ _ hl, bne, beq_eq_decide]
  | none | run => simp [Warp.putResult]
  | v64 =>
    have hm : (w.putResult h .v64 m x).mget k = w.mget k := by simp only [Warp.putResult]; split <;> rfl
    simp [hm]
  | v32 =>
    have hm : (w.putResult h .v32 m x).mget k = w.mget k := by simp only [Warp.putResult]; split <;> split <;> rfl
    simp [hm]

theorem latchedBlock_refl (b : Block) (m : Mask) (x : Nat → W64) : latchedBlock b b b.lanePc m none x :=
  ⟨rfl, rfl, fun _ => ⟨by simp, fun _ _ => by simp⟩⟩

theorem vget_latch (b : Block) (n : BitVec 2) : b.latch.get n.toFin = vget b.latch n.toNat (Vector.replicate 64 0) := by
  have hn : n.toNat < 4 := n.isLt
  simp [vget, Vector.get, hn]

/-- A write of a latch stands in its selected lanes, and makes the latch live (R21). -/
theorem putLatch_latchedBlock {b : Block} (hb : w.block = some b) (n : BitVec 2) :
    ∃ b', (w.putLatch n.toNat m fun l => (x l).setWidth 32).block = some b' ∧ latchedBlock b' b b.lanePc m (some n) x := by
  rw [Warp.putLatch, hb, Option.map_some]
  refine ⟨_, rfl, rfl, rfl, fun k => ?_⟩
  have hn : n.toNat < 4 := n.isLt
  have hk : k.toNat < 4 := k.isLt
  have hnk : k.toNat = n.toNat ↔ n = k := by rw [eq_comm, BitVec.toNat_inj]
  refine ⟨?_, fun l hl => ?_⟩
  · rw [getLsbD_setBit _ _ _ _ hk]
    by_cases h : n = k <;> simp [h, hnk]
  · rw [vget_latch, vget_latch, vget_vset]
    by_cases h : n = k
    · subst h
      simp only [hn, and_self, if_true, true_and, vget_ofFn _ _ hl, vget_eq_get _ _ hl]
    · have : ¬ n.toNat = k.toNat := fun e => h (hnk.1 e.symm)
      simp [h, this]

/-- A result stands in the active lanes of the latch that its word names, and the block is otherwise as it was. -/
theorem putResult_latchedBlock {b : Block} (hb : w.block = some b) :
    ∃ b', (w.putResult h d m x).block = some b' ∧ latchedBlock b' b b.lanePc m (latchOf h d) x := by
  cases d with
  | none | run => exact ⟨b, hb, latchedBlock_refl ..⟩
  | mask => exact ⟨b, (Warp.mset_block ..).trans hb, latchedBlock_refl ..⟩
  | v64 =>
    refine ⟨b, ?_, latchedBlock_refl ..⟩
    simp only [Warp.putResult]; split <;> exact hb
  | v32 =>
    have hu : (if h.wbs then w else w.putV h.dest.toNat m fun l => (x l).setWidth 32).block = some b := by split <;> exact hb
    simp only [Warp.putResult, latchOf]
    cases h.latch with
    | none => exact ⟨b, hu, latchedBlock_refl ..⟩
    | some n => exact putLatch_latchedBlock hu n

end

/-! ## The end of a word without flags (R125) -/

section
variable {w : Warp}

theorem touch_frame (regs : List Nat) : { w.touch regs with resident := w.resident } = w := by
  unfold Warp.touch; split <;> rfl

/-- The registers that a word names change places in the order of residency; none leaves or joins it (R17). -/
theorem mem_touch (regs : List Nat) (r : Nat) : r ∈ (w.touch regs).resident ↔ r ∈ w.resident := by
  unfold Warp.touch
  split
  · rfl
  · simp only [List.mem_append, List.mem_filter, List.mem_eraseDups, Bool.not_eq_true', List.contains_iff_mem,
      ← Bool.not_eq_true]
    tauto

theorem raise_zero : w.raise 0 = w := by simp [Warp.raise]

theorem drawn_zero (m : Mask) : w.drawn m 0 = w := rfl

theorem raisedBy_zero {act : Mask} {op : Nat → W64 × Flags} (h : ∀ l, (op l).2 = 0) : raisedBy act op 0 := by
  intro k
  simp [h]

theorem anyFlags_zero {rs : Lanes (W64 × Flags)} (act : Mask) (h : ∀ l < 64, (vget rs l (0, 0)).2 = 0) : anyFlags rs act = 0 := by
  have hstep (l : List Nat) (hl : ∀ i ∈ l, i < 64) :
      l.foldl (fun f l => if act.getLsbD l then f ||| (vget rs l (0, 0)).2 else f) 0 = 0 := by
    induction l with
    | nil => rfl
    | cons i l ih =>
      have hi : (if act.getLsbD i then (0 : Flags) ||| (vget rs i (0, 0)).2 else 0) = 0 := by
        rw [h i (hl i (by simp))]; split <;> rfl
      rw [List.foldl_cons, hi]
      exact ih fun j hj => hl j (by simp [hj])
  exact hstep _ fun i hi => List.mem_range.1 hi

/-- A word that is done leaves its block at the next word, or closes it (R63, R108). -/
theorem laneDone_open {b : Block} (hb : w.block = some b) : w.laneDone =
    { w with partDone := 0, inFlight := false, issued := w.issued + (if w.det then 1 else 0)
             block := if b.lanePc + 1 < b.count then some { b with lanePc := b.lanePc + 1 } else none } := by
  simp only [Warp.laneDone, hb]
  cases w.det <;> split <;> simp

theorem fpDone_zero (s : State) (h : LaneHdr) (m : Mask) : s.fpDone h 0 m = s.upd Warp.laneDone := by
  have hzero (f : Flags) : 0 &&& f = 0 := BitVec.zero_and
  have hraise : s.upd (·.raise 0) = s := congrArg (fun w => { s with warp := w }) raise_zero
  rw [State.fpDone, hraise]
  exact if_pos (hzero _)

/-- Words deliver the same where the destination takes the same: 32 bits to a register or latch, and otherwise the whole. -/
def sameResult (d : DestSpec) (x y : W64) : Prop := if d = .v32 then (x.setWidth 32 : W32) = y.setWidth 32 else x = y

theorem sameResult_rfl {d : DestSpec} {x : W64} : sameResult d x x := by unfold sameResult; split <;> rfl

theorem putV_congr {n : Nat} {m : Mask} {x y : Nat → W32} (hxy : ∀ l < 64, m.getLsbD l = true → x l = y l) : w.putV n m x = w.putV n m y := by
  have hlane : (fun l : Fin 64 => if m.getLsbD l.val then x l.val else (vget w.v n (Vector.replicate 64 0)).get l) =
      fun l : Fin 64 => if m.getLsbD l.val then y l.val else (vget w.v n (Vector.replicate 64 0)).get l :=
    funext fun l => ite_congr rfl (hxy l l.isLt) fun _ => rfl
  rw [Warp.putV, hlane, Warp.putV]

/-- A result is written by what its destination takes of it in the active lanes. -/
theorem putResult_congr {h : LaneHdr} {d : DestSpec} {m : Mask} {x y : Nat → W64}
    (hxy : ∀ l < 64, m.getLsbD l = true → sameResult d (x l) (y l)) : w.putResult h d m x = w.putResult h d m y := by
  cases d with
  | none | run => rfl
  | mask =>
    have hmask : laneMask (fun l => x l != 0) &&& m = laneMask (fun l => y l != 0) &&& m := by
      refine BitVec.eq_of_getLsbD_eq fun l hl => ?_
      rw [BitVec.getLsbD_and, BitVec.getLsbD_and, getLsbD_laneMask _ hl, getLsbD_laneMask _ hl]
      cases hm : m.getLsbD l with
      | false => rw [Bool.and_false, Bool.and_false]
      | true => rw [show x l = y l from hxy l hl hm]
    simp only [Warp.putResult, Warp.putMask, hmask]
  | v64 =>
    have hlow : w.putV h.dest.toNat m (fun l => (x l).setWidth 32) = w.putV h.dest.toNat m fun l => (y l).setWidth 32 :=
      putV_congr fun l hl hm => congrArg _ (hxy l hl hm)
    have hpair : w.putPair h.dest.toNat m x = w.putPair h.dest.toNat m y := by
      rw [Warp.putPair, Warp.putPair, hlow]
      exact putV_congr fun l hl hm => congrArg _ (hxy l hl hm)
    simp only [Warp.putResult, hpair]
  | v32 =>
    have hlatch (u : Warp) (n : Nat) : u.putLatch n m (fun l => (x l).setWidth 32) = u.putLatch n m fun l => (y l).setWidth 32 := by
      have hlane (b : Block) : (fun l : Fin 64 => if m.getLsbD l.val then ((x l.val).setWidth 32 : W32)
            else (vget b.latch n (Vector.replicate 64 0)).get l) =
          fun l : Fin 64 => if m.getLsbD l.val then (y l.val).setWidth 32 else (vget b.latch n (Vector.replicate 64 0)).get l :=
        funext fun l => ite_congr rfl (hxy l l.isLt) fun _ => rfl
      simp only [Warp.putLatch, hlane]
    have hreg : w.putV h.dest.toNat m (fun l => (x l).setWidth 32) = w.putV h.dest.toNat m fun l => (y l).setWidth 32 :=
      putV_congr hxy
    simp only [Warp.putResult, hreg, hlatch]

/-- The frame of R125 for a word that raises no flag: its result, and the word is done. -/
theorem frameRun_plain {d : DestSpec} {op : LaneCx → Nat → W64 × Flags} {c : LaneCx} {e : Nat → W64} (hflags : ∀ l, (op c l).2 = 0)
    (hsame : ∀ l, sameResult d (op c l).1 (e l)) (s : State) :
    frameRun d 0 op c s = s.upd fun w => (w.putResult c.h d c.act e).laneDone := by
  have hzero (l : Nat) (hl : l < 64) :
      (vget (Vector.ofFn fun l : Fin 64 => if c.act.getLsbD l.val then op c l.val else (0, 0)) l (0, 0)).2 = 0 := by
    rw [vget_ofFn _ _ hl]; split <;> [exact hflags l; rfl]
  have hresult (w : Warp) : w.putResult c.h d c.act (fun l =>
      (vget (Vector.ofFn fun l : Fin 64 => if c.act.getLsbD l.val then op c l.val else (0, 0)) l (0, 0)).1) = w.putResult c.h d c.act e := by
    refine putResult_congr fun l hl hm => ?_
    rw [vget_ofFn _ _ hl, if_pos hm]
    exact hsame l
  simp only [frameRun, anyFlags_zero _ hzero, fpDone_zero, drawn_zero, hresult]
  rfl

/-- A word that passes the checks of R66 executes over the registers that it has touched. -/
theorem laneGate_ready {i : Instr} {s : State} {b : Block} {h : LaneHdr} (hready : laneReady i s b h) (k : LaneCx → State → State) :
    ∃ regs, laneGate i s k = k (laneView s b h) (s.upd (·.touch regs)) := by
  obtain ⟨hb, -, sh, own, hshape, hregs, hlatch, hfill⟩ := hready
  have hdeclared : (laneRegs h sh).any (decide <| s.warp.regs ≤ ·) = false := by simpa using hregs
  refine ⟨laneRegs h sh, ?_⟩
  simp only [laneGate, hshape, hb, hdeclared, hlatch, hfill, List.isEmpty_nil, Bool.false_eq_true, if_false, if_true]
  rfl

/-- A warp with what a lane word without flags and draws may change as in another warp. -/
def withLanesOf (t w : Warp) : Warp :=
  { t with
    v := w.v, m := w.m, issued := w.issued, partDone := w.partDone, inFlight := w.inFlight, resident := w.resident, block := w.block }

section
variable {u : Warp} {regs : List Nat}
  (hu : { u with v := (w.touch regs).v, m := (w.touch regs).m, block := (w.touch regs).block } = w.touch regs)
include hu

/-- A word that is done, with no flag and no draw, changes of its warp the registers and masks, the open block and what counts words. -/
theorem laneDone_plain_frame : withLanesOf u.laneDone w = w :=
  calc withLanesOf u.laneDone w
    _ = withLanesOf u w := (congrArg (withLanesOf · w) u.laneDone_frame :)
    _ = withLanesOf (w.touch regs) w := (congrArg (withLanesOf · w) hu :)
    _ = withLanesOf w w := (congrArg (withLanesOf · w) (touch_frame (w := w) regs) :)

/-- Of a warp whose word is done only what a lane word may change has changed (R125). -/
theorem onlyLanes_laneDone {b : Block} (hb : u.block = some b) : onlyLanes u.laneDone w := by
  have hgrid : u.gridId = w.gridId := (congrArg Warp.gridId hu :).trans (congrArg Warp.gridId (touch_frame regs) :)
  have hissued : u.issued = w.issued := (congrArg Warp.issued hu :).trans (congrArg Warp.issued (touch_frame regs) :)
  have hresident : u.resident = (w.touch regs).resident := (congrArg Warp.resident hu :)
  refine ⟨congrArg (fun z : Warp => { z with draws := w.draws, fpxFlags := w.fpxFlags }) (laneDone_plain_frame hu), ?_⟩
  rw [laneDone_open hb]
  refine ⟨rfl, rfl, ?_, fun r => hresident ▸ mem_touch regs r⟩
  rw [Warp.det, Warp.det, hgrid, hissued]

end

/-- The block of a word that is done (R63, R108). -/
theorem blockAfter_laneDone {t : State} {u : Warp} {b b' : Block} {m : Mask} {latch : Option (BitVec 2)} {x : Nat → W64}
    (ht : t.warp = u.laneDone) (hb : u.block = some b') (hlatched : latchedBlock b' b b.lanePc m latch x) : blockAfter t b m latch x := by
  obtain ⟨hpc, hframe, hlanes⟩ := hlatched
  have hcount : b'.count = b.count := (congrArg Block.count hframe :)
  have hblock : t.warp.block = if b.lanePc + 1 < b.count then some { b' with lanePc := b.lanePc + 1 } else none := by
    rw [ht, laneDone_open hb, hpc, hcount]
  unfold blockAfter
  split
  case isTrue h => exact ⟨_, hblock.trans (if_pos h), rfl, hframe, hlanes⟩
  case isFalse h => exact hblock.trans (if_neg h)

/-- A word that raises no flag and passes the checks of R66 delivers its results and is done. -/
theorem laneGives_of_laneWord {i : Instr} {s : State} {b : Block} {h : LaneHdr} {d : DestSpec} {op : LaneCx → Nat → W64 × Flags}
    {e : Nat → W64} (hready : laneReady i s b h) (hi : exec i s = laneWord i s 0 op) (hd : destOf i = d) (hrun : ∀ n, d ≠ .run n)
    (hflags : ∀ l, (op (laneView s b h) l).2 = 0) (hsame : ∀ l, sameResult d (op (laneView s b h) l).1 (e l)) :
    laneGives i s b h d 0 fun l => (e l, 0) := by
  subst hd
  obtain ⟨regs, hgate⟩ := laneGate_ready hready (frameRun (destOf i) 0 op)
  rw [frameRun_plain hflags hsame] at hgate
  refine ⟨_, hi.trans (congrArg Host.Outcome.next hgate), ?_⟩
  obtain ⟨hb, -⟩ := hready
  have htouch : { s.warp.touch regs with resident := s.warp.resident } = s.warp := touch_frame regs
  have hframe := putResult_frame (w := s.warp.touch regs) (h := h) (d := destOf i) (m := activeLanes s.warp b h) (x := e)
  have hdone := laneDone_plain_frame hframe
  obtain ⟨b', hb', hlatched⟩ := putResult_latchedBlock (w := s.warp.touch regs) (h := h) (d := destOf i) (m := activeLanes s.warp b h) (x := e)
    ((congrArg Warp.block htouch :).trans hb)
  refine ⟨⟨fun r hr l hl => ?_, fun k l hl => ?_, fun l _ => ?_, ⟨0, raisedBy_zero fun _ => rfl, ?_⟩, onlyLanes_laneDone hframe hb', rfl⟩,
    blockAfter_laneDone rfl hb' hlatched⟩
  · have hold : (s.warp.touch regs).vlane r l = s.warp.vlane r l := (congrArg (·.vlane r l) htouch :)
    have hnew := putResult_lanesHold (w := s.warp.touch regs) (h := h) (m := activeLanes s.warp b h) (x := e) hrun r hr l hl
    rw [hold] at hnew
    refine Eq.trans ?_ hnew
    exact (congrArg (·.vlane r l) (Warp.laneDone_frame _) :)
  · have hold : (s.warp.touch regs).mget k = s.warp.mget k := (congrArg (·.mget k) htouch :)
    have hnew := putResult_mget (w := s.warp.touch regs) (h := h) (d := destOf i) (m := activeLanes s.warp b h) (x := e) k hl
    rw [hold] at hnew
    refine Eq.trans ?_ hnew
    exact congrArg (BitVec.getLsbD · l) (congrArg (·.mget k) (Warp.laneDone_frame _) :)
  · simp only [BitVec.ofNat_eq_ofNat, ite_self, BitVec.add_zero]
    exact (congrArg (fun z : Warp => vget z.draws l 0) hdone :)
  · exact (congrArg Warp.fpxFlags hdone :).trans BitVec.or_zero.symm

end

end Sys2Proof.Machine
end

section
/-! SUPPORT. Integer lane arithmetic (R131, R135, R150): operands as numbers, what is wrapped or clamped, and O13. -/

namespace Sys2Proof

open Sys2Proof.Machine

/-! ## Operands and results (R131) -/

/-- The number that `w` bits stand for, with or without a sign. -/
def intOf (signed : Bool) (w x : Nat) : Int := if signed = true ∧ 2 ^ (w - 1) ≤ x then (x : Int) - 2 ^ w else x

/-- Whether an integer type has a sign (R84). -/
def ITy.signed (t : ITy) : Bool := t == .i32 || t == .i64

theorem intOf_unsigned (w x : Nat) : intOf false w x = x := if_neg fun h => absurd h.1 (by decide)

theorem intOf_toInt {n : Nat} (x : BitVec (n + 1)) : intOf true (n + 1) x.toNat = x.toInt := by
  have hpow : 2 ^ (n + 1) = 2 * 2 ^ n := Nat.pow_succ'
  rw [intOf, BitVec.toInt_eq_toNat_cond, Nat.add_sub_cancel]
  by_cases h : 2 ^ n ≤ x.toNat
  · rw [if_pos ⟨rfl, h⟩, if_neg (by omega)]; push_cast; rfl
  · rw [if_neg fun e => h e.2, if_pos (by omega)]

/-- The value of a 32-bit operand under a type of 32 bits. -/
theorem val_setWidth {t : ITy} (ht : t.wide = false) (x : W32) : t.val (x.setWidth 64) = intOf t.signed 32 x.toNat := by
  have hx : (x.setWidth 64).setWidth 32 = x := BitVec.setWidth_setWidth_of_le x (by decide)
  cases t with
  | i32 => exact (congrArg BitVec.toInt hx).trans (intOf_toInt x).symm
  | n32 => exact (congrArg (fun y : W32 => (y.toNat : Int)) hx).trans (intOf_unsigned 32 _).symm
  | i64 | n64 => cases ht

/-- The value of an operand under its type (R131). -/
theorem val_src (t : ITy) (c : LaneCx) (x : Src) (l : Nat) : t.val (c.src t.wide x l) = intOf t.signed t.bits (c.src t.wide x l).toNat := by
  cases t with
  | i64 => exact (intOf_toInt (c.src64 x l)).symm
  | n64 => exact (intOf_unsigned 64 _).symm
  | i32 | n32 =>
    refine (val_setWidth rfl (c.src32 x l)).trans (congrArg (intOf _ 32) ?_)
    exact (BitVec.toNat_setWidth_of_le (by decide)).symm

/-- A type with a sign is that of `iabs` of its width. -/
theorem ity_eq {g : SgTy} {t : ITy} (hs : t.signed = true) (hw : g.wide = t.wide) : g.ity = t := by
  revert hs hw; cases g <;> cases t <;> decide

/-- The nearer bound of a range (R131). -/
def clampTo (lo hi e : Int) : Int := if e < lo then lo else if hi < e then hi else e

theorem ITy.lo_eq (t : ITy) : t.lo = if t.signed then -2 ^ (t.bits - 1) else 0 := by cases t <;> rfl
theorem ITy.hi_eq (t : ITy) : t.hi = if t.signed then 2 ^ (t.bits - 1) - 1 else 2 ^ t.bits - 1 := by cases t <;> rfl
theorem ITy.lo_le_hi (t : ITy) : t.lo ≤ t.hi := by cases t <;> decide

theorem max_min_eq_clampTo {lo hi : Int} (h : lo ≤ hi) (e : Int) : max lo (min hi e) = clampTo lo hi e := by
  unfold clampTo
  split
  · omega
  · split <;> omega

/-- A register takes the low bits of a number (R131, "wrap"). -/
theorem wrap_same (t : ITy) (e : Int) : sameResult (.ofWide t.wide) (t.wrap e) (BitVec.ofInt 64 e) := by
  have hlow : ((BitVec.ofInt 32 e).setWidth 64).setWidth 32 = (BitVec.ofInt 64 e).setWidth 32 := by
    apply BitVec.eq_of_toNat_eq
    simp only [BitVec.toNat_setWidth, BitVec.toNat_ofInt]
    omega
  cases t with
  | i64 | n64 => rfl
  | i32 | n32 => exact hlow

/-- Wrapped or clamped, a register takes the number or the nearer bound (R131). -/
theorem deliver_same (t : ITy) (sat : Bool) (e : Int) :
    sameResult (.ofWide t.wide) (t.deliver sat e) (BitVec.ofInt 64 (if sat then clampTo t.lo t.hi e else e)) := by
  cases sat with
  | false => exact wrap_same t e
  | true =>
    have hclamp : t.deliver true e = t.wrap (clampTo t.lo t.hi e) := by rw [← max_min_eq_clampTo (ITy.lo_le_hi t)]; rfl
    rw [hclamp]
    exact wrap_same t _

/-! ## Elements of dot products (R150) -/

theorem testBit_top {n v : Nat} (h : v < 2 ^ (n + 1)) : v.testBit n = decide (2 ^ n ≤ v) := by
  by_cases hv : 2 ^ n ≤ v
  · rw [decide_eq_true hv, Nat.testBit_of_two_pow_le_and_two_pow_add_one_gt hv h]
  · rw [decide_eq_false hv, Nat.testBit_lt_two_pow (not_le.1 hv)]

theorem elemInt_eq (signed : Bool) (x : W32) (n j : Nat) :
    elemInt signed x (n + 1) j = intOf signed (n + 1) (x.toNat / 2 ^ ((n + 1) * j) % 2 ^ (n + 1)) := by
  have htop := testBit_top (Nat.mod_lt (x.toNat / 2 ^ ((n + 1) * j)) (Nat.two_pow_pos (n + 1)))
  simp only [elemInt, elem, bitsOf, intOf, Nat.add_sub_cancel, htop, Bool.and_eq_true, decide_eq_true_eq]

/-- The sum of the products of the elements and the third source (R150). -/
def dotSum (sa sb : Bool) (w n : Nat) (x y z : W32) : Int :=
  (List.range n).foldl (fun e j => e + intOf sa w (x.toNat / 2 ^ (w * j) % 2 ^ w) * intOf sb w (y.toNat / 2 ^ (w * j) % 2 ^ w))
    (intOf (sa || sb) 32 z.toNat)

/-- The integer dot product is its exact sum, wrapped or clamped (R150). -/
theorem dotInt_same (sa sb sat : Bool) (w n : Nat) (x y z : W32) :
    let e := dotSum sa sb (w + 1) n x y z
    sameResult .v32 (dotInt sa sb sat (w + 1) n x y z) (BitVec.ofInt 64
      (if sat then clampTo (if sa || sb then -2 ^ 31 else 0) (if sa || sb then 2 ^ 31 - 1 else 2 ^ 32 - 1) e else e)) := by
  intro e
  have hsum (t : ITy) (ht : t.wide = false) (hs : t.signed = (sa || sb)) : (List.range n).foldl (fun acc i =>
      acc + elemInt sa x (w + 1) i * elemInt sb y (w + 1) i) (t.val (z.setWidth 64)) = e := by
    simp only [elemInt_eq, val_setWidth ht, hs]; rfl
  cases hs : sa || sb with
  | true =>
    have hdot : dotInt sa sb sat (w + 1) n x y z = ITy.i32.deliver sat e := by
      rw [dotInt, hs]; exact congrArg _ (hsum .i32 rfl hs.symm)
    exact hdot ▸ deliver_same .i32 sat e
  | false =>
    have hdot : dotInt sa sb sat (w + 1) n x y z = ITy.n32.deliver sat e := by
      rw [dotInt, hs]; exact congrArg _ (hsum .n32 rfl hs.symm)
    exact hdot ▸ deliver_same .n32 sat e

/-! ## O13 -/

theorem ofWide_ne_run (wide : Bool) (n : Nat) : DestSpec.ofWide wide ≠ .run n := by cases wide <;> exact DestSpec.noConfusion

/-- Settles O13: each word by what it delivers of its operands as numbers, each dot product by its sum. -/
theorem laneArithmetic : Obligations.LaneArithmetic := by
  unfold Obligations.LaneArithmetic
  refine ⟨?_, ?_⟩
  · intro s b h t g sat cc k c n signed lo hi read x y fit dest gives
    have word {i : Instr} {op : LaneCx → Nat → W64 × Flags} {e : Nat → W64} (hi : exec i s = laneWord i s 0 op)
        (hd : destOf i = .ofWide t.wide) (hflags : ∀ l, (op c l).2 = 0)
        (hsame : ∀ l, sameResult (.ofWide t.wide) (op c l).1 (e l)) : gives i e :=
      fun hready => laneGives_of_laneWord hready hi hd (ofWide_ne_run _) hflags hsame
    have hread (x : Src) (l : Nat) : t.val (c.src t.wide x l) = read x l := val_src t c x l
    have hfit (e : Int) : sameResult (.ofWide t.wide) (t.deliver sat e) (fit e) := by
      have h := deliver_same t sat e
      rwa [ITy.lo_eq, ITy.hi_eq] at h
    have word2 {i : Instr} {f e : Int → Int → W64} (hi : exec i s = intWord2 i s t f) (hd : destOf i = .ofWide t.wide)
        (hsame : ∀ a b, sameResult (.ofWide t.wide) (f a b) (e a b)) : gives i fun l => e (x l) (y l) :=
      word hi hd (fun _ => rfl) fun l => by
        show sameResult _ (f (t.val (c.src t.wide h.a l)) (t.val (c.src t.wide h.b l))) _
        rw [hread, hread]
        exact hsame _ _
    refine ⟨word2 (e := fun a b => fit (a + b)) (rfl : execIadd h t sat s = _) rfl fun _ _ => hfit _,
      word2 (e := fun a b => fit (a - b)) (rfl : execIsub h t sat s = _) rfl fun _ _ => hfit _, ?_,
      word2 (e := fun a b => BitVec.ofInt 64 (a * b)) (rfl : execImul h t s = _) rfl fun _ _ => wrap_same t _,
      word2 (e := fun a b => BitVec.ofInt 64 (a * b / 2 ^ n)) (rfl : execImulh h t s = _) rfl fun _ _ => wrap_same t _,
      word2 (e := fun a b => BitVec.ofInt 64 (if a ≤ b then a else b)) (rfl : execImin h t s = _) rfl fun a b => ?_,
      word2 (e := fun a b => BitVec.ofInt 64 (if a ≤ b then b else a)) (rfl : execImax h t s = _) rfl fun a b => ?_,
      fun hs hw => ?_, fun hready => ?_⟩
    · refine word rfl rfl (fun _ => rfl) fun l => ?_
      show sameResult _ (t.deliver sat (t.val (c.src t.wide h.a l) * t.val (c.src t.wide h.b l) + t.val (c.src t.wide h.c l))) _
      rw [hread, hread, hread]
      exact hfit _
    · rw [← min_def]; exact wrap_same t _
    · rw [← max_def]; exact wrap_same t _
    · refine word rfl (congrArg DestSpec.ofWide hw) (fun _ => rfl) fun l => ?_
      show sameResult _ (g.ity.deliver sat |g.ity.val (c.src g.wide h.a l)|) _
      have habs : |read h.a l| = if x l < 0 then -(x l) else x l := by
        split
        case isTrue hneg => exact abs_of_neg hneg
        case isFalse hpos => exact abs_of_nonneg (not_lt.1 hpos)
      rw [ity_eq hs hw, hw, hread, habs]
      exact hfit _
    · refine laneGives_of_laneWord hready rfl rfl (fun _ => DestSpec.noConfusion) (fun _ => rfl) fun l => ?_
      show bitW (k.apply _ (cc.holds (t.val (c.src t.wide h.a l)) (t.val (c.src t.wide h.b l)))) = _
      rw [hread, hread]
      cases cc <;> cases k <;> rfl
  · intro s b h signed mix sat c num sb any el sum lo hi fit gives
    have word {i : Instr} {w n : Nat} {op : LaneCx → Nat → W64 × Flags} (hi : exec i s = laneWord i s 0 op) (hd : destOf i = .v32)
        (hop : ∀ l, op c l = (dotInt signed sb sat (w + 1) n (c.src32 h.a l) (c.src32 h.b l) (c.src32 h.c l), 0)) : gives i (w + 1) n :=
      fun hready => laneGives_of_laneWord hready hi hd (fun _ => DestSpec.noConfusion) (fun l => congrArg Prod.snd (hop l)) fun l => by
        rw [show op (laneView s b h) l = _ from hop l]
        exact dotInt_same ..
    refine ⟨fun rm => ?_, word rfl rfl fun _ => rfl⟩
    cases signed <;> cases mix <;> exact word rfl rfl fun _ => rfl

end Sys2Proof
end

section
/-! SUPPORT. Bitwise lane words (R132 to R134, R136): the bits of what each delivers, and O14. -/

namespace Sys2Proof

open Sys2Proof.Machine

/-! ## Shifts and reversal (R132, R134) -/

/-- The width of an operand. -/
def widthOf (wide : Bool) : Nat := if wide then 64 else 32

theorem widthOf_le (wide : Bool) : widthOf wide ≤ 64 := by cases wide <;> decide

/-- A source has no bits beyond its width. -/
theorem getLsbD_src_ge (c : LaneCx) {wide : Bool} (x : Src) (l : Nat) {j : Nat} (hj : widthOf wide ≤ j) : (c.src wide x l).getLsbD j = false := by
  cases wide with
  | true => exact BitVec.getLsbD_of_ge _ _ hj
  | false =>
    have h32 : (c.src32 x l).getLsbD j = false := BitVec.getLsbD_of_ge _ _ hj
    simp [LaneCx.src, h32]

theorem getLsbD_extend (x : W32) {j : Nat} (hj : j < 32) : (x.setWidth 64).getLsbD j = x.getLsbD j := by
  rw [BitVec.getLsbD_setWidth, decide_eq_true (by omega), Bool.true_and]

theorem getLsbD_low (x : W64) {j : Nat} (hj : j < 32) : (x.setWidth 32 : W32).getLsbD j = x.getLsbD j := by
  rw [BitVec.getLsbD_setWidth, decide_eq_true hj, Bool.true_and]

theorem getLsbD_cutTo {wide : Bool} (x : W64) {j : Nat} (hj : j < widthOf wide) : (cutTo wide x).getLsbD j = x.getLsbD j := by
  cases wide with
  | true => rfl
  | false => exact (getLsbD_extend _ hj).trans (getLsbD_low x hj)

theorem getLsbD_shlBits {wide : Bool} (x : W64) (k : Nat) {j : Nat} (hj : j < widthOf wide) :
    (shlBits wide x k).getLsbD j = (decide (k ≤ j) && x.getLsbD (j - k)) := by
  have h64 : j < 64 := hj.trans_le (widthOf_le wide)
  unfold shlBits
  split
  case isTrue h =>
    have hk : ¬ k ≤ j := by omega
    simp [hk]
  case isFalse h =>
    rw [getLsbD_cutTo _ hj, BitVec.getLsbD_shiftLeft, decide_eq_true h64, Bool.true_and, ← decide_not]
    simp only [not_lt]

theorem getLsbD_shrBits {n : Nat} {x : W64} (hx : ∀ j, n ≤ j → x.getLsbD j = false) (k j : Nat) :
    (shrBits x k).getLsbD j = (decide (j + k < n) && x.getLsbD (j + k)) := by
  have hcut : (decide (j + k < n) && x.getLsbD (j + k)) = x.getLsbD (j + k) := by
    by_cases h : j + k < n
    · simp [h]
    · simp [h, hx _ (not_lt.1 h)]
  rw [hcut]
  unfold shrBits
  split
  case isTrue h =>
    have : x.getLsbD (j + k) = false := BitVec.getLsbD_of_ge _ _ (by omega)
    simp [this]
  case isFalse h => rw [BitVec.getLsbD_ushiftRight, Nat.add_comm]

/-- An arithmetic shift by the width or more leaves the sign. -/
theorem getLsbD_sshiftRight_min {n : Nat} (x : BitVec (n + 1)) (k : Nat) {j : Nat} (hj : j < n + 1) :
    (x.sshiftRight (min k (n + 1))).getLsbD j = x.getLsbD (if j + k < n + 1 then j + k else n) := by
  rw [BitVec.getLsbD_sshiftRight, decide_eq_false (by omega), Bool.not_false, Bool.true_and]
  by_cases h : j + k < n + 1
  · have hmin : min k (n + 1) + j = j + k := by omega
    rw [hmin, if_pos h, if_pos h]
  · have hmin : ¬ min k (n + 1) + j < n + 1 := by omega
    rw [if_neg hmin, if_neg h, BitVec.msb_eq_getLsbD_last, Nat.add_sub_cancel]

theorem getLsbD_sarBits {wide : Bool} (x : W64) (k : Nat) {j : Nat} (hj : j < widthOf wide) :
    (sarBits wide x k).getLsbD j = x.getLsbD (if j + k < widthOf wide then j + k else widthOf wide - 1) := by
  cases wide with
  | true => exact getLsbD_sshiftRight_min x k hj
  | false =>
    have hfrom : (if j + k < 32 then j + k else 31) < 32 := by split <;> omega
    exact (getLsbD_extend _ hj).trans ((getLsbD_sshiftRight_min _ k hj).trans (getLsbD_low x hfrom))

theorem getLsbD_revBits {n : Nat} (hn : n ≤ 64) (x : W64) {j : Nat} (hj : j < n) : (revBits x n).getLsbD j = x.getLsbD (n - 1 - j) := by
  have hbits := testBit_sum_pow x.getLsbD (n - 1 - ·) n j fun i hi k hk h => by omega
  rw [revBits, BitVec.getLsbD_ofNat, decide_eq_true (hj.trans_le hn), Bool.true_and, Bool.eq_iff_iff]
  refine hbits.trans ⟨fun ⟨i, hi, h, hx⟩ => ?_, fun h => ⟨n - 1 - j, by omega, by omega, h⟩⟩
  rwa [show n - 1 - j = i by omega]

/-! ## Counts (R134) -/

theorem popBits_eq (x : W64) (n : Nat) : popBits x n = ((List.range n).filter fun j => x.getLsbD j).length := by
  induction n with
  | zero => rfl
  | succ n ih =>
    rw [popBits, List.range_succ, List.foldl_append, List.filter_append, List.length_append, ← ih]
    cases h : x.getLsbD n <;> simp [h, popBits]

theorem popBits_le (x : W64) (n : Nat) : popBits x n ≤ n := by
  rw [popBits_eq]
  exact (List.length_filter_le _ _).trans_eq List.length_range

theorem testBit_of_bitLen_le {m j : Nat} (h : bitLen m ≤ j) : m.testBit j = false := by
  by_cases hm : m = 0
  · simp [hm]
  · rw [bitLen, if_neg hm] at h
    exact Nat.testBit_lt_two_pow (Nat.lt_log2_self.trans_le (Nat.pow_le_pow_right (by decide) h))

theorem testBit_bitLen_pred {m : Nat} (h : m ≠ 0) : m.testBit (bitLen m - 1) = true := by
  rw [bitLen, if_neg h, Nat.add_sub_cancel]
  exact Nat.testBit_log2 h

theorem bitLen_le {m n : Nat} (h : m < 2 ^ n) : bitLen m ≤ n := by
  unfold bitLen
  split
  · omega
  case isFalse hm => exact (Nat.log2_lt hm).2 h

/-- `clz` as it is stated: the zero bits above the highest set bit (R134). -/
theorem clzBits_spec {x : W64} {n : Nat} (hn : n ≤ 64) (hx : ∀ j, n ≤ j → x.getLsbD j = false) :
    let e := BitVec.ofNat 64 (clzBits x n)
    e.toNat ≤ n ∧ (∀ j < n, n - e.toNat ≤ j → x.getLsbD j = false) ∧ (e.toNat < n → x.getLsbD (n - 1 - e.toNat) = true) := by
  have hlen : bitLen x.toNat ≤ n := bitLen_le (Nat.lt_pow_two_of_testBit _ hx)
  intro e
  have he : e.toNat = n - bitLen x.toNat := Nat.mod_eq_of_lt (by omega : n - bitLen x.toNat < 2 ^ 64)
  refine ⟨by omega, fun j hj h => testBit_of_bitLen_le (by omega), fun h => ?_⟩
  have hpos : x.toNat ≠ 0 := fun h0 => by rw [h0, show bitLen 0 = 0 from rfl] at he; omega
  rw [show n - 1 - e.toNat = bitLen x.toNat - 1 by omega]
  exact testBit_bitLen_pred hpos

/-! ## Fields (R133) -/

theorem getLsbD_ones {n : Nat} (hn : n < 32) (j : Nat) : ((1#32 <<< n) - 1).getLsbD j = decide (j < n) := by
  have hpow : 2 ^ n < 2 ^ 32 := Nat.pow_lt_pow_right (by decide) hn
  have hnat : ((1#32 <<< n) - 1).toNat = 2 ^ n - 1 := by
    have hone : (1#32 <<< n).toNat = 2 ^ n := by
      rw [BitVec.toNat_shiftLeft, Nat.shiftLeft_eq]
      exact (congrArg (· % 2 ^ 32) (Nat.one_mul _)).trans (Nat.mod_eq_of_lt hpow)
    have hpos := Nat.two_pow_pos n
    have hunit : (1 : W32).toNat = 1 := rfl
    rw [BitVec.toNat_sub, hone, hunit]
    omega
  rw [BitVec.getLsbD, hnat, Nat.testBit_two_pow_sub_one]

/-- The bits of `bfi`: those of the field from the first source, and the rest from the second. -/
theorem getLsbD_bfiBits (x y z : W32) {j : Nat} (hj : j < 32) :
    (bfiBits x y z).getLsbD j =
      if z.toNat % 256 ≤ j ∧ j < z.toNat % 256 + z.toNat / 256 % 256 then x.getLsbD (j - z.toNat % 256) else y.getLsbD j := by
  let p := z.toNat % 256
  let n := z.toNat / 256 % 256
  have hmask : (if n ≥ 32 then BitVec.allOnes 32 <<< p else (1#32 <<< n - 1) <<< p : W32).getLsbD j = decide (p ≤ j ∧ j < p + n) := by
    split
    case isTrue h =>
      rw [BitVec.getLsbD_shiftLeft, BitVec.getLsbD_allOnes, Bool.eq_iff_iff]
      simp only [Bool.and_eq_true, Bool.not_eq_true', decide_eq_true_eq, decide_eq_false_iff_not]
      omega
    case isFalse h =>
      rw [BitVec.getLsbD_shiftLeft, getLsbD_ones (not_le.1 h), Bool.eq_iff_iff]
      simp only [Bool.and_eq_true, Bool.not_eq_true', decide_eq_true_eq, decide_eq_false_iff_not]
      omega
  show ((y &&& ~~~_) ||| ((x <<< p) &&& _)).getLsbD j = if p ≤ j ∧ j < p + n then x.getLsbD (j - p) else y.getLsbD j
  rw [BitVec.getLsbD_or, BitVec.getLsbD_and, BitVec.getLsbD_and, BitVec.getLsbD_not, hmask, BitVec.getLsbD_shiftLeft]
  by_cases h : p ≤ j ∧ j < p + n
  · have hp : ¬ j < p := not_lt.2 h.1
    simp [h, hj, hp]
  · simp [h, hj]

/-- The value that a field is taken from, shifted to its place. -/
def fieldFrom (signed : Bool) (x : W32) (p : Nat) : W32 := if signed then x.sshiftRight p else x >>> p

theorem getLsbD_fieldFrom (signed : Bool) (x : W32) (p : Nat) {j : Nat} (hj : j < 32) :
    (fieldFrom signed x p).getLsbD j = if p + j < 32 then x.getLsbD (p + j) else signed && x.getLsbD 31 := by
  cases signed with
  | true =>
    show (x.sshiftRight p).getLsbD j = _
    rw [BitVec.getLsbD_sshiftRight, decide_eq_false (by omega), Bool.not_false, Bool.true_and, Bool.true_and, BitVec.msb_eq_getLsbD_last]
  | false =>
    show (x >>> p).getLsbD j = _
    rw [BitVec.getLsbD_ushiftRight, Bool.false_and]
    split
    · rfl
    case isFalse h => exact BitVec.getLsbD_of_ge _ _ (not_lt.1 h)

/-- The field of a number is that of its bits. -/
theorem toNat_div_emod (signed : Bool) (x : W32) (p : Nat) {n : Nat} (hn : n ≤ 32) :
    ((if signed then x.toInt else (x.toNat : Int)) / 2 ^ p % 2 ^ n).toNat = (fieldFrom signed x p).toNat % 2 ^ n := by
  have hdvd : (2 ^ n : Int) ∣ 2 ^ 32 := pow_dvd_pow 2 hn
  have hmod : (if signed then x.toInt else (x.toNat : Int)) / 2 ^ p % 2 ^ n = ((fieldFrom signed x p).toNat : Int) % 2 ^ n := by
    cases signed with
    | true =>
      have hint : x.toInt / 2 ^ p = (x.sshiftRight p).toInt := by rw [BitVec.toInt_sshiftRight, Int.shiftRight_eq_div_pow]; norm_cast
      have hnat : ((x.sshiftRight p).toNat : Int) = (x.sshiftRight p).toInt % 2 ^ 32 := by
        have hlt := (x.sshiftRight p).isLt
        rw [BitVec.toInt_eq_toNat_cond]
        split <;> omega
      show x.toInt / 2 ^ p % 2 ^ n = ((x.sshiftRight p).toNat : Int) % 2 ^ n
      rw [hint, hnat, Int.emod_emod_of_dvd _ hdvd]
    | false =>
      show (x.toNat : Int) / 2 ^ p % 2 ^ n = ((x >>> p).toNat : Int) % 2 ^ n
      rw [BitVec.toNat_ushiftRight, Nat.shiftRight_eq_div_pow]
      push_cast
      rfl
  rw [hmod]
  exact_mod_cast Int.toNat_natCast _

/-- A field below its sign: the number less 2^n has its low bits, and ones above. -/
theorem getLsbD_ofInt_sub {n f : Nat} (hn : n ≤ 32) (hf : f < 2 ^ n) {j : Nat} (hj : j < 32) :
    (BitVec.ofInt 32 ((f : Int) - 2 ^ n)).getLsbD j = if j < n then f.testBit j else true := by
  have hpow : 2 ^ n * 2 ^ (32 - n) = 2 ^ 32 := by rw [← Nat.pow_add, Nat.add_sub_cancel' hn]
  have hnat : (BitVec.ofInt 32 ((f : Int) - 2 ^ n)).toNat = 2 ^ n * (2 ^ (32 - n) - 1) + f := by
    have hle : 2 ^ n ≤ 2 ^ 32 := Nat.pow_le_pow_right (by decide) hn
    have hcast : (2 : Int) ^ n = (2 ^ n : Nat) := by push_cast; rfl
    rw [BitVec.toNat_ofInt, Nat.mul_sub_one, hpow, hcast]
    omega
  rw [BitVec.getLsbD, hnat, Nat.testBit_two_pow_mul_add _ hf]
  split
  · rfl
  · rw [Nat.testBit_two_pow_sub_one, decide_eq_true (by omega)]

/-- The low `k` bits of a value, above them its sign where it has one. -/
def extended (signed : Bool) (v : W32) (k : Nat) : W32 :=
  if k = 0 then 0
  else if signed = true ∧ v.getLsbD (k - 1) = true then BitVec.ofInt 32 ((v.toNat % 2 ^ k : Nat) - 2 ^ k)
  else BitVec.ofNat 32 (v.toNat % 2 ^ k)

theorem bfeBits_eq (signed : Bool) (x y z : W32) :
    bfeBits signed x y z = extended signed (fieldFrom signed x (y.toNat % 256)) (min (z.toNat % 256) 32) := by
  have hfield := toNat_div_emod signed x (y.toNat % 256) (min_le_right (z.toNat % 256) 32)
  simp only [bfeBits, extended]
  generalize min (z.toNat % 256) 32 = k at hfield ⊢
  by_cases h0 : k = 0
  · rw [if_pos h0, if_pos h0]
  · have htop : (decide (k - 1 < k)) = true := decide_eq_true (by omega)
    simp only [hfield, Nat.testBit_mod_two_pow, htop, Bool.true_and, h0, if_false]
    rfl

theorem getLsbD_extended (signed : Bool) (v : W32) {k j : Nat} (hk : k ≤ 32) (hj : j < 32) :
    (extended signed v k).getLsbD j = if j < k then v.getLsbD j else signed && decide (0 < k) && v.getLsbD (k - 1) := by
  have hmod (i : Nat) : (v.toNat % 2 ^ k).testBit i = (decide (i < k) && v.getLsbD i) := Nat.testBit_mod_two_pow ..
  unfold extended
  split
  case isTrue h0 => simp [h0]
  case isFalse h0 =>
    have hpos : decide (0 < k) = true := decide_eq_true (Nat.pos_of_ne_zero h0)
    split
    case isTrue hs =>
      rw [getLsbD_ofInt_sub hk (Nat.mod_lt _ (Nat.two_pow_pos k)) hj, hmod, hs.1, hs.2, hpos]
      by_cases h : j < k <;> simp [h]
    case isFalse hs =>
      have hsign : (signed && decide (0 < k) && v.getLsbD (k - 1)) = false := by
        simpa [hpos] using hs
      rw [hsign, BitVec.getLsbD_ofNat, decide_eq_true hj, Bool.true_and, hmod]
      by_cases h : j < k <;> simp [h]

/-! ## O14 -/

/-- Settles O14: each word delivers the value that the model computes, and its bits are those that R132 to R136 name. -/
theorem laneBits : Obligations.LaneBits := by
  unfold Obligations.LaneBits
  intro s b h t clamp signed inv m c n x y gives dest bits by'
  have own {i : Instr} {d : DestSpec} {op : LaneCx → Nat → W64 × Flags} {ok : Nat → W64 → Prop} (hrun : ∀ n, d ≠ .run n) (hd : destOf i = d)
      (hi : exec i s = laneWord i s 0 op) (hflags : ∀ l, (op c l).2 = 0) (hok : ∀ l, ok l (op c l).1) : gives i d ok :=
    fun hready => ⟨fun l => (op c l).1, hok, laneGives_of_laneWord hready hi hd hrun hflags fun _ => sameResult_rfl⟩
  clear_value gives
  have word {i : Instr} {op : LaneCx → Nat → W64 × Flags} {ok : Nat → W64 → Prop} (hi : exec i s = laneWord i s 0 op) (hd : destOf i = dest) :
      (∀ l, (op c l).2 = 0) → (∀ l, ok l (op c l).1) → gives i dest ok := own (ofWide_ne_run t.wide) hd hi
  have word32 {i : Instr} {op : LaneCx → Nat → W64 × Flags} {ok : Nat → W64 → Prop} (hi : exec i s = laneWord i s 0 op) (hd : destOf i = .v32) :
      (∀ l, (op c l).2 = 0) → (∀ l, ok l (op c l).1) → gives i .v32 ok := own (fun _ => DestSpec.noConfusion) hd hi
  have hle : n ≤ 64 := widthOf_le t.wide
  have hx (l j : Nat) (hj : n ≤ j) : (x l).getLsbD j = false := getLsbD_src_ge c h.a l hj
  refine ⟨word rfl rfl (fun _ => rfl) fun l j _ => BitVec.getLsbD_and, word rfl rfl (fun _ => rfl) fun l j _ => BitVec.getLsbD_or,
    word rfl rfl (fun _ => rfl) fun l j _ => BitVec.getLsbD_xor, word rfl rfl (fun _ => rfl) fun l j hj => ?_,
    word rfl rfl (fun _ => rfl) fun l j _ => rfl, word rfl rfl (fun _ => rfl) fun l j hj => getLsbD_revBits hle (x l) hj,
    word rfl rfl (fun _ => rfl) fun l j _ => ?_, word rfl rfl (fun _ => rfl) fun l j hj => getLsbD_shlBits (x l) _ hj,
    word rfl rfl (fun _ => rfl) fun l j _ => getLsbD_shrBits (hx l) _ j, word rfl rfl (fun _ => rfl) fun l j hj => getLsbD_sarBits (x l) _ hj,
    word rfl rfl (fun _ => rfl) fun l => ?_, word rfl rfl (fun _ => rfl) fun l => ?_,
    word32 rfl rfl (fun _ => rfl) fun l j hj => ?_, word32 rfl rfl (fun _ => rfl) fun l j hj => ?_⟩
  · show (cutTo t.wide (~~~(x l))).getLsbD j = !(x l).getLsbD j
    rw [getLsbD_cutTo _ hj, BitVec.getLsbD_not, decide_eq_true (hj.trans_le hle), Bool.true_and]
  · exact apply_ite (BitVec.getLsbD · j) ((s.warp.mget m).getLsbD l != inv) (x l) (y l)
  · exact (Nat.mod_eq_of_lt (((popBits_le (x l) n).trans hle).trans_lt (by decide))).trans (popBits_eq (x l) n)
  · exact clzBits_spec hle (hx l)
  · exact (getLsbD_extend _ hj).trans (getLsbD_bfiBits _ _ _ hj)
  · rw [getLsbD_extend _ hj, bfeBits_eq, getLsbD_extended _ _ (min_le_right ..) hj, getLsbD_fieldFrom _ _ _ hj,
      getLsbD_fieldFrom _ _ _ (by omega)]
    rfl

end Sys2Proof
end

section
/-! SUPPORT. The special functions in a warp that halts, and O18. -/

namespace Sys2Proof

open Sys2Proof.Machine

theorem rcp_nanReady : laneReady (.rcp nanHdr) nanState nanBlock nanHdr :=
  ⟨rfl, by decide +kernel, _, _, rfl, by decide +kernel, by decide +kernel, by decide +kernel⟩

/-- Every lane of the counterexample reads the signalling NaN. -/
theorem nanState_src32 : ∀ l < 64, (laneView nanState nanBlock nanHdr).src32 nanHdr.a l = 0x7F800001 := by decide +kernel

/-- Refutes O18: `rcp` of a signalling NaN under an enabled INV, in a warp without a handler that has a word in flight already. The row of R146 fixes
INV, so the word halts the warp as it stands, in flight, where R125 as stated asks for nothing in flight. -/
theorem not_specialFunctions : ¬ Obligations.SpecialFunctions := by
  unfold Obligations.SpecialFunctions
  intro h
  obtain ⟨⟨f, -, hnan, hfloats⟩, -⟩ := h
  have hf : f 0x7F800001 = (0x7FC00000, 1) := hnan 0x7F800001 true false 1 (by decide +kernel)
  refine not_laneFloats_nanState rfl ?_ (fun l hl => ?_) (hfloats _ _ _ rcp_nanReady)
  · decide +kernel
  · rw [nanState_src32 l hl, hf]

end Sys2Proof
end

section
/-! SUPPORT. States in which a statement about lane memory or quanta fails, and the refutations of O21, O24, O25 and O34. -/

namespace Sys2Proof

open Sys2Proof.Machine

/-! ## What a state that a statement asks for would have to show -/

/-- What is seen of the next state, where there is one. -/
def seenNext {α : Type} (f : State → α) (o : Out) : Option α :=
  match o with
  | .next t => some (f t)
  | _ => none

/-- A lane store that is done leaves the warp with the wait that it had. -/
theorem wait_of_lanesStored {t s : State} {b : Block} (h : lanesStored t s b) : t.warp.wait = s.warp.wait := by
  obtain ⟨-, -, -, -, -, hframe, -⟩ := h
  exact (congrArg Warp.wait hframe :)

/-- A lane store that is done leaves every latch as live as it was, in a block that goes on. -/
theorem alive_of_lanesStored {t s : State} {b : Block} (h : lanesStored t s b) (hmore : b.lanePc + 1 < b.count) :
    t.warp.block.map (·.alive) = some b.alive := by
  obtain ⟨hblock, -⟩ := h
  rw [blockAfter, if_pos hmore] at hblock
  obtain ⟨b', hb', -, -, hlatch⟩ := hblock
  rw [hb', Option.map_some]
  refine congrArg some (BitVec.eq_of_getLsbD_eq fun n hn => ?_)
  obtain ⟨halive, -⟩ := hlatch (BitVec.ofNat 2 n)
  rw [BitVec.toNat_ofNat, Nat.mod_eq_of_lt hn] at halive
  simpa using halive

/-! ## A `DET` launch whose word has no active lane -/

/-- A block of two words without an active lane, and a warp of a `DET` launch in it. -/
def idleBlock : Block := { nanBlock with count := 2, am := 0 }
def idleWarp : Warp := { Warp.blank with alive := true, gridId := 0x0100000000000000, block := some idleBlock }
def idleState : State := { State.reset with warp := idleWarp }

theorem lanesLeft_idleBlock (s : State) (h : LaneHdr) : lanesLeft s idleBlock h = 0 := by
  have hzero (x : Mask) : 0 &&& x = 0 := BitVec.zero_and
  rw [lanesLeft, activeLanes, show idleBlock.am = 0 from rfl, hzero, hzero]

theorem no_lane_idleBlock (s : State) (h : LaneHdr) (l : Nat) : (lanesLeft s idleBlock h).getLsbD l = false := by
  rw [lanesLeft_idleBlock]
  exact BitVec.getLsbD_zero

theorem lanesInOrder_idleBlock (s : State) (h : LaneHdr) : lanesInOrder s idleBlock h = [] :=
  List.filter_eq_nil_iff.2 fun l _ => by simp [no_lane_idleBlock]

/-- The same warp with a carrel of more lines than a carrel has. -/
def fullState : State :=
  { idleState with
    warp := { idleWarp with carrel := List.replicate 2049 (.atomic .device 0 .add .b32 0 0 none ⟨0, 0, 0, 0, 0, none⟩ 0 0) } }

theorem st_fullReady : laneReady (.st nanHdr .n8 none) fullState idleBlock nanHdr :=
  ⟨rfl, by decide +kernel, _, _, rfl, by decide +kernel, by decide +kernel, by decide +kernel⟩

/-- Refutes O21: a store word without an active lane in a `DET` launch whose carrel holds more lines than fit. The word ends the quantum and waits for the
commit (R312), where the statement, which excludes `DET` launches by their lanes alone, has it done. -/
theorem not_laneStores : ¬ Obligations.LaneStores := by
  unfold Obligations.LaneStores
  intro h
  obtain ⟨hst, -⟩ := h fullState idleBlock nanHdr .n8 none ⟨.w8, false, .x1, 0⟩ (fun _ => ⟨0, 0, .device, 0, 0⟩) ⟨rfl, rfl, rfl⟩
    (fun _ hm => absurd hm List.not_mem_nil) (fun _ hsc => nomatch hsc)
  have hdone := hst st_fullReady fun l ⟨_, hl⟩ => by simp [no_lane_idleBlock] at hl
  obtain ⟨u, hu, -, -, hstored, -⟩ := hdone
  have hrun : seenNext (·.warp.wait) (exec (.st nanHdr .n8 none) fullState) = some .commit := by decide +kernel
  rw [hu, seenNext, wait_of_lanesStored hstored] at hrun
  cases hrun

/-- The header of a word that delivers to latch 0 besides `v0`, and a `.qtm` add in memory. -/
def latchHdr : LaneHdr := { nanHdr with latch := some 0 }
def qtmAdd : AtomArgs := ⟨.add, false, .crew, .rlx, .qtm, 0⟩

theorem atom_idleReady : laneReady (.atom latchHdr .b32 qtmAdd) idleState idleBlock latchHdr :=
  ⟨rfl, by decide +kernel, _, _, rfl, by decide +kernel, by decide +kernel, by decide +kernel⟩

theorem idleState_holdsBack : holdsBack idleState :=
  ⟨by decide, by decide, rfl, rfl, fun _ he => absurd he List.not_mem_nil, by decide, fun _ hk => nomatch hk⟩

/-- Refutes O25: a `.qtm` `atom` of a `DET` launch that names a latch. The word makes the latch live when it is done (R21), before the commit delivers to it,
where the statement has every latch as it was. -/
theorem not_atomicForms : ¬ Obligations.AtomicForms := by
  unfold Obligations.AtomicForms
  intro h
  obtain ⟨-, -, -, hforms⟩ := h
  obtain ⟨hqtm, -⟩ := hforms idleState idleBlock latchHdr .b32 qtmAdd (fun _ => ⟨0, 0, .device, 0, 0⟩) rfl (fun h => by simp [qtmAdd] at h)
  obtain ⟨-, hatom⟩ := hqtm idleState_holdsBack rfl rfl fun l hl => by simp [lanesInOrder_idleBlock] at hl
  obtain ⟨u, hu, -, hstored, -⟩ := hatom atom_idleReady
  have halive := alive_of_lanesStored hstored (by decide)
  have hrun : seenNext (·.warp.block.map (·.alive)) (exec (.atom latchHdr .b32 qtmAdd) idleState) = some (some 1) := by decide +kernel
  rw [hu, seenNext] at hrun
  exact absurd (halive.symm.trans (Option.some.inj hrun)) (by decide)

/-! ## A page table that a store reaches -/

/-- A block with lanes 0 and 1 active. -/
def twoBlock : Block := { nanBlock with am := 3 }

/-- A partition whose root table begins 8 bytes into a page, so that its last entry, at 8192, stands in the page behind. Through that entry, a table at 12288 and
a 1 GiB leaf at 16384 lane 0 addresses the entry itself, and lane 1 the 4 bytes behind. -/
def straddleState : State :=
  { State.reset with
    dev := ⟨[(8192, 0x01), (8193, 0x30), (12288, 0x01), (12289, 0x40), (16384, 0x97), (16385, 0x01), (16391, 0x90)], []⟩
    parts := [(0, { Part.blank with state := .running, cfg := { PartCfg.blank with root := 4104 } })]
    warp := { Warp.blank with
      alive := true, regs := 4, block := some twoBlock
      v := vset (vset Warp.blank.v 0 (vset (Vector.replicate 64 8192) 1 8196)) 1 (Vector.replicate 64 0x01FF0000) } }

def straddleTrans (l : Nat) : Trans := ⟨16384, 0x9000000000000197, .device, 8192 + 4 * l, 2 ^ 30⟩

/-- The header that addresses by `v0` and takes its operand from `v2`. -/
def straddleHdr : LaneHdr := { nanHdr with b := .v 2 }
def andArgs : AtomArgs := ⟨.conj, false, .crew, .rlx, .unp, 0⟩

theorem ared_straddleReady : laneReady (.ared straddleHdr .b32 andArgs) straddleState twoBlock straddleHdr :=
  ⟨rfl, by decide +kernel, _, _, rfl, by decide +kernel, by decide +kernel, by decide +kernel⟩

theorem straddleState_left {l : Nat} (hl : l < 64) (h : (lanesLeft straddleState twoBlock straddleHdr).getLsbD l = true) : l < 2 := by
  have hall : ∀ l < 64, (lanesLeft straddleState twoBlock straddleHdr).getLsbD l = true → l < 2 := by decide +kernel
  exact hall l hl h

theorem straddleState_plain : ∀ l < 2,
    plainAccess straddleState accAtomic 4 ((laneView straddleState twoBlock straddleHdr).atomAddr andArgs l) (straddleTrans l) ∧
      marked straddleState (straddleTrans l) true := by
  unfold plainAccess marked
  decide +kernel

theorem straddleState_clean : ∀ l < 2, straddleState.placePoisoned (straddleTrans l).place (straddleTrans l).pa 4 = false := by decide +kernel

/-- Whether an address lies in a page table is asked of its 4 KiB frame. -/
theorem inTable_congr (s : State) {pa pa' : Nat} (h : pa / 4096 = pa' / 4096) (k : Nat) : ∀ table, s.inTable pa k table = s.inTable pa' k table := by
  induction k with
  | zero => intro table; rw [State.inTable, State.inTable, h]
  | succ k ih => intro table; simp only [State.inTable, h, ih]

theorem straddleState_noTable {l : Nat} (hl : l < 2) : straddleState.isTableSlot (straddleTrans l).pa = false ∧
    straddleState.inTable (straddleTrans l).pa 4 (straddleState.part straddleState.warp.ident.part).cfg.root = false := by
  have hzero : straddleState.inTable 8192 4 4104 = false := by decide +kernel
  have htable : straddleState.inTable (straddleTrans l).pa 4 4104 = false :=
    (inTable_congr _ (show (8192 + 4 * l) / 4096 = 8192 / 4096 by omega) _ _).trans hzero
  refine ⟨?_, htable⟩
  have hslot : straddleState.isTableSlot (straddleTrans l).pa = (straddleState.inTable (straddleTrans l).pa 4 4104 || false) := rfl
  rw [hslot, htable]
  rfl

/-- Refutes O24: an `ared` whose lane 0 clears the page-table entry through which lane 1 goes. The page of that entry holds no table but the end of one whose
root is not aligned, which the statement does not ask of it. Lane 1 misses, and the warp waits for its page (R189), where the statement has the word done. -/
theorem not_atomics : ¬ Obligations.Atomics := by
  unfold Obligations.Atomics
  intro h
  obtain ⟨-, hared⟩ := h straddleState twoBlock straddleHdr .b32 andArgs straddleTrans ⟨rfl, rfl, rfl⟩ (fun _ hm => absurd hm List.not_mem_nil) rfl
    (by decide) rfl (by decide) (by decide) (fun h => by simp [andArgs] at h) fun l hl => by
      rw [Bool.and_eq_true, decide_eq_true_eq] at hl
      obtain ⟨hlt, hleft⟩ := hl
      have h2 := straddleState_left hlt hleft
      obtain ⟨hplain, hmarked⟩ := straddleState_plain l h2
      exact ⟨hplain, hmarked, straddleState_clean l h2, fun _ => straddleState_noTable h2⟩
  obtain ⟨u, hu, -, hstored⟩ := hared ared_straddleReady
  have hrun : seenNext (fun t => decide (t.warp.wait = .none)) (exec (.ared straddleHdr .b32 andArgs) straddleState) = some false := by decide +kernel
  rw [hu, seenNext, wait_of_lanesStored hstored] at hrun
  cases hrun

/-! ## A warp with a shadow -/

/-- A warp with a shadow that has its number, and a byte 1 in host memory. -/
def pairState : State :=
  { State.reset with warp := { Warp.blank with alive := true }, shadows := [Warp.blank], hostMem := ⟨[(64, 1)], []⟩ }

/-- Refutes O34: a returning atomic of a warp that has a shadow. Its old value goes to the registers of both (R198), where the statement has every shadow as
it was. -/
theorem not_quanta : ¬ Obligations.Quanta := by
  unfold Obligations.Quanta
  intro h
  obtain ⟨-, -, -, -, -, -, hentries, -⟩ := h pairState pairState 0 0 0 false false 0 []
  obtain ⟨-, hatomic, -⟩ := hentries .host 64 [] .add .b32 0 0 (some ⟨0, 0, false, none, 0⟩) ⟨0, 0, 0, 0, 0, none⟩ 1 0
  obtain ⟨u, hu, -, ⟨-, -, hshadows⟩, -⟩ := hatomic
    ⟨by decide, by decide +kernel, rfl, fun _ hm => absurd hm List.not_mem_nil, fun hd => nomatch hd⟩ (by decide +kernel) rfl
  have hlanes : u.shadows.map (·.vlane 0 0) = pairState.shadows.map (·.vlane 0 0) := by
    have hmap := congrArg (List.map fun w : Warp => w.vlane 0 0) hshadows
    rw [List.map_map, List.map_map] at hmap
    exact hmap
  have hrun : ((pairState.performEntry (.atomic .host 64 .add .b32 0 0 (some ⟨0, 0, false, none, 0⟩) ⟨0, 0, 0, 0, 0, none⟩ 1 0)).map fun u =>
      u.shadows.map (·.vlane 0 0)) = some [1] := by decide +kernel
  rw [hu, Option.map_some, hlanes] at hrun
  exact absurd hrun (by decide +kernel)

end Sys2Proof
end

section
/-! SUPPORT. Cross-lane words that copy or compare (R151, R153, R155 to R157), and O15. -/

namespace Sys2Proof

open Sys2Proof.Machine

/-! ## Votes (R155) -/

/-- A truth value as a word. -/
theorem bitW_spec {b : Bool} {p : Prop} (h : b = true ↔ p) : (p → bitW b = 1) ∧ (¬p → bitW b = 0) := by
  refine ⟨fun hp => ?_, fun hp => ?_⟩
  · rw [h.2 hp]; rfl
  · rw [Bool.eq_false_iff.2 fun hb => hp (h.1 hb)]; rfl

/-- A mask is not empty where one of its lanes is set. -/
theorem mask_ne_zero_iff (m : Mask) : m ≠ 0 ↔ ∃ l < 64, m.getLsbD l = true := by
  refine ⟨fun h => ?_, fun ⟨l, _, hl⟩ h => by simp [h] at hl⟩
  by_contra hnone
  refine h (BitVec.eq_of_getLsbD_eq fun l hl => ?_)
  rw [Bool.eq_false_iff.2 fun hset => hnone ⟨l, hl, hset⟩]
  exact BitVec.getLsbD_zero.symm

section
variable (act : Mask) (v : Nat → W32)

/-- The lanes of a mask whose value is not 0, and the values of its lanes. -/
def votesOf : Mask := laneMask fun l => act.getLsbD l && v l != 0
def valuesOf : List W32 := (List.range 64).filterMap fun l => if act.getLsbD l then some (v l) else none

theorem getLsbD_votesOf {l : Nat} (hl : l < 64) : (votesOf act v).getLsbD l = (act.getLsbD l && decide (v l ≠ 0)) := by
  rw [votesOf, getLsbD_laneMask _ hl]
  simp [bne, beq_eq_decide]

theorem votesOf_ne_zero : (votesOf act v != 0) = true ↔ ∃ l, (l < 64 ∧ act.getLsbD l = true) ∧ v l ≠ 0 := by
  rw [bne_iff_ne, mask_ne_zero_iff]
  refine ⟨fun ⟨l, hl, h⟩ => ?_, fun ⟨l, ⟨hl, hact⟩, hv⟩ => ⟨l, hl, ?_⟩⟩
  · rw [getLsbD_votesOf act v hl, Bool.and_eq_true, decide_eq_true_eq] at h
    exact ⟨l, ⟨hl, h.1⟩, h.2⟩
  · rw [getLsbD_votesOf act v hl, hact, decide_eq_true hv]; rfl

theorem votesOf_eq_mask : (votesOf act v == act) = true ↔ ∀ l, (l < 64 ∧ act.getLsbD l = true) → v l ≠ 0 := by
  rw [beq_iff_eq]
  refine ⟨fun h l ⟨hl, hact⟩ => ?_, fun h => BitVec.eq_of_getLsbD_eq fun l hl => ?_⟩
  · have hbit := getLsbD_votesOf act v hl
    rw [h, hact] at hbit
    simpa using hbit.symm
  · rw [getLsbD_votesOf act v hl]
    cases hact : act.getLsbD l with
    | false => rfl
    | true => rw [decide_eq_true (h l ⟨hl, hact⟩)]; rfl

theorem mem_valuesOf (x : W32) : x ∈ valuesOf act v ↔ ∃ l, (l < 64 ∧ act.getLsbD l = true) ∧ v l = x := by
  simp only [valuesOf, List.mem_filterMap, List.mem_range, Option.ite_none_right_eq_some, Option.some.injEq, and_assoc]

/-- Values are all the first of them where they are equal to each other. -/
theorem valuesOf_equal : ((valuesOf act v).all fun x => x == (valuesOf act v).headD 0) = true ↔
    ∀ j k, (j < 64 ∧ act.getLsbD j = true) → (k < 64 ∧ act.getLsbD k = true) → v j = v k := by
  simp only [List.all_eq_true, beq_iff_eq]
  refine ⟨fun h j k hj hk => ?_, fun h x hx => ?_⟩
  · exact (h _ ((mem_valuesOf ..).2 ⟨j, hj, rfl⟩)).trans (h _ ((mem_valuesOf ..).2 ⟨k, hk, rfl⟩)).symm
  · obtain ⟨j, hj, rfl⟩ := (mem_valuesOf ..).1 hx
    cases hvals : valuesOf act v with
    | nil => rw [hvals] at hx; cases hx
    | cons y ys =>
      obtain ⟨k, hk, rfl⟩ := (mem_valuesOf act v y).1 (by rw [hvals]; exact List.mem_cons_self)
      exact h j k hj hk

end

/-- What a vote delivers to every lane. -/
def voteOf (mode : VMode) (act : Mask) (v : Nat → W32) : W64 :=
  match mode with
  | .ballot => votesOf act v
  | .any => bitW (votesOf act v != 0)
  | .all => bitW (votesOf act v == act)
  | .eq => bitW ((valuesOf act v).all fun x => x == (valuesOf act v).headD 0)

section
variable (act : Mask) (v : Nat → W32)

theorem voteOf_any : ((∃ l, (l < 64 ∧ act.getLsbD l = true) ∧ v l ≠ 0) → voteOf .any act v = 1) ∧
    (¬(∃ l, (l < 64 ∧ act.getLsbD l = true) ∧ v l ≠ 0) → voteOf .any act v = 0) := bitW_spec (votesOf_ne_zero act v)

theorem voteOf_all : ((∀ l, (l < 64 ∧ act.getLsbD l = true) → v l ≠ 0) → voteOf .all act v = 1) ∧
    (¬(∀ l, (l < 64 ∧ act.getLsbD l = true) → v l ≠ 0) → voteOf .all act v = 0) := bitW_spec (votesOf_eq_mask act v)

theorem voteOf_eq : ((∀ j k, (j < 64 ∧ act.getLsbD j = true) → (k < 64 ∧ act.getLsbD k = true) → v j = v k) → voteOf .eq act v = 1) ∧
    (¬(∀ j k, (j < 64 ∧ act.getLsbD j = true) → (k < 64 ∧ act.getLsbD k = true) → v j = v k) → voteOf .eq act v = 0) :=
  bitW_spec (valuesOf_equal act v)

end

/-- A word of the frame of R125 whose results come from one view of the lanes. -/
theorem frameRun_view (d : DestSpec) (n : Nat) (op : LaneCx → Nat → W64 × Flags) (c : LaneCx) (s : State) :
    frameRun d n (fun _ => op c) c s = frameRun d n op c s := rfl

theorem exec_vote (h : LaneHdr) (mode : VMode) (s : State) :
    exec (.vote h mode) s = laneWord (.vote h mode) s 0 fun c _ => (voteOf mode c.act (c.src32 c.h.a), 0) := by
  have hview := funext fun c => funext fun u => frameRun_view (destOf (.vote h mode)) 0 (fun c _ => (voteOf mode c.act (c.src32 c.h.a), 0)) c u
  have hword := congrArg (fun k => (Host.Outcome.next (laneGate (.vote h mode) s k) : Out)) hview
  cases mode <;> exact hword

/-! ## Shuffles (R153) -/

theorem ite_pair_fst {p : Prop} [Decidable p] (x y : W64) (f : Flags) :
    (p → (if p then (x, f) else (y, f)).1 = x) ∧ (¬p → (if p then (x, f) else (y, f)).1 = y) :=
  ⟨fun h => by rw [if_pos h], fun h => by rw [if_neg h]⟩

theorem ite_pair_snd {p : Prop} [Decidable p] (x y : W64) (f : Flags) : (if p then (x, f) else (y, f)).2 = f := by split <;> rfl

/-! ## O15 -/

/-- Settles O15: each word delivers what the model computes from the source lanes. -/
theorem laneExchange : Obligations.LaneExchange := by
  unfold Obligations.LaneExchange
  intro s b h t mode wrel vm sel c act on x v gives truth
  have word {i : Instr} {d : DestSpec} {op : LaneCx → Nat → W64 × Flags} {ok : Nat → W64 → Prop} (hi : exec i s = laneWord i s 0 op)
      (hd : destOf i = d) (hrun : ∀ n, d ≠ .run n) (hflags : ∀ l, (op c l).2 = 0) (hok : ∀ l < 64, ok l (op c l).1) : gives i d ok :=
    fun hready => ⟨fun l => (op c l).1, hok, laneGives_of_laneWord hready hi hd hrun hflags fun _ => sameResult_rfl⟩
  clear_value gives
  have h32 : ∀ n, DestSpec.v32 ≠ .run n := fun _ => DestSpec.noConfusion
  have h64 : ∀ n, DestSpec.v64 ≠ .run n := fun _ => DestSpec.noConfusion
  refine ⟨word rfl rfl (ofWide_ne_run t.wide) (fun l => ite_pair_snd ..) (fun l _ => ?_),
    word (exec_vote h .ballot s) rfl h64 (fun _ => rfl) fun l _ j hj => getLsbD_votesOf act v hj,
    fun hvm => word (exec_vote h vm s) ?_ h32 (fun _ => rfl) fun l _ => ?_, word rfl rfl h64 (fun _ => rfl) fun l _ j hj => ?_,
    word rfl rfl h32 (fun _ => rfl) fun l hl => ?_⟩
  · cases mode <;> exact ite_pair_fst ..
  · show (if vm = .ballot then DestSpec.v64 else .v32) = .v32
    rw [if_neg hvm]
  · have hval : voteOf vm c.act (c.src32 c.h.a) = voteOf vm act v := rfl
    dsimp only
    rw [hval]
    cases vm with
    | ballot => trivial
    | any => exact voteOf_any act v
    | all => exact voteOf_all act v
    | eq => exact voteOf_eq act v
  · have hbit := getLsbD_laneMask (fun j => act.getLsbD j && x j == x l) hj
    rw [beq_eq_decide] at hbit
    exact hbit
  · cases sel with
    | id => exact Nat.mod_eq_of_lt (show l < 2 ^ 64 by omega)
    | orig => exact BitVec.ofNat_toNat 64 (vget s.warp.origin l 0)
    | rank => exact (Nat.mod_eq_of_lt ((popBits_le act l).trans_lt (by omega))).trans (popBits_eq act l)
    | cnt => exact (Nat.mod_eq_of_lt ((popBits_le act 64).trans_lt (by decide))).trans (popBits_eq act 64)

end Sys2Proof
end

section
/-! SUPPORT. The loop of lane memory words (R161) where every lane is performed, and the registers that a lane load or store leaves (R79, R81, R168). -/

namespace Sys2Proof.Machine

/-! ## The loop of R161 -/

section
variable (check : State → Nat → LChk × State) (perform : State → Nat → LChk → Perf)

/-- A lane passes its checks and is performed, with a value or without one: it meets no poison and no late error. -/
def lanePerforms (u : State) (l : Nat) (o : Option Nat) (u' : State) : Prop :=
  ∃ k v, check u l = (k, v) ∧ perform v l k = ⟨u', o, false, false⟩ ∧ (∀ w, k ≠ .miss w) ∧ ∀ c d, k ≠ .cause c d

/-- The values that lanes deliver, by lane. -/
def laneVals (val : Nat → Option Nat) (ls : List Nat) : List (Nat × Nat) := ls.filterMap fun l => (val l).map (l, ·)

/-- A run of the loop in which the lanes of a list have been performed. -/
def performedRun (u : State) (val : Nat → Option Nat) (ls : List Nat) : LaneRun := ⟨u, ls, [], [], laneVals val ls, [], none⟩

variable {check perform}

theorem laneStep_performs {u u' : State} {l : Nat} {val : Nat → Option Nat} (h : lanePerforms check perform u l (val l) u') (ls : List Nat) :
    laneStep check perform (performedRun u val ls) l = performedRun u' val (ls ++ [l]) := by
  obtain ⟨k, v, hcheck, hperform, hmiss, hcause⟩ := h
  have hvals : laneVals val (ls ++ [l]) = laneVals val ls ++ ((val l).map (l, ·)).toList := by
    rw [laneVals, List.filterMap_append]
    cases hv : val l <;> simp [hv, laneVals]
  cases k with
  | miss w => exact absurd rfl (hmiss w)
  | cause c d => exact absurd rfl (hcause c d)
  | page | buffer =>
    rw [performedRun, performedRun, hvals]
    simp only [laneStep, Option.isSome_none, Bool.false_eq_true, if_false, hcheck, hperform]
    cases val l <;> simp

/-- Every lane of a list is performed where each is, in the state that those before it have left. -/
theorem foldl_laneStep {lanes : List Nat} {val : Nat → Option Nat} {I : List Nat → State → Prop}
    (hstep : ∀ d l r, lanes = d ++ l :: r → ∀ u, I d u → ∃ u', lanePerforms check perform u l (val l) u' ∧ I (d ++ [l]) u') (rest : List Nat) :
    ∀ (d : List Nat) (u : State), lanes = d ++ rest → I d u →
      ∃ u', I lanes u' ∧ rest.foldl (laneStep check perform) (performedRun u val d) = performedRun u' val lanes := by
  induction rest with
  | nil =>
    intro d u hd hu
    rw [List.append_nil] at hd
    subst hd
    exact ⟨u, hu, rfl⟩
  | cons l r ih =>
    intro d u hd hu
    obtain ⟨u', hperforms, hu'⟩ := hstep d l r hd u hu
    rw [List.foldl_cons, laneStep_performs hperforms]
    exact ih (d ++ [l]) u' (by rw [hd, List.append_assoc]; rfl) hu'

/-- A lane memory word all of whose lanes are performed writes what they deliver, and is done (R161). -/
theorem laneMem_performs {c : LaneCx} {s : State} {val : Nat → Option Nat} {I : List Nat → State → Prop}
    (hstep : ∀ d l r, c.todo = d ++ l :: r → ∀ u, I d u → ∃ u', lanePerforms check perform u l (val l) u' ∧ I (d ++ [l]) u') (hs : I [] s)
    (regs acc : Nat) (va : Nat → Nat) (last : State → State) :
    ∃ u, I c.todo u ∧ laneMem c s regs acc va check perform last =
      last (u.upd fun w => (w.putLoaded c.h regs (laneVals val c.todo)).laneDone) := by
  obtain ⟨u, hu, hrun⟩ := foldl_laneStep hstep c.todo [] s rfl hs
  refine ⟨u, hu, ?_⟩
  rw [laneMem, show (⟨s, [], [], [], [], [], none⟩ : LaneRun) = performedRun s val [] from rfl, hrun]
  rfl

end

/-! ## The lanes left (R161) -/

section
variable (s : State) (b : Block) (h : LaneHdr)

theorem todo_laneView : (laneView s b h).todo = lanesInOrder s b h := by
  refine List.filter_congr fun l hl => ?_
  rw [List.mem_range] at hl
  rw [lanesLeft, BitVec.getLsbD_and, BitVec.getLsbD_not, decide_eq_true hl, Bool.true_and]
  rfl

variable {s b h}

theorem mem_lanesInOrder {l : Nat} : l ∈ lanesInOrder s b h ↔ l < 64 ∧ (lanesLeft s b h).getLsbD l = true := by
  rw [lanesInOrder, List.mem_filter, List.mem_range]

theorem lanesOf_lanesInOrder : lanesOf (lanesInOrder s b h) = lanesLeft s b h := by
  refine BitVec.eq_of_getLsbD_eq fun l hl => ?_
  rw [lanesOf, getLsbD_laneMask _ hl, Bool.eq_iff_iff, List.contains_iff_mem, mem_lanesInOrder]
  exact and_iff_right hl

end

theorem lanesOf_single (l : Nat) : lanesOf [l] = laneBit l := by
  refine BitVec.eq_of_getLsbD_eq fun j hj => ?_
  rw [lanesOf, getLsbD_laneMask _ hj, laneBit, getLsbD_bit l j hj, Bool.eq_iff_iff, List.contains_iff_mem, decide_eq_true_eq,
    List.mem_singleton]

/-! ## What loaded values leave in the warp (R79, R81, R168) -/

theorem laneVals_some (v : Nat → Nat) (ls : List Nat) : laneVals (fun l => some (v l)) ls = ls.map fun l => (l, v l) :=
  congrFun List.filterMap_eq_map' ls

theorem laneVals_none (ls : List Nat) : laneVals (fun _ => none) ls = [] := by
  rw [laneVals, List.filterMap_eq_nil_iff]
  exact fun _ _ => rfl

/-- The value of a lane among loaded ones. -/
def loadedLane (vals : List (Nat × Nat)) (l : Nat) : Nat := ((vals.find? fun v => v.1 == l).map (·.2)).getD 0

theorem loadedLane_of_mem {v : Nat → Nat} {ls : List Nat} {l : Nat} (hl : l ∈ ls) : loadedLane (ls.map fun l => (l, v l)) l = v l := by
  induction ls with
  | nil => cases hl
  | cons j ls ih =>
    rw [List.map_cons, loadedLane]
    by_cases hj : j = l
    · rw [List.find?_cons_of_pos (by simp [hj]), hj]
      rfl
    · rw [List.find?_cons_of_neg (by simp [hj])]
      exact ih ((List.mem_cons.1 hl).resolve_left (Ne.symm hj))

section
variable (w : Warp)

/-- A lane of a register after a write of the selected lanes of a run of registers. -/
theorem vlane_foldl_putV (m : Mask) (d : Nat) (x : Nat → Nat → W32) {r l : Nat} (hr : r < 256) (hl : l < 64) (n : Nat) :
    ((List.range n).foldl (fun w j => w.putV (d + j) m (x j)) w).vlane r l =
      if m.getLsbD l = true ∧ d ≤ r ∧ r < d + n then x (r - d) l else w.vlane r l := by
  induction n with
  | zero => 
    have hnone : ¬(m.getLsbD l = true ∧ d ≤ r ∧ r < d + 0) := by omega
    rw [if_neg hnone]
    rfl
  | succ n ih =>
    rw [List.range_succ, List.foldl_append, List.foldl_cons, List.foldl_nil, vlane_putV _ _ _ hr hl, ih]
    by_cases hrn : r = d + n
    · subst hrn
      simp
    · have hiff : d ≤ r ∧ r < d + (n + 1) ↔ d ≤ r ∧ r < d + n := by omega
      simp only [hrn, false_and, if_false, hiff]

theorem foldl_putV_frame (m : Mask) (d : Nat) (x : Nat → Nat → W32) (n : Nat) :
    { (List.range n).foldl (fun w j => w.putV (d + j) m (x j)) w with v := w.v } = w := by
  induction n with
  | zero => rfl
  | succ n ih =>
    rw [List.range_succ, List.foldl_append]
    exact ih

end

/-- The registers of a warp after loaded values, before the latch. -/
def loadedRegs (w : Warp) (h : LaneHdr) (n : Nat) (vals : List (Nat × Nat)) : Warp :=
  if h.wbs then w
  else (List.range n).foldl (fun w j =>
    w.putV (h.dest.toNat + j) (lanesOf (vals.map (·.1))) fun l => BitVec.ofNat 32 (loadedLane vals l / 2 ^ (32 * j))) w

theorem putLoaded_eq (w : Warp) (h : LaneHdr) (n : Nat) (vals : List (Nat × Nat)) : w.putLoaded h n vals =
    h.latch.elim (loadedRegs w h n vals) fun k =>
      (loadedRegs w h n vals).putLatch k.toNat (lanesOf (vals.map (·.1))) fun l => BitVec.ofNat 32 (loadedLane vals l) := by
  unfold Warp.putLoaded
  dsimp only
  cases h.latch <;> rfl

section
variable {w : Warp} (h : LaneHdr) (n : Nat)

theorem loadedRegs_frame (vals : List (Nat × Nat)) : { loadedRegs w h n vals with v := w.v } = w := by
  unfold loadedRegs
  split
  · rfl
  · exact foldl_putV_frame w _ _ _ n

/-- Loaded values change lane registers and the latches of the open block alone. -/
theorem putLoaded_frame (vals : List (Nat × Nat)) : { w.putLoaded h n vals with v := w.v, block := w.block } = w := by
  have hregs : { loadedRegs w h n vals with v := w.v, block := w.block } = w :=
    congrArg (fun z : Warp => { z with block := w.block }) (loadedRegs_frame h n vals)
  rw [putLoaded_eq]
  cases h.latch with
  | none => exact hregs
  | some k => exact hregs

/-- Loading no value, to no latch, leaves the warp as it was. -/
theorem putLoaded_nil (hlatch : h.latch = none) : w.putLoaded h 0 [] = w := by
  rw [putLoaded_eq, hlatch, Option.elim_none]
  unfold loadedRegs
  split <;> rfl

variable (v : Nat → Nat) (ls : List Nat)

theorem map_fst_lanes : (ls.map fun l => (l, v l)).map (·.1) = ls := by
  rw [List.map_map]
  exact List.map_id ls

theorem mem_of_getLsbD_lanesOf {l : Nat} (hl : l < 64) (h : (lanesOf ls).getLsbD l = true) : l ∈ ls := by
  rw [lanesOf, getLsbD_laneMask _ hl] at h
  exact List.contains_iff_mem.1 h

/-- A loaded value stands in its lane of the registers that the word names. -/
theorem putLoaded_lanesHold :
    lanesHold (w.putLoaded h n (ls.map fun l => (l, v l))) w (lanesOf ls) h n fun j l => BitVec.ofNat 32 (v l / 2 ^ (32 * j)) := by
  intro r hr l hl
  have hregs : (w.putLoaded h n (ls.map fun l => (l, v l))).vlane r l = (loadedRegs w h n (ls.map fun l => (l, v l))).vlane r l := by
    rw [putLoaded_eq]
    cases h.latch <;> rfl
  rw [hregs, loadedRegs, map_fst_lanes]
  cases hw : h.wbs with
  | true => simp
  | false =>
    simp only [Bool.false_eq_true, if_false, true_and]
    rw [vlane_foldl_putV _ _ _ _ hr hl]
    split
    case isTrue hin =>
      obtain ⟨hmem, hlo, hhi⟩ := hin
      rw [loadedLane_of_mem (mem_of_getLsbD_lanesOf ls hl hmem)]
    case isFalse => rfl

/-- A loaded value stands in its lane of the latch that the word names. -/
theorem putLoaded_latchedBlock {b : Block} (hb : w.block = some b) :
    ∃ b', (w.putLoaded h n (ls.map fun l => (l, v l))).block = some b' ∧
      latchedBlock b' b b.lanePc (lanesOf ls) h.latch fun l => BitVec.ofNat 64 (v l) := by
  have hregs : (loadedRegs w h n (ls.map fun l => (l, v l))).block = some b :=
    (congrArg Warp.block (loadedRegs_frame h n _) :).trans hb
  rw [putLoaded_eq, map_fst_lanes]
  cases h.latch with
  | none => exact ⟨b, hregs, latchedBlock_refl ..⟩
  | some k =>
    have hlow (x : Nat) : (BitVec.ofNat 64 x).setWidth 32 = BitVec.ofNat 32 x := BitVec.setWidth_ofNat_of_le (by decide) x
    obtain ⟨b', hb', hpc, hframe, hlanes⟩ := putLatch_latchedBlock (m := lanesOf ls)
      (x := fun l => BitVec.ofNat 64 (loadedLane (ls.map fun l => (l, v l)) l)) hregs k
    simp only [hlow] at hb'
    refine ⟨b', hb', hpc, hframe, fun j => ?_⟩
    obtain ⟨halive, hlane⟩ := hlanes j
    refine ⟨halive, fun l hl => (hlane l hl).trans ?_⟩
    split
    case isTrue hin =>
      dsimp only
      rw [loadedLane_of_mem (mem_of_getLsbD_lanesOf ls hl hin.2)]
    case isFalse => rfl

end

/-! ## Lane loads and stores that are done (R161) -/

section
variable {t s : State} {b : Block} {h : LaneHdr} {n : Nat} {regs : List Nat} (hb : s.warp.block = some b)
include hb

theorem touch_block : (s.warp.touch regs).block = some b := (congrArg Warp.block (touch_frame regs) :).trans hb

/-- A warp whose word has loaded a value in each lane left, and is done. -/
theorem lanesLoaded_of_warp (v : Nat → Nat)
    (ht : t.warp = ((s.warp.touch regs).putLoaded h n ((lanesInOrder s b h).map fun l => (l, v l))).laneDone) : lanesLoaded t s b h n v := by
  have hframe := putLoaded_frame (w := s.warp.touch regs) h n ((lanesInOrder s b h).map fun l => (l, v l))
  have hold := putLoaded_lanesHold (w := s.warp.touch regs) h n v (lanesInOrder s b h)
  obtain ⟨b', hb', hlatched⟩ := putLoaded_latchedBlock h n v (lanesInOrder s b h) (touch_block (regs := regs) hb)
  rw [lanesOf_lanesInOrder] at hold hlatched
  generalize (s.warp.touch regs).putLoaded h n ((lanesInOrder s b h).map fun l => (l, v l)) = u at ht hframe hold hb' hlatched
  have hmasks : { u with v := (s.warp.touch regs).v, m := (s.warp.touch regs).m, block := (s.warp.touch regs).block } = s.warp.touch regs :=
    congrArg (fun z : Warp => { z with m := (s.warp.touch regs).m }) hframe
  have hdone := laneDone_plain_frame hmasks
  refine ⟨fun r hr l hl => ?_, blockAfter_laneDone ht hb' hlatched, ?_, ?_, ?_, ht ▸ onlyLanes_laneDone hmasks hb'⟩
  · have hnew := hold r hr l hl
    rw [show (s.warp.touch regs).vlane r l = s.warp.vlane r l from (congrArg (·.vlane r l) (touch_frame regs) :)] at hnew
    rw [ht]
    exact (congrArg (·.vlane r l) (Warp.laneDone_frame u) :).trans hnew
  · rw [ht]
    exact ((congrArg Warp.m (Warp.laneDone_frame u) :).trans (congrArg Warp.m hframe :)).trans (congrArg Warp.m (touch_frame regs) :)
  · rw [ht]
    exact (congrArg Warp.draws hdone :)
  · rw [ht]
    exact (congrArg Warp.fpxFlags hdone :)

/-- A warp whose word has stored, and is done. -/
theorem lanesStored_of_warp (hlatch : h.latch = none) (ht : t.warp = ((s.warp.touch regs).putLoaded h 0 []).laneDone) : lanesStored t s b := by
  rw [putLoaded_nil h hlatch] at ht
  have hb' := touch_block (regs := regs) hb
  have hdone := laneDone_plain_frame (w := s.warp) (u := s.warp.touch regs) (regs := regs) rfl
  have hframe := (Warp.laneDone_frame (s.warp.touch regs))
  refine ⟨blockAfter_laneDone ht hb' (latchedBlock_refl b 0 _), ?_, ?_, ?_, ?_, ht ▸ onlyLanes_laneDone rfl hb'⟩
  · rw [ht]
    exact (congrArg Warp.v hframe :).trans (congrArg Warp.v (touch_frame regs) :)
  · rw [ht]
    exact (congrArg Warp.m hframe :).trans (congrArg Warp.m (touch_frame regs) :)
  · rw [ht]
    exact (congrArg Warp.draws hdone :)
  · rw [ht]
    exact (congrArg Warp.fpxFlags hdone :)

end

end Sys2Proof.Machine
end

section
/-! SUPPORT. The values and items of a `SHADOW` pair in the loop of R161 (R198, R199), the loads of typed buffers, and O22. -/

namespace Sys2Proof.Machine

/-! ## What the loop leaves in the load value queue and the items (R198, R199) -/

/-- The load value queue with the values of the lanes `d` put in by the leading warp, or with those of the lanes `r` still to be taken by the shadow. -/
def lvqAfter (s : State) (found y : Nat → Nat) (rest : List LvqVal) (d r : List Nat) : List LvqVal :=
  if s.warp.isShadowed = false then s.lvq
  else if s.shadowRun = true then r.map (fun l => .known (y l)) ++ rest
  else s.lvq ++ d.map fun l => .known (found l)

/-- The value that a lane receives: what it found, or what the shadow takes from the queue. -/
def lvqGiven (s : State) (found y : Nat → Nat) (l : Nat) : Nat := if s.warp.isShadowed = true ∧ s.shadowRun = true then y l else found l

/-- The item of a lane load. -/
def loadItem (va : Nat → Nat) (l : Nat) : Item := ⟨1, [va l], laneBit l, va l⟩

/-- The queue holds what the shadow takes. -/
def lvqHolds (s : State) (y : Nat → Nat) (rest : List LvqVal) (lanes : List Nat) : Prop :=
  s.warp.isShadowed = true → s.shadowRun = true → s.lvq = lanes.map (fun l => .known (y l)) ++ rest

section
variable {s u : State} {found y : Nat → Nat} {rest : List LvqVal} {d r : List Nat}

theorem lvqAfter_nil {lanes : List Nat} (h : lvqHolds s y rest lanes) : lvqAfter s found y rest [] lanes = s.lvq := by
  unfold lvqAfter
  split
  · rfl
  next hsh =>
    split
    case isTrue hrun => exact (h (Bool.eq_true_of_not_eq_false hsh) hrun).symm
    case isFalse => exact List.append_nil _

theorem logged_nil : logged s [] = s.items := by
  unfold logged
  split
  · exact List.append_nil _
  · rfl

/-- A lane's value passes through the queue; a shadow takes the queue's whatever it found itself. -/
theorem viaLvq_lane {l x : Nat} (hw : u.warp.isShadowed = s.warp.isShadowed) (hr : u.shadowRun = s.shadowRun)
    (hq : u.lvq = lvqAfter s found y rest d (l :: r)) (hx : ¬(s.warp.isShadowed = true ∧ s.shadowRun = true) → x = found l) :
    u.viaLvq x = (lvqGiven s found y l, { u with lvq := lvqAfter s found y rest (d ++ [l]) r }) := by
  unfold State.viaLvq lvqGiven
  unfold lvqAfter at hq ⊢
  rw [hw, hr]
  cases hs : s.warp.isShadowed with
  | false =>
    simp only [hs, if_true] at hq
    rw [hx fun h => Bool.false_ne_true (hs.symm.trans h.1)]
    simp only [Bool.false_eq_true, false_and, if_false, if_true, ← hq]
    rw [← hr]
  | true =>
    cases hrun : s.shadowRun with
    | true =>
      simp only [hs, hrun, Bool.true_eq_false, if_false, if_true, List.map_cons, List.cons_append] at hq
      simp only [hq, and_self, if_true, Bool.true_eq_false, if_false]
    | false =>
      simp only [hs, hrun, Bool.true_eq_false, Bool.false_eq_true, if_false] at hq
      rw [hx fun h => Bool.false_ne_true (hrun.symm.trans h.2)]
      simp only [hq, Bool.false_eq_true, and_false, Bool.true_eq_false, if_false, if_true, List.append_assoc, List.map_append, List.map_cons,
        List.map_nil]

theorem itemAt_lane {va : Nat → Nat} {l : Nat} (hw : u.warp.isShadowed = s.warp.isShadowed) (hi : u.items = logged s (d.map (loadItem va))) :
    u.itemAt 1 [va l] (lanesOf [l]) (va l) = { u with items := logged s ((d ++ [l]).map (loadItem va)) } := by
  rw [lanesOf_single, List.map_append]
  unfold State.itemAt
  unfold logged at hi ⊢
  rw [hw]
  cases hs : s.warp.isShadowed with
  | false => rw [if_neg (by decide), if_neg (by decide), ← show u.items = s.items from hi.trans (if_neg (by simp [hs]))]
  | true =>
    rw [if_pos rfl, if_pos rfl, hi, if_pos hs, List.append_assoc]
    rfl

end

/-! ## Loads of typed buffers (R168, R198) -/

section
variable (s : State)

theorem touch_isShadowed (regs : List Nat) : (s.upd (·.touch regs)).warp.isShadowed = s.warp.isShadowed :=
  (congrArg Warp.isShadowed (touch_frame (w := s.warp) regs) :)

theorem touch_behind (regs : List Nat) : (s.upd (·.touch regs)).behind = s.behind :=
  (congrArg (fun w : Warp => w.isShadowed && s.shadowAlone) (touch_frame (w := s.warp) regs) :)

theorem touch_unconfirmed (regs : List Nat) : (s.upd (·.touch regs)).unconfirmed = s.unconfirmed :=
  (congrArg (fun w : Warp => { s with warp := w }.unconfirmed) (touch_frame (w := s.warp) regs) :)

theorem touch_bufSeen (regs : List Nat) (g : Nat) (a : BufAddr) : (s.upd (·.touch regs)).bufSeen g a = s.bufSeen g a := by
  rw [State.bufSeen, touch_unconfirmed]
  rfl

variable {s}

theorem bufSeen_eq (h : s.unconfirmed = []) (g : Nat) (a : BufAddr) : s.bufSeen g a = s.bufMem g a := by
  rw [State.bufSeen, h]
  rfl

/-- A word on typed buffers that finds no slip in the reservation tables, and no atomic to be confirmed, waits for nothing; nor does a shadow. -/
theorem afterSlips_passes {c : LaneCx} {writes : Bool} (h : s.behind = true ∨ s.slips = [] ∧ (writes = false → s.unconfirmed = [])) (n : Nat)
    (check : Nat → LChk) (k : State → State) : c.afterSlips s writes n check k = k s := by
  unfold LaneCx.afterSlips
  split
  · rfl
  next hb =>
    obtain ⟨hslips, hun⟩ := h.resolve_left hb
    refine if_neg fun hwaits => ?_
    rcases (Bool.or_eq_true_iff.1 hwaits) with hatomic | hslip
    · cases writes with
      | true => cases hatomic
      | false => rw [hun rfl] at hatomic; cases hatomic
    · obtain ⟨l, -, hl⟩ := List.any_eq_true.1 hslip
      split at hl
      · rw [hslips] at hl; cases hl
      · cases hl

end

/-- The state in the loop of a lane load whose lanes `d` have been performed and whose lanes `r` have not: nothing but the pair's queue and items is changed. -/
def loadsDone (s : State) (va found y : Nat → Nat) (rest : List LvqVal) (d r : List Nat) : State :=
  { s with items := logged s (d.map (loadItem va)), lvq := lvqAfter s found y rest d r }

section
variable {s : State} {va y : Nat → Nat} {rest : List LvqVal} {d r : List Nat} {g n l : Nat} {ad : Nat → BufAddr}

/-- What a lane of a buffer load finds. -/
def bufFound (s : State) (g n : Nat) (ad : Nat → BufAddr) (l : Nat) : Nat := bytesToNat ((s.bufSeen g (ad l)).read (ad l).off n)

/-- A lane of a buffer load receives its value. -/
theorem bufLoad_lane (h : s.behind = true ∨ (s.bufSeen g (ad l)).poisoned (ad l).off n = false) :
    (loadsDone s va (bufFound s g n ad) y rest d (l :: r)).bufLoad g (ad l) n (lanesOf [l]) (va l) =
      ⟨loadsDone s va (bufFound s g n ad) y rest (d ++ [l]) r, some (lvqGiven s (bufFound s g n ad) y l), false, false⟩ := by
  have hclean : (!s.behind && (s.bufSeen g (ad l)).poisoned (ad l).off n) = false := by
    cases h with
    | inl hb => rw [hb]; rfl
    | inr hp => rw [hp, Bool.and_false]
  unfold State.bufLoad
  rw [itemAt_lane (u := loadsDone s va (bufFound s g n ad) y rest d (l :: r)) (s := s) (d := d) rfl rfl]
  refine (if_neg (ne_true_of_eq_false hclean)).trans ?_
  have hvia := viaLvq_lane (u := { loadsDone s va (bufFound s g n ad) y rest d (l :: r) with items := logged s ((d ++ [l]).map (loadItem va)) })
    (s := s) (found := bufFound s g n ad) (l := l) rfl rfl rfl fun _ => rfl
  exact congrArg (fun p : Nat × State => (⟨p.2, some p.1, false, false⟩ : Perf)) hvia

end

section
variable {c : LaneCx} {s : State} {va y : Nat → Nat} {rest : List LvqVal} {ad : Nat → BufAddr} {g n : Nat}
  {check : State → Nat → LChk × State} {f : Nat → Nat}

/-- A load word on typed buffers whose lanes pass their checks delivers the bytes, or the values that the shadow takes. -/
theorem bufferWord_loads (hpass : s.behind = true ∨ s.slips = [] ∧ s.unconfirmed = []) (hqueue : lvqHolds s y rest c.todo)
    (hcheck : ∀ l ∈ c.todo, ∀ u : State, u.behind = s.behind → u.crews = s.crews → check u l = (.buffer (ad l), u))
    (hclean : ∀ l ∈ c.todo, s.behind = true ∨ (s.bufSeen g (ad l)).poisoned (ad l).off n = false) (regs : Nat) :
    bufferWord c s regs accRead n va check (fun s l a => (s.bufLoad g a n (lanesOf [l]) (va l)).map f) =
      (loadsDone s va (bufFound s g n ad) y rest c.todo []).upd fun w =>
        (w.putLoaded c.h regs (c.todo.map fun l => (l, f (lvqGiven s (bufFound s g n ad) y l)))).laneDone := by
  rw [bufferWord, afterSlips_passes (hpass.imp_right fun h => ⟨h.1, fun _ => h.2⟩)]
  have hstart : loadsDone s va (bufFound s g n ad) y rest [] c.todo = s := by
    unfold loadsDone
    rw [List.map_nil, logged_nil, lvqAfter_nil hqueue]
  obtain ⟨u, ⟨r, hr, rfl⟩, hmem⟩ := laneMem_performs (c := c) (s := s) (check := check)
    (perform := fun s l k => match k with
      | .buffer a => (s.bufLoad g a n (lanesOf [l]) (va l)).map f
      | _ => ⟨s, none, false, false⟩)
    (val := fun l => some (f (lvqGiven s (bufFound s g n ad) y l)))
    (I := fun d u => ∃ r, c.todo = d ++ r ∧ u = loadsDone s va (bufFound s g n ad) y rest d r)
    (fun d l r hd u ⟨r', hr', hu⟩ => by
      obtain rfl : r' = l :: r := List.append_cancel_left (hr'.symm.trans hd)
      have hl : l ∈ c.todo := by rw [hd]; exact List.mem_append_right _ (List.mem_cons_self ..)
      subst hu
      exact ⟨loadsDone s va (bufFound s g n ad) y rest (d ++ [l]) r,
        ⟨.buffer (ad l), _, hcheck l hl _ rfl rfl, congrArg (Perf.map · f) (bufLoad_lane (hclean l hl)), nofun, nofun⟩,
        r, hd.trans (List.append_assoc d [l] r).symm, rfl⟩)
    ⟨c.todo, rfl, hstart.symm⟩ regs accRead va id
  obtain rfl : r = [] := List.append_right_eq_self.1 hr.symm
  rw [laneVals_some] at hmem
  exact hmem

end

/-- A load word on typed buffers whose lanes pass their checks is done. -/
theorem bufferLoad_completes {i : Instr} {s : State} {b : Block} {h : LaneHdr} {y : Nat → Nat} {rest : List LvqVal} {ad : Nat → BufAddr} {n regs : Nat}
    {check : LaneCx → State → Nat → LChk × State} {f : Nat → Nat} (hready : laneReady i s b h)
    (hexec : exec i s = .next (laneGate i s fun c s => bufferWord c s regs accRead n c.sa (check c)
      fun s l a => (s.bufLoad c.w.ident.grid a n (lanesOf [l]) (c.sa l)).map f))
    (hpass : s.behind = true ∨ s.slips = [] ∧ s.unconfirmed = [])
    (hqueue : lvqHolds s y rest (lanesInOrder s b h))
    (hcheck : ∀ l ∈ lanesInOrder s b h, ∀ u : State, u.behind = s.behind → u.crews = s.crews → check (laneView s b h) u l = (.buffer (ad l), u))
    (hclean : ∀ l ∈ lanesInOrder s b h, s.behind = true ∨ (s.bufSeen s.warp.ident.grid (ad l)).poisoned (ad l).off n = false) :
    completes i s fun u => lanesLoaded u s b h regs (fun l => f (lvqGiven s (bufFound s s.warp.ident.grid n ad) y l)) ∧
      u.lvq = lvqAfter s (bufFound s s.warp.ident.grid n ad) y rest (lanesInOrder s b h) [] ∧
      u.items = logged s ((lanesInOrder s b h).map (loadItem (laneView s b h).sa)) ∧
      { u with warp := s.warp, items := s.items, lvq := s.lvq } = s := by
  obtain ⟨touched, hgate⟩ := laneGate_ready hready fun c s => bufferWord c s regs accRead n c.sa (check c)
      fun s l a => (s.bufLoad c.w.ident.grid a n (lanesOf [l]) (c.sa l)).map f
  have hsh := touch_isShadowed s touched
  have hfound : bufFound (s.upd (·.touch touched)) s.warp.ident.grid n ad = bufFound s s.warp.ident.grid n ad := by
    funext l
    rw [bufFound, touch_bufSeen, bufFound]
  have hgiven : lvqGiven (s.upd (·.touch touched)) (bufFound s s.warp.ident.grid n ad) y = lvqGiven s (bufFound s s.warp.ident.grid n ad) y := by
    funext l
    rw [lvqGiven, hsh, lvqGiven]
    rfl
  have hword := bufferWord_loads (c := laneView s b h) (s := s.upd (·.touch touched)) (va := (laneView s b h).sa) (y := y) (rest := rest) (ad := ad)
    (g := s.warp.ident.grid) (n := n) (check := check (laneView s b h)) (f := f) (by rwa [touch_behind, touch_unconfirmed])
    (by rw [todo_laneView]; unfold lvqHolds; rw [hsh]; exact hqueue)
    (fun l hl u hu hc => hcheck l (todo_laneView s b h ▸ hl) u (hu.trans (touch_behind s touched)) hc)
    (fun l hl => by rw [touch_behind, touch_bufSeen]; exact hclean l (todo_laneView s b h ▸ hl)) regs
  rw [hfound, hgiven, todo_laneView] at hword
  refine ⟨_, hexec.trans (congrArg Host.Outcome.next (hgate.trans hword)), lanesLoaded_of_warp (regs := touched) hready.1 _ rfl, ?_, ?_, rfl⟩
  · show lvqAfter (s.upd (·.touch touched)) _ _ _ _ _ = _
    rw [lvqAfter, hsh]
    rfl
  · show logged (s.upd (·.touch touched)) _ = _
    rw [logged, hsh]
    rfl

/-! ## The checks of typed buffers (R159 to R161, R168), and loaded values as their registers hold them (R167) -/

section
variable {s u : State} {w : Warp} {n a : Nat}

/-- The crews stand on the same cores in two states. -/
def sameCores (u s : State) : Prop := ∀ g k, (u.crew? g k).map Crew.core = (s.crew? g k).map Crew.core

theorem sameCores_of_crews (h : u.crews = s.crews) : sameCores u s := fun g k => by rw [State.crew?, State.crew?, h]

/-- What a scratchpad address names depends on where the crews stand alone (R160). -/
theorem scratch_congr (h : sameCores u s) (w : Warp) (a : Nat) (writes atomic : Bool) : u.scratch w a writes atomic = s.scratch w a writes atomic := by
  have hrank (r : Nat) : u.crewAtRank w r = s.crewAtRank w r := by
    have hcore (x : State) : x.crewAtRank w r = if r < w.ident.crews then
        ((x.crew? w.ident.grid (w.ident.team * w.ident.crews + r)).map Crew.core).elim none fun core =>
          if core.isSome ∨ w.ident.team * w.ident.crews + r = w.ident.crew then some (w.ident.team * w.ident.crews + r) else none else none := by
      unfold State.crewAtRank
      dsimp only
      cases x.crew? w.ident.grid (w.ident.team * w.ident.crews + r) <;> rfl
    rw [hcore u, hcore s, h]
  simp only [State.scratch, hrank]

theorem scratchCheck_ok {x : BufAddr} {writes atomic : Bool} (halign : a % n = 0) (hb : u.behind = false) (hcores : sameCores u s)
    (hx : s.scratch w a writes atomic = .ok x) : u.scratchCheck w n a writes atomic = (.buffer x, u) := by
  rw [State.scratchCheck, if_neg (not_not_intro halign), if_neg (ne_true_of_eq_false hb), scratch_congr hcores, hx]

theorem scratchCheck_behind {writes atomic : Bool} (halign : a % n = 0) (hb : u.behind = true) :
    u.scratchCheck w n a writes atomic = (.buffer ⟨w.ident.crew, bitsOf a 21 2, a % 2 ^ 19⟩, u) := by
  rw [State.scratchCheck, if_neg (not_not_intro halign), if_pos hb]

theorem ownCheck_ok {buf : Nat} (halign : a % n = 0) (ha : a < 2 ^ 19) : u.ownCheck w buf n a = (.buffer ⟨w.ident.crew, buf, a⟩, u) := by
  rw [State.ownCheck, if_neg (not_not_intro halign), if_neg (show ¬Config.bufBytes ≤ a from Nat.not_le_of_lt ha)]

end

theorem extend_eq (t : MTy) (m : Nat) : t.extend m =
    if (t = .i8 ∨ t = .i16) ∧ 2 ^ (8 * t.bytes - 1) ≤ m then 2 ^ 32 - 2 ^ (8 * t.bytes) + m else m := by
  have hnarrow (k : Nat) (hk : k ≤ 2 ^ 32) (lim : Nat) : (if m < lim then m else m + (2 ^ 32 - k)) = if lim ≤ m then 2 ^ 32 - k + m else m := by
    split <;> split <;> omega
  cases t with
  | i8 => simpa [MTy.extend, MTy.bytes] using hnarrow 256 (by decide) 128
  | i16 => simpa [MTy.extend, MTy.bytes] using hnarrow 65536 (by decide) 32768
  | n8 | n16 | b32 | n64 => simp [MTy.extend]

theorem regs_eq (t : MTy) : t.regs = if t = .n64 then 2 else 1 := by cases t <;> rfl

theorem bufFound_eq {s : State} {g n : Nat} {ad : Nat → BufAddr} (h : s.unconfirmed = []) (l : Nat) :
    bufFound s g n ad l = bytesToNat ((s.bufMem g (ad l)).read (ad l).off n) := by rw [bufFound, bufSeen_eq h]

theorem lvqGiven_plain {s : State} {found y : Nat → Nat} {l : Nat} (h : s.warp.isShadowed = false) : lvqGiven s found y l = found l :=
  if_neg fun hs => Bool.false_ne_true (h.symm.trans hs.1)

theorem lvqHolds_plain {s : State} {y : Nat → Nat} {rest : List LvqVal} {lanes : List Nat} (h : s.warp.isShadowed = false) : lvqHolds s y rest lanes :=
  fun hs => absurd hs (ne_true_of_eq_false h)

/-- A load of typed buffers outside `SHADOW` launches changes the warp alone. -/
theorem onlyWarp_of_plain {s u : State} {found y : Nat → Nat} {rest : List LvqVal} {lanes d r : List Nat} {va : Nat → Nat}
    (hs : s.warp.isShadowed = false) (hq : u.lvq = lvqAfter s found y rest d r) (hi : u.items = logged s (lanes.map (loadItem va)))
    (hframe : { u with warp := s.warp, items := s.items, lvq := s.lvq } = s) : onlyWarp u s := by
  rw [lvqAfter, if_pos hs] at hq
  rw [logged, if_neg (ne_true_of_eq_false hs)] at hi
  rw [← hq, ← hi] at hframe
  exact hframe

end Sys2Proof.Machine

namespace Sys2Proof

open Sys2Proof.Machine

/-- Settles O22: a lane finds the bytes of its buffer, which no word of the loop changes. -/
theorem bufferLoads : Obligations.BufferLoads := by
  unfold Obligations.BufferLoads
  intro s b h t buf cnt ad ⟨hs, _, hslips⟩ c g loads
  have hb := behind_plain hs
  have hun := unconfirmed_plain hs
  have word {i : Instr} {n regs : Nat} {extend : Bool} {at' : Nat → BufAddr → Prop} {check : LaneCx → State → Nat → LChk × State} {f : Nat → Nat}
      (hexec : exec i s = .next (laneGate i s fun c s => bufferWord c s regs accRead n c.sa (check c)
        fun s l a => (s.bufLoad c.w.ident.grid a n (lanesOf [l]) (c.sa l)).map f))
      (hcheck : ∀ l a (u : State), c.sa l % n = 0 → at' l a → u.behind = false → u.crews = s.crews → check c u l = (.buffer a, u))
      (hf : ∀ m, f m = if extend = true ∧ (t = .i8 ∨ t = .i16) ∧ 2 ^ (8 * n - 1) ≤ m then 2 ^ 32 - 2 ^ (8 * n) + m else m) :
      loads i n regs extend at' := by
    intro hready hlanes
    have hlane {l : Nat} (hl : l ∈ lanesInOrder s b h) := hlanes l (mem_lanesInOrder.1 hl).1 (mem_lanesInOrder.1 hl).2
    obtain ⟨u, hu, hloaded, hq, hi, hframe⟩ := bufferLoad_completes (y := fun _ => 0) (rest := []) (ad := ad) hready hexec (.inr ⟨hslips, hun⟩)
      (lvqHolds_plain hs)
      (fun l hl u hu hc => hcheck l (ad l) u (hlane hl).1 (hlane hl).2.1 (hu.trans hb) hc)
      (fun l hl => .inr (by rw [bufSeen_eq hun]; exact (hlane hl).2.2))
    refine ⟨u, hu, onlyWarp_of_plain hs hq hi hframe, _, hloaded, fun l _ _ => ?_⟩
    dsimp only
    rw [lvqGiven_plain hs, bufFound_eq hun]
    exact hf _
  constructor
  · refine word (i := .lds h t) (n := t.bytes) (extend := true) (at' := fun l a => s.scratch s.warp (c.sa l) false false = .ok a)
      (f := t.extend) (check := fun c s l => s.scratchCheck c.w t.bytes (c.sa l) false false) ?_ ?_ fun m => ?_
    · rw [← regs_eq]
      rfl
    · exact fun l a u hal hat hu hc => scratchCheck_ok hal hu (sameCores_of_crews hc) hat
    · simpa using extend_eq t m
  · refine word (i := .ldb h t buf cnt) (extend := cnt == .x1) (at' := fun l a => c.sa l < 2 ^ 19 ∧ a = ⟨s.warp.ident.crew, buf.num, c.sa l⟩)
      (f := fun x => if cnt = .x1 then t.extend x else x)
      (check := fun c s l => s.ownCheck c.w buf.num (t.bytes * cnt.num) (c.sa l)) rfl ?_ fun m => ?_
    · rintro l a u hal ⟨hlt, rfl⟩ - -
      exact ownCheck_ok hal hlt
    · cases cnt with
      | x1 => simpa [Cnt.num] using extend_eq t m
      | x2 | x4 => simp

end Sys2Proof
end

section
/-! SUPPORT. Stores whose highest lane prevails (R161), the bytes of typed buffers after the lanes of a word (R168), and O23. -/

namespace Sys2Proof.Machine

/-! ## The highest lane prevails (R161) -/

/-- A byte after the lanes of a list have stored in order: as before where none of them covers it, and else that of the highest that does. -/
def settledBy (covers : Nat → Prop) (val : Nat → Byte) (before after : Byte) (d : List Nat) : Prop :=
  ((∀ l ∈ d, ¬covers l) → after = before) ∧ ∀ l ∈ d, covers l → (∀ j ∈ d, l < j → ¬covers j) → after = val l

section
variable {covers : Nat → Prop} {val : Nat → Byte} {before after : Byte} {d : List Nat}

theorem settledBy_nil : settledBy covers val before before [] := ⟨fun _ => rfl, nofun⟩

theorem settledBy_append {l : Nat} (h : settledBy covers val before after d) (hd : ∀ j ∈ d, j < l) {new : Byte}
    (hnew : (covers l → new = val l) ∧ (¬covers l → new = after)) : settledBy covers val before new (d ++ [l]) := by
  obtain ⟨hbefore, htop⟩ := h
  refine ⟨fun hnone => ?_, fun j hj hcovers hhighest => ?_⟩
  · rw [hnew.2 (hnone l (by simp)), hbefore fun j hj => hnone j (List.mem_append_left _ hj)]
  · rcases List.mem_append.1 hj with hj | hj
    · rw [hnew.2 (hhighest l (by simp) (hd j hj)), htop j hj hcovers fun k hk => hhighest k (List.mem_append_left _ hk)]
    · obtain rfl := List.mem_singleton.1 hj
      exact hnew.1 hcovers

end

/-- A lane stands behind those before it in the order of the word. -/
theorem todo_ascends {c : LaneCx} {d r : List Nat} {l : Nat} (h : c.todo = d ++ l :: r) {j : Nat} (hj : j ∈ d) : j < l := by
  have hsorted : c.todo.Pairwise (· < ·) := List.pairwise_lt_range.filter _
  rw [h, List.pairwise_append] at hsorted
  exact hsorted.2.2 j hj l (List.mem_cons_self ..)

/-! ## Stores to typed buffers (R168) -/

theorem scratch_buf {s : State} {w : Warp} {a : Nat} {writes atomic : Bool} {x : BufAddr} (h : s.scratch w a writes atomic = .ok x) : x.buf < 3 := by
  have hlt : bitsOf a 21 2 < 4 := Nat.mod_lt _ (by decide)
  unfold State.scratch at h
  dsimp only at h
  split at h
  · cases h
  · split at h
    · cases h
    next h3 =>
      split at h
      · cases h
      · split at h
        · cases h
        · cases h
          exact Nat.lt_of_le_of_ne (Nat.le_of_lt_succ hlt) h3

theorem buf_num_lt (q : Buf) : q.num < 3 := by cases q <;> decide

theorem sameCores_setBufMem (s : State) (g : Nat) (a : BufAddr) (m : Mem) : sameCores (s.setBufMem g a m) s := by
  intro g' k
  rw [State.setBufMem, State.crew?_modCrew s g a.crew fun x => x.setBuf_id a.buf m]
  split
  · rw [Option.map_map]
    refine congrArg (Option.map · _) (funext fun x => ?_)
    show (x.setBuf a.buf m).core = x.core
    unfold Crew.setBuf
    split
    · rfl
    · split <;> rfl
  · rfl

/-- A lane of a store covers a byte of a buffer. -/
def bufCovers (ad : Nat → BufAddr) (n k : Nat) (q : Buf) (o l : Nat) : Prop :=
  (ad l).crew = k ∧ (ad l).buf = q.num ∧ (ad l).off ≤ o ∧ o < (ad l).off + n

/-- The state in the loop of a buffer store whose lanes `d` have been performed: they have stored in order, and nothing but buffers has changed. -/
def storesDone (s : State) (g n : Nat) (ad : Nat → BufAddr) (data : Nat → Nat → Byte) (d : List Nat) (u : State) : Prop :=
  { u with crews := s.crews } = s ∧ sameCores u s ∧ ∀ k (q : Buf) o,
    settledBy (bufCovers ad n k q o) (fun l => data l (o - (ad l).off)) ((s.bufMem g ⟨k, q.num, 0⟩).byte o) ((u.bufMem g ⟨k, q.num, 0⟩).byte o) d

section
variable {s u : State} {g n l : Nat} {ad : Nat → BufAddr} {data : Nat → Nat → Byte} {d : List Nat} {bs : List Byte}

theorem storesDone_nil : storesDone s g n ad data [] s := ⟨rfl, fun _ _ => rfl, fun _ _ _ => settledBy_nil⟩

/-- A lane stores its bytes. -/
theorem storesDone_append (h : storesDone s g n ad data d u) (hd : ∀ j ∈ d, j < l) (hbuf : (ad l).buf < 3) (hcrew : s.crew? g (ad l).crew ≠ none)
    (hlen : bs.length = n) (hbs : ∀ j < n, bs.getD j 0 = data l j) :
    storesDone s g n ad data (d ++ [l]) (u.setBufMem g (ad l) ((u.bufMem g (ad l)).write (ad l).off bs)) := by
  obtain ⟨hframe, hcores, hbytes⟩ := h
  refine ⟨hframe, fun g' k => (sameCores_setBufMem u g (ad l) _ g' k).trans (hcores g' k), fun k q o => settledBy_append (hbytes k q o) hd ?_⟩
  have hcrew' : u.crew? g (ad l).crew ≠ none := fun hnone => by
    have hc := hcores g (ad l).crew
    rw [hnone, Option.map_none, eq_comm, Option.map_eq_none_iff] at hc
    exact hcrew hc
  rw [State.bufMem_setBufMem u g (ad l) _ g ⟨k, q.num, 0⟩ hbuf (buf_num_lt q)]
  by_cases hsame : (ad l).crew = k ∧ (ad l).buf = q.num
  · obtain ⟨rfl, hq⟩ := hsame
    rw [if_pos ⟨rfl, rfl, hq.symm, hcrew'⟩, Mem.byte_write, hlen]
    refine ⟨fun ⟨_, _, hlo, hhi⟩ => ?_, fun hnot => ?_⟩
    · rw [if_pos ⟨hlo, hhi⟩]
      exact hbs _ (by omega)
    · rw [if_neg fun hin => hnot ⟨rfl, hq, hin⟩, ← hq]
      rfl
  · rw [if_neg fun hin => hsame ⟨hin.2.1.symm, hin.2.2.1.symm⟩]
    exact ⟨fun hin => absurd ⟨hin.1, hin.2.1⟩ hsame, fun _ => rfl⟩

end

/-- A store word on typed buffers whose lanes pass their checks stores its lanes in order. -/
theorem bufferWord_stores {c : LaneCx} {s : State} {va : Nat → Nat} {ad : Nat → BufAddr} {g n : Nat} {check : State → Nat → LChk × State}
    {bs : Nat → List Byte} {data : Nat → Nat → Byte} (hs : s.warp.isShadowed = false) (hslips : s.slips = [])
    (hcheck : ∀ l ∈ c.todo, ∀ u : State, u.behind = false → sameCores u s → check u l = (.buffer (ad l), u))
    (hat : ∀ l ∈ c.todo, (ad l).buf < 3 ∧ s.crew? g (ad l).crew ≠ none)
    (hdata : ∀ l ∈ c.todo, (bs l).length = n ∧ ∀ j < n, (bs l).getD j 0 = data l j) :
    ∃ u, storesDone s g n ad data c.todo u ∧
      bufferWord c s 0 accWrite n va check (fun s l a => s.bufStore g a (bs l) (lanesOf [l]) (va l)) =
        u.upd fun w => (w.putLoaded c.h 0 []).laneDone := by
  rw [bufferWord, afterSlips_passes (.inr ⟨hslips, fun _ => unconfirmed_plain hs⟩)]
  obtain ⟨u, hu, hmem⟩ := laneMem_performs (c := c) (s := s) (check := check)
    (perform := fun s l k => match k with
      | .buffer a => s.bufStore g a (bs l) (lanesOf [l]) (va l)
      | _ => ⟨s, none, false, false⟩)
    (val := fun _ => none) (I := storesDone s g n ad data)
    (fun d l r hd u hu => by
      have hl : l ∈ c.todo := by rw [hd]; exact List.mem_append_right _ (List.mem_cons_self ..)
      have hsu : u.warp.isShadowed = false := (congrArg (fun z : State => z.warp.isShadowed) hu.1).trans hs
      have hperform : u.bufStore g (ad l) (bs l) (lanesOf [l]) (va l) =
          ⟨u.setBufMem g (ad l) ((u.bufMem g (ad l)).write (ad l).off (bs l)), none, false, false⟩ := by
        rw [State.bufStore, u.itemAt_plain _ _ _ _ hsu, u.itemAt_plain _ _ _ _ hsu]
        exact if_neg (ne_true_of_eq_false hsu)
      exact ⟨_, ⟨.buffer (ad l), u, hcheck l hl u (behind_plain hsu) hu.2.1, hperform, nofun, nofun⟩,
        storesDone_append hu (fun j => todo_ascends hd) (hat l hl).1 (hat l hl).2 (hdata l hl).1 (hdata l hl).2⟩)
    storesDone_nil 0 accWrite va id
  rw [laneVals_none] at hmem
  exact ⟨u, hu, hmem⟩

/-! ## The data of stores (R168) -/

theorem getD_natToBytes (n : Nat) : ∀ x j, j < n → (natToBytes n x).getD j 0 = BitVec.ofNat 8 (x / 256 ^ j) := by
  induction n with
  | zero => exact fun _ _ h => absurd h (Nat.not_lt_zero _)
  | succ n ih =>
    intro x j hj
    cases j with
    | zero => simp [natToBytes]
    | succ j =>
      rw [natToBytes, List.getD_cons_succ, ih _ j (Nat.lt_of_succ_lt_succ hj), Nat.div_div_eq_div_mul, Nat.pow_succ']

/-- The bytes that a store takes of a register. -/
theorem getD_natToBytes_toNat {w : Nat} (x : BitVec w) {n j : Nat} (hj : j < n) : (natToBytes n x.toNat).getD j 0 = x.extractLsb' (8 * j) 8 := by
  rw [getD_natToBytes n _ j hj]
  refine BitVec.eq_of_toNat_eq ?_
  rw [BitVec.toNat_ofNat, BitVec.extractLsb'_toNat, Nat.shiftRight_eq_div_pow, Nat.pow_mul]

section
variable {c : LaneCx} {t : MTy} {cnt : Cnt} {l : Nat}

theorem stbData_one : stbData c t .x1 l = natToBytes t.bytes (c.src t.wide c.h.b l).toNat := by
  cases hb : c.h.b <;> simp [stbData, hb]

/-- The registers of a run hold the bytes of a store of it. -/
theorem bytes_bufRun {n : Nat} (h : bufRun t cnt = some n) (hcnt : cnt ≠ .x1) : t.bytes * cnt.num = n * 4 := by
  cases cnt with
  | x1 => exact absurd rfl hcnt
  | x2 | x4 => cases t <;> cases h <;> rfl

theorem stbData_run {r : BitVec 8} {n : Nat} (hb : c.h.b = .v r) (hrun : bufRun t cnt = some n) (hcnt : cnt ≠ .x1) :
    stbData c t cnt l = (List.range n).flatMap fun j => natToBytes 4 (c.w.vlane (r.toNat + j) l).toNat := by
  cases cnt with
  | x1 => exact absurd rfl hcnt
  | x2 | x4 => simp [stbData, hb, hrun]

theorem getD_registers {w : Warp} {r n : Nat} {j : Nat} (hj : j < n * 4) :
    ((List.range n).flatMap fun j => natToBytes 4 (w.vlane (r + j) l).toNat).getD j 0 = (w.vlane (r + j / 4) l).extractLsb' (8 * (j % 4)) 8 := by
  have hlen : ∀ i < n, (natToBytes 4 (w.vlane (r + i) l).toNat).length = 4 := fun i _ => length_natToBytes ..
  have hget := getElem?_flatMap_range (j := j % 4) hlen (Nat.div_lt_of_lt_mul (by rwa [Nat.mul_comm] at hj)) (Nat.mod_lt j (by decide))
  rw [Nat.mul_comm, Nat.div_add_mod] at hget
  rw [List.getD_eq_getElem?_getD, hget, ← List.getD_eq_getElem?_getD]
  exact getD_natToBytes_toNat _ (Nat.mod_lt j (by decide))

end

end Sys2Proof.Machine

namespace Sys2Proof

open Sys2Proof.Machine

/-- A word without a destination writes no latch (R79). -/
theorem latch_of_wf {i : Instr} {h : LaneHdr} {sh : LaneShape} {own : Bool} (hwf : i.wf = true) (hshape : i.laneShape = some (h, sh, own))
    (hdest : sh.dest = .none) : h.latch = none := by
  have hfits : sh.fits h = true := by
    rw [Instr.wf, hshape] at hwf
    exact (Bool.and_eq_true_iff.1 hwf).1
  rw [LaneShape.fits, hdest] at hfits
  simp only [Bool.and_eq_true, destOk, Option.isNone_iff_eq_none] at hfits
  exact hfits.1.1.2.2

/-- The source of `stb` for more than one element is a run of lane registers (R168). -/
theorem stb_run {h : LaneHdr} {t : MTy} {buf : Buf} {cnt : Cnt} (hwf : (Instr.stb h t buf cnt).wf = true) (hcnt : cnt ≠ .x1) :
    ∃ r n, h.b = .v r ∧ bufRun t cnt = some n := by
  obtain ⟨hfits, hown⟩ := Bool.and_eq_true_iff.1 hwf
  obtain ⟨n, hn⟩ := Option.isSome_iff_exists.1 hown
  simp only [LaneShape.fits, Bool.and_eq_true] at hfits
  have hsrc := hfits.1.1.1.1.2
  have hrun : srcOk h.imm (.run n) h.b = true := by
    cases cnt with
    | x1 => exact absurd rfl hcnt
    | x2 | x4 => simpa only [hn] using hsrc
  cases hb : h.b with
  | v r => exact ⟨r, n, rfl, hn⟩
  | b _ | s _ | imm _ =>
    rw [hb] at hrun
    cases hrun

/-- Settles O23: the lanes store in order, each over its own bytes, so that of the lanes that cover a byte the highest prevails. -/
theorem bufferStores : Obligations.BufferStores := by
  unfold Obligations.BufferStores
  intro s b h t buf cnt ad ⟨hs, _, hslips⟩ htask c g left stores
  have word {i : Instr} {n : Nat} {at' : Nat → BufAddr → Prop} {data : Nat → Nat → Byte} {check : LaneCx → State → Nat → LChk × State}
      {bs : LaneCx → Nat → List Byte}
      (hexec : exec i s = .next (laneGate i s fun c s => c.noTask s fun s => bufferWord c s 0 accWrite n c.sa (check c)
        fun s l a => s.bufStore c.w.ident.grid a (bs c l) (lanesOf [l]) (c.sa l)))
      (hshape : ∀ h' sh own, i.laneShape = some (h', sh, own) → sh.dest = .none)
      (hcheck : ∀ l a, c.sa l % n = 0 → at' l a → a.buf < 3 ∧ ∀ u : State, u.behind = false → sameCores u s → check c u l = (.buffer a, u))
      (hdata : i.wf = true → ∀ l, (bs c l).length = n ∧ ∀ j < n, (bs c l).getD j 0 = data l j) : stores i n at' data := by
    intro hready hlanes covers
    obtain ⟨hblock, hwf, sh, own, hi, -⟩ := id hready
    have hlane {l : Nat} (hl : l ∈ c.todo) := hlanes l (mem_lanesInOrder.1 (todo_laneView s b h ▸ hl))
    obtain ⟨touched, hgate⟩ := laneGate_ready hready fun c s => c.noTask s fun s => bufferWord c s 0 accWrite n c.sa (check c)
        fun s l a => s.bufStore c.w.ident.grid a (bs c l) (lanesOf [l]) (c.sa l)
    have hno (k : State → State) : c.noTask (s.upd (·.touch touched)) k = k (s.upd (·.touch touched)) := by
      have htask' : (s.upd (·.touch touched)).warp.task = none := (congrArg Warp.task (touch_frame touched) :).trans htask
      rw [LaneCx.noTask, htask']
      rfl
    obtain ⟨u, ⟨hframe, -, hbytes⟩, hword⟩ := bufferWord_stores (c := c) (s := s.upd (·.touch touched)) (va := c.sa) (g := g) (bs := bs c)
      ((touch_isShadowed s touched).trans hs) hslips
      (fun l hl u hb hcores => (hcheck l (ad l) (hlane hl).1 (hlane hl).2.1).2 u hb hcores)
      (fun l hl => ⟨(hcheck l (ad l) (hlane hl).1 (hlane hl).2.1).1, (hlane hl).2.2⟩) (fun l _ => hdata hwf l)
    have hdone : exec i s = .next (u.upd fun w => (w.putLoaded c.h 0 []).laneDone) :=
      hexec.trans (congrArg Host.Outcome.next (hgate.trans ((hno _).trans hword)))
    have hwarp : u.warp = s.warp.touch touched := (congrArg State.warp hframe :)
    refine ⟨_, hdone, lanesStored_of_warp (regs := touched) hblock (latch_of_wf hwf hi (hshape _ _ _ hi)) ?_,
      (congrArg (fun z : State => { z with warp := s.warp }) hframe :), fun k q o => ?_⟩
    · show ((u.warp.putLoaded h 0 []).laneDone) = _
      rw [hwarp]
    · have hleft (l : Nat) : l ∈ c.todo ↔ left l := by rw [todo_laneView, mem_lanesInOrder]
      obtain ⟨hbefore, htop⟩ := hbytes k q o
      refine ⟨fun hnone => hbefore fun l hl hcov => hnone l ⟨(hleft l).1 hl, hcov⟩, fun l ⟨hl, hcov⟩ hhigh =>
        htop l ((hleft l).2 hl) hcov fun j hj hlt hcov' => hhigh j hlt ⟨(hleft j).1 hj, hcov'⟩⟩
  clear_value stores
  constructor
  · apply word (i := .sts h t) (at' := fun l a => s.scratch s.warp (c.sa l) true false = .ok a)
      (check := fun c s l => s.scratchCheck c.w t.bytes (c.sa l) true false)
      (bs := fun c l => natToBytes t.bytes (c.src t.wide c.h.b l).toNat) rfl
    · rintro _ _ _ ⟨⟩
      rfl
    · exact fun l a hal hat => ⟨scratch_buf hat, fun u hb hcores => scratchCheck_ok hal hb hcores hat⟩
    · exact fun _ l => ⟨length_natToBytes .., fun j hj => getD_natToBytes_toNat _ hj⟩
  · apply word (i := .stb h t buf cnt) (at' := fun l a => c.sa l < 2 ^ 19 ∧ a = ⟨s.warp.ident.crew, buf.num, c.sa l⟩)
      (check := fun c s l => s.ownCheck c.w buf.num (t.bytes * cnt.num) (c.sa l)) (bs := fun c l => stbData c t cnt l) rfl
    · rintro _ _ _ ⟨⟩
      rfl
    · rintro l a hal ⟨hlt, rfl⟩
      exact ⟨buf_num_lt buf, fun u _ _ => ownCheck_ok hal hlt⟩
    · intro hwf l
      by_cases hcnt : cnt = .x1
      · subst hcnt
        simp only [stbData_one, if_true, Cnt.num, Nat.mul_one]
        exact ⟨length_natToBytes .., fun j hj => getD_natToBytes_toNat _ hj⟩
      · obtain ⟨r, n, hb, hrun⟩ := stb_run hwf hcnt
        simp only [stbData_run (c := c) hb hrun hcnt, if_neg hcnt, hb, bytes_bufRun hrun hcnt]
        exact ⟨length_flatMap_range fun i _ => length_natToBytes .., fun j hj => getD_registers hj⟩

end Sys2Proof
end

section
/-! SUPPORT. What the lanes of a generic load leave and read: leaves that are marked already, the cache, the carrel and the read set (R161, R264, R311, R318). -/

namespace Sys2Proof.Machine

/-! ## States that read the same memory -/

/-- A state that the lanes of a load have gone through: device memory reads the same and its poison stands where it stood; the warp apart, only what
holds those bytes, requests, counters, items and the load value queue may differ. -/
structure ReadsAs (u s : State) : Prop where
  frame : { u with warp := s.warp, dev := s.dev, tags := s.tags, fills := s.fills, migCounts := s.migCounts, migDies := s.migDies,
                   items := s.items, lvq := s.lvq } = s
  bytes : ∀ a, u.devByte a = s.devByte a
  poison : u.dev.poison = s.dev.poison

section
variable {u s : State} (h : ReadsAs u s)
include h

theorem ReadsAs.hostMem : u.hostMem = s.hostMem := (congrArg State.hostMem h.frame :)
theorem ReadsAs.cdc : u.cdc = s.cdc := (congrArg State.cdc h.frame :)
theorem ReadsAs.shadowRun : u.shadowRun = s.shadowRun := (congrArg State.shadowRun h.frame :)

theorem ReadsAs.devRead (n : Nat) (a : Nat) : u.devRead a n = s.devRead a n := by
  rw [devRead_eq_map, devRead_eq_map]
  exact List.map_congr_left fun x _ => h.bytes x

theorem ReadsAs.placeRead (p : Place) (a n : Nat) : u.placeRead p a n = s.placeRead p a n := by
  cases p with
  | device => exact h.devRead n a
  | host => exact congrArg (Mem.read · a n) h.hostMem
  | remote => rfl

theorem ReadsAs.placePoisoned (p : Place) (a n : Nat) : u.placePoisoned p a n = s.placePoisoned p a n := by
  cases p with
  | device => exact congrArg (fun l => { s.dev with poison := l }.poisoned a n) h.poison
  | host => exact (congrArg (State.placePoisoned · .host a n) h.frame :)
  | remote => rfl

/-- Translations depend on the bytes of the tables, the owners of frames and the partitions (R331). -/
theorem ReadsAs.walk (p va : Nat) (level : Nat) : ∀ table, u.walk p va level table = s.walk p va level table := by
  have hfault (table : Nat) : u.tableFault table = s.tableFault table := (congrArg (State.tableFault · table) h.frame :)
  have hleaf (leaf e : Nat) : u.leafEnd p va leaf e = s.leafEnd p va leaf e := (congrArg (State.leafEnd · p va leaf e) h.frame :)
  induction level with
  | zero =>
    intro table
    unfold State.walk
    simp only [hfault, h.devRead, hleaf]
  | succ level ih =>
    intro table
    unfold State.walk
    simp only [hfault, h.devRead, hleaf, ih]

theorem ReadsAs.xlate (p va : Nat) : u.xlate p va = s.xlate p va := by
  have hpart : u.part p = s.part p := (congrArg (State.part · p) h.frame :)
  rw [State.xlate, State.xlate, h.walk, hpart]

end

theorem readsAs_refl (s : State) : ReadsAs s s := ⟨rfl, fun _ => rfl, rfl⟩

theorem ReadsAs.trans {v u s : State} (h : ReadsAs v u) (h' : ReadsAs u s) : ReadsAs v s where
  frame := by
    have hv := congrArg (fun z : State => { z with warp := s.warp, dev := s.dev, tags := s.tags, fills := s.fills, migCounts := s.migCounts,
                                                   migDies := s.migDies, items := s.items, lvq := s.lvq }) h.frame
    exact hv.trans h'.frame
  bytes a := (h.bytes a).trans (h'.bytes a)
  poison := h.poison.trans h'.poison

/-- A state with what the load of a lane changes besides the leaf. -/
def laneRead (u : State) (w : Warp) (f : List CdcLine) (c e : Tab Nat) (l : List Item) (q : List LvqVal) : State :=
  { u with warp := w, fills := f, migCounts := c, migDies := e, items := l, lvq := q }

theorem readsAs_laneRead {u : State} {w : Warp} {f : List CdcLine} {c e : Tab Nat} {l : List Item} {q : List LvqVal} :
    ReadsAs (laneRead u w f c e l q) u := ⟨rfl, fun _ => rfl, rfl⟩

/-- Marking a leaf whose A bit is set changes no byte (R334). -/
theorem readsAs_markLeaf {s : State} {leaf : Nat} (hA : (s.devByte (leaf + 1)).getLsbD 0 = true) : ReadsAs (s.markLeaf leaf false) s := by
  obtain ⟨m, t, hm, hpoison⟩ := markLeaf_cases s leaf false
  refine ⟨by rw [hm], fun a => ?_, by rw [hm]; exact hpoison⟩
  show (s.devSetByte (leaf + 1) (s.devByte (leaf + 1) ||| 1)).devByte a = _
  rw [devByte_devSetByte]
  split
  next ha =>
    subst ha
    refine BitVec.eq_of_getLsbD_eq fun i hi => ?_
    rw [BitVec.getLsbD_or]
    cases i with
    | zero => rw [hA]; rfl
    | succ i => simp [BitVec.getLsbD_one]
  · rfl

end Sys2Proof.Machine
end

section
/-! SUPPORT. One lane of a generic load (R161, R198, R264, R311, R318). -/

namespace Sys2Proof.Machine

/-! ## The read set (R318) -/

section
variable (w : Warp)

theorem taskRead_frame (p : Place) (pa : Nat) : { w.taskRead p pa with task := w.task } = w := by
  unfold Warp.taskRead
  split
  next t ht =>
    split
    · rfl
    · rfl
  · rfl

theorem taskRead_task (p : Place) (pa : Nat) : (w.taskRead p pa).task.map Task.carrel = w.task.map Task.carrel := by
  unfold Warp.taskRead
  split
  next t ht =>
    split
    · rfl
    · rw [ht]
      exact congrArg some (congrArg Task.carrel (sized_frame _) :)
  · rfl

/-- A warp with the lines of some lanes in the read set of its task. -/
def taskReads (tr : Nat → Trans) (ls : List Nat) : Warp := ls.foldl (fun w l => w.taskRead (tr l).place (tr l).pa) w

variable {w} {tr : Nat → Trans}

theorem taskReads_append (ls : List Nat) (l : Nat) : taskReads w tr (ls ++ [l]) = (taskReads w tr ls).taskRead (tr l).place (tr l).pa := by
  rw [taskReads, List.foldl_append]
  rfl

theorem taskReads_frame (ls : List Nat) : { taskReads w tr ls with task := w.task } = w := by
  induction ls using List.reverseRecOn with
  | nil => rfl
  | append_singleton ls l ih =>
    rw [taskReads_append]
    exact (congrArg (fun z : Warp => { z with task := w.task }) (taskRead_frame (taskReads w tr ls) _ _)).trans ih

theorem taskReads_task (ls : List Nat) : (taskReads w tr ls).task.map Task.carrel = w.task.map Task.carrel := by
  induction ls using List.reverseRecOn with
  | nil => rfl
  | append_singleton ls l ih => rw [taskReads_append, taskRead_task, ih]

theorem taskReads_plain (h : w.task = none) (ls : List Nat) : taskReads w tr ls = w := by
  have hnone := taskReads_task (w := w) (tr := tr) ls
  rw [h, Option.map_none, Option.map_eq_none_iff] at hnone
  have hframe := taskReads_frame (w := w) (tr := tr) ls
  rw [h, ← hnone] at hframe
  exact hframe

theorem taskReads_buffered (ls : List Nat) : (taskReads w tr ls).buffered = w.buffered := by
  have hdet : (taskReads w tr ls).det = w.det := (congrArg Warp.det (taskReads_frame ls) :)
  have htask := congrArg Option.isSome (taskReads_task (w := w) (tr := tr) ls)
  rw [Option.isSome_map, Option.isSome_map] at htask
  rw [Warp.buffered, Warp.buffered, hdet, htask]

theorem taskReads_entries (ls : List Nat) : (taskReads w tr ls).entries = w.entries := by
  have hcarrel : (taskReads w tr ls).carrel = w.carrel := (congrArg Warp.carrel (taskReads_frame ls) :)
  have htask := taskReads_task (w := w) (tr := tr) ls
  have hentries (w : Warp) : w.entries = (w.task.map Task.carrel).getD w.carrel := by
    unfold Warp.entries
    cases w.task <;> rfl
  rw [hentries, hentries w, htask, hcarrel]

end

/-- The read set after the lines of some lanes have joined it, while the carrel has room (R318). -/
theorem taskReads_readSet {w : Warp} {k : Task} (hk : w.task = some k) {tr : Nat → Trans} (ls : List Nat)
    (hroom : carrelCount k.carrel + k.readSet.length + ls.length ≤ 2048) :
    ∃ k', (taskReads w tr ls).task = some k' ∧ { k' with readSet := k.readSet } = k ∧ k'.readSet.length ≤ k.readSet.length + ls.length ∧
      ∀ y, y ∈ k'.readSet ↔ y ∈ k.readSet ∨ ∃ l ∈ ls, y = ((tr l).place, (tr l).pa / 128) := by
  induction ls using List.reverseRecOn with
  | nil => exact ⟨k, hk, rfl, Nat.le_refl _, by simp⟩
  | append_singleton ls l ih =>
    rw [List.length_append, List.length_singleton] at hroom ⊢
    obtain ⟨k', hk', hframe, hlen, hmem⟩ := ih (by omega)
    have hcarrel : k'.carrel = k.carrel := (congrArg Task.carrel hframe :)
    rw [taskReads_append, Warp.taskRead, hk']
    dsimp only
    by_cases hin : ((tr l).place, (tr l).pa / 128) ∈ k'.readSet
    · rw [if_pos (List.contains_iff_mem.2 hin)]
      refine ⟨k', hk', hframe, by omega, fun y => ⟨fun hy => ?_, ?_⟩⟩
      · rcases (hmem y).1 hy with hy | ⟨j, hj, hy⟩
        · exact .inl hy
        · exact .inr ⟨j, List.mem_append_left _ hj, hy⟩
      · rintro (hy | ⟨j, hj, rfl⟩)
        · exact (hmem y).2 (.inl hy)
        · rcases List.mem_append.1 hj with hj | hj
          · exact (hmem _).2 (.inr ⟨j, hj, rfl⟩)
          · rwa [List.mem_singleton.1 hj]
    · rw [if_neg fun hc => hin (List.contains_iff_mem.1 hc)]
      have hsized : ({ k' with readSet := k'.readSet ++ [((tr l).place, (tr l).pa / 128)] } : Task).sized =
          { k' with readSet := k'.readSet ++ [((tr l).place, (tr l).pa / 128)] } := by
        refine if_neg (Nat.not_lt.2 ?_)
        show carrelCount k'.carrel + (k'.readSet ++ [((tr l).place, (tr l).pa / 128)]).length ≤ 2048
        rw [hcarrel, List.length_append, List.length_singleton]
        omega
      refine ⟨_, congrArg some hsized, hframe, ?_, fun y => ?_⟩
      · show (k'.readSet ++ [((tr l).place, (tr l).pa / 128)]).length ≤ _
        rw [List.length_append, List.length_singleton]
        omega
      · show y ∈ k'.readSet ++ [((tr l).place, (tr l).pa / 128)] ↔ _
        rw [List.mem_append, hmem, List.mem_singleton]
        constructor
        · rintro ((hy | ⟨j, hj, hy⟩) | hy)
          · exact .inl hy
          · exact .inr ⟨j, List.mem_append_left _ hj, hy⟩
          · exact .inr ⟨l, by simp, hy⟩
        · rintro (hy | ⟨j, hj, hy⟩)
          · exact .inl (.inl hy)
          · rcases List.mem_append.1 hj with hj | hj
            · exact .inl (.inr ⟨j, hj, hy⟩)
            · exact .inr (List.mem_singleton.1 hj ▸ hy)

/-! ## The bytes of a carrel that holds stores alone (R311) -/

/-- The byte that a store of a carrel gives at an address. -/
def storedByte (p : Place) (a : Nat) (e : CarrelEnt) : Option Byte :=
  match e with
  | .store q lo bs _ _ _ => if q = p ∧ lo ≤ a ∧ a < lo + bs.length then some (bs.getD (a - lo) 0) else none
  | _ => none

theorem ownByte_eq (s : State) (p : Place) (a : Nat) : ownByte s p a =
    (s.warp.entries.reverse.findSome? (storedByte p a)).getD (if p = .device then s.devByte a else s.hostMem.byte a) := rfl

/-- The last store that reaches a byte gives it. -/
theorem overlay_stores {es : List CarrelEnt} (hes : ∀ e ∈ es, ∃ q a bs t m va, e = .store q a bs t m va) (p : Place) (base : Nat) (win : List Byte) :
    overlay es p base win =
      (List.range win.length).map fun i => (es.reverse.findSome? (storedByte p (base + i))).getD (win.getD i 0) := by
  induction es using List.reverseRecOn with
  | nil =>
    refine List.ext_getElem (by simp [overlay]) fun i hi _ => ?_
    have hi' : i < win.length := hi
    simp [overlay, hi']
  | append_singleton es e ih =>
    obtain ⟨q, a, bs, t, m, va, rfl⟩ := hes e (by simp)
    have hih := ih fun e he => hes e (List.mem_append_left _ he)
    have hstep : overlay (es ++ [.store q a bs t m va]) p base win =
        if q = p then patchAt base (overlay es p base win) a bs else overlay es p base win := by
      rw [overlay, List.foldl_append]
      rfl
    rw [hstep, List.reverse_append, List.reverse_singleton, List.singleton_append]
    simp only [List.findSome?_cons]
    by_cases hq : q = p
    · rw [if_pos hq, patchAt, hih]
      refine List.ext_getElem (by simp) fun i hi _ => ?_
      have hi' : i < win.length := by simpa using hi
      by_cases hin : a ≤ base + i ∧ base + i < a + bs.length
      · simp [storedByte, hq, hin]
      · simp [storedByte, hq, hin, hi']
    · rw [if_neg hq, hih]
      refine List.map_congr_left fun i _ => ?_
      rw [show storedByte p (base + i) (.store q a bs t m va) = none from if_neg fun hin => hq hin.1]

/-- The bytes that a load of the current warp finds at home: those that its carrel leaves. -/
def foundBytes (s : State) (p : Place) (pa n : Nat) : List Byte :=
  if s.warp.buffered then (List.range n).map fun j => ownByte s p (pa + j) else s.placeRead p pa n

/-- Part of a window as the carrel's stores leave it. -/
theorem overlay_within {s : State} {p : Place} {pa n : Nat} (hes : ∀ e ∈ s.warp.entries, ∃ q a bs t m va, e = .store q a bs t m va)
    (hp : p ≠ .remote) (h : pa % 8 + n ≤ 8) :
    ((overlay s.warp.entries p (pa / 8 * 8) (s.placeRead p (pa / 8 * 8) 8)).drop (pa % 8)).take n =
      (List.range n).map fun j => ownByte s p (pa + j) := by
  have hbyte (i : Nat) (hi : i < 8) : (s.placeRead p (pa / 8 * 8) 8).getD i 0 =
      if p = .device then s.devByte (pa / 8 * 8 + i) else s.hostMem.byte (pa / 8 * 8 + i) := by
    cases p with
    | device => exact devRead_getD _ hi
    | host => exact Mem.read_getD _ _ _ _ hi
    | remote => exact absurd rfl hp
  have hlen : (s.placeRead p (pa / 8 * 8) 8).length = 8 := by
    cases p with
    | device => rfl
    | host => exact Mem.read_length ..
    | remote => rfl
  rw [overlay_stores hes, hlen]
  refine List.ext_getElem (by simp; omega) fun j hj _ => ?_
  have hj' : j < n := by simp at hj; omega
  have hpa : pa / 8 * 8 + (pa % 8 + j) = pa + j := by omega
  simp only [List.getElem_take, List.getElem_drop, List.getElem_map, List.getElem_range]
  rw [hbyte _ (by omega), hpa, ← ownByte_eq]

/-! ## A load at its home (R264, R320) -/

theorem cdcAtomic_home {s : State} {p : Place} {pa : Nat} (h : cdcFind s.cdc (s.clusterOf s.warp) p (pa / 128) = none) :
    ∃ f, s.cdcAtomic p pa = { s with fills := f } := by
  refine ⟨s.fills.filter fun x => !(x.cluster == s.clusterOf s.warp && x.place == p && x.line == pa / 128), ?_⟩
  have hcdc : (s.cdc.filter fun x => !(x.cluster == s.clusterOf s.warp && x.place == p && x.line == pa / 128)) = s.cdc := by
    refine List.filter_eq_self.2 fun x hx => ?_
    rw [Bool.not_eq_true']
    exact Bool.eq_false_iff.2 fun hit => List.find?_eq_none.1 h x hx hit
  exact congrArg (fun c => { s with cdc := c, fills := s.fills.filter fun x => !(x.cluster == s.clusterOf s.warp && x.place == p && x.line == pa / 128) }) hcdc

theorem firstRead_home {s : State} {tr : Trans} (h : cdcFind s.cdc (s.clusterOf s.warp) tr.place (tr.pa / 128) = none) :
    ∃ f, s.firstRead tr = { s with fills := f } := by
  unfold State.firstRead
  split
  · exact cdcAtomic_home h
  · exact ⟨s.fills, rfl⟩

/-- A load of bytes that stand at their home without poison gives them as the warp's own stores leave them, asks for their line, and adds it to the
read set. -/
theorem loadHome_home {s : State} {tr : Trans} {n : Nat} (hint : Nat) (hn : n ≠ 0) (hpa : tr.pa % 8 + n ≤ 8) (hb : s.behind = false)
    (hun : s.unconfirmed = []) (hes : s.warp.buffered = true → ∀ e ∈ s.warp.entries, ∃ q a bs t m va, e = .store q a bs t m va)
    (hp : tr.place ≠ .remote) (hh : atHome s tr n) :
    ∃ f, s.loadHome tr n hint = (foundBytes s tr.place tr.pa n, false,
      laneRead s (s.warp.taskRead tr.place tr.pa) f s.migCounts s.migDies s.items s.lvq) := by
  obtain ⟨hclean, hcopy⟩ := hh
  obtain ⟨f, hf⟩ := firstRead_home hcopy
  obtain ⟨f', hf'⟩ := cdcTouch_cases { s with fills := f } tr hint
  have hread : { s with fills := f }.cdcRead { tr with pa := tr.pa / 8 * 8 } 8 = (s.placeRead tr.place (tr.pa / 8 * 8) 8, false) := by
    have hhome := cdcRead_home (s := { s with fills := f }) (tr := tr) (tr.pa / 8 * 8) (by omega) hcopy
    rw [placePoisoned_granule _ tr.place hn hpa] at hhome
    refine hhome.trans (Prod.ext ?_ hclean)
    cases tr.place <;> [exact (readsAs_laneRead (u := s)).placeRead .device _ _; rfl; rfl]
  have hb' : { s with fills := f }.behind = false := hb
  have hun' : { s with fills := f }.unconfirmed = [] := hun
  refine ⟨f', ?_⟩
  unfold State.loadHome foundBytes
  rw [hf]
  dsimp only
  rw [hb', hun', hf', hread]
  cases hbuf : s.warp.buffered with
  | true =>
    have hwithin := overlay_within (s := s) (hes hbuf) hp hpa
    simp only [Bool.false_eq_true, if_false, if_true, hwithin, Bool.false_and]
    rfl
  | false =>
    have hwithin := placeRead_within s tr.place (tr.pa / 8 * 8) hpa
    rw [show tr.pa / 8 * 8 + tr.pa % 8 = tr.pa by omega] at hwithin
    simp only [Bool.false_eq_true, if_false, Bool.false_and, show overlay (memHeld []) tr.place (tr.pa / 8 * 8)
      (s.placeRead tr.place (tr.pa / 8 * 8) 8) = s.placeRead tr.place (tr.pa / 8 * 8) 8 from rfl, hwithin]
    rfl

/-- A shadow's load meets no poison (R198). -/
theorem loadHome_behind {s : State} (tr : Trans) (n hint : Nat) (hb : s.behind = true) (hbuf : s.warp.buffered = false) :
    ∃ bs f, s.loadHome tr n hint = (bs, false, laneRead s (s.warp.taskRead tr.place tr.pa) f s.migCounts s.migDies s.items s.lvq) := by
  obtain ⟨-, htask⟩ := buffered_eq_false hbuf
  have hfirst : s.firstRead tr = s := by rw [State.firstRead, htask]; rfl
  obtain ⟨f, hf⟩ := cdcTouch_cases s tr hint
  unfold State.loadHome
  rw [hfirst]
  dsimp only
  rw [hf, hb]
  exact ⟨_, f, rfl⟩

/-! ## A lane of a generic load (R161, R198) -/

section
variable {s u : State} {va found y : Nat → Nat} {rest : List LvqVal} {d r : List Nat} {l n : Nat} {tr : Trans}
  (hw : u.warp.isShadowed = s.warp.isShadowed) (hrun : u.shadowRun = s.shadowRun) (hitems : u.items = logged s (d.map (loadItem va)))
  (hlvq : u.lvq = lvqAfter s found y rest d (l :: r)) (hp : tr.place ≠ .remote)
include hw hrun hitems hlvq hp

/-- A load of a lane whose bytes are known, or whose value comes from the queue. -/
theorem load_lane (p hint : Nat) (dest : RemoteLoad)
    (hhome : ∀ c e items, ∃ bs f, (¬(s.warp.isShadowed = true ∧ s.shadowRun = true) → bytesToNat bs = found l) ∧
      (laneRead u u.warp u.fills c e items u.lvq).loadHome tr n hint =
        (bs, false, laneRead u (u.warp.taskRead tr.place tr.pa) f c e items u.lvq)) :
    ∃ v, u.load p (va l) tr n hint (lanesOf [l]) dest = ⟨v, some (lvqGiven s found y l), false, false⟩ ∧ ReadsAs v u ∧
      v.warp = u.warp.taskRead tr.place tr.pa ∧ v.items = logged s ((d ++ [l]).map (loadItem va)) ∧ v.lvq = lvqAfter s found y rest (d ++ [l]) r := by
  obtain ⟨c, e, hcount⟩ := countAccess_cases u p (va l) tr
  have hitem := itemAt_lane (u := u.countAccess p (va l) tr) (s := s) (d := d) (va := va) (l := l) (by rw [countAccess_warp]; exact hw)
    (by rw [hcount]; exact hitems)
  have hbefore : (u.countAccess p (va l) tr).itemAt 1 [va l] (lanesOf [l]) (va l) =
      laneRead u u.warp u.fills c e (logged s ((d ++ [l]).map (loadItem va))) u.lvq := by
    rw [hitem, hcount]
    rfl
  obtain ⟨bs, f, hbs, hf⟩ := hhome c e (logged s ((d ++ [l]).map (loadItem va)))
  have hshadowed : (u.warp.taskRead tr.place tr.pa).isShadowed = s.warp.isShadowed :=
    (congrArg Warp.isShadowed (taskRead_frame u.warp tr.place tr.pa) :).trans hw
  have hvia := viaLvq_lane (s := s) (x := bytesToNat bs)
    (u := laneRead u (u.warp.taskRead tr.place tr.pa) f c e (logged s ((d ++ [l]).map (loadItem va))) u.lvq) hshadowed hrun hlvq hbs
  refine ⟨laneRead u (u.warp.taskRead tr.place tr.pa) f c e (logged s ((d ++ [l]).map (loadItem va))) (lvqAfter s found y rest (d ++ [l]) r),
    ?_, readsAs_laneRead, rfl, rfl, rfl⟩
  have hvalue := congrArg (fun v : Nat × State => (⟨v.2, some v.1, false, false⟩ : Perf)) hvia
  refine Eq.trans ?_ hvalue
  unfold State.load
  dsimp only
  rw [hbefore, if_neg fun hremote => hp hremote.1, hf]
  rfl

end

end Sys2Proof.Machine
end

section
/-! SUPPORT. The lanes of a generic load word, one after another, at home and behind a leading warp (R161, R198). -/

namespace Sys2Proof.Machine

theorem bytes_mem (t : MTy) : t.bytes ∈ [1, 2, 4, 8] := by cases t <;> decide

/-- The checks and the load of a lane of a generic load word. -/
def loadCheck (p n : Nat) (va : Nat → Nat) (s : State) (l : Nat) : LChk × State := s.genericCheck p accRead n (va l)
def loadPerform (p : Nat) (t : MTy) (hint : Nat) (va : Nat → Nat) (dest : Nat → RemoteLoad) (s : State) (l : Nat) (k : LChk) : Perf :=
  match k with
  | .page tr => (s.load p (va l) tr t.bytes hint (lanesOf [l]) (dest l)).map t.extend
  | _ => ⟨s, none, false, false⟩

/-- The state in the loop of a lane load whose lanes `d` have been performed and whose lanes `r` have not. -/
structure LoadsDone (s : State) (tr : Nat → Trans) (va found y : Nat → Nat) (rest : List LvqVal) (d r : List Nat) (u : State) : Prop where
  reads : ReadsAs u s
  warp : u.warp = taskReads s.warp tr d
  items : u.items = logged s (d.map (loadItem va))
  lvq : u.lvq = lvqAfter s found y rest d r

theorem foundBytes_congr {u s : State} (h : ReadsAs u s) (hbuf : u.warp.buffered = s.warp.buffered) (hes : u.warp.entries = s.warp.entries)
    (p : Place) (pa n : Nat) : foundBytes u p pa n = foundBytes s p pa n := by
  have hown (a : Nat) : ownByte u p a = ownByte s p a := by rw [ownByte_eq, ownByte_eq, hes, h.bytes, h.hostMem]
  simp only [foundBytes, hbuf, hown, h.placeRead]

section
variable {s u : State} {tr : Nat → Trans} {va found y : Nat → Nat} {rest : List LvqVal} {d r : List Nat}

theorem loadsDone_nil {lanes : List Nat} (hq : lvqHolds s y rest lanes) : LoadsDone s tr va found y rest [] lanes s :=
  ⟨readsAs_refl s, rfl, logged_nil.symm, (lvqAfter_nil hq).symm⟩

variable (h : LoadsDone s tr va found y rest d r u)
include h

theorem LoadsDone.isShadowed : u.warp.isShadowed = s.warp.isShadowed := by
  rw [h.warp]
  exact (congrArg Warp.isShadowed (taskReads_frame d) :)

theorem LoadsDone.ident : u.warp.ident = s.warp.ident := by
  rw [h.warp]
  exact (congrArg Warp.ident (taskReads_frame d) :)

theorem LoadsDone.buffered : u.warp.buffered = s.warp.buffered := by rw [h.warp, taskReads_buffered]
theorem LoadsDone.entries : u.warp.entries = s.warp.entries := by rw [h.warp, taskReads_entries]

theorem LoadsDone.behind : u.behind = s.behind := by
  have halone : u.shadowAlone = s.shadowAlone := (congrArg State.shadowAlone h.reads.frame :)
  rw [State.behind, State.behind, h.isShadowed, halone]

theorem LoadsDone.unconfirmed : u.unconfirmed = s.unconfirmed := by
  have hid : u.warp.id = s.warp.id := by
    rw [h.warp]
    exact (congrArg Warp.id (taskReads_frame d) :)
  have hpairs : u.pairs = s.pairs := (congrArg State.pairs h.reads.frame :)
  rw [State.unconfirmed, State.unconfirmed, h.isShadowed, hid, hpairs]

theorem LoadsDone.atHome {t : Trans} {n : Nat} (hh : atHome s t n) : atHome u t n := by
  have hcluster : u.clusterOf u.warp = s.clusterOf s.warp := by
    have hteams : u.teams = s.teams := (congrArg State.teams h.reads.frame :)
    rw [State.clusterOf, State.clusterOf, State.team?, State.team?, hteams, h.ident]
  rw [Sys2Proof.atHome, h.reads.placePoisoned, h.reads.cdc, hcluster]
  exact hh

/-- A walk that finds A set keeps where the loop stands. -/
theorem LoadsDone.markLeaf {leaf : Nat} (hA : (s.devByte (leaf + 1)).getLsbD 0 = true) :
    LoadsDone s tr va found y rest d r (u.markLeaf leaf false) := by
  obtain ⟨m, t, hm, -⟩ := markLeaf_cases u leaf false
  refine ⟨(readsAs_markLeaf (h.reads.bytes _ ▸ hA)).trans h.reads, ?_, ?_, ?_⟩
  · rw [markLeaf_warp, h.warp]
  · rw [hm]; exact h.items
  · rw [hm]; exact h.lvq

end

section
variable {s u : State} {tr : Nat → Trans} {va y : Nat → Nat} {rest : List LvqVal} {d r : List Nat} {l : Nat} {t : MTy}

/-- What a lane of a load finds at home. -/
def homeFound (s : State) (tr : Nat → Trans) (n : Nat) (l : Nat) : Nat := bytesToNat (foundBytes s (tr l).place (tr l).pa n)

/-- A lane of a load word at home. -/
theorem loads_lane_home {hint : Nat} {dest : Nat → RemoteLoad} (hb : s.behind = false) (hun : s.unconfirmed = [])
    (hes : s.warp.buffered = true → ∀ e ∈ s.warp.entries, ∃ q a bs t m va, e = .store q a bs t m va)
    (hreach : reaches s accRead t.bytes (va l) (tr l)) (hhome : atHome s (tr l) t.bytes)
    (h : LoadsDone s tr va (homeFound s tr t.bytes) y rest d (l :: r) u) :
    ∃ v, lanePerforms (loadCheck s.warp.ident.part t.bytes va) (loadPerform s.warp.ident.part t hint va dest) u l
        (some (t.extend (lvqGiven s (homeFound s tr t.bytes) y l))) v ∧ LoadsDone s tr va (homeFound s tr t.bytes) y rest (d ++ [l]) r v := by
  obtain ⟨halign, hperm, hp, hA, -, -⟩ := hreach
  obtain ⟨hn, hpa⟩ := access_within (bytes_mem t) halign (xlate_offset (permCheck_ok hperm))
  have hm := h.markLeaf hA
  have hcheck : loadCheck s.warp.ident.part t.bytes va u l = (.page (tr l), u.markLeaf (tr l).leaf false) := by
    rw [loadCheck, State.genericCheck, if_neg (not_not_intro halign), h.behind, hb, access_ok (tr := tr l) (by rw [h.reads.xlate]; exact hperm)]
    rfl
  generalize u.markLeaf (tr l).leaf false = u' at hm hcheck
  obtain ⟨v, hv, hreads, hwarp, hitems, hlvq⟩ := load_lane (s := s) (va := va) (y := y) (rest := rest) (d := d) (r := r) (l := l)
    hm.isShadowed hm.reads.shadowRun hm.items hm.lvq hp s.warp.ident.part hint (dest l) fun c e items => by
      let x := laneRead u' u'.warp u'.fills c e items u'.lvq
      have hx : ReadsAs x u' := readsAs_laneRead (c := c) (e := e) (l := items)
      have hfound : foundBytes x (tr l).place (tr l).pa t.bytes = foundBytes s (tr l).place (tr l).pa t.bytes :=
        foundBytes_congr (hx.trans hm.reads) hm.buffered hm.entries ..
      obtain ⟨f, hf⟩ := loadHome_home (s := x) hint hn hpa (hm.behind.trans hb) (hm.unconfirmed.trans hun)
        (fun hbuf => hm.entries.symm ▸ hes (hm.buffered.symm.trans hbuf)) hp (hm.atHome hhome)
      exact ⟨foundBytes x (tr l).place (tr l).pa t.bytes, f, fun _ => congrArg bytesToNat hfound, hf⟩
  refine ⟨v, ⟨.page (tr l), _, hcheck, congrArg (Perf.map · t.extend) hv, nofun, nofun⟩, hreads.trans hm.reads, ?_, hitems, hlvq⟩
  rw [hwarp, hm.warp, taskReads_append]

/-- A lane of a load word of a shadow, which takes its value from the queue (R198). -/
theorem loads_lane_behind {hint : Nat} {dest : Nat → RemoteLoad} {found : Nat → Nat} (hb : s.behind = true) (hrun : s.shadowRun = true)
    (hbuf : s.warp.buffered = false) (halign : va l % t.bytes = 0)
    (h : LoadsDone s (fun l => shadowTrans (va l)) va found y rest d (l :: r) u) :
    ∃ v, lanePerforms (loadCheck s.warp.ident.part t.bytes va) (loadPerform s.warp.ident.part t hint va dest) u l
        (some (t.extend (lvqGiven s found y l))) v ∧ LoadsDone s (fun l => shadowTrans (va l)) va found y rest (d ++ [l]) r v := by
  have hcheck : loadCheck s.warp.ident.part t.bytes va u l = (.page (shadowTrans (va l)), u) := by
    rw [loadCheck, State.genericCheck, if_neg (not_not_intro halign), h.behind, if_pos hb]
  have hshadowed : s.warp.isShadowed = true := (Bool.and_eq_true_iff.1 hb).1
  obtain ⟨v, hv, hreads, hwarp, hitems, hlvq⟩ := load_lane (s := s) (va := va) (y := y) (rest := rest) (d := d) (r := r) (l := l) (n := t.bytes)
    (tr := shadowTrans (va l)) h.isShadowed h.reads.shadowRun h.items h.lvq nofun s.warp.ident.part hint (dest l) fun c e items => by
      obtain ⟨bs, f, hf⟩ := loadHome_behind (s := laneRead u u.warp u.fills c e items u.lvq) (shadowTrans (va l)) t.bytes hint
        (h.behind.trans hb) (h.buffered.trans hbuf)
      exact ⟨bs, f, fun hnot => absurd ⟨hshadowed, hrun⟩ hnot, hf⟩
  refine ⟨v, ⟨.page (shadowTrans (va l)), u, hcheck, congrArg (Perf.map · t.extend) hv, nofun, nofun⟩, hreads.trans h.reads, ?_, hitems, hlvq⟩
  rw [hwarp, h.warp, taskReads_append]

end

end Sys2Proof.Machine
end

section
/-! SUPPORT. Generic load words: what they wait for, their loop, and the acquire at their end (R161, R165, R264). -/

namespace Sys2Proof.Machine

/-- What an acquire that goes with a load word does at its end (R165). -/
def acquired (acq : Option Scope) (s : State) : State :=
  match acq with
  | some sc => s.acquire sc
  | none => s

theorem acquired_frame (acq : Option Scope) (s : State) : { acquired acq s with cdc := s.cdc, fills := s.fills } = s := by
  cases acq with
  | none => rfl
  | some sc =>
    show { s.acquire sc with cdc := s.cdc, fills := s.fills } = s
    unfold State.acquire
    split <;> rfl

theorem beyondTeam_iff (sc : Scope) : sc.beyondTeam = true ↔ sc = .grid ∨ sc = .domain ∨ sc = .sys := by cases sc <;> simp [Scope.beyondTeam]

/-- An acquire of grid or wider scope drops the lines of the cluster that come from no sealed page, and no other drops any (R264). -/
theorem mem_acquired (acq : Option Scope) (s : State) (y : CdcLine) : y ∈ (acquired acq s).cdc ↔
    y ∈ s.cdc ∧ ¬((acq = some .grid ∨ acq = some .domain ∨ acq = some .sys) ∧ y.cluster = s.clusterOf s.warp ∧ y.isSealed = false) := by
  cases acq with
  | none => simp [acquired]
  | some sc =>
    simp only [acquired, Option.some.injEq, State.acquire, ← beyondTeam_iff]
    cases sc.beyondTeam with
    | false => simp
    | true =>
      simp only [if_true, State.acquireCluster, State.cdcDrop, List.mem_filter, true_and, Bool.not_eq_true', Bool.and_eq_false_iff,
        beq_eq_false_iff_ne, Bool.not_eq_false', not_and, Bool.not_eq_false]
      exact and_congr_right fun _ => ⟨fun h hc => h.resolve_left fun hne => hne hc, fun h => or_iff_not_imp_left.2 fun hc => h (not_not.1 hc)⟩

/-- Translations of the lanes left of a load are those of the lanes that may read. -/
theorem mem_trans {c : LaneCx} {s : State} {n : Nat} {va : Nat → Nat} {tr : Nat → Trans}
    (h : ∀ l ∈ c.todo, permCheck accRead (s.xlate c.w.ident.part (va l)) = .ok (tr l)) {t : Trans} (ht : t ∈ c.trans s accRead n va) :
    ∃ l ∈ c.todo, t = tr l := by
  obtain ⟨l, hl, hval⟩ := List.mem_filterMap.1 ht
  refine ⟨l, hl, ?_⟩
  rw [h l hl] at hval
  split at hval <;> cases hval
  rfl

/-- A load waits for nothing where it runs behind its leading warp. -/
theorem before_behind {s : State} (hb : s.behind = true) (acc : Nat) (ts : List Trans) (m k : State → State) : s.before acc ts m k = k s := if_pos hb

/-- A load waits for nothing where no access is under way that its pages wait for, and a task reads device memory alone (R96, R318, R427). -/
theorem before_reads {s : State} {ts : List Trans} (hb : s.behind = false) (hun : s.unconfirmed = [])
    (htask : s.warp.task.isSome = true → ∀ t ∈ ts, t.place = .device) (hso : ∀ t ∈ ts, pteMode t.entry = 1 → s.awaiting (·.so) = false)
    (m k : State → State) : s.before accRead ts m k = k s := by
  have h44 : (s.warp.task.isSome && ts.any fun t => t.place != .device) = false := by
    refine Bool.eq_false_iff.2 fun h => ?_
    obtain ⟨hsome, hany⟩ := Bool.and_eq_true_iff.1 h
    obtain ⟨t, ht, hne⟩ := List.any_eq_true.1 hany
    exact bne_iff_ne.1 hne (htask hsome t ht)
  have hw : ((ts.any fun t => pteMode t.entry == 1) && (s.awaiting (·.so) || (([] : List Held).filterMap Held.va?).any s.soAt)) = false := by
    refine Bool.eq_false_iff.2 fun h => ?_
    obtain ⟨hany, hwait⟩ := Bool.and_eq_true_iff.1 h
    obtain ⟨t, ht, hmode⟩ := List.any_eq_true.1 hany
    rw [hso t ht (beq_iff_eq.1 hmode)] at hwait
    cases hwait
  simp only [State.before, hb, hun, h44, hw, bne_self_eq_false, Bool.false_and, List.any_nil, Bool.and_false, Bool.or_false,
    Bool.false_eq_true, if_false]

/-- What a load word needs of a warp that reads memory, with the translations of its lanes. -/
structure ReadsHome (s : State) (n : Nat) (va : Nat → Nat) (tr : Nat → Trans) (lanes : List Nat) : Prop where
  notBehind : s.behind = false
  unconfirmed : s.unconfirmed = []
  stores : ∀ l ∈ lanes, s.warp.buffered = true → ∀ e ∈ s.warp.entries, ∃ q a bs t m va, e = .store q a bs t m va
  reach : ∀ l ∈ lanes, reaches s accRead n (va l) (tr l)
  home : ∀ l ∈ lanes, atHome s (tr l) n
  device : s.warp.task.isSome = true → ∀ l ∈ lanes, (tr l).place = .device

/-- What a load word needs of a shadow: aligned addresses (R198). -/
structure ReadsBehind (s : State) (n : Nat) (va : Nat → Nat) (lanes : List Nat) : Prop where
  behind : s.behind = true
  run : s.shadowRun = true
  plain : s.warp.buffered = false
  align : ∀ l ∈ lanes, va l % n = 0

section
variable {c : LaneCx} {s : State} {t : MTy} {va y : Nat → Nat} {rest : List LvqVal} (acq : Option Scope) (hint : Nat) (dest : Nat → RemoteLoad)

/-- The loop of a load word whose lanes all deliver. -/
theorem loadWord_of_lanes {p : Nat} {tr : Nat → Trans} {found : Nat → Nat} (hq : lvqHolds s y rest c.todo)
    (hlane : ∀ d l r, c.todo = d ++ l :: r → ∀ u, LoadsDone s tr va found y rest d (l :: r) u →
      ∃ v, lanePerforms (loadCheck p t.bytes va) (loadPerform p t hint va dest) u l (some (t.extend (lvqGiven s found y l))) v ∧
        LoadsDone s tr va found y rest (d ++ [l]) r v) :
    ∃ v, LoadsDone s tr va found y rest c.todo [] v ∧
      laneMem c s t.regs accRead va (loadCheck p t.bytes va) (loadPerform p t hint va dest) (acquired acq) =
        acquired acq (v.upd fun w => (w.putLoaded c.h t.regs (c.todo.map fun l => (l, t.extend (lvqGiven s found y l)))).laneDone) := by
  obtain ⟨v, ⟨r, hr, hv⟩, hmem⟩ := laneMem_performs (c := c) (s := s) (val := fun l => some (t.extend (lvqGiven s found y l)))
    (I := fun d u => ∃ r, c.todo = d ++ r ∧ LoadsDone s tr va found y rest d r u)
    (fun d l r hd u ⟨r', hr', hu⟩ => by
      obtain rfl : r' = l :: r := List.append_cancel_left (hr'.symm.trans hd)
      obtain ⟨v, hperforms, hv⟩ := hlane d l r hd u hu
      exact ⟨v, hperforms, r, hd.trans (List.append_assoc d [l] r).symm, hv⟩)
    ⟨c.todo, rfl, loadsDone_nil hq⟩ t.regs accRead va (acquired acq)
  obtain rfl : r = [] := List.append_right_eq_self.1 hr.symm
  rw [laneVals_some] at hmem
  exact ⟨v, hv, hmem⟩

/-- A load word that reads memory. -/
theorem loadWord_home {tr : Nat → Trans} (hident : c.w.ident = s.warp.ident) (hq : lvqHolds s y rest c.todo)
    (h : ReadsHome s t.bytes va tr c.todo) :
    ∃ v, LoadsDone s tr va (homeFound s tr t.bytes) y rest c.todo [] v ∧
      c.before s accRead t.bytes va (fun s => laneMem c s t.regs accRead va (loadCheck c.w.ident.part t.bytes va)
        (loadPerform c.w.ident.part t hint va dest) (acquired acq)) =
        acquired acq (v.upd fun w => (w.putLoaded c.h t.regs (c.todo.map fun l => (l, t.extend (lvqGiven s (homeFound s tr t.bytes) y l)))).laneDone) := by
  have hperm (l : Nat) (hl : l ∈ c.todo) : permCheck accRead (s.xlate c.w.ident.part (va l)) = .ok (tr l) := by
    rw [hident]
    exact (h.reach l hl).2.1
  rw [LaneCx.before, before_reads h.notBehind h.unconfirmed
    (fun hsome x hx => by
      obtain ⟨l, hl, rfl⟩ := mem_trans hperm hx
      exact h.device hsome l hl)
    (fun x hx => by
      obtain ⟨l, hl, rfl⟩ := mem_trans hperm hx
      exact (h.reach l hl).2.2.2.2.2), hident]
  exact loadWord_of_lanes acq hint dest hq fun d l r hd u hu =>
    have hl : l ∈ c.todo := by rw [hd]; exact List.mem_append_right _ (List.mem_cons_self ..)
    loads_lane_home h.notBehind h.unconfirmed (h.stores l hl) (h.reach l hl) (h.home l hl) hu

/-- A load word of a shadow. -/
theorem loadWord_behind (found : Nat → Nat) (hident : c.w.ident = s.warp.ident) (hq : lvqHolds s y rest c.todo)
    (h : ReadsBehind s t.bytes va c.todo) :
    ∃ v, LoadsDone s (fun l => shadowTrans (va l)) va found y rest c.todo [] v ∧
      c.before s accRead t.bytes va (fun s => laneMem c s t.regs accRead va (loadCheck c.w.ident.part t.bytes va)
        (loadPerform c.w.ident.part t hint va dest) (acquired acq)) =
        acquired acq (v.upd fun w => (w.putLoaded c.h t.regs (c.todo.map fun l => (l, t.extend (lvqGiven s found y l)))).laneDone) := by
  rw [LaneCx.before, before_behind h.behind, hident]
  exact loadWord_of_lanes acq hint dest hq fun d l r hd u hu =>
    loads_lane_behind h.behind h.run h.plain (h.align l (by rw [hd]; exact List.mem_append_right _ (List.mem_cons_self ..))) hu

end

end Sys2Proof.Machine
end

section
/-! SUPPORT. What a generic load word leaves (R161, R165, R198, R264, R318), `pref` (R176), and O20. -/

namespace Sys2Proof.Machine

/-! ## A warp's task apart from its registers -/

/-- A warp with another task. -/
def withTask (k : Option Task) (w : Warp) : Warp := { w with task := k }

section
variable (w : Warp) (k : Option Task) (h : LaneHdr) (n : Nat) (vals : List (Nat × Nat))

theorem foldl_putV_task (d : Nat) (m : Mask) (x : Nat → Nat → W32) (js : List Nat) :
    js.foldl (fun w j => w.putV (d + j) m (x j)) (withTask k w) = withTask k (js.foldl (fun w j => w.putV (d + j) m (x j)) w) := by
  induction js generalizing w with
  | nil => rfl
  | cons j js ih => exact ih (w.putV (d + j) m (x j))

theorem loadedRegs_task : loadedRegs (withTask k w) h n vals = withTask k (loadedRegs w h n vals) := by
  unfold loadedRegs
  split
  · rfl
  · exact foldl_putV_task w k _ _ _ _

theorem putLatch_task (l : Nat) (m : Mask) (x : Nat → W32) : (withTask k w).putLatch l m x = withTask k (w.putLatch l m x) := by
  have hb : (withTask k w).block = w.block := rfl
  unfold Warp.putLatch
  rw [hb]
  cases w.block <;> rfl

theorem putLoaded_task : (withTask k w).putLoaded h n vals = withTask k (w.putLoaded h n vals) := by
  rw [putLoaded_eq, putLoaded_eq, loadedRegs_task]
  cases h.latch with
  | none => rfl
  | some l =>
    rw [Option.elim_some, Option.elim_some]
    exact putLatch_task ..

theorem laneDone_task : (withTask k w).laneDone = withTask k w.laneDone := by
  have hb : (withTask k w).block = w.block := rfl
  unfold Warp.laneDone
  rw [hb]
  cases w.block with
  | none => rfl
  | some b =>
    dsimp only
    split <;> rfl

end

/-! ## The end of a load word -/

/-- A state with what a load word may change as in another. -/
def likeBeforeLoad (s z : State) : State :=
  { z with warp := s.warp, dev := s.dev, tags := s.tags, cdc := s.cdc, fills := s.fills, migCounts := s.migCounts, migDies := s.migDies,
           items := s.items, lvq := s.lvq }

/-- A load word is done: what each lane left holds, and what may have changed besides. -/
structure LoadEnds (s : State) (b : Block) (h : LaneHdr) (acq : Option Scope) (n : Nat) (tr : Nat → Trans) (va found y : Nat → Nat)
    (rest : List LvqVal) (val : Nat → Nat) (u : State) : Prop where
  warp : ∃ touched, u.warp = ((taskReads (s.warp.touch touched) tr (lanesInOrder s b h)).putLoaded h n
    ((lanesInOrder s b h).map fun l => (l, val l))).laneDone
  frame : likeBeforeLoad s u = s
  bytes : ∀ a, u.devByte a = s.devByte a
  cdc : ∀ y, y ∈ u.cdc ↔
    y ∈ s.cdc ∧ ¬((acq = some .grid ∨ acq = some .domain ∨ acq = some .sys) ∧ y.cluster = s.clusterOf s.warp ∧ y.isSealed = false)
  items : u.items = logged s ((lanesInOrder s b h).map (loadItem va))
  lvq : u.lvq = lvqAfter s found y rest (lanesInOrder s b h) []

section
variable {s u : State} {b : Block} {h : LaneHdr} {acq : Option Scope} {n : Nat} {tr : Nat → Trans} {va found y : Nat → Nat} {rest : List LvqVal}
  {val : Nat → Nat}

theorem loadEnds_of_loop {touched : List Nat} {v : State} (hv : LoadsDone (s.upd (·.touch touched)) tr va found y rest (lanesInOrder s b h) [] v) :
    LoadEnds s b h acq n tr va found y rest val
      (acquired acq (v.upd fun w => (w.putLoaded h n ((lanesInOrder s b h).map fun l => (l, val l))).laneDone)) := by
  generalize hx : (v.upd fun w => (w.putLoaded h n ((lanesInOrder s b h).map fun l => (l, val l))).laneDone) = x
  have hacq := acquired_frame acq x
  have hxframe : { x with warp := v.warp } = v := by rw [← hx]; rfl
  have hxwarp : x.warp = (v.warp.putLoaded h n ((lanesInOrder s b h).map fun l => (l, val l))).laneDone := by rw [← hx]; rfl
  have hident : x.warp.ident = s.warp.ident := by
    rw [hxwarp]
    exact (congrArg Warp.ident (Warp.laneDone_frame _) :).trans ((congrArg Warp.ident (putLoaded_frame h n _) :).trans
      (hv.ident.trans (congrArg Warp.ident (touch_frame (w := s.warp) touched) :)))
  have hcluster : x.clusterOf x.warp = s.clusterOf s.warp := by
    have hteams : x.teams = s.teams := (congrArg State.teams hxframe :).trans (congrArg State.teams hv.reads.frame :)
    rw [State.clusterOf, State.clusterOf, State.team?, State.team?, hteams, hident]
  have hsh := touch_isShadowed s touched
  refine ⟨⟨touched, ?_⟩, ?_, fun a => ?_, fun z => ?_, ?_, ?_⟩
  · rw [show (acquired acq x).warp = x.warp from (congrArg State.warp hacq :), hxwarp, hv.warp]
    rfl
  · calc likeBeforeLoad s (acquired acq x)
      _ = likeBeforeLoad s x := (congrArg (likeBeforeLoad s) hacq :)
      _ = likeBeforeLoad s v := (congrArg (likeBeforeLoad s) hxframe :)
      _ = likeBeforeLoad s (s.upd (·.touch touched)) := (congrArg (likeBeforeLoad s) hv.reads.frame :)
  · exact (congrArg (State.devByte · a) hacq :).trans ((congrArg (State.devByte · a) hxframe :).trans (hv.reads.bytes a))
  · have hcdc : x.cdc = s.cdc := (congrArg State.cdc hxframe :).trans hv.reads.cdc
    rw [mem_acquired, hcluster, hcdc]
  · have hitems : (acquired acq x).items = v.items := (congrArg State.items hacq :).trans (congrArg State.items hxframe :)
    rw [hitems, hv.items, logged, hsh]
    rfl
  · have hlvq : (acquired acq x).lvq = v.lvq := (congrArg State.lvq hacq :).trans (congrArg State.lvq hxframe :)
    rw [hlvq, hv.lvq, lvqAfter, hsh]
    rfl

variable (e : LoadEnds s b h acq n tr va found y rest val u)
include e

theorem LoadEnds.hostMem : u.hostMem = s.hostMem := (congrArg State.hostMem e.frame :)

/-- Outside `SHADOW` launches no item is logged and no value queued. -/
theorem LoadEnds.frame_plain (hs : s.warp.isShadowed = false) :
    { u with warp := s.warp, dev := s.dev, tags := s.tags, cdc := s.cdc, fills := s.fills, migCounts := s.migCounts, migDies := s.migDies } = s := by
  have hi : u.items = s.items := e.items.trans (if_neg (ne_true_of_eq_false hs))
  have hl : u.lvq = s.lvq := e.lvq.trans (if_pos hs)
  have hframe := e.frame
  rw [likeBeforeLoad, ← hi, ← hl] at hframe
  exact hframe

theorem LoadEnds.lanesLoaded (hb : s.warp.block = some b) (htask : lanesInOrder s b h ≠ [] → s.warp.task = none) :
    Sys2Proof.lanesLoaded u s b h n val := by
  obtain ⟨touched, hwarp⟩ := e.warp
  have htouch : (s.warp.touch touched).task = s.warp.task := (congrArg Warp.task (touch_frame touched) :)
  have hplain : taskReads (s.warp.touch touched) tr (lanesInOrder s b h) = s.warp.touch touched := by
    by_cases hnil : lanesInOrder s b h = []
    · rw [hnil]
      rfl
    · exact taskReads_plain (htouch.trans (htask hnil)) _
  rw [hplain] at hwarp
  exact lanesLoaded_of_warp hb val hwarp

/-- The registers of a load inside a task, whose read set may grow. -/
theorem LoadEnds.lanesLoaded_task (hb : s.warp.block = some b) :
    Sys2Proof.lanesLoaded { u with warp := { u.warp with task := s.warp.task } } s b h n val := by
  obtain ⟨touched, hwarp⟩ := e.warp
  refine lanesLoaded_of_warp (regs := touched) hb val ?_
  have htask : s.warp.task = (s.warp.touch touched).task := (congrArg Warp.task (touch_frame touched) :).symm
  have hreads : withTask s.warp.task (taskReads (s.warp.touch touched) tr (lanesInOrder s b h)) = s.warp.touch touched := by
    rw [htask]
    exact taskReads_frame _
  show withTask s.warp.task u.warp = _
  rw [hwarp, ← laneDone_task, ← putLoaded_task, hreads]

theorem LoadEnds.task : ∃ touched, u.warp.task = (taskReads (s.warp.touch touched) tr (lanesInOrder s b h)).task := by
  obtain ⟨touched, hwarp⟩ := e.warp
  refine ⟨touched, ?_⟩
  rw [hwarp]
  exact (congrArg Warp.task (Warp.laneDone_frame _) :).trans (congrArg Warp.task (putLoaded_frame h n _) :)

end

/-! ## Load words -/

section
variable {s : State} {n : Nat} {va : Nat → Nat} {tr : Nat → Trans} {lanes : List Nat}

theorem readsHome_touch (h : ReadsHome s n va tr lanes) (regs : List Nat) : ReadsHome (s.upd (·.touch regs)) n va tr lanes := by
  have hreads : ReadsAs (s.upd (·.touch regs)) s := ⟨rfl, fun _ => rfl, rfl⟩
  have hframe := touch_frame (w := s.warp) regs
  have hident : (s.upd (·.touch regs)).warp.ident = s.warp.ident := (congrArg Warp.ident hframe :)
  have htask : (s.upd (·.touch regs)).warp.task = s.warp.task := (congrArg Warp.task hframe :)
  have hbuf : (s.upd (·.touch regs)).warp.buffered = s.warp.buffered := (congrArg Warp.buffered hframe :)
  have hentries : (s.upd (·.touch regs)).warp.entries = s.warp.entries := (congrArg Warp.entries hframe :)
  have hso : (s.upd (·.touch regs)).awaiting (·.so) = s.awaiting (·.so) := (congrArg (fun w : Warp => { s with warp := w }.awaiting (·.so)) hframe :)
  refine ⟨(touch_behind s regs).trans h.notBehind, (touch_unconfirmed s regs).trans h.unconfirmed, fun l hl hb => ?_, fun l hl => ?_, fun l hl => ?_,
    fun hsome => h.device (htask ▸ hsome)⟩
  · rw [hentries]
    exact h.stores l hl (hbuf ▸ hb)
  · obtain ⟨halign, hperm, hp, hA, hD, hmode⟩ := h.reach l hl
    exact ⟨halign, by rw [hident, hreads.xlate]; exact hperm, hp, hA, hD, fun hm => hso.trans (hmode hm)⟩
  · have hcluster : (s.upd (·.touch regs)).clusterOf (s.upd (·.touch regs)).warp = s.clusterOf s.warp := by
      rw [State.clusterOf, hident]
      rfl
    rw [atHome, hreads.placePoisoned, hcluster]
    exact h.home l hl

theorem readsBehind_touch (h : ReadsBehind s n va lanes) (regs : List Nat) : ReadsBehind (s.upd (·.touch regs)) n va lanes :=
  ⟨(touch_behind s regs).trans h.behind, h.run, (congrArg Warp.buffered (touch_frame (w := s.warp) regs) :).trans h.plain, h.align⟩

theorem homeFound_touch (s : State) (tr : Nat → Trans) (n : Nat) (regs : List Nat) : homeFound (s.upd (·.touch regs)) tr n = homeFound s tr n := by
  funext l
  have hframe := touch_frame (w := s.warp) regs
  exact congrArg bytesToNat (foundBytes_congr (u := s.upd (·.touch regs)) (s := s) ⟨rfl, fun _ => rfl, rfl⟩ (congrArg Warp.buffered hframe :)
    (congrArg Warp.entries hframe :) ..)

theorem lvqGiven_touch (s : State) (found y : Nat → Nat) (regs : List Nat) : lvqGiven (s.upd (·.touch regs)) found y = lvqGiven s found y := by
  funext l
  rw [lvqGiven, touch_isShadowed]
  rfl

theorem lvqHolds_touch {y : Nat → Nat} {rest : List LvqVal} (h : lvqHolds s y rest lanes) (regs : List Nat) :
    lvqHolds (s.upd (·.touch regs)) y rest lanes := by
  unfold lvqHolds
  rw [touch_isShadowed]
  exact h

end

section
variable {i : Instr} {s : State} {b : Block} {h : LaneHdr} {t : MTy} {acq : Option Scope} {hint : LaneCx → Nat} {va : LaneCx → Nat → Nat}
  {y : Nat → Nat} {rest : List LvqVal} (hready : laneReady i s b h) (hexec : exec i s = genericLoad i s t hint acq va)
  (hq : lvqHolds s y rest (lanesInOrder s b h))
include hready hexec hq

/-- A load word that reads memory is done. -/
theorem load_home {tr : Nat → Trans} (hreads : ReadsHome s t.bytes (va (laneView s b h)) tr (lanesInOrder s b h)) :
    completes i s (LoadEnds s b h acq t.regs tr (va (laneView s b h)) (homeFound s tr t.bytes) y rest
      fun l => t.extend (lvqGiven s (homeFound s tr t.bytes) y l)) := by
  obtain ⟨touched, hgate⟩ := laneGate_ready hready fun c s => c.before s accRead t.bytes (va c) fun s =>
    laneMem c s t.regs accRead (va c) (loadCheck c.w.ident.part t.bytes (va c))
      (loadPerform c.w.ident.part t (hint c) (va c) fun l => c.remoteDest (t == .i8 || t == .i16) acq l) (acquired acq)
  have hident : (laneView s b h).w.ident = (s.upd (·.touch touched)).warp.ident := (congrArg Warp.ident (touch_frame (w := s.warp) touched) :).symm
  obtain ⟨v, hv, hword⟩ := loadWord_home (c := laneView s b h) (s := s.upd (·.touch touched)) (t := t) (va := va (laneView s b h)) acq
    (hint (laneView s b h)) (fun l => (laneView s b h).remoteDest (t == .i8 || t == .i16) acq l) hident
    (by rw [todo_laneView]; exact lvqHolds_touch hq touched) (by rw [todo_laneView]; exact readsHome_touch hreads touched)
  rw [homeFound_touch, lvqGiven_touch, todo_laneView] at hword
  rw [homeFound_touch, todo_laneView] at hv
  exact ⟨_, hexec.trans (congrArg Host.Outcome.next (hgate.trans hword)), loadEnds_of_loop hv⟩

/-- A load word of a shadow is done. -/
theorem load_behind (found : Nat → Nat) (hreads : ReadsBehind s t.bytes (va (laneView s b h)) (lanesInOrder s b h)) :
    completes i s (LoadEnds s b h acq t.regs (fun l => shadowTrans (va (laneView s b h) l)) (va (laneView s b h)) found y rest
      fun l => t.extend (lvqGiven s found y l)) := by
  obtain ⟨touched, hgate⟩ := laneGate_ready hready fun c s => c.before s accRead t.bytes (va c) fun s =>
    laneMem c s t.regs accRead (va c) (loadCheck c.w.ident.part t.bytes (va c))
      (loadPerform c.w.ident.part t (hint c) (va c) fun l => c.remoteDest (t == .i8 || t == .i16) acq l) (acquired acq)
  have hident : (laneView s b h).w.ident = (s.upd (·.touch touched)).warp.ident := (congrArg Warp.ident (touch_frame (w := s.warp) touched) :).symm
  obtain ⟨v, hv, hword⟩ := loadWord_behind (c := laneView s b h) (s := s.upd (·.touch touched)) (t := t) (va := va (laneView s b h)) acq
    (hint (laneView s b h)) (fun l => (laneView s b h).remoteDest (t == .i8 || t == .i16) acq l) found hident
    (by rw [todo_laneView]; exact lvqHolds_touch hq touched) (by rw [todo_laneView]; exact readsBehind_touch hreads touched)
  rw [lvqGiven_touch, todo_laneView] at hword
  rw [todo_laneView] at hv
  exact ⟨_, hexec.trans (congrArg Host.Outcome.next (hgate.trans hword)), loadEnds_of_loop hv⟩

end

/-! ## `pref` (R176) -/

theorem mem_cdcTouch {s : State} {t : Trans} {hint : Nat} {x : CdcLine} (h : x ∈ (s.cdcTouch t hint).fills) :
    x ∈ s.fills ∨ x.cluster = s.clusterOf s.warp := by
  unfold State.cdcTouch at h
  dsimp only at h
  split at h
  · exact .inl h
  · split at h
    · rcases List.mem_cons.1 h with rfl | h
      · exact .inr rfl
      · exact .inl (List.mem_filter.1 h).1
    · exact .inl (List.mem_filter.1 h).1

/-- One lane of `pref`. -/
def prefLane (c : LaneCx) (s : State) (l : Nat) : State :=
  if c.va l % 4 ≠ 0 then s else
    match permCheck accRead (s.xlate c.w.ident.part (c.va l)) with
    | .ok t => if s.placePoisoned t.place t.pa 1 || !cdcHolds t c.h.hint.toNat then s else s.cdcTouch t c.h.hint.toNat
    | _ => s

theorem prefLane_cases (c : LaneCx) (s : State) (l : Nat) : prefLane c s l = s ∨ ∃ t hint, prefLane c s l = s.cdcTouch t hint := by
  unfold prefLane
  split
  · exact .inl rfl
  · split
    · split
      · exact .inl rfl
      · exact .inr ⟨_, _, rfl⟩
    · exact .inl rfl

/-- Lanes of `pref` request lines of the cluster, and nothing else changes. -/
theorem foldl_pref {s : State} {f : State → Nat → State} (hf : ∀ u l, f u l = u ∨ ∃ t hint, f u l = u.cdcTouch t hint) (ls : List Nat) :
    ∃ g, ls.foldl f s = { s with fills := g } ∧ ∀ x ∈ g, x ∈ s.fills ∨ x.cluster = s.clusterOf s.warp := by
  induction ls using List.reverseRecOn with
  | nil => exact ⟨s.fills, rfl, fun x hx => .inl hx⟩
  | append_singleton ls l ih =>
    obtain ⟨g, hg, hmem⟩ := ih
    rw [List.foldl_append, hg, List.foldl_cons, List.foldl_nil]
    rcases hf { s with fills := g } l with h | ⟨t, hint, h⟩
    · exact ⟨g, h, hmem⟩
    · obtain ⟨g', hg'⟩ := cdcTouch_cases { s with fills := g } t hint
      refine ⟨g', h.trans hg', fun x hx => ?_⟩
      have hx' : x ∈ ({ s with fills := g }.cdcTouch t hint).fills := by rw [hg']; exact hx
      rcases mem_cdcTouch hx' with hx' | hx'
      · exact hmem x hx'
      · exact .inr hx'

end Sys2Proof.Machine

namespace Sys2Proof

open Sys2Proof.Machine

theorem pref_completes {s : State} {b : Block} {h : LaneHdr} (hready : laneReady (.pref h) s b h) :
    completes (.pref h) s fun u => lanesStored u s b ∧ { u with warp := s.warp, fills := s.fills } = s ∧
      ∀ f ∈ u.fills, f ∈ s.fills ∨ f.cluster = s.clusterOf s.warp := by
  obtain ⟨hblock, hwf, sh, own, hi, -⟩ := id hready
  have hlatch : h.latch = none := latch_of_wf hwf hi (by cases hi; rfl)
  obtain ⟨touched, hgate⟩ := laneGate_ready hready fun c s =>
    (((List.range 64).filter fun l => c.act.getLsbD l).foldl (prefLane c) s).upd Warp.laneDone
  obtain ⟨g, hg, hmem⟩ := foldl_pref (s := s.upd (·.touch touched)) (prefLane_cases (laneView s b h))
    ((List.range 64).filter fun l => (laneView s b h).act.getLsbD l)
  rw [hg] at hgate
  have hcluster : (s.upd (·.touch touched)).clusterOf (s.upd (·.touch touched)).warp = s.clusterOf s.warp :=
    (congrArg (State.clusterOf s) (touch_frame (w := s.warp) touched) :)
  refine ⟨_, congrArg Host.Outcome.next hgate, lanesStored_of_warp (regs := touched) hblock hlatch ?_, rfl, fun x hx => hcluster ▸ hmem x hx⟩
  rw [putLoaded_nil h hlatch]
  rfl

/-- The value that a lane receives, extended by its type (R167). -/
theorem extended_of_found {t : MTy} {x m : Nat} (h : x = m) :
    t.extend x = if (t = .i8 ∨ t = .i16) ∧ 2 ^ (8 * t.bytes - 1) ≤ m then 2 ^ 32 - 2 ^ (8 * t.bytes) + m else m := h ▸ extend_eq t x

theorem homeFound_plain {s : State} {tr : Nat → Trans} {n l : Nat} (hbuf : s.warp.buffered = false) :
    homeFound s tr n l = bytesToNat (s.placeRead (tr l).place (tr l).pa n) :=
  congrArg bytesToNat (if_neg (ne_true_of_eq_false hbuf))

theorem homeFound_buffered {s : State} {tr : Nat → Trans} {n l : Nat} (hbuf : s.warp.buffered = true) :
    homeFound s tr n l = bytesToNat ((List.range n).map fun j => ownByte s (tr l).place ((tr l).pa + j)) :=
  congrArg bytesToNat (if_pos hbuf)

section
variable {s : State} {found y : Nat → Nat} {rest : List LvqVal} {d r : List Nat} {l : Nat}

theorem lvqAfter_leads (h : leads s) : lvqAfter s found y rest d r = s.lvq ++ d.map fun l => .known (found l) := by
  rw [lvqAfter, if_neg (ne_false_of_eq_true h.1), if_neg (ne_true_of_eq_false h.2.1)]

theorem lvqAfter_follows (h : follows s) : lvqAfter s found y rest d [] = rest := by
  rw [lvqAfter, if_neg (ne_false_of_eq_true h.1), if_pos h.2.1]
  rfl

theorem lvqGiven_leads (h : leads s) : lvqGiven s found y l = found l := if_neg fun hs => Bool.false_ne_true (h.2.1.symm.trans hs.2)
theorem lvqGiven_follows (h : follows s) : lvqGiven s found y l = y l := if_pos ⟨h.1, h.2.1⟩

theorem lvqHolds_leads {lanes : List Nat} (h : leads s) : lvqHolds s y rest lanes := fun _ hr => absurd hr (ne_true_of_eq_false h.2.1)

theorem behind_leads (h : leads s) : s.behind = false := by
  obtain ⟨-, -, halone, -⟩ := h
  rw [State.behind, halone, Bool.and_false]

theorem behind_follows (h : follows s) : s.behind = true := by
  obtain ⟨hsh, -, halone, -⟩ := h
  rw [State.behind, hsh, halone]
  rfl

end

theorem length_lanesInOrder (s : State) (b : Block) (h : LaneHdr) : (lanesInOrder s b h).length ≤ 64 :=
  (List.length_filter_le ..).trans (List.length_range ..).le

/-- Settles O20: every lane reads its bytes in a state that reads as the first one does, or takes its value from the queue. -/
theorem laneLoads : Obligations.LaneLoads := by
  unfold Obligations.LaneLoads
  refine ⟨?_, fun s b h => pref_completes, ?_, ?_⟩
  · intro s b h t acq x tr ⟨hs, _, _⟩ c n loads
    have word {i : Instr} {acq : Option Scope} {hint : LaneCx → Nat} {va : LaneCx → Nat → Nat} (hexec : exec i s = genericLoad i s t hint acq va) :
        loads i acq (va c) := by
      intro hready hlanes
      have hlane {l : Nat} (hl : l ∈ lanesInOrder s b h) := hlanes l (mem_lanesInOrder.1 hl).1 (mem_lanesInOrder.1 hl).2
      have hbuf {l : Nat} (hl : l ∈ lanesInOrder s b h) : s.warp.buffered = false := (hlane hl).1.2.2.2.1
      obtain ⟨u, hu, hends⟩ := load_home (y := fun _ => 0) (rest := []) (tr := tr) hready hexec (lvqHolds_plain hs)
        { notBehind := behind_plain hs
          unconfirmed := unconfirmed_plain hs
          stores := fun l hl hbuffered => absurd hbuffered (ne_true_of_eq_false (hbuf hl))
          reach := fun l hl => by
            obtain ⟨⟨halign, hperm, hp, -, -, -, hso⟩, -, hA, -⟩ := hlane hl
            exact ⟨halign, hperm, hp, hA, absurd rfl, hso⟩
          home := fun l hl => (hlane hl).2.1
          device := fun hsome l hl => by
            rw [(buffered_eq_false (hbuf hl)).2] at hsome
            cases hsome }
      have hloaded := hends.lanesLoaded hready.1 fun hne => (buffered_eq_false (hbuf (List.head_mem hne))).2
      rw [regs_eq] at hloaded
      refine ⟨u, hu, ⟨_, hloaded, fun l hl hleft => extended_of_found ?_⟩, hends.bytes, hends.hostMem, hends.cdc, hends.frame_plain hs⟩
      rw [lvqGiven_plain hs, homeFound_plain (hbuf (mem_lanesInOrder.2 ⟨hl, hleft⟩))]
    exact ⟨word (hint := fun c => c.h.hint.toNat) (va := LaneCx.va) rfl, word (hint := fun c => c.h.hint.toNat) (va := fun c => c.vax x) rfl⟩
  · intro s b h t acq x tr ⟨hbuf, hs, _, _, hes, _, hroom⟩ c n loads
    have word {i : Instr} {acq : Option Scope} {hint : LaneCx → Nat} {va : LaneCx → Nat → Nat} (hexec : exec i s = genericLoad i s t hint acq va) :
        loads i (va c) := by
      intro hready hlanes
      obtain ⟨u, hu, hends⟩ := load_home (y := fun _ => 0) (rest := []) (tr := tr) hready hexec (lvqHolds_plain hs)
        { notBehind := behind_plain hs
          unconfirmed := unconfirmed_plain hs
          stores := fun _ _ _ => hes
          reach := fun l hl => (hlanes l hl).1
          home := fun l hl => (hlanes l hl).2.1
          device := fun hsome l hl => (hlanes l hl).2.2 (Option.isSome_iff_ne_none.1 hsome) }
      obtain ⟨touched, htask⟩ := hends.task
      have htouch : (s.warp.touch touched).task = s.warp.task := (congrArg Warp.task (touch_frame touched) :)
      have hloaded := hends.lanesLoaded_task hready.1
      rw [regs_eq] at hloaded
      refine ⟨u, hu, ⟨_, hloaded, fun l hl => extended_of_found ?_⟩, fun hnone => ?_, fun k hk => ?_, hends.bytes, hends.hostMem, hends.frame_plain hs⟩
      · rw [lvqGiven_plain hs, homeFound_buffered hbuf]
      · rw [htask, taskReads_plain (htouch.trans hnone), htouch, hnone]
      · have hlen := length_lanesInOrder s b h
        have hcount := carrelCount_le k.carrel
        obtain ⟨k', hk', hframe, -, hmem⟩ := taskReads_readSet (tr := tr) (htouch.trans hk) (lanesInOrder s b h) (by have := (hroom k hk).2; omega)
        exact ⟨k', htask.trans hk', hframe, hmem⟩
    exact ⟨word (hint := fun c => c.h.hint.toNat) (va := LaneCx.va) rfl, word (hint := fun c => c.h.hint.toNat) (va := fun c => c.vax x) rfl⟩
  · intro s b h t acq x buf cnt tr ad y rest c g lanes value loads memory buffer
    have hitems {va : Nat → Nat} (hsh : s.warp.isShadowed = true) :
        logged s (lanes.map (loadItem va)) = s.items ++ lanes.map fun l => ⟨1, [va l], laneBit l, va l⟩ := if_pos hsh
    have hextend (m : Nat) : t.extend m = value t.bytes true m := (extend_eq t m).trans (by simp only [value, true_and])
    have memWord {i : Instr} {acq : Option Scope} {hint : LaneCx → Nat} {va : LaneCx → Nat → Nat} (hexec : exec i s = genericLoad i s t hint acq va) :
        memory i (va c) := by
      refine fun hready => ⟨fun hlead hok => ?_, fun hfollow hok hq => ?_⟩
      · obtain ⟨hsh, -, -, hbuf, hun, -, -⟩ := id hlead
        obtain ⟨u, hu, hends⟩ := load_home (y := y) (rest := rest) (tr := tr) hready hexec (lvqHolds_leads hlead)
          { notBehind := behind_leads hlead
            unconfirmed := hun
            stores := fun _ _ hbuffered => absurd hbuffered (ne_true_of_eq_false hbuf)
            reach := fun l hl => (hok l hl).1
            home := fun l hl => (hok l hl).2
            device := fun hsome => by
              rw [(buffered_eq_false hbuf).2] at hsome
              cases hsome }
        have hloaded := hends.lanesLoaded hready.1 fun _ => (buffered_eq_false hbuf).2
        have hlvq := hends.lvq.trans (lvqAfter_leads hlead)
        rw [regs_eq] at hloaded
        simp only [homeFound_plain hbuf] at hlvq
        refine ⟨u, hu, ⟨_, hloaded, fun l _ => ?_⟩, hlvq, hends.items.trans (hitems hsh), hends.bytes, hends.hostMem, hends.frame⟩
        rw [lvqGiven_leads hlead, homeFound_plain hbuf, hextend]
      · obtain ⟨hsh, hrun, -, hbuf⟩ := id hfollow
        obtain ⟨u, hu, hends⟩ := load_behind (y := y) (rest := rest) hready hexec (fun _ _ => hq) (fun _ => 0)
          ⟨behind_follows hfollow, hrun, hbuf, hok⟩
        have hloaded := hends.lanesLoaded hready.1 fun _ => (buffered_eq_false hbuf).2
        rw [regs_eq] at hloaded
        refine ⟨u, hu, ⟨_, hloaded, fun l _ => ?_⟩, hends.lvq.trans (lvqAfter_follows hfollow), hends.items.trans (hitems hsh)⟩
        rw [lvqGiven_follows hfollow, hextend]
    have bufWord {i : Instr} {n regs : Nat} {extend : Bool} {at' ok' : Nat → Prop} {check : LaneCx → State → Nat → LChk × State} {f : Nat → Nat}
        (adBehind : Nat → BufAddr)
        (hexec : exec i s = .next (laneGate i s fun c s => bufferWord c s regs accRead n c.sa (check c)
          fun s l a => (s.bufLoad c.w.ident.grid a n (lanesOf [l]) (c.sa l)).map f))
        (hcheck : ∀ l (u : State), c.sa l % n = 0 → at' l → u.behind = false → u.crews = s.crews → check c u l = (.buffer (ad l), u))
        (hbehind : ∀ l (u : State), c.sa l % n = 0 → ok' l → u.behind = true → check c u l = (.buffer (adBehind l), u))
        (hf : ∀ m, f m = value n extend m) : buffer i n regs extend at' ok' := by
      refine fun hready => ⟨fun hlead hok => ?_, fun hfollow hok hq => ?_⟩
      · obtain ⟨hsh, -, -, hbuf, hun, -, hslips⟩ := id hlead
        have hb := behind_leads hlead
        obtain ⟨u, hu, hloaded, hlvq, hitem, hframe⟩ := bufferLoad_completes (y := y) (rest := rest) (ad := ad) hready hexec (.inr ⟨hslips, hun⟩)
          (lvqHolds_leads hlead) (fun l hl u hu hc => hcheck l u (hok l hl).1 (hok l hl).2.1 (hu.trans hb) hc)
          (fun l hl => .inr (by rw [bufSeen_eq hun]; exact (hok l hl).2.2))
        rw [lvqAfter_leads hlead] at hlvq
        simp only [bufFound_eq hun] at hlvq
        refine ⟨u, hu, ⟨_, hloaded, fun l _ => ?_⟩, hlvq, hitem.trans (hitems hsh), fun a => (congrArg (State.devByte · a) hframe :),
          (congrArg State.hostMem hframe :), ?_⟩
        · rw [lvqGiven_leads hlead, bufFound_eq hun, hf]
        · exact (congrArg (likeBeforeLoad s) hframe :)
      · obtain ⟨hsh, hrun, -, hbuf⟩ := id hfollow
        have hb := behind_follows hfollow
        obtain ⟨u, hu, hloaded, hlvq, hitem, -⟩ := bufferLoad_completes (y := y) (rest := rest) (ad := adBehind) hready hexec (.inl hb)
          (fun _ _ => hq) (fun l hl u hu _ => hbehind l u (hok l hl).1 (hok l hl).2 (hu.trans hb)) (fun _ _ => .inl hb)
        refine ⟨u, hu, ⟨_, hloaded, fun l _ => ?_⟩, hlvq.trans (lvqAfter_follows hfollow), hitem.trans (hitems hsh)⟩
        rw [lvqGiven_follows hfollow, hf]
    refine ⟨memWord (hint := fun c => c.h.hint.toNat) (va := LaneCx.va) rfl, memWord (hint := fun c => c.h.hint.toNat) (va := fun c => c.vax x) rfl,
      ?_, ?_⟩
    · refine bufWord (i := .lds h t) (n := t.bytes) (extend := true) (at' := fun l => s.scratch s.warp (c.sa l) false false = .ok (ad l))
        (ok' := fun _ => True) (f := t.extend) (check := fun c s l => s.scratchCheck c.w t.bytes (c.sa l) false false)
        (fun l => ⟨s.warp.ident.crew, bitsOf (c.sa l) 21 2, c.sa l % 2 ^ 19⟩) ?_ ?_ ?_ hextend
      · rw [← regs_eq]
        rfl
      · exact fun l u hal hat hb hc => scratchCheck_ok hal hb (sameCores_of_crews hc) hat
      · exact fun l u hal _ hb => scratchCheck_behind hal hb
    · refine bufWord (i := .ldb h t buf cnt) (extend := cnt == .x1)
        (at' := fun l => c.sa l < 2 ^ 19 ∧ ad l = ⟨s.warp.ident.crew, buf.num, c.sa l⟩) (ok' := fun l => c.sa l < 2 ^ 19)
        (f := fun x => if cnt = .x1 then t.extend x else x) (check := fun c s l => s.ownCheck c.w buf.num (t.bytes * cnt.num) (c.sa l))
        (fun l => ⟨s.warp.ident.crew, buf.num, c.sa l⟩) rfl ?_ ?_ fun m => ?_
      · rintro l u hal ⟨hlt, had⟩ - -
        rw [had]
        exact ownCheck_ok hal hlt
      · exact fun l u hal hlt _ => ownCheck_ok hal hlt
      · cases cnt with
        | x1 => simpa [Cnt.num, value] using extend_eq t m
        | x2 | x4 => simp [value]

end Sys2Proof
end

section
/-! SUPPORT. Trap entry and the return from it (R183, R186 to R188), O10 and O12. -/

namespace Sys2Proof

open Sys2Proof.Machine

/-! ## TRAP_CAUSE (R24) -/

section
variable (detail : W32) (word : Nat) (lanew : Bool) (level : Nat) (code : Byte)

/-- `TRAP_CAUSE` bit by bit: CODE, LEVEL, LANE, the index of the lane word, zeros and DETAIL. -/
theorem causeWord_bit (i : Nat) : (causeWord detail word lanew level code).getLsbD i =
    if i < 8 then code.getLsbD i else if i < 10 then (BitVec.ofNat 2 level).getLsbD (i - 8) else if i < 11 then lanew
      else if i < 17 then (BitVec.ofNat 6 word).getLsbD (i - 11) else if i < 32 then false else detail.getLsbD (i - 32) := by
  show BitVec.getLsbD (detail ++ (0#15 ++ (BitVec.ofNat 6 word ++ (BitVec.ofBool lanew ++ (BitVec.ofNat 2 level ++ code)))) :
    BitVec (32 + (15 + (6 + (1 + (2 + 8)))))) i = _
  grind [BitVec.getLsbD_ofBool]

theorem causeWord_fields :
    let k := causeWord detail word lanew level code
    k.setWidth 8 = code ∧ k.extractLsb' 8 2 = BitVec.ofNat 2 level ∧ k.extractLsb' 10 1 = BitVec.ofBool lanew ∧
      k.extractLsb' 11 6 = BitVec.ofNat 6 word ∧ k.extractLsb' 17 15 = 0#15 ∧ k.extractLsb' 32 32 = detail := by
  refine ⟨?_, ?_, ?_, ?_, ?_, ?_⟩ <;> refine BitVec.eq_of_getLsbD_eq fun i hi => ?_
  · grind [BitVec.getLsbD_setWidth, causeWord_bit]
  all_goals grind [BitVec.getLsbD_ofBool, causeWord_bit]
end

/-! ## Causes of a scalar word that makes no access (R187) -/

/-- The cause that a scalar word of four bytes raises with a code and DETAIL. -/
def wordCause (s : State) (code : Byte) (detail : W32) : Cause := ⟨code, detail, 0, 0, s.warp.pc, 4, false, 0⟩

theorem ofNat_toNat_setWidth (c : BitVec 14) : BitVec.ofNat 32 c.toNat = c.setWidth 32 := BitVec.eq_of_toNat_eq (by simp)

/-- Outside a launch that debugs, `brk` traps as `trap` does, with the code `BREAK` (R187). -/
theorem trapWord_next {s : State} {brk : Bool} (code : BitVec 14) (h : brk = true → s.warp.debug = false) :
    exec (if brk then .brk code else .trap code) s = .next (s.trap (wordCause s (if brk then 0x19 else 0x18) (code.setWidth 32))) := by
  rw [← ofNat_toNat_setWidth]
  cases brk with
  | false => rfl
  | true =>
    show execBrk code s = _
    simp only [execBrk, h rfl, Bool.false_eq_true, if_false]
    rfl

/-! ## Traps under a fork (R188) -/

/-- The other arm's issued words complete first, and a cause that it has raised before is taken first. -/
theorem trapHeld_iff (w : Warp) : w.trapHeld = true ↔ ∃ f, w.fork = some f ∧ (f.first = some (1 - f.cur) ∨
    (f.other.inFlight = true ∧ f.other.block ≠ none ∧ (f.other.pending = none ∨ f.other.wait ≠ .none))) := by
  unfold Warp.trapHeld Fork.unfinished
  cases w.fork with
  | none => simp
  | some f =>
    simp [Option.isSome_iff_ne_none, or_comm, and_assoc]

theorem raised_iff (f : Fork) : f.raised = true ↔ (f.other.pending ≠ none ∨ f.other.inFlight = true) ∧ f.other.wait = .none := by
  simp [Fork.raised, Option.isSome_iff_ne_none]

/-- The arm that comes next: the other one, where it has raised a cause or runs again and may raise one. -/
theorem nextFirst_eq (f : Fork) : f.nextFirst =
    if (f.other.pending ≠ none ∨ f.other.inFlight = true) ∧ f.other.wait = .none then some (1 - f.cur) else none := by
  unfold Fork.nextFirst
  simp only [raised_iff]

theorem trap_held {s : State} (h : s.warp.trapHeld = true) (c : Cause) :
    s.trap c = (withItems s [⟨7, [c.code.toNat, c.mask.toNat], c.mask, c.va⟩]).upd (·.raiseCause c) := by
  rw [← itemAt_eq]
  rcases s.trap_cases c with ⟨-, h'⟩ | ⟨h', -⟩
  · exact h'
  · simp [h] at h'

/-- A trap that need not wait enters the handler of the next level where one is registered (R183). -/
theorem trap_enters {s : State} (hheld : s.warp.trapHeld = false) (hlevel : s.warp.level ≠ 2) (h0 : s.warp.level = 0 → s.warp.h1 ≠ 0)
    (h1 : s.warp.level = 1 → s.warp.h2 ≠ 0) (c : Cause) :
    s.trap c = (withItems s [⟨7, [c.code.toNat, c.mask.toNat], c.mask, c.va⟩]).upd (·.enter c (s.warp.level + 1)) := by
  rw [← itemAt_eq]
  rcases s.trap_cases c with ⟨h, -⟩ | ⟨-, ⟨h, -⟩ | ⟨h, h', -⟩ | ⟨-, -, h⟩⟩
  · simp [hheld] at h
  · exact absurd h (by rintro (h | ⟨h, h'⟩); exacts [hlevel h, h1 h h'])
  · exact absurd h' (h0 h)
  · exact h

/-- A cause of a scalar word, while it stays pending, changes nothing but what R188 names. -/
theorem raiseCause_frame (w : Warp) {c : Cause} (h : c.lanew = false) :
    { w.raiseCause c with pending := w.pending, wait := w.wait, fork := w.fork } = w := by
  simp [Warp.raiseCause, h]

/-! ## What entry saves (R183) -/

section
variable (w : Warp) (c : Cause) (n : Fin 3)

theorem enter_bank : vget (w.enter c n).trap (n.val - 1) .zero =
    ⟨causeWord c.detail (if c.lanew then w.lanePc else 0) c.lanew n.val c.code, c.addr, c.mask, c.dest.extractLsb' 0 64, c.dest.extractLsb' 64 64⟩ :=
  (vget_vset _ _ _ _ _).trans (if_pos ⟨rfl, by omega⟩)

theorem enter_record : vget (w.enter c n).save (n.val - 1) .zero =
    ⟨c.lanew, w.lanePc, c.size, if c.lanew then w.block else none, w.partDone, w.am, nextKind c.code, w.stack.length, false⟩ :=
  (vget_vset _ _ _ _ _).trans (if_pos ⟨rfl, by omega⟩)

theorem enter_otherBanks {k : Nat} (h : k ≠ n.val - 1) :
    vget (w.enter c n).trap k .zero = vget w.trap k .zero ∧ vget (w.enter c n).save k .zero = vget w.save k .zero :=
  ⟨(vget_vset _ _ _ _ _).trans (if_neg fun h' => h h'.1.symm), (vget_vset _ _ _ _ _).trans (if_neg fun h' => h h'.1.symm)⟩
end

/-- Entry to the next level holds the fork made at the old one (R188). -/
theorem enter_fork (w : Warp) (c : Cause) (h : w.level ≠ 2) : (w.enter c (w.level + 1)).fork = w.fork.map fun f : Fork =>
    if f.level = w.level then { f with
      held := true
      first := if (f.other.pending ≠ none ∨ f.other.inFlight = true) ∧ f.other.wait = .none then some (1 - f.cur) else none } else f := by
  simp only [← nextFirst_eq]
  have hval : (w.level + 1).val = w.level.val + 1 := by revert h; generalize w.level = l; revert l; decide
  simp only [Warp.enter, hval, Nat.add_right_cancel_iff, Fin.val_inj]

/-- Settles O10: the cause of the word stays pending or enters the handler, and what entry saves is read back. -/
theorem trapEntry : Obligations.TrapEntry := by
  unfold Obligations.TrapEntry
  intro s code n brk hdebug hn hn0 w handler held
  have hnext := trapWord_next code hdebug
  have hitem : (if brk then (0x19 : Byte) else 0x18).toNat = if brk then 0x19 else 0x18 := by cases brk <;> rfl
  have hlevel : w.level ≠ 2 := fun h => hn0 (by rw [hn, show s.warp.level = 2 from h]; rfl)
  generalize hc : wordCause s (if brk then 0x19 else 0x18) (code.setWidth 32) = c at hnext
  refine ⟨fun h => ⟨_, hnext, ?_⟩, fun hhandler h => ⟨_, hnext, ?_⟩⟩
  · rw [trap_held ((trapHeld_iff w).2 h)]
    subst hc
    refine ⟨rfl, rfl, rfl, ?_, rfl, ?_⟩
    · exact raiseCause_frame w rfl
    · exact congrArg (fun k : Nat => logged s [⟨7, [k, 0], 0, 0⟩]) hitem
  · have h0 : w.level = 0 → w.h1 ≠ 0 := fun hl => by simpa [handler, hn, w, show s.warp.level = 0 from hl] using hhandler
    have h1 : w.level = 1 → w.h2 ≠ 0 := fun hl => by simpa [handler, hn, w, show s.warp.level = 1 from hl] using hhandler
    rw [trap_enters (Bool.eq_false_iff.2 (mt (trapHeld_iff w).1 h)) hlevel h0 h1, ← hn]
    subst hc
    refine ⟨rfl, rfl, rfl, rfl, rfl, rfl, rfl, ?_, ?_, ?_, ?_, rfl, rfl, ?_⟩
    · rintro b rfl
      obtain ⟨hcode, hlev, hlane, hword, hzero, hdetail⟩ :=
        causeWord_fields (code.setWidth 32) 0 false n.val (if brk then 0x19 else 0x18)
      rw [State.upd_warp, enter_bank]
      exact ⟨hcode, hlev, hlane, hword, hzero, hdetail, rfl, rfl, rfl, show BitVec.extractLsb' 64 64 0#128 = 0 by decide⟩
    · rintro r rfl
      rw [State.upd_warp, enter_record]
      refine ⟨rfl, rfl, rfl, rfl, ?_, rfl, rfl⟩
      cases brk <;> rfl
    · exact fun k hk => enter_otherBanks w _ n hk
    · rw [hn]
      exact enter_fork w _ hlevel
    · exact congrArg (fun k : Nat => logged s [⟨7, [k, 0], 0, 0⟩]) hitem

/-! ## Returns (R186) -/

/-- A warp at the level below, with the mask of its record in the lanes that still live, and a fork that the trap held running again (R186, R188). -/
def atLowerLevel (w : Warp) : Warp := { w with
  level := w.level - 1
  am := (vget w.save (w.level.val - 1) .zero).am &&& w.live
  fork := w.fork.map fun f : Fork => if f.level.val + 1 = w.level.val then { f with held := false, first := f.nextFirst } else f }

section
variable {w : Warp} (skip : Bool)

theorem leave_redirected (h : (vget w.save (w.level.val - 1) .zero).redirect = true) : w.leave skip =
    { atLowerLevel w with partDone := 0, pc := (vget w.trap (w.level.val - 1) .zero).pc, block := none } := if_pos h

theorem leave_scalar (h : (vget w.save (w.level.val - 1) .zero).redirect = false) (hl : (vget w.save (w.level.val - 1) .zero).lanew = false) :
    w.leave skip = { atLowerLevel w with
      pc := if (vget w.save (w.level.val - 1) .zero).next = true ∨ skip = true then
          (vget w.trap (w.level.val - 1) .zero).pc + BitVec.ofNat 64 (vget w.save (w.level.val - 1) .zero).size
        else (vget w.trap (w.level.val - 1) .zero).pc } := by
  simp only [Warp.leave, h, hl, Bool.false_eq_true, if_false]
  rfl

/-- The end of a lane word's return at the word (`past` false) or past it. -/
def reopened (w : Warp) (r : SaveRec) (b : Block) (a : W64) (past : Bool) : Warp :=
  if past then
    { w with partDone := 0, pc := a + 4,
             block := if r.word + 1 < b.count then some { b with lanePc := r.word + 1, am := b.am &&& w.live } else none }
  else { w with partDone := r.partDone, inFlight := true, pc := a + 4, block := some { b with lanePc := r.word, am := b.am &&& w.live } }

theorem leave_lane (h : (vget w.save (w.level.val - 1) .zero).redirect = false) (hl : (vget w.save (w.level.val - 1) .zero).lanew = true)
    {b : Block} (hb : (vget w.save (w.level.val - 1) .zero).block = some b) : w.leave skip =
      reopened (atLowerLevel w) (vget w.save (w.level.val - 1) .zero) b (vget w.trap (w.level.val - 1) .zero).pc
        ((vget w.save (w.level.val - 1) .zero).next || skip) := by
  simp only [Warp.leave, h, hl, hb, Bool.false_eq_true, if_false, if_true, reopened, Bool.or_eq_true]
  split
  · split <;> rfl
  · rfl

/-- What a return leaves as it was, and the registers that it always restores. -/
theorem leave_frame : { w.leave skip with pc := w.pc, block := w.block, partDone := w.partDone, inFlight := w.inFlight } =
    { atLowerLevel w with pc := w.pc, block := w.block, partDone := w.partDone, inFlight := w.inFlight } := by
  cases h : (vget w.save (w.level.val - 1) .zero).redirect with
  | true => rw [leave_redirected skip h]
  | false =>
    cases hl : (vget w.save (w.level.val - 1) .zero).lanew with
    | false => rw [leave_scalar skip h hl]
    | true =>
      cases hb : (vget w.save (w.level.val - 1) .zero).block with
      | none =>
        simp only [Warp.leave, h, hl, hb, Bool.false_eq_true, if_false, if_true]
        rfl
      | some b =>
        rw [leave_lane skip h hl hb, reopened]
        split <;> rfl
end

theorem rett_next {s : State} (skip : Bool) (h : s.warp.level ≠ 0)
    (hd : s.warp.stack.length = (vget s.warp.save (s.warp.level.val - 1) .zero).depth) :
    exec (if skip then .rettSkip else .rett) s = .next (s.upd (·.leave skip)) := by
  have hrett (enc : Nat) : s.rett enc skip = s.upd (·.leave skip) := by rw [State.rett, if_neg h, if_neg (not_not.2 hd)]
  cases skip with
  | false => exact congrArg Host.Outcome.next (hrett _)
  | true => exact congrArg Host.Outcome.next (hrett _)

/-- Settles O12 (`return` alone is a keyword): what every return restores, and then each kind of return by where it goes on. -/
theorem return' : Obligations.Return := by
  unfold Obligations.Return
  intro s skip hlevel w r a past hdepth
  have hframe := leave_frame (w := w) skip
  refine ⟨_, rett_next skip hlevel hdepth, ?_, (congrArg Warp.am hframe :), rfl, ?_, ?_, fun h => ?_, fun h hl => ?_, fun b h hl hb => ?_⟩
  · have hl : (w.leave skip).level = w.level - 1 := (congrArg Warp.level hframe :)
    rw [State.upd_warp, show (s.warp.leave skip).level = _ from hl]
    have hne : w.level ≠ 0 := hlevel
    revert hne
    generalize w.level = l
    revert l
    decide
  · exact (congrArg (fun x : Warp => { x with level := w.level, am := w.am, fork := w.fork }) hframe :)
  · simp only [← nextFirst_eq]
    exact (congrArg Warp.fork hframe :)
  · rw [State.upd_warp, leave_redirected skip h]
    exact ⟨rfl, rfl, rfl, rfl⟩
  · rw [State.upd_warp, leave_scalar skip h hl]
    refine ⟨?_, rfl, rfl, rfl⟩
    simp only [past, Bool.or_eq_true]
    rfl
  · rw [State.upd_warp, leave_lane skip h hl hb]
    generalize hp : ((vget w.save (w.level.val - 1) .zero).next || skip) = p
    rw [show past = p from hp]
    cases p with
    | false => exact ⟨rfl, fun _ => ⟨rfl, rfl, rfl⟩, nofun⟩
    | true => exact ⟨rfl, nofun, fun _ => ⟨rfl, rfl, rfl⟩⟩

end Sys2Proof
end

section
/-! SUPPORT. Context stops that words raise (R187, R389, R392, R406, R407), and O41. -/

namespace Sys2Proof

open Sys2Proof.Machine

/-! ## Evictions -/

/-- A warp, evicted where its number is among some. -/
def evictIn (ids : List Nat) (w : Warp) : Warp := if w.id ∈ ids then { w with evicted := true } else w

section
variable (ids : List Nat) (w : Warp)

@[simp] theorem evictIn_nil : evictIn [] w = w := if_neg List.not_mem_nil
@[simp] theorem evictIn_id : (evictIn ids w).id = w.id := by unfold evictIn; split <;> rfl
@[simp] theorem evictIn_alive : (evictIn ids w).alive = w.alive := by unfold evictIn; split <;> rfl
@[simp] theorem evictIn_ident : (evictIn ids w).ident = w.ident := by unfold evictIn; split <;> rfl
@[simp] theorem evictIn_pc : (evictIn ids w).pc = w.pc := by unfold evictIn; split <;> rfl
@[simp] theorem evictIn_sget (r : SReg) : (evictIn ids w).sget r = w.sget r := by unfold evictIn; split <;> rfl

theorem evictIn_evicted : (evictIn ids w).evicted = (w.evicted || decide (w.id ∈ ids)) := by
  unfold evictIn; split <;> simp [*]

theorem evictIn_evictIn (l : List Nat) : evictIn l (evictIn ids w) = evictIn (ids ++ l) w := by
  simp only [evictIn, List.mem_append]
  split <;> split <;> simp_all
end

/-- No warp but the current one has its number. -/
def ownNumber (s : State) : Prop := ∀ z ∈ s.others, z.id ≠ s.warp.id

/-- Of the warps that execute words, those with some numbers have been evicted and nothing else has changed; nor has the stop of the module. -/
structure Evicts (t s : State) (ids : List Nat) : Prop where
  warp : t.warp = evictIn ids s.warp
  others : t.others = s.others.map (evictIn ids)
  moduleStop : t.moduleStop = s.moduleStop

theorem evicts_none {t s : State} (hw : t.warp = s.warp) (ho : t.others = s.others) (hm : t.moduleStop = s.moduleStop) : Evicts t s [] :=
  ⟨by rw [hw, evictIn_nil], by rw [ho, funext evictIn_nil, List.map_id'], hm⟩

theorem evicts_trans {t u s : State} {ids l : List Nat} (h : Evicts t u l) (h' : Evicts u s ids) : Evicts t s (ids ++ l) := by
  refine ⟨by rw [h.warp, h'.warp, evictIn_evictIn], ?_, h.moduleStop.trans h'.moduleStop⟩
  rw [h.others, h'.others, List.map_map]
  exact List.map_congr_left fun w _ => evictIn_evictIn ids w l

theorem evicts_ownNumber {t s : State} {ids : List Nat} (h : Evicts t s ids) (hs : ownNumber s) : ownNumber t := by
  intro z hz
  rw [h.others] at hz
  obtain ⟨x, hx, rfl⟩ := List.mem_map.1 hz
  rw [h.warp, evictIn_id, evictIn_id]
  exact hs x hx

theorem mem_warps {s : State} {z : Warp} : z ∈ s.warps ↔ (z = s.warp ∨ z ∈ s.others) ∧ z.alive = true := by
  simp [State.warps]

/-- Each live warp was one before, evicted where its number is among those. -/
theorem evicted_warps {t s : State} {ids : List Nat} (hw : t.warp = evictIn ids s.warp) (ho : t.others = s.others.map (evictIn ids)) {z : Warp}
    (hz : z ∈ t.warps) : ∃ x ∈ s.warps, z = evictIn ids x := by
  rw [mem_warps, hw, ho, List.mem_map] at hz
  obtain ⟨rfl | ⟨x, hx, rfl⟩, ha⟩ := hz
  · exact ⟨s.warp, mem_warps.2 ⟨.inl rfl, by simpa using ha⟩, rfl⟩
  · exact ⟨x, mem_warps.2 ⟨.inr hx, by simpa using ha⟩, rfl⟩

theorem modPair_evicts {s : State} (h : ownNumber s) (id : Nat) :
    Evicts (s.modPair id fun w => { w with evicted := true }) s [id] ∧ (s.modPair id fun w => { w with evicted := true }).parts = s.parts := by
  unfold State.modPair State.modWarp
  by_cases hid : s.warp.id = id
  · subst hid
    rw [if_pos rfl]
    refine ⟨⟨by simp [evictIn], ?_, rfl⟩, rfl⟩
    exact ((List.map_congr_left fun z hz => if_neg (by simpa using h z hz)).trans (List.map_id' _)).symm
  · rw [if_neg hid]
    exact ⟨⟨by simp [evictIn, hid], by simp [evictIn], rfl⟩, rfl⟩

/-- Some warps and their shadows evicted. -/
def evictAll (s : State) (l : List Warp) : State := l.foldl (fun s w => s.modPair w.id fun w => { w with evicted := true }) s

theorem evictAll_evicts (l : List Warp) : ∀ {s : State}, ownNumber s →
    Evicts (evictAll s l) s (l.map (·.id)) ∧ (evictAll s l).parts = s.parts := by
  induction l with
  | nil => exact fun _ => ⟨evicts_none rfl rfl rfl, rfl⟩
  | cons w l ih =>
    intro s h
    obtain ⟨he, hp⟩ := modPair_evicts h w.id
    obtain ⟨he', hp'⟩ := ih (evicts_ownNumber he h)
    exact ⟨evicts_trans he' he, hp'.trans hp⟩

/-! ## The raise (R389, R390, R392) -/

theorem recount_frame (s : State) (p : Nat) (x : Stop) : ∃ b, s.recount p x = { s with stopBuf := b } := by
  unfold State.recount
  generalize x.reached.filter _ = l
  induction l generalizing s with
  | nil => exact ⟨s.stopBuf, rfl⟩
  | cons i l ih =>
    obtain ⟨b, hb⟩ := ih _
    exact ⟨b, hb⟩

theorem recount_part (s : State) (p q : Nat) (x : Stop) : (s.recount p x).part q = s.part q := by
  obtain ⟨b, hb⟩ := recount_frame s p x
  rw [hb]
  rfl

theorem restop_part (s : State) (p q : Nat) (x : Stop) :
    (s.restop p x).part q = if q = p then { s.part p with stop := some { x with count := x.count + 1 } } else s.part q := by
  rw [State.restop, recount_part, part_modPart]

theorem restop_evicts (s : State) (p : Nat) (x : Stop) : Evicts (s.restop p x) s [] := by
  obtain ⟨b, hb⟩ := recount_frame (s.modPart p fun y => { y with stop := some { x with count := x.count + 1 } }) p x
  rw [State.restop, hb]
  exact evicts_none rfl rfl rfl

/-- A stop of a partition is under way: it has begun with a reason, code, source and `brk`, and no warp of the partition issues; or the one that was
under way before, `old`, counts the further one. -/
def stopUnder (t : State) (p reason code source : Nat) (brk : Option (W64 × Nat)) (old : Option Stop) : Prop :=
  match old with
  | none => ∃ y, (t.part p).stop = some y ∧ y.reason = reason ∧ y.code = code ∧ y.count = 1 ∧ y.source = source ∧ y.brk = brk ∧
      ∀ z ∈ t.warps, z.ident.part = p → z.evicted = true
  | some y => (t.part p).stop = some { y with count := y.count + 1 }

theorem stopUnder_mono {t u : State} {p reason code source : Nat} {brk : Option (W64 × Nat)} {old : Option Stop} {ids : List Nat}
    (hp : t.part p = u.part p) (hw : t.warp = evictIn ids u.warp) (ho : t.others = u.others.map (evictIn ids))
    (h : stopUnder u p reason code source brk old) : stopUnder t p reason code source brk old := by
  have hstop : (t.part p).stop = (u.part p).stop := congrArg Part.stop hp
  cases old with
  | some y => exact hstop.trans h
  | none =>
    obtain ⟨y, hy, hr, hc, hn, hs, hb, hev⟩ := h
    refine ⟨y, hstop.trans hy, hr, hc, hn, hs, hb, fun z hz hpart => ?_⟩
    obtain ⟨x, hx, rfl⟩ := evicted_warps hw ho hz
    rw [evictIn_evicted, hev x hx (by simpa using hpart)]
    rfl

/-- A partition as its halt line is raised where no stop is under way. -/
def haltedPart (s : State) (b : Stop) (p : Nat) : Part := { s.part p with
  stop := some { b with reached := s.stopSources p, left := s.stopSources p, wasRunning := (s.part p).state == .running } }

/-- The halt line of one partition. -/
theorem raiseOne_spec {s : State} {b : Stop} (hb : b.count = 1) (p : Nat) (h : ownNumber s) :
    stopUnder (s.raiseOne b p) p b.reason b.code b.source b.brk (s.part p).stop ∧ (∀ q, q ≠ p → (s.raiseOne b p).part q = s.part q) ∧
      ∃ ids, Evicts (s.raiseOne b p) s ids ∧ (s.warp.ident.part ≠ p → s.warp.id ∉ ids) := by
  unfold State.raiseOne
  cases hs : (s.part p).stop with
  | some x =>
    dsimp only
    refine ⟨?_, fun q hq => ?_, [], restop_evicts s p x, fun _ => List.not_mem_nil⟩
    · exact congrArg Part.stop ((restop_part s p p x).trans (if_pos rfl))
    · rw [restop_part, if_neg hq]
  | none =>
    dsimp only
    generalize hu : s.modPart p _ = u
    have hpart (q : Nat) : u.part q = if q = p then haltedPart s b p else s.part q := by rw [← hu]; exact part_modPart s p q _
    have hus : Evicts u s [] := by rw [← hu]; exact evicts_none rfl rfl rfl
    have hwarps : u.warps = s.warps := by rw [← hu]; rfl
    obtain ⟨he, hp⟩ := evictAll_evicts (u.warps.filter fun w => w.ident.part == p) (evicts_ownNumber hus h)
    rw [← evictAll]
    generalize evictAll u _ = t at he hp ⊢
    have hparts (q : Nat) : t.part q = u.part q := congrArg (fun x => Tab.get x q Part.blank) hp
    have hstop : (t.part p).stop = (haltedPart s b p).stop := congrArg Part.stop ((hparts p).trans ((hpart p).trans (if_pos rfl)))
    refine ⟨⟨_, hstop, rfl, rfl, hb, rfl, rfl, fun z hz hz' => ?_⟩, fun q hq => ?_, _, evicts_trans he hus, ?_⟩
    · obtain ⟨x, hx, rfl⟩ := evicted_warps he.warp he.others hz
      rw [evictIn_evicted, Bool.or_eq_true, decide_eq_true_eq]
      exact .inr (List.mem_map_of_mem (List.mem_filter.2 ⟨hx, by simpa using hz'⟩))
    · rw [hparts, hpart, if_neg hq]
    · intro hne hmem
      rw [List.nil_append, hwarps, List.mem_map] at hmem
      obtain ⟨x, hx, hid⟩ := hmem
      obtain ⟨hlive, hxp⟩ := List.mem_filter.1 hx
      obtain ⟨rfl | ho, -⟩ := mem_warps.1 hlive
      · exact hne (by simpa using hxp)
      · exact h x ho hid

/-- The halt lines of some partitions. -/
theorem foldl_raiseOne_spec {b : Stop} (hb : b.count = 1) (ps : List Nat) : ps.Nodup → ∀ s : State, ownNumber s →
    let t := ps.foldl (fun s p => s.raiseOne b p) s
    (∀ p ∈ ps, stopUnder t p b.reason b.code b.source b.brk (s.part p).stop) ∧ (∀ q, q ∉ ps → t.part q = s.part q) ∧
      ∃ ids, Evicts t s ids ∧ (s.warp.ident.part ∉ ps → s.warp.id ∉ ids) := by
  induction ps with
  | nil => exact fun _ s _ => ⟨nofun, fun _ _ => rfl, [], evicts_none rfl rfl rfl, fun _ => List.not_mem_nil⟩
  | cons p ps ih =>
    intro hn s h
    obtain ⟨hp, hn⟩ := List.nodup_cons.1 hn
    obtain ⟨hone, hpart, ids, hev, hid⟩ := raiseOne_spec hb p h
    obtain ⟨hrest, hpart', ids', hev', hid'⟩ := ih hn _ (evicts_ownNumber hev h)
    refine ⟨fun q hq => ?_, fun q hq => ?_, _, evicts_trans hev' hev, fun hq hmem => ?_⟩
    · rcases List.mem_cons.1 hq with rfl | hq
      · exact stopUnder_mono (hpart' _ hp) hev'.warp hev'.others hone
      · have hne : q ≠ p := fun e => hp (e ▸ hq)
        rw [← hpart q hne]
        exact hrest q hq
    · obtain ⟨hne, hq⟩ := not_or.1 (mt List.mem_cons.2 hq)
      rw [List.foldl_cons, hpart' q hq, hpart q hne]
    · obtain ⟨hne, hq⟩ := not_or.1 (mt List.mem_cons.2 hq)
      rw [hev.warp, evictIn_ident, evictIn_id] at hid'
      rcases List.mem_append.1 hmem with hm | hm
      · exact hid hne hm
      · exact hid' hq hm

/-- A stop of some partitions. -/
theorem raise_spec {s : State} {ps : List Nat} (hn : ps.Nodup) (reason code source srcPart : Nat) (brk : Option (W64 × Nat)) (h : ownNumber s) :
    let t := s.raise ps reason code source srcPart brk
    (∀ p ∈ ps, stopUnder t p reason code source brk (s.part p).stop) ∧ ∃ ids, Evicts t s ids ∧ (s.warp.ident.part ∉ ps → s.warp.id ∉ ids) := by
  obtain ⟨hstop, -, ids, hev, hid⟩ :=
    foldl_raiseOne_spec (b := { Stop.begin reason code source srcPart (Config.nclkAt s.fresh) [] with brk := brk }) rfl ps hn
      { s with fresh := s.fresh + 1 } h
  exact ⟨hstop, ids, ⟨hev.warp, hev.others, hev.moduleStop⟩, hid⟩

/-- The sources of no partition: their stop begins, or counts the further one (R390, R392). -/
theorem raiseModule_spec (s : State) (reason code source srcPart : Nat) :
    let t := s.raiseModule reason code source srcPart
    t.warp = s.warp ∧ t.others = s.others ∧ t.parts = s.parts ∧
      (s.moduleStop = none → ∃ y, t.moduleStop = some y ∧ y.reason = reason ∧ y.code = code ∧ y.count = 1 ∧ y.source = source) ∧
      ∀ y, s.moduleStop = some y → t.moduleStop = some { y with count := y.count + 1 } := by
  unfold State.raiseModule
  cases hm : s.moduleStop with
  | none => exact ⟨rfl, rfl, rfl, fun _ => ⟨_, rfl, rfl, rfl, rfl, rfl⟩, nofun⟩
  | some y =>
    obtain ⟨b, hb⟩ := recount_frame { s with moduleStop := some { y with count := y.count + 1 } } moduleBank y
    dsimp only
    rw [hb]
    refine ⟨rfl, rfl, rfl, nofun, fun y h => ?_⟩
    cases h
    rfl

/-! ## The words (R187, R366, R407) -/

theorem privGate_passes {s : State} {level : Nat} (h : mayConfigure s level) (k : State → State) : s.privGate level k = k s := by
  obtain ⟨hf, ht, hd, -, hpriv, hlevel⟩ := h
  have hholds : s.holds s.warp level = true := by rw [State.holds, hpriv, decide_eq_true hlevel]; rfl
  rw [State.privGate, State.unforked_plain _ _ _ hf, ht, Option.isSome_none, State.modeIf_false, if_pos hholds, hd, State.modeIf_false]

theorem status_plain {s : State} (h : s.warp.isShadowed = false) (d : SReg) (n : Nat) : s.status d n = (s.sset d (BitVec.ofNat 64 n)).adv 4 := by
  simp only [State.status, s.viaLvq_plain n h]

theorem sget_sset_zero (w : Warp) (d : SReg) : (w.sset d 0).sget d = 0 := by
  by_cases hd : d = 0
  · simp [Warp.sget, hd]
  · have h := sget_sset w d 0 w.level d
    rw [if_pos ⟨rfl, hd, .inr rfl⟩] at h
    rwa [show atLevel (w.sset d 0) w.level = w.sset d 0 by rw [← Warp.sset_level w d 0]; rfl] at h

theorem brk_stops {s : State} (c : BitVec 14) (h : s.warp.debug = true) :
    exec (.brk c) s = .next ((s.adv 4).raise [s.warp.ident.part] 3 0 (s.sourceOf s.warp) s.warp.ident.part
      (some (s.warp.pc, s.warp.ident.global))) := by
  show execBrk c s = _
  simp only [execBrk, h, if_true]

theorem halt_next {s : State} {d a : SReg} (h : mayConfigure s 2) (h0 : field (s.sget a) 0 16 = 0) (h32 : field (s.sget a) 32 32 = 0) :
    exec (.halt d a) s = .next (((s.sset d 0).adv 4).raiseAll 2 (field (s.sget a) 16 16) (s.sourceOf s.warp) s.warp.ident.part) := by
  obtain ⟨-, -, -, hshadow, -⟩ := id h
  show execHalt d a s = _
  simp only [execHalt, privGate_passes h, s.item_plain _ _ hshadow, h0, h32, ne_eq, not_true, or_self, if_false, status_plain hshadow]
  rfl

section
variable {s : State} {d a : SReg} {p : Nat} (hp : p = field (s.sget a) 0 5) (h5 : field (s.sget a) 5 11 = 0) (h32 : field (s.sget a) 32 32 = 0)
  (hfree : (s.part p).state ≠ .free)
include hp h5 h32 hfree

theorem stop_own (h : mayConfigure s 1) (hown : p = s.warp.ident.part) : exec (.stop d a) s =
    .next (((s.sset d 0).adv 4).raise [s.warp.ident.part] 1 (field (s.sget a) 16 16) (s.sourceOf s.warp) s.warp.ident.part none) := by
  obtain ⟨-, -, -, hshadow, -⟩ := id h
  show execStop d a s = _
  rw [hown] at hp hfree
  simp only [execStop, ← hp, if_true, privGate_passes h, s.item_plain _ _ hshadow, h5, h32, hfree, ne_eq, not_true, or_self, if_false,
    State.stopOwn, status_plain hshadow]
  rfl

theorem stop_other (h : mayConfigure s 2) (hother : p ≠ s.warp.ident.part) : exec (.stop d a) s =
    .next ((s.raise [p] 1 (field (s.sget a) 16 16) (s.sourceOf s.warp) s.warp.ident.part none).waitOn (.config .stop p d)) := by
  obtain ⟨-, -, -, hshadow, -⟩ := id h
  show execStop d a s = _
  simp only [execStop, ← hp, hother, if_false, privGate_passes h, s.item_plain _ _ hshadow, h5, h32, hfree, ne_eq, not_true, or_self]
end

/-- The current warp behind a word that has written status 0, which a raise evicts at most. -/
theorem evicts_own {s t : State} {d : SReg} {ids : List Nat} (h : Evicts t ((s.sset d 0).adv 4) ids) :
    t.warp.pc = s.warp.pc + 4 ∧ t.warp.sget d = 0 := by
  rw [h.warp, evictIn_pc, evictIn_sget]
  exact ⟨by simp [State.sset], sget_sset_zero s.warp d⟩

theorem ownNumber_status {s : State} (h : ownNumber s) (d : SReg) : ownNumber ((s.sset d 0).adv 4) := by
  intro z hz
  have hid : ((s.sset d 0).adv 4).warp.id = s.warp.id := Warp.sset_id s.warp d 0
  rw [hid]
  exact h z hz

/-- The stop of a partition stays under way while a warp of another one waits. -/
theorem stopUnder_waitOn {t : State} {p reason code source : Nat} {brk : Option (W64 × Nat)} {old : Option Stop} (x : Wait)
    (hp : t.warp.ident.part ≠ p) (h : stopUnder t p reason code source brk old) : stopUnder (t.waitOn x) p reason code source brk old := by
  cases old with
  | some y => exact h
  | none =>
    obtain ⟨y, hy, hr, hc, hn, hs, hb, hev⟩ := h
    refine ⟨y, hy, hr, hc, hn, hs, hb, fun z hz hpart => ?_⟩
    obtain ⟨rfl | ho, ha⟩ := mem_warps.1 hz
    · exact absurd hpart hp
    · exact hev z (mem_warps.2 ⟨.inr ho, ha⟩) hpart

/-- Settles O41: each word by the raise that it answers, and a raise by the stop of each partition. -/
theorem haltAndStop : Obligations.HaltAndStop := by
  unfold Obligations.HaltAndStop
  intro s d a _ hids w x src stopped own
  have hown : ownNumber s := hids
  have hstatus := ownNumber_status hown d
  have stoppedOf {t : State} {p reason : Nat} (h : stopUnder t p reason (field x 16 16) src none (s.part p).stop) : stopped t p reason := by
    show match (s.part p).stop with | none => _ | some y => _
    cases hs : (s.part p).stop with
    | none =>
      rw [hs] at h
      obtain ⟨y, hy, hreason, hcode, hcount, hsource, -, hev⟩ := h
      exact ⟨y, hy, hreason, hcode, hcount, hsource, hev⟩
    | some y =>
      rw [hs] at h
      exact h
  refine ⟨fun hm h0 h32 => ⟨_, halt_next hm h0 h32, ?_⟩, fun p hp h5 h32 hfree => ⟨fun hm hpart => ?_, fun hm hpart => ?_⟩,
    fun c => ⟨fun hd => ?_, fun hd => ?_⟩⟩
  · let v := ((s.sset d 0).adv 4).raise ((s.sset d 0).adv 4).partsHeld 2 (field x 16 16) src w.ident.part none
    obtain ⟨hstop, ids, hev, -⟩ := raise_spec (List.nodup_range.filter _) 2 (field x 16 16) src w.ident.part none hstatus
    obtain ⟨hwarp, hothers, hparts, hbegins, hcounts⟩ := raiseModule_spec v 2 (field x 16 16) src w.ident.part
    refine ⟨?_, fun p hp hstate => stoppedOf ?_, ?_⟩
    · obtain ⟨hpc, hd⟩ := evicts_own hev
      exact ⟨(congrArg Warp.pc hwarp).trans hpc, (congrArg (Warp.sget · d) hwarp).trans hd⟩
    · have hheld : p ∈ ((s.sset d 0).adv 4).partsHeld := List.mem_filter.2 ⟨List.mem_range.2 hp, bne_iff_ne.2 hstate⟩
      refine stopUnder_mono (u := v) (ids := []) (congrArg (fun l => Tab.get l p Part.blank) hparts) ?_ ?_ (hstop p hheld)
      · rw [evictIn_nil]
        exact hwarp
      · rw [funext evictIn_nil, List.map_id']
        exact hothers
    · have hv : v.moduleStop = s.moduleStop := hev.moduleStop
      cases hs : s.moduleStop with
      | none => exact hbegins (hv.trans hs)
      | some y => exact hcounts y (hv.trans hs)
  · obtain ⟨hstop, ids, hev, -⟩ := raise_spec (List.nodup_singleton w.ident.part) 1 (field x 16 16) src w.ident.part none hstatus
    refine ⟨_, stop_own hp h5 h32 hfree hm hpart, evicts_own hev, stoppedOf ?_⟩
    rw [hpart]
    exact hstop _ (List.mem_singleton.2 rfl)
  · obtain ⟨hstop, ids, hev, hid⟩ := raise_spec (List.nodup_singleton p) 1 (field x 16 16) src w.ident.part none hown
    have hwarp : (s.raise [p] 1 (field x 16 16) src w.ident.part none).warp = w := by
      rw [hev.warp]
      exact if_neg (hid fun h => hpart (List.mem_singleton.1 h).symm)
    refine ⟨_, stop_other hp h5 h32 hfree hm hpart, ?_, ?_⟩
    · exact congrArg (fun y : Warp => { y with wait := .config .stop p d }) hwarp
    · refine stoppedOf (stopUnder_waitOn _ (fun h => hpart ?_) (hstop p (List.mem_singleton.2 rfl)))
      exact h.symm.trans (congrArg (fun y : Warp => y.ident.part) hwarp)
  · obtain ⟨hstop, ids, hev, -⟩ := raise_spec (s := s.adv 4) (List.nodup_singleton w.ident.part) 3 0 src w.ident.part
      (some (w.pc, w.ident.global)) hown
    have h : stopUnder _ _ _ _ _ _ (s.part w.ident.part).stop := hstop _ (List.mem_singleton.2 rfl)
    refine ⟨_, brk_stops c hd, (congrArg Warp.pc hev.warp).trans (evictIn_pc _ _), ?_⟩
    cases hs : (s.part w.ident.part).stop with
    | none =>
      rw [hs] at h
      obtain ⟨y, hy, hreason, -, hcount, -, hbrk, -⟩ := h
      exact ⟨y, hy, hreason, hcount, hbrk⟩
    | some y =>
      rw [hs] at h
      exact h
  · rw [trapsAt, trapsFor]
    exact trapWord_next (brk := true) c fun _ => hd

end Sys2Proof
end

section
/-! SUPPORT. Fault messages, fault records and pager replies (R192, R193, R337, R338), and O44. -/

namespace Sys2Proof

open Sys2Proof.Machine

/-! ## Delivery (R193) -/

theorem part_setPart_same (s : State) (p : Nat) (x : Part) : (s.setPart p x).part p = x := Tab.get_set_same s.parts p x .blank

/-- A change of a partition that leaves its mailboxes. -/
theorem mbx_modPart_same {s : State} {p : Nat} {f : Part → Part} (h : (f (s.part p)).mbxs = (s.part p).mbxs) (m : Nat) :
    (s.modPart p f).mbx p m = s.mbx p m := by
  rw [State.mbx, part_modPart_same, h]
  rfl

/-- The fault mailbox that takes a message queues it. -/
theorem deliverFault_takes {s : State} {p : Nat} (hr : s.runs p = true) (ht : takesMessage s p (s.part p).cfg.faultMbx)
    (hb : (s.mbx p (s.part p).cfg.faultMbx).binding ≠ .service) (msg : List Byte) :
    s.deliverFault p msg = some (s.enqueue p (s.part p).cfg.faultMbx msg) := by
  obtain ⟨-, -, -, hroom, h | ⟨d, hd, htimed⟩⟩ := ht
  · exact absurd h hb
  · have hfull : ¬Config.mbxDepth ≤ (s.mbx p (s.part p).cfg.faultMbx).queue.length := not_le.2 hroom
    simp only [State.deliverFault, hr, hd, htimed, hfull, Bool.not_true, Bool.false_eq_true, if_false]

/-- A message that joins a queue changes nothing of its partition but that mailbox. -/
theorem part_enqueue (s : State) (p m q : Nat) (msg : List Byte) :
    { (s.enqueue p m msg).part q with mbxs := (s.part q).mbxs } = s.part q := by
  rw [State.enqueue]
  exact part_modMbx { s with arrivals := s.arrivals + 1 } p m q _

section
variable {s : State} {p : Nat} (hr : s.runs p = true) (ht : takesMessage s p (s.part p).cfg.faultMbx)
  (hb : (s.mbx p (s.part p).cfg.faultMbx).binding ≠ .service)
include hr ht hb

/-- The first message leaves before an overflow record that other messages still precede. -/
theorem faultDelivery_message {m : List Byte} {r : List (List Byte)} (hm : (s.part p).msgs = m :: r)
    (ho : ∀ o, (s.part p).overflow = some o → o.ahead ≠ 0) : exec (.faultMessageDelivery p) s =
      .next ((s.enqueue p (s.part p).cfg.faultMbx m).modPart p fun y => { y with
        msgs := r, overflow := y.overflow.map fun o : Overflow => { o with ahead := o.ahead - 1 } }) := by
  have hfilter : (s.part p).overflow.filter (fun o => o.ahead == 0 || (m :: r).isEmpty) = none := by
    cases h : (s.part p).overflow with
    | none => rfl
    | some o => simp [ho o h]
  show execFaultMessageDelivery p s = _
  simp only [execFaultMessageDelivery, hm, hfilter, deliverFault_takes hr ht hb]

/-- The overflow record leaves behind the messages that entered before it. -/
theorem faultDelivery_overflow {o : Overflow} (ho : (s.part p).overflow = some o) (h : o.ahead = 0 ∨ (s.part p).msgs = []) :
    exec (.faultMessageDelivery p) s =
      .next ((s.enqueue p (s.part p).cfg.faultMbx o.bytes).modPart p fun y => { y with overflow := none }) := by
  have hfilter : (s.part p).overflow.filter (fun o => o.ahead == 0 || (s.part p).msgs.isEmpty) = some o := by
    simp [ho, h]
  show execFaultMessageDelivery p s = _
  simp only [execFaultMessageDelivery, hfilter, deliverFault_takes hr ht hb]
end

/-! ## Records that found no room (R193, R337) -/

section
variable {s : State} {p : Nat} (hroom : (s.part p).msgs.length < 1023)
include hroom

theorem msgRoom_of_lt : (s.part p).msgRoom = true := decide_eq_true hroom

theorem faultRetry_sends {f : FaultEnt} (hf : (s.part p).faults.find? (fun e => !e.sent) = some f) : exec (.faultRecordRetry p) s =
    .next (s.setPart p { s.part p with
      faults := (s.part p).faults.map fun y => if y.token = f.token then { y with sent := true } else y
      msgs := (s.part p).msgs ++ [f.record] }) := by
  show execFaultRecordRetry p s = _
  simp only [execFaultRecordRetry, hf, msgRoom_of_lt hroom, if_true]

theorem faultRetry_enters {f : FaultEnt} {l : List FaultEnt} (hs : ∀ e ∈ (s.part p).faults, e.sent = true) (hw : (s.part p).faultWait = f :: l)
    (hf : ∀ e ∈ (s.part p).faults, ¬(e.page = f.page ∧ e.access = f.access)) (hlen : (s.part p).faults.length < 256) :
    exec (.faultRecordRetry p) s = .next (s.setPart p { s.part p with
      faultWait := l
      faults := (s.part p).faults ++ [{ f with sent := true }]
      msgs := (s.part p).msgs ++ [f.record] }) := by
  have hsent : (s.part p).faults.find? (fun e => !e.sent) = none := List.find?_eq_none.2 fun e he => by simp [hs e he]
  have hnew : (s.part p).faults.find? (fun e => e.page == f.page && e.access == f.access) = none :=
    List.find?_eq_none.2 fun e he => by simpa using hf e he
  have hfull : ¬Config.faultEntries ≤ (s.part p).faults.length := not_le.2 hlen
  show execFaultRecordRetry p s = _
  simp only [execFaultRecordRetry, hsent, hw, hnew, hfull, msgRoom_of_lt hroom, if_true, if_false]
end

/-! ## Replies (R338) -/

theorem leAt_take (b : List Byte) {o n k : Nat} (h : o + n ≤ k) : leAt (b.take k) o n = leAt b o n := by
  rw [leAt, leAt, List.drop_take, List.take_take, Nat.min_eq_left (by omega)]

/-- What the part reads of a reply that R338 describes. -/
theorem reply_read {b : List Byte} {code : Nat} {token : W64} (hc : code < 2 ^ 32)
    (hb : b.take 16 = [if code = 0 then 1 else 2, 0, 0, 0] ++ natToBytes 4 code ++ natToBytes 8 token.toNat) (hz : ∀ x ∈ b.drop 16, x = 0) :
    leAt b 4 4 = code ∧ BitVec.ofNat 64 (leAt b 8 8) = token ∧ replyOk b = true := by
  have hlay : b.take 16 = layBytes [(1, if code = 0 then 1 else 2), (3, 0), (4, code), (8, token.toNat)] := by
    rw [hb]
    split <;> simp [layBytes, natToBytes]
  have hstatus : leAt b 0 1 = if code = 0 then 1 else 2 := by
    rw [← leAt_take b (k := 16) (by omega), hlay]
    refine (leAt_layBytes [] _ 1 _).trans (Nat.mod_eq_of_lt ?_)
    split <;> omega
  have hcode : leAt b 4 4 = code := by
    rw [← leAt_take b (k := 16) (by omega), hlay]
    exact (leAt_layBytes [(1, _), (3, 0)] _ 4 code).trans (Nat.mod_eq_of_lt hc)
  have htoken : leAt b 8 8 = token.toNat := by
    rw [← leAt_take b (k := 16) (by omega), hlay]
    exact (leAt_layBytes [(1, _), (3, 0), (4, code)] [] 8 _).trans (Nat.mod_eq_of_lt token.isLt)
  have hlow : anyByte b 1 4 = false := by
    have h : (b.drop 1).take 3 = ((b.take 16).drop 1).take 3 := by rw [List.drop_take, List.take_take]; rfl
    rw [anyByte, h, hb]
    rfl
  have hhigh : anyByte b 16 64 = false := by
    rw [anyByte, List.any_eq_false]
    intro x hx
    simp [hz x (List.mem_of_mem_take hx)]
  refine ⟨hcode, by rw [htoken, BitVec.ofNat_toNat, BitVec.setWidth_eq], ?_⟩
  rw [replyOk, hlow, hhigh, hstatus, hcode]
  by_cases h : code = 0 <;> simp [h]

/-- A stream that has gone on is parked no longer. -/
theorem unparkStream_again (token : W64) (code : Nat) (x : Wait) (c : Option Cause) :
    unparkStream token code (unparkStream token code x c).1 (unparkStream token code x c).2 = unparkStream token code x c := by
  by_cases h : x = .xlate token <;> simp [unparkStream, h]

theorem modPair_warp (s : State) (id : Nat) (f : Warp → Warp) : (s.modPair id f).warp = if s.warp.id = id then f s.warp else s.warp := by
  unfold State.modPair State.modWarp
  split <;> rfl

theorem modPair_parts (s : State) (id : Nat) (f : Warp → Warp) : (s.modPair id f).parts = s.parts := by
  unfold State.modPair State.modWarp
  split <;> rfl

/-- The streams that a token names go on. -/
def unparkAll (token : W64) (code : Nat) (s : State) (l : List (Nat × Nat)) : State :=
  l.foldl (fun t k => t.modPair k.1 (Warp.unparkArm token code k.2)) s

theorem unparkAll_parts (token : W64) (code : Nat) (l : List (Nat × Nat)) : ∀ s : State, (unparkAll token code s l).parts = s.parts := by
  induction l with
  | nil => exact fun _ => rfl
  | cons k l ih => exact fun s => (ih _).trans (modPair_parts s _ _)

/-- The current warp after some streams have gone on: its own stream has where the token names the warp. -/
theorem unparkAll_warp (token : W64) (code : Nat) (l : List (Nat × Nat)) : ∀ s : State,
    (unparkAll token code s l).warp.id = s.warp.id ∧ (unparkAll token code s l).warp.pc = s.warp.pc ∧
      ((unparkAll token code s l).warp.wait, (unparkAll token code s l).warp.pending) =
        if s.warp.id ∈ l.map (·.1) then unparkStream token code s.warp.wait s.warp.pending else (s.warp.wait, s.warp.pending) := by
  induction l with
  | nil => exact fun _ => ⟨rfl, rfl, rfl⟩
  | cons k l ih =>
    intro s
    obtain ⟨hid, hpc, hwait⟩ := ih (s.modPair k.1 (Warp.unparkArm token code k.2))
    rw [modPair_warp] at hid hpc hwait
    by_cases hk : s.warp.id = k.1
    · rw [if_pos hk] at hid hpc hwait
      have hfirst : s.warp.id ∈ (k :: l).map (·.1) := hk ▸ List.mem_cons_self
      refine ⟨hid, hpc, hwait.trans ?_⟩
      rw [if_pos hfirst]
      split
      · exact unparkStream_again token code s.warp.wait s.warp.pending
      · rfl
    · rw [if_neg hk] at hid hpc hwait
      have hrest : s.warp.id ∈ (k :: l).map (·.1) ↔ s.warp.id ∈ l.map (·.1) := by simp [hk]
      refine ⟨hid, hpc, hwait.trans ?_⟩
      simp only [hrest]

theorem pagerReply_next {s : State} {p n : Nat} {b : List Byte} {q : List (Nat × List Byte)} {f : FaultEnt} {code : Nat}
    (hq : (s.mbx p (s.part p).cfg.replyMbx).queue = (n, b) :: q)
    (hb : leAt b 4 4 = code ∧ BitVec.ofNat 64 (leAt b 8 8) = f.token ∧ replyOk b = true)
    (hf : (s.part p).faults.find? (fun e => e.token == f.token) = some f) (hops : f.ops = []) :
    exec (.pagerReply p) s = .next (unparkAll f.token code ((s.modMbx p (s.part p).cfg.replyMbx fun x => { x with queue := q }).modPart p fun x =>
      { x with faults := x.faults.filter fun y => y.token != f.token }) f.warps) := by
  obtain ⟨hcode, htoken, hok⟩ := hb
  have hfind : ((s.modMbx p (s.part p).cfg.replyMbx fun x => { x with queue := q }).part p).faults.find? (fun e => e.token == f.token) = some f := by
    rw [← hf]
    exact congrArg (fun x : Part => x.faults.find? fun e => e.token == f.token) (part_modMbx s p _ p _)
  show execPagerReply p s = _
  simp only [execPagerReply, hq, hcode, htoken, hfind, hok, hops, if_true]
  rfl

/-- Settles O44: each event by the state that it answers, and the current warp after a reply by its own stream. -/
theorem faults : Obligations.Faults := by
  unfold Obligations.Faults
  intro s p m r f n bs q x
  refine ⟨fun hr ht hb => ⟨fun hm ho => ?_, fun o ho h => ?_⟩, fun hroom => ⟨fun hf => ?_, fun l hs hw hf hlen => ?_⟩,
    fun code hc hq hhead hzero hf hops => ?_⟩
  · have hpart := part_enqueue s p x.cfg.faultMbx p m
    refine ⟨_, faultDelivery_message hr ht hb hm ho, ?_, ?_, ?_⟩
    · rw [part_modPart_same]
    · rw [part_modPart_same]
      exact congrArg (fun y : Part => y.overflow.map fun o : Overflow => { o with ahead := o.ahead - 1 }) hpart
    · rw [mbx_modPart_same rfl, mbx_enqueue_same]
  · refine ⟨_, faultDelivery_overflow hr ht hb ho h, ?_, ?_, ?_⟩
    · rw [part_modPart_same]
      exact (congrArg Part.msgs (part_enqueue s p x.cfg.faultMbx p o.bytes) :)
    · rw [part_modPart_same]
    · rw [mbx_modPart_same rfl, mbx_enqueue_same]
      rfl
  · refine ⟨_, faultRetry_sends hroom hf, ?_⟩
    dsimp only
    rw [part_setPart_same]
    refine ⟨rfl, fun e he ht => ?_⟩
    obtain ⟨y, -, rfl⟩ := List.mem_map.1 he
    split
    · rfl
    · next hne =>
      rw [if_neg hne] at ht
      exact absurd ht hne
  · refine ⟨_, faultRetry_enters hroom hs hw hf hlen, ?_⟩
    dsimp only
    rw [part_setPart_same]
    exact ⟨rfl, rfl, rfl⟩
  · refine ⟨_, pagerReply_next hq (reply_read hc hhead hzero) hf hops, ?_⟩
    generalize hu : (s.modMbx p (s.part p).cfg.replyMbx fun x => { x with queue := q }).modPart p _ = u
    have hwarp : u.warp = s.warp := by rw [← hu]; rfl
    have hparts := unparkAll_parts f.token code f.warps u
    have hpart : State.part (unparkAll f.token code u f.warps) p = u.part p := congrArg (fun l => Tab.get l p Part.blank) hparts
    obtain ⟨-, hpc, hwait⟩ := unparkAll_warp f.token code f.warps u
    refine ⟨?_, fun e he => ?_, fun hmem hw => ?_⟩
    · rw [State.mbx, hpart, ← hu]
      exact congrArg Mbx.queue ((mbx_modPart_same rfl _).trans (mbx_modMbx_same s p _ _))
    · rw [hpart, ← hu, part_modPart_same] at he
      simpa using (List.mem_filter.1 he).2
    · rw [hwarp, if_pos (List.mem_map_of_mem hmem), unparkStream, if_pos hw, Prod.mk.injEq] at hwait
      exact ⟨hwait.1, hpc.trans (congrArg Warp.pc hwarp), hwait.2⟩

end Sys2Proof
end

section
/-! SUPPORT. A `regroup` whose partner shares its number with a warp of another rank, and the refutation of O36. -/

namespace Sys2Proof

open Sys2Proof.Machine

/-- A warp of rank 0 that may name rank 1, and two warps with one number, of rank 2 and 1, which both wait for it. -/
def sharedNumber : State :=
  let waiting (rank : Nat) : Warp := { Warp.blank with id := 1, alive := true, ident := ⟨0, 0, rank, rank, 0, 0, 3, 0, 1⟩, wait := .regroup 0 0 }
  { State.reset with
    warp := ({ Warp.blank with alive := true, ident := ⟨0, 0, 0, 0, 0, 0, 3, 0, 1⟩ }).sset 1 1
    others := [waiting 2, waiting 1] }

/-- Refutes O36: the partner `x` waits for the word, and the statement does not ask that no other warp has the number of `x`. One of rank 2 has it and
waits too; the word lets it go on alone (R202), and with it every warp of that number, `x` among them. So the word waits for `x`, and nobody ends. -/
theorem not_regroup : ¬ Obligations.Regroup := by
  unfold Obligations.Regroup
  intro h
  obtain ⟨-, hmeet⟩ := h sharedNumber 0 1 (by decide +kernel) (by decide +kernel) (by decide +kernel) (by decide +kernel) (by decide +kernel)
    (by decide +kernel) (by decide +kernel) (by decide +kernel)
  have hsame : ∀ y ∈ sharedNumber.others, y.id = 1 := by decide +kernel
  have hrun : seenNext (fun t => t.others.map (·.id)) (exec (.regroup 0 1) sharedNumber) = some [1, 1] := by decide +kernel
  obtain ⟨t, ht, hgone, -⟩ := hmeet _ 0 (by decide +kernel) (by decide +kernel) (by decide +kernel) (by decide +kernel) (by decide +kernel)
    (show _ = some (sharedNumber.others.getD 1 .blank) by decide +kernel) (by decide +kernel) (by decide +kernel) (by decide +kernel)
    (fun y hy hne => absurd (hsame y hy) hne) (by decide +kernel)
  rw [ht, seenNext, Option.some_inj] at hrun
  have hmem : 1 ∈ t.others.map (·.id) := by rw [hrun]; decide
  obtain ⟨y, hy, hid⟩ := List.mem_map.1 hmem
  exact hgone y hy hid

end Sys2Proof
end

section
/-! SUPPORT. Fences, and synchronisation through the load value queue (R198, R264, R297, R302, R305, R306). -/

namespace Sys2Proof

open Sys2Proof.Machine

/-! ## Acquires (R264, R287) -/

theorem acquire_frame (sc : Scope) (s : State) : { s.acquire sc with cdc := s.cdc, fills := s.fills } = s := acquired_frame (some sc) s

theorem acquire_drops {sc : Scope} {s : State} {x : CdcLine} (hx : x ∈ (s.acquire sc).cdc) : x ∈ s.cdc := ((mem_acquired (some sc) s x).1 hx).1

/-- An acquire of grid or wider scope keeps the lines of other clusters and of sealed pages. -/
theorem mem_acquire_wide {sc : Scope} (h : sc = .grid ∨ sc = .domain ∨ sc = .sys) (s : State) (x : CdcLine) :
    x ∈ (s.acquire sc).cdc ↔ x ∈ s.cdc ∧ (x.cluster ≠ s.clusterOf s.warp ∨ x.isSealed = true) := by
  refine (mem_acquired (some sc) s x).trans (and_congr_right fun _ => ?_)
  simp only [Option.some.injEq, h, true_and, not_and_or, ne_eq, Bool.not_eq_false]

theorem acquire_narrow {sc : Scope} (h : sc = .warp ∨ sc = .crew ∨ sc = .team) (s : State) : s.acquire sc = s := by
  rcases h with rfl | rfl | rfl <;> rfl

/-! ## `fence` (R297) -/

theorem loadsDone_iff (s : State) : s.loadsDone = true ↔ ∀ r ∈ s.warp.remote, 64 ≤ r.lane := by
  simp [State.loadsDone]

theorem fence_waits {s : State} {sc : Scope} (h : s.releaseReady sc = false ∨ ¬∀ r ∈ s.warp.remote, 64 ≤ r.lane) :
    exec (.fence sc) s = .next ((withItems s [⟨6, [], 0, 0⟩]).waitOn .order) := by
  have hready : (withItems s [⟨6, [], 0, 0⟩]).releaseReady sc = s.releaseReady sc := rfl
  have hloads : (withItems s [⟨6, [], 0, 0⟩]).loadsDone = s.loadsDone := rfl
  show execFence sc s = _
  rw [execFence, State.item, itemAt_eq]
  simp only [hloads, State.releasing, hready]
  rcases h with h | h
  · rw [h]
    split <;> rfl
  · rw [if_neg (mt (loadsDone_iff s).1 h)]

theorem fence_done {s : State} {sc : Scope} (h : s.releaseReady sc = true) (hl : ∀ r ∈ s.warp.remote, 64 ≤ r.lane) :
    exec (.fence sc) s = .next (((withItems s [⟨6, [], 0, 0⟩]).acquire sc).adv 4) := by
  have hready : (withItems s [⟨6, [], 0, 0⟩]).releaseReady sc = true := h
  have hloads : (withItems s [⟨6, [], 0, 0⟩]).loadsDone = true := (loadsDone_iff s).2 hl
  show execFence sc s = _
  rw [execFence, State.item, itemAt_eq]
  simp only [hloads, State.releasing, hready, if_true]

/-! ## Values through the load value queue (R198, R199) -/

/-- A warp whose synchronisation word is done, with a value in a scalar register. -/
def syncedWarp (w : Warp) (d : SReg) (x : W64) : Warp := { w.sset d x with qdone := false, pc := w.pc + 4 }

theorem syncDone_eq (u : State) (d : SReg) (x : W64) : u.syncDone d x =
    { (u.viaLvq x.toNat).2 with warp := syncedWarp u.warp d (BitVec.ofNat 64 (u.viaLvq x.toNat).1) } := by
  have hpc : ((u.viaLvq x.toNat).2.warp.sset d (BitVec.ofNat 64 (u.viaLvq x.toNat).1)).pc = u.warp.pc := by simp
  rw [syncedWarp, ← hpc, ← viaLvq_warp u x.toNat]
  rfl

/-- A synchronisation word changes nothing of its warp but scalar registers, the program counter and the quantum's mark. -/
theorem syncedWarp_frame (w : Warp) (d : SReg) (x : W64) :
    { syncedWarp w d x with pc := w.pc, s := w.s, banks := w.banks, qdone := w.qdone } = w := by
  unfold syncedWarp Warp.sset
  split
  · rfl
  · split <;> rfl

/-- A word of a `SHADOW` launch that has logged its items, and dropped cached lines at most, ends with a value of the load value queue. -/
theorem syncsVia_intro {i : Instr} {s u : State} {d : SReg} {n : Nat} {l : List Item} (hn : n < 2 ^ 64)
    (hu : s.warp.isShadowed = true → (∀ x ∈ u.cdc, x ∈ s.cdc) ∧ u.items = s.items ++ l ∧
      { u with cdc := s.cdc, fills := s.fills, items := s.items } = s)
    (h : s.warp.fork = none → s.warp.task = none → s.warp.det = false → exec i s = .next (u.syncDone d (BitVec.ofNat 64 n))) :
    syncsVia i s d n l := by
  intro hf ht hd hs
  obtain ⟨hcdc, hitems, hframe⟩ := hu hs
  have hwarp : u.warp = s.warp := (congrArg State.warp hframe :)
  have hlvq : u.lvq = s.lvq := (congrArg State.lvq hframe :)
  have hrun : u.shadowRun = s.shadowRun := (congrArg State.shadowRun hframe :)
  have hnat : (BitVec.ofNat 64 n).toNat = n := Nat.mod_eq_of_lt hn
  have htaken : lvqTaken u n = lvqTaken s n := by rw [lvqTaken, lvqTaken, hlvq]
  have hvia := u.viaLvq_frame n
  have hvalue : (u.viaLvq n).1 = if s.shadowRun = true then (lvqTaken s n).1 else n := by
    simp only [viaLvq_value, hwarp, hs, hrun, htaken, true_and]
  have hqueue : (u.viaLvq n).2.lvq = if s.shadowRun = true then (lvqTaken s n).2 else s.lvq ++ [.known n] := by
    simp only [viaLvq_queue, hwarp, hs, hrun, htaken, hlvq, Bool.true_eq_false, if_false]
  refine ⟨_, h hf ht hd, ?_⟩
  rw [syncDone_eq, hnat, hvalue, hwarp]
  generalize (u.viaLvq n).2 = v at hvia hqueue ⊢
  have hvcdc : v.cdc = u.cdc := (congrArg State.cdc hvia :)
  have hvitems : v.items = u.items := (congrArg State.items hvia :)
  refine ⟨rfl, regsWith_sset s.warp d _, syncedWarp_frame s.warp d _, hvcdc ▸ hcdc, hvitems.trans hitems, hqueue, ?_⟩
  exact (congrArg (fun z : State => { z with warp := s.warp, cdc := s.cdc, fills := s.fills, items := s.items, lvq := s.lvq }) hvia :).trans
    (congrArg (fun z : State => { z with warp := s.warp, lvq := s.lvq }) hframe :)

theorem logged_acquire {s : State} (l : List Item) (sc : Scope) (hs : s.warp.isShadowed = true) :
    (∀ x ∈ ((withItems s l).acquire sc).cdc, x ∈ s.cdc) ∧ ((withItems s l).acquire sc).items = s.items ++ l ∧
      { (withItems s l).acquire sc with cdc := s.cdc, fills := s.fills, items := s.items } = s := by
  have hframe := acquire_frame sc (withItems s l)
  have hitems : ((withItems s l).acquire sc).items = logged s l := (congrArg State.items hframe :)
  exact ⟨fun x hx => acquire_drops (s := withItems s l) hx, hitems.trans (if_pos hs),
    (congrArg (fun z : State => { z with items := s.items }) hframe :)⟩

theorem syncGate_passes {s : State} (hf : s.warp.fork = none) (ht : s.warp.task = none) (b : Bool) (k : State → State) :
    s.syncGate b k = k s := by
  rw [State.syncGate, State.unforked_plain _ _ _ hf, ht, Option.isSome_none, Bool.and_false, State.modeIf_false]

theorem afterQuantum_plain {s : State} (hd : s.warp.det = false) (l : List Item) (k : State → State) :
    (withItems s l).afterQuantum k = k (withItems s l) := by
  have h : (withItems s l).warp.det = false := hd
  rw [State.afterQuantum, h]
  rfl

/-! ## `wait` (R302) -/

section
variable {s : State} {d a : SReg} {test : Bool} {q : Bar} {ago : Nat} (hq : q = s.bar s.warp.ident.part (field (s.sget a) 0 14))
  (hago : ago = (q.phase - (s.sget a).extractLsb' 24 32).toNat)
  (hn : field (s.sget a) 0 14 < (s.part s.warp.ident.part).cfg.barq) (h14 : field (s.sget a) 14 10 = 0)
include hq hago hn h14

/-- What a `wait` finds of its object: another generation, a phase too far ahead, one that has been left, or the present or next one. Where it
acquires nothing, that is an acquire at the scope of the warp. -/
theorem wait_next (hf : s.warp.fork = none) (ht : s.warp.task = none) (hd : s.warp.det = false) :
    let u := withItems s [⟨6, [(s.sget a).toNat, test.toNat], 0, 0⟩]
    exec (.wait d a test) s = .next (
      if (s.sget a).extractLsb' 56 8 ≠ q.gen ∨ q.abandoned = true then (u.acquire .warp).syncDone d 0x29
      else if 2 ^ 31 + 1 ≤ ago ∧ ago ≤ 2 ^ 32 - 2 then u.trapScalar cMode 35 4
      else if 1 ≤ ago ∧ ago ≤ 2 ^ 31 then (u.acquire q.scopeOf).syncDone d 0
      else if test then (u.acquire .warp).syncDone d 1
      else u.waitOn (.barrier d (s.sget a))) := by
  subst hq hago
  show execWait d a test s = _
  rw [execWait, syncGate_passes hf ht]
  simp only [State.modeIf, not_le.2 hn, h14, decide_false, bne_self_eq_false, Bool.false_eq_true, if_false, State.item, itemAt_eq,
    afterQuantum_plain hd, Bar.left, decide_eq_true_eq]
  rfl

theorem wait_stale (h : (s.sget a).extractLsb' 56 8 ≠ q.gen ∨ q.abandoned = true) :
    syncsVia (.wait d a test) s d 0x29 [⟨6, [(s.sget a).toNat, test.toNat], 0, 0⟩] :=
  syncsVia_intro (by omega) (logged_acquire _ .warp) fun hf ht hd => by
    rw [wait_next hq hago hn h14 hf ht hd, if_pos h]
    rfl

section
variable (hgen : (s.sget a).extractLsb' 56 8 = q.gen) (hlive : q.abandoned = false)
include hgen hlive

theorem wait_left (h1 : 1 ≤ ago) (h2 : ago ≤ 2 ^ 31) : syncsVia (.wait d a test) s d 0 [⟨6, [(s.sget a).toNat, test.toNat], 0, 0⟩] :=
  syncsVia_intro (by omega) (logged_acquire _ q.scopeOf) fun hf ht hd => by
    rw [wait_next hq hago hn h14 hf ht hd, if_neg (by simp [hgen, hlive]), if_neg (by omega), if_pos ⟨h1, h2⟩]
    rfl

theorem wait_test (h : ago = 0 ∨ ago = 2 ^ 32 - 1) : syncsVia (.wait d a true) s d 1 [⟨6, [(s.sget a).toNat, true.toNat], 0, 0⟩] :=
  syncsVia_intro (by omega) (logged_acquire _ .warp) fun hf ht hd => by
    rw [wait_next hq hago hn h14 hf ht hd, if_neg (by simp [hgen, hlive]), if_neg (by omega), if_neg (by omega), if_pos rfl]
    rfl
end
end

/-! ## `tlr` and `tlw` (R305, R306) -/

section
variable {s : State} {d a b : SReg} {acq : Bool} {acc : Option Nat} {n : Nat} (htl : s.timeline (s.sget a) = some (acc, n)) (hn : n < 2 ^ 64)
include htl hn

theorem tlr_via : syncsVia (.tlr d a acq) s d n [⟨6, [(s.sget a).toNat], 0, 0⟩] :=
  syncsVia_intro hn (logged_acquire _ (if acq then .sys else .warp)) fun hf ht _ => by
    show execTlr d a acq s = _
    rw [execTlr, syncGate_passes hf ht]
    simp only [htl, State.item, itemAt_eq]

theorem tlw_via (hacc : ∀ k, acc = some k → (s.sget b).toNat ≤ k) (hle : (s.sget b).toNat ≤ n) :
    syncsVia (.tlw d a b) s d n [⟨6, [(s.sget a).toNat, (s.sget b).toNat], 0, 0⟩] :=
  syncsVia_intro hn (logged_acquire _ .sys) fun hf ht hd => by
    have hpast : acc.any (fun k => decide (k < (s.sget b).toNat)) = false := by
      cases acc with
      | none => rfl
      | some k => exact decide_eq_false (not_lt.2 (hacc k rfl))
    have hdet (l : List Item) : (withItems s l).warp.det = false := hd
    show execTlw d a b s = _
    rw [execTlw, syncGate_passes hf ht]
    simp only [htl, State.item, itemAt_eq, hpast, State.modeIf_false, afterQuantum_plain hd, hle, if_true, hdet, Bool.false_eq_true, if_false]
end

end Sys2Proof
end

section
/-! SUPPORT. The pages of a range and their seals (R308, R309), and O31. -/

namespace Sys2Proof

open Sys2Proof.Machine

/-! ## Page sizes (R333) -/

/-- A size code that does not exist belongs to no level of the tables. -/
theorem pageLevel_of_noPage {n : Nat} (h : pageBytes n = 0) : pageLevel n = 9 := by
  have hn : ¬n ≤ 9 := by
    intro hle
    interval_cases n <;> simp [pageBytes] at h
  rw [pageLevel, if_neg (by omega), if_neg (by omega), if_neg (by omega)]

theorem leafEnd_page {s : State} {p va leaf e : Nat} {tr : Trans} (h : s.leafEnd p va leaf e = .ok tr) : tr.page = pageBytes (pteSize e) := by
  unfold State.leafEnd at h
  dsimp only at h
  split at h
  · split at h
    · cases h
    · split at h <;> cases h
      rfl
  · cases h
    rfl
  · split at h <;> cases h
    rfl

/-- The leaf that a walk accepts has a page size that exists. -/
theorem walk_page {s : State} {p va : Nat} {tr : Trans} (level : Nat) (hl : level ≤ 4) :
    ∀ table, s.walk p va level table = .ok tr → tr.page ≠ 0 := by
  induction level using Nat.strong_induction_on with
  | _ level ih =>
    intro table h
    unfold State.walk at h
    split at h
    · cases h
    · dsimp only at h
      split at h
      · cases h
      · split at h
        · split at h
          · cases h
          · next hbad =>
            intro hzero
            have hlevel := pageLevel_of_noPage ((leafEnd_page h).symm.trans hzero)
            have hne : (9 != level) = true := bne_iff_ne.2 (by omega)
            simp [leafBad, hlevel, hne] at hbad
        · split at h
          · cases h
          · split at h
            · cases h
            · exact ih _ (Nat.lt_succ_self _) (by omega) _ h

/-- A page is some number of 4 KiB frames. -/
theorem xlate_page {s : State} {p va : Nat} {tr : Trans} (h : s.xlate p va = .ok tr) : 4096 ∣ tr.page ∧ tr.page ≠ 0 := by
  unfold State.xlate at h
  split at h
  · cases h
  · obtain ⟨leaf, e, hleaf⟩ := walk_leaf _ _ h
    exact ⟨leafEnd_page hleaf ▸ pageBytes_dvd _, walk_page 4 le_rfl _ h⟩

/-! ## The pages of a range (R308) -/

/-- Pages that cover the range from `a` to `hi`, each as it is found in the state that the marks of those before it leave: `s` first, `v` at last. -/
def pagesFrom (p va hi : Nat) : Nat → List Trans → State → State → Prop
  | a, [], s, v => a = hi ∧ v = s
  | a, tr :: ps, s, v => a < hi ∧ s.xlate p a = .ok tr ∧ va ≤ a - a % tr.page ∧ a - a % tr.page + tr.page ≤ hi ∧ tr.place = .device ∧
      pteW tr.entry = true ∧ pagesFrom p va hi (a - a % tr.page + tr.page) ps (s.markLeaf tr.leaf false) v

theorem lookUp_ok {s u : State} {p a : Nat} {tr : Trans} (h : s.lookUp p a = (.ok tr, u)) : s.xlate p a = .ok tr ∧ u = s.markLeaf tr.leaf false := by
  unfold State.lookUp at h
  cases hx : s.xlate p a with
  | ok t =>
    simp only [hx] at h
    cases h
    exact ⟨rfl, rfl⟩
  | miss k l => cases l <;> simp [hx] at h
  | noncanon => simp [hx] at h

/-- The end of a page stands beyond the address in it, by whole frames. -/
theorem page_end {a page : Nat} (ha : 4096 ∣ a) (hp : 4096 ∣ page) (hne : page ≠ 0) :
    4096 ∣ a - a % page + page ∧ a + 4096 ≤ a - a % page + page := by
  have hmod : 4096 ∣ a % page := (Nat.dvd_mod_iff hp).2 ha
  have hlt := Nat.mod_lt a (Nat.pos_of_ne_zero hne)
  have hle := Nat.mod_le a page
  omega

/-- The checks of R308 accept the pages that cover the range. -/
theorem sealPages_ok {p va hi : Nat} {qs : List Trans} {v : State} (hhi : 4096 ∣ hi) : ∀ (k a : Nat) (ps : List Trans) (s : State),
    4096 ∣ a → a ≤ hi → (hi - a) / 4096 + 1 ≤ k → State.sealPages p va hi k a ps s = (.ok qs, v) →
    ∃ rs, qs = ps ++ rs ∧ pagesFrom p va hi a rs s v := by
  intro k
  induction k with
  | zero => intro a ps s _ _ hk; omega
  | succ k ih =>
    intro a ps s ha hle hk h
    unfold State.sealPages at h
    split at h
    · next hend =>
      cases h
      exact ⟨[], by simp, by omega, rfl⟩
    · next hlt =>
      split at h
      · cases h
      · cases h
      · next tr u hlook =>
        obtain ⟨hx, rfl⟩ := lookUp_ok hlook
        obtain ⟨hdvd, hne⟩ := xlate_page hx
        obtain ⟨hend, hfar⟩ := page_end ha hdvd hne
        dsimp only at h
        split at h
        · cases h
        · next hw =>
          split at h
          · cases h
          · next hrange =>
            split at h
            · cases h
            · next hplace =>
              obtain ⟨rs, rfl, hrs⟩ := ih _ _ _ hend (by omega) (by omega) h
              exact ⟨tr :: rs, by simp, by omega, hx, by omega, by omega, not_not.1 hplace, by simpa using hw, hrs⟩

/-- A state that differs from another in device memory and the keys of its lines alone, with A set in the leaves of some pages at most (R334). -/
def marksA (u s : State) (ps : List Trans) : Prop :=
  { u with dev := s.dev, tags := s.tags } = s ∧
    ∀ x, u.devByte x = s.devByte x ∨ (u.devByte x = s.devByte x ||| 1 ∧ ∃ y ∈ ps, x = y.leaf + 1)

theorem marksA_refl (s : State) : marksA s s [] := ⟨rfl, fun _ => .inl rfl⟩

theorem markLeaf_frame (s : State) (leaf : Nat) (d : Bool) : { s.markLeaf leaf d with dev := s.dev, tags := s.tags } = s := by
  obtain ⟨m, t, h, -⟩ := markLeaf_cases s leaf d
  rw [h]

theorem marksA_cons {u s : State} {tr : Trans} {ps : List Trans} (h : marksA u (s.markLeaf tr.leaf false) ps) : marksA u s (tr :: ps) := by
  obtain ⟨hframe, hbyte⟩ := h
  refine ⟨?_, fun x => ?_⟩
  · exact (congrArg (fun z : State => { z with dev := s.dev, tags := s.tags }) hframe :).trans (markLeaf_frame s tr.leaf false)
  · have hone : (s.markLeaf tr.leaf false).devByte x = if x = tr.leaf + 1 then s.devByte (tr.leaf + 1) ||| 1 else s.devByte x :=
      devByte_devSetByte s (tr.leaf + 1) x _
    have htwice (b : Byte) : b ||| 1 ||| 1 = b ||| 1 := by rw [BitVec.or_assoc, BitVec.or_self]
    specialize hbyte x
    by_cases hx : x = tr.leaf + 1
    · subst hx
      rw [hone, if_pos rfl, htwice] at hbyte
      exact .inr ⟨hbyte.elim id And.left, tr, List.mem_cons_self, rfl⟩
    · rw [hone, if_neg hx] at hbyte
      exact hbyte.imp_right fun ⟨h, y, hy, hxy⟩ => ⟨h, y, List.mem_cons_of_mem _ hy, hxy⟩

theorem pagesFrom_marks {p va hi : Nat} {v : State} (ps : List Trans) : ∀ {a : Nat} {s : State}, pagesFrom p va hi a ps s v → marksA v s ps := by
  induction ps with
  | nil =>
    rintro a s ⟨-, rfl⟩
    exact marksA_refl _
  | cons tr ps ih =>
    rintro a s ⟨-, -, -, -, -, -, hrest⟩
    exact marksA_cons (ih hrest)

/-- Where each page of the range is found. -/
theorem pagesFrom_addresses {p va hi : Nat} {v : State} (ps : List Trans) : ∀ {a : Nat} {s : State}, pagesFrom p va hi a ps s v →
    ∃ f : Nat → Nat, f 0 = a ∧ f ps.length = hi ∧ ∀ i tr, ps[i]? = some tr →
      f i < hi ∧ va ≤ f i - f i % tr.page ∧ f (i + 1) = f i - f i % tr.page + tr.page ∧ f (i + 1) ≤ hi ∧ tr.place = .device ∧ pteW tr.entry = true ∧
        ∃ u, marksA u s (ps.take i) ∧ u.xlate p (f i) = .ok tr := by
  induction ps with
  | nil =>
    rintro a s ⟨rfl, rfl⟩
    exact ⟨fun _ => a, rfl, rfl, fun i tr h => by simp at h⟩
  | cons t ps ih =>
    rintro a s ⟨hlt, hx, hva, hhi, hplace, hw, hrest⟩
    obtain ⟨f, hzero, hend, hpages⟩ := ih hrest
    refine ⟨fun i => match i with | 0 => a | i + 1 => f i, rfl, hend, fun i tr h => ?_⟩
    cases i with
    | zero =>
      obtain rfl : t = tr := by simpa using h
      exact ⟨hlt, hva, hzero, hzero.le.trans hhi, hplace, hw, s, marksA_refl s, hx⟩
    | succ i =>
      obtain ⟨h1, h2, h3, h4, h5, h6, u, hu, hxu⟩ := hpages i tr (by simpa using h)
      exact ⟨h1, h2, h3, h4, h5, h6, u, marksA_cons hu, hxu⟩

/-! ## Marks (R308, R309, R332) -/

/-- The address of the byte that holds SEALED of a leaf of a page. -/
def sealByte (tr : Trans) (i : Nat) : Nat := tr.leaf + 8 * i + 7

/-- The leaves of a page (R333). -/
def leafCount (tr : Trans) : Nat := tr.page / 2 ^ (12 + 9 * pageLevel (pteSize tr.entry))

/-- SEALED of one leaf set or cleared. -/
def sealOne (on : Bool) (tr : Trans) (s : State) (i : Nat) : State :=
  s.devSetByte (sealByte tr i) (if on then s.devByte (sealByte tr i) ||| 2 else s.devByte (sealByte tr i) &&& ~~~2#8)

theorem sealLeaf_eq (s : State) (tr : Trans) (on : Bool) : s.sealLeaf tr on = (List.range (leafCount tr)).foldl (sealOne on tr) s := rfl

theorem sealOne_frame (on : Bool) (tr : Trans) (s : State) (i : Nat) : { sealOne on tr s i with dev := s.dev, tags := s.tags } = s := by
  obtain ⟨d, t, h, -⟩ := s.devSetByte_cases (sealByte tr i) (if on then s.devByte (sealByte tr i) ||| 2 else s.devByte (sealByte tr i) &&& ~~~2#8)
  rw [sealOne, h]

theorem sealOne_bit (on : Bool) (tr : Trans) (s : State) (i x : Nat) :
    ((sealOne on tr s i).devByte x).getLsbD 1 = if x = sealByte tr i then on else (s.devByte x).getLsbD 1 := by
  rw [sealOne, devByte_devSetByte]
  split
  · cases on <;> simp
  · rfl

theorem sealFold_frame (on : Bool) (tr : Trans) (l : List Nat) : ∀ s : State,
    { l.foldl (sealOne on tr) s with dev := s.dev, tags := s.tags } = s := by
  induction l with
  | nil => exact fun _ => rfl
  | cons i l ih =>
    intro s
    exact (congrArg (fun z : State => { z with dev := s.dev, tags := s.tags }) (ih (sealOne on tr s i)) :).trans (sealOne_frame on tr s i)

theorem sealFold_bit (on : Bool) (tr : Trans) (x : Nat) (l : List Nat) : ∀ s : State,
    ((l.foldl (sealOne on tr) s).devByte x).getLsbD 1 = if x ∈ l.map (sealByte tr) then on else (s.devByte x).getLsbD 1 := by
  induction l with
  | nil => exact fun _ => rfl
  | cons i l ih =>
    intro s
    rw [List.foldl_cons, ih, sealOne_bit]
    simp only [List.map_cons, List.mem_cons]
    by_cases hl : x ∈ l.map (sealByte tr) <;> simp [hl]

/-- One page marked, and no line of it cached any more. -/
def sealPage (on : Bool) (s : State) (tr : Trans) : State := (s.sealLeaf tr on).cdcPurge .device tr.pa tr.page

theorem sealMark_cons (s : State) (tr : Trans) (ps : List Trans) (on : Bool) :
    s.sealMark (tr :: ps) on = (sealPage on s tr).sealMark ps on := rfl

theorem sealPage_frame (on : Bool) (s : State) (tr : Trans) :
    { sealPage on s tr with dev := s.dev, tags := s.tags, cdc := s.cdc, fills := s.fills } = s :=
  (congrArg (fun z : State => { z with cdc := s.cdc, fills := s.fills }) (sealFold_frame on tr (List.range (leafCount tr)) s) :)

theorem sealPage_bit (on : Bool) (s : State) (tr : Trans) (x : Nat) :
    ((sealPage on s tr).devByte x).getLsbD 1 = if x ∈ (List.range (leafCount tr)).map (sealByte tr) then on else (s.devByte x).getLsbD 1 :=
  sealFold_bit on tr x (List.range (leafCount tr)) s

/-- A line is no line of a page. -/
def outside (x : CdcLine) (tr : Trans) : Prop := x.place = .device → 128 * x.line + 128 ≤ tr.pa ∨ tr.pa + tr.page ≤ 128 * x.line

theorem mem_sealPage {on : Bool} {s : State} {tr : Trans} {x : CdcLine} (hx : x ∈ (sealPage on s tr).cdc) : x ∈ s.cdc ∧ outside x tr := by
  obtain ⟨hmem, hout⟩ := List.mem_filter.1 hx
  have hcdc : (s.sealLeaf tr on).cdc = s.cdc := (congrArg State.cdc (sealFold_frame on tr (List.range (leafCount tr)) s) :)
  refine ⟨hcdc ▸ hmem, fun hp => ?_⟩
  simp only [hp, BEq.rfl, Bool.true_and, Bool.not_eq_true', decide_eq_false_iff_not] at hout
  omega

/-- `seal` and `unseal` mark every leaf of every page, and no line of a page stays cached. -/
theorem sealMark_spec (on : Bool) (ps : List Trans) : ∀ s : State,
    { s.sealMark ps on with dev := s.dev, tags := s.tags, cdc := s.cdc, fills := s.fills } = s ∧
      (∀ x, (s.devByte x).getLsbD 1 = on ∨ (∃ tr ∈ ps, x ∈ (List.range (leafCount tr)).map (sealByte tr)) →
        ((s.sealMark ps on).devByte x).getLsbD 1 = on) ∧
      ∀ x ∈ (s.sealMark ps on).cdc, x ∈ s.cdc ∧ ∀ tr ∈ ps, outside x tr := by
  induction ps with
  | nil => exact fun s => ⟨rfl, fun x h => h.elim id (by rintro ⟨_, h, -⟩; cases h), fun x hx => ⟨hx, nofun⟩⟩
  | cons tr ps ih =>
    intro s
    obtain ⟨hframe, hbit, hcdc⟩ := ih (sealPage on s tr)
    rw [sealMark_cons]
    refine ⟨?_, fun x hx => hbit x ?_, fun x hx => ?_⟩
    · exact (congrArg (fun z : State => { z with dev := s.dev, tags := s.tags, cdc := s.cdc, fills := s.fills }) hframe :).trans
        (sealPage_frame on s tr)
    · rw [sealPage_bit]
      rcases hx with h | ⟨y, hy, hyx⟩
      · exact .inl (by rw [h, ite_self])
      · rcases List.mem_cons.1 hy with rfl | hy
        · exact .inl (if_pos hyx)
        · exact .inr ⟨y, hy, hyx⟩
    · obtain ⟨hmem, hout⟩ := hcdc x hx
      obtain ⟨hmem, hfirst⟩ := mem_sealPage hmem
      exact ⟨hmem, List.forall_mem_cons.2 ⟨hfirst, hout⟩⟩

theorem seal_next {s v : State} {a b : SReg} {on : Bool} {ps : List Trans} (hm : syncMode s) (ha : (s.sget a).toNat % 4096 = 0)
    (hb : (s.sget b).toNat % 4096 = 0) (h0 : (s.sget b).toNat ≠ 0) (hmax : (s.sget b).toNat ≤ 2 ^ 30)
    (hps : State.sealPages s.warp.ident.part (s.sget a).toNat ((s.sget a).toNat + (s.sget b).toNat) ((s.sget b).toNat / 4096 + 1)
      (s.sget a).toNat [] s = (.ok ps, v)) (hv : v.warp = s.warp) (hr : v.releaseReady .grid = true) :
    exec (if on then .seal a b else .unseal a b) s = .next ((v.sealMark ps on).adv 4) := by
  obtain ⟨hf, ht, hd, hs⟩ := hm
  have hword : s.sealWord a b on = (v.sealMark ps on).adv 4 := by
    rw [State.sealWord, syncGate_passes hf ht]
    have hlen : decide ((s.sget b).toNat = 0 ∨ 2 ^ 30 < (s.sget b).toNat) = false := decide_eq_false (by omega)
    simp only [ha, hb, ne_eq, not_true, or_self, if_false, hlen, State.modeIf_false, hps, v.item_plain _ _ (hv ▸ hs), hd, Bool.false_eq_true,
      State.releasing, hr, if_true]
  cases on with
  | false => exact congrArg Host.Outcome.next hword
  | true => exact congrArg Host.Outcome.next hword

/-- The pages that the checks of R308 accept for a range of whole frames. -/
theorem sealPages_range {s v : State} {p va len : Nat} {ps : List Trans} (hva : va % 4096 = 0) (hlen : len % 4096 = 0)
    (h : State.sealPages p va (va + len) (len / 4096 + 1) va [] s = (.ok ps, v)) : pagesFrom p va (va + len) va ps s v := by
  obtain ⟨rs, hrs, hpages⟩ := sealPages_ok (by omega) _ va [] s (by omega) (by omega) (by omega) h
  rw [List.nil_append] at hrs
  exact hrs ▸ hpages

/-- Settles O31: a fence by whether its release may be made, a seal by its pages and their marks, and the words of a `SHADOW` launch by the value that
they pass through the queue. -/
theorem fenceAndSeal : Obligations.FenceAndSeal := by
  unfold Obligations.FenceAndSeal
  intro s v sc a b on ps returned
  refine ⟨fun h => fence_waits h, fun hr hl => ⟨_, fence_done hr hl, ?_⟩, ?_, ?_, ?_⟩
  · let u := withItems s [⟨6, [], 0, 0⟩]
    have hframe := acquire_frame sc u
    refine ⟨congrArg (fun w : Warp => { w with pc := w.pc + 4 }) (congrArg State.warp hframe :), (congrArg State.items hframe :), ?_, fun hsc => ?_,
      fun hsc => mem_acquire_wide hsc u⟩
    · exact (congrArg (fun z : State => { z with warp := s.warp, items := s.items }) hframe :)
    · rw [acquire_narrow hsc]
      exact ⟨rfl, rfl⟩
  · intro va len hm hva hlen h0 hmax _ hps hr
    obtain ⟨hframe, -⟩ := pagesFrom_marks ps (sealPages_range hva hlen hps)
    have hwarp : v.warp = s.warp := (congrArg State.warp hframe :)
    have hready : v.releaseReady .grid = true := (congrArg (State.releaseReady · .grid) hframe :).trans hr
    obtain ⟨hmark, hbit, hcdc⟩ := sealMark_spec on ps v
    refine ⟨_, seal_next hm hva hlen h0 hmax hps hwarp hready, ?_, fun tr htr => ⟨fun i hi => ?_, fun x hx => (hcdc x hx).2 tr htr⟩, ?_⟩
    · exact congrArg (fun w : Warp => { w with pc := w.pc + 4 }) ((congrArg State.warp hmark :).trans hwarp)
    · exact hbit _ (.inr ⟨tr, htr, List.mem_map_of_mem (List.mem_range.2 hi)⟩)
    · exact (congrArg (fun z : State => { z with warp := s.warp, dev := s.dev, tags := s.tags, cdc := s.cdc, fills := s.fills }) hmark :).trans
        (congrArg (fun z : State => { z with warp := s.warp, cdc := s.cdc, fills := s.fills }) hframe :)
  · intro va len hva hlen h0 hps
    obtain ⟨f, hzero, hend, hpages⟩ := pagesFrom_addresses ps (sealPages_range hva hlen hps)
    refine ⟨f, hzero, hend, fun i tr hi => ?_⟩
    obtain ⟨h1, h2, h3, h4, h5, h6, u, ⟨hframe, hbyte⟩, hx⟩ := hpages i tr hi
    exact ⟨h1, h2, h3, h4, h5, h6, u, hframe, hbyte, hx⟩
  · intro d test acq acc n tk q ago waits
    refine ⟨fun hn h14 => ⟨fun h => wait_stale rfl rfl hn h14 h, fun hgen hlive =>
      ⟨wait_left rfl rfl hn h14 hgen hlive, wait_test rfl rfl hn h14 hgen hlive⟩⟩,
      fun htl hn => ⟨tlr_via htl hn, tlw_via htl hn⟩⟩

end Sys2Proof
end

section
/-! SUPPORT. Deques (R222 to R229): the deques of a grid after a write of one, what a word that delivers a token leaves, and O30. -/

namespace Sys2Proof

open Sys2Proof.Machine

/-! ## Deques of a grid (R224) -/

theorem dequeGate_passes {s : State} (hf : s.warp.fork = none) (hd : s.warp.det = false) (ht : s.warp.task = none) (k : State → State) :
    s.dequeGate k = k s := by
  rw [State.dequeGate, State.unforked_plain _ _ _ hf, hd, State.modeIf_false, ht]
  rfl

/-- A deque that holds a token is that of a crew. -/
theorem crew_of_dequeOf {s : State} {c : Nat} (h : s.dequeOf c ≠ []) : s.crew? s.warp.ident.grid c ≠ none := by
  intro hn
  rw [State.dequeOf, hn] at h
  exact h rfl

theorem dequeOf_setDeque {s : State} {c : Nat} (h : s.crew? s.warp.ident.grid c ≠ none) (l : List W64) (k : Nat) :
    (s.setDeque c l).dequeOf k = if k = c then l else s.dequeOf k := by
  obtain ⟨x, hx⟩ := Option.ne_none_iff_exists'.1 h
  rw [State.dequeOf, State.setDeque, State.modCrew_warp, State.crew?_modCrew _ _ _ fun x => by split <;> exact ⟨rfl, rfl⟩]
  by_cases hk : k = c
  · subst hk
    simp only [and_self, if_true, hx, Option.map_some, Option.getD_some]
    split <;> rfl
  · simp only [hk, and_false, if_false]
    rfl

/-! ## Words that deliver a token (R223 to R225) -/

/-- A write of a predicate changes nothing but the predicates. -/
theorem cset_only (w : Warp) (c : PReg) (b : Bool) : w.cset c b = { w with c := (w.cset c b).c } := by
  unfold Warp.cset
  split <;> rfl

theorem cget_cset_true (w : Warp) (c p : PReg) : (w.cset c true).cget p = (decide (p = c) || w.cget p) := by
  rw [cget_cset]
  by_cases hp : p = c
  · subst hp
    rw [decide_eq_true rfl, Bool.true_or]
    by_cases h7 : p = 7
    · rw [if_neg fun h => h.2 h7, h7]
      rfl
    · exact if_pos ⟨rfl, h7⟩
  · rw [if_neg fun h => hp h.1, decide_eq_false hp, Bool.false_or]

/-- A warp whose deque word is done, with a token in a scalar register and whether there was one in a predicate. -/
def tokenWarp (w : Warp) (d : SReg) (c : PReg) (x : W64) (ok : Bool) : Warp := { (w.sset d x).cset c ok with pc := w.pc + 4 }

section
variable (w : Warp) (d : SReg) (c : PReg) (x : W64) (ok : Bool)

theorem tokenWarp_regs : regsWith (tokenWarp w d c x ok) w d x := by
  rw [tokenWarp, cset_only]
  exact regsWith_sset w d x

theorem tokenWarp_cget (p : PReg) : (tokenWarp w d c x ok).cget p = if p = c ∧ c ≠ 7 then ok else w.cget p := by
  have hsame : (w.sset d x).cget p = w.cget p := by rw [Warp.cget, Warp.sset_c]; rfl
  exact (cget_cset (w.sset d x) c p ok).trans (by rw [hsame])

theorem tokenWarp_frame : { tokenWarp w d c x ok with pc := w.pc, s := w.s, banks := w.banks, c := w.c } = w := by
  rw [tokenWarp, cset_only]
  exact (congrArg (fun z : Warp => { z with c := w.c }) (onlyRegs_sset w d x w.pc) :)
end

theorem dequeDone_eq {s : State} (hs : s.warp.isShadowed = false) (d : SReg) (c : PReg) (x : W64) (ok : Bool) :
    s.dequeDone d c x ok = { s with warp := tokenWarp s.warp d c x ok } := by
  have hok : (ok.toNat != 0) = ok := by cases ok <;> rfl
  have hpc : ((s.warp.sset d x).cset c ok).pc = s.warp.pc := by simp
  simp only [State.dequeDone, s.viaLvq_plain _ hs, BitVec.ofNat_toNat, BitVec.setWidth_eq, hok, tokenWarp, ← hpc]
  rfl

/-- A deque word delivers a token, and leaves the deques as they were but for one; lines of the cache may have gone (R287). -/
def givesToken (i : Instr) (s : State) (d : SReg) (c : PReg) (x : W64) (ok : Bool) (crew : Nat) (rest : List W64) : Prop :=
  completes i s fun t =>
    t.warp.pc = s.warp.pc + 4 ∧ regsWith t.warp s.warp d x ∧ (∀ p : PReg, t.warp.cget p = if p = c ∧ c ≠ 7 then ok else s.warp.cget p) ∧
    { t.warp with pc := s.warp.pc, s := s.warp.s, banks := s.warp.banks, c := s.warp.c } = s.warp ∧
    (∀ k, (k = crew → t.dequeOf k = rest) ∧ (k ≠ crew → t.dequeOf k = s.dequeOf k)) ∧
    { t with warp := s.warp, crews := s.crews, cdc := s.cdc, fills := s.fills } = s

theorem dequeOf_tokenWarp (s : State) (d : SReg) (c : PReg) (x : W64) (ok : Bool) (k : Nat) :
    ({ s with warp := tokenWarp s.warp d c x ok } : State).dequeOf k = s.dequeOf k := by
  have hident : (tokenWarp s.warp d c x ok).ident = s.warp.ident := by simp [tokenWarp]
  rw [State.dequeOf, hident]
  rfl

/-- A word that finds no token. -/
theorem givesToken_none {i : Instr} {s : State} {d : SReg} {c : PReg} {crew : Nat} (hs : s.warp.isShadowed = false)
    (hq : s.dequeOf crew = []) (h : exec i s = .next (s.dequeDone d c 0 false)) : givesToken i s d c 0 false crew [] := by
  rw [dequeDone_eq hs] at h
  refine ⟨_, h, rfl, tokenWarp_regs _ d c 0 false, tokenWarp_cget _ d c 0 false, tokenWarp_frame _ d c 0 false,
    fun k => ⟨?_, fun _ => dequeOf_tokenWarp ..⟩, rfl⟩
  rintro rfl
  exact (dequeOf_tokenWarp ..).trans hq

/-- A word that takes a token from a crew's deque, and acquires (R228). -/
theorem givesToken_some {i : Instr} {s : State} {d : SReg} {c : PReg} {x : W64} {crew : Nat} {rest : List W64} {sc : Scope}
    (hs : s.warp.isShadowed = false) (hq : s.dequeOf crew ≠ [])
    (h : exec i s = .next (((s.setDeque crew rest).acquire sc).dequeDone d c x true)) : givesToken i s d c x true crew rest := by
  have hframe := acquire_frame sc (s.setDeque crew rest)
  have hwarp : ((s.setDeque crew rest).acquire sc).warp = s.warp := (congrArg State.warp hframe :)
  have hdeques (k : Nat) : ((s.setDeque crew rest).acquire sc).dequeOf k = if k = crew then rest else s.dequeOf k :=
    (congrArg (State.dequeOf · k) hframe :).trans (dequeOf_setDeque (crew_of_dequeOf hq) rest k)
  rw [dequeDone_eq (hwarp ▸ hs)] at h
  refine ⟨_, h, ?_⟩
  simp only [dequeOf_tokenWarp]
  rw [hwarp]
  refine ⟨rfl, tokenWarp_regs _ d c x true, tokenWarp_cget _ d c x true, tokenWarp_frame _ d c x true,
    fun k => ⟨fun hk => (hdeques k).trans (if_pos hk), fun hk => (hdeques k).trans (if_neg hk)⟩, ?_⟩
  exact (congrArg (fun z : State => { z with warp := s.warp, crews := s.crews, cdc := s.cdc, fills := s.fills }) hframe :)

/-! ## The words (R224 to R227) -/

section
variable {s : State} {d : SReg} {c : PReg} (hf : s.warp.fork = none) (hd : s.warp.det = false) (ht : s.warp.task = none)
include hf hd ht

theorem dqPush_next {a : SReg} (hs : s.warp.isShadowed = false) (hlen : (s.dequeOf s.warp.ident.crew).length < 512)
    (hr : s.releaseReady .grid = true) : exec (.dqPush c a) s =
      .next (((s.setDeque s.warp.ident.crew (s.sget a :: s.dequeOf s.warp.ident.crew)).upd (·.cset c true)).adv 4) := by
  have hroom : ¬Config.dequeEntries ≤ (s.dequeOf s.warp.ident.crew).length := not_le.2 hlen
  show execDqPush c a s = _
  rw [execDqPush, dequeGate_passes hf hd ht]
  simp only [s.item_plain _ _ hs, hroom, if_false, State.releasing, hr, if_true]

theorem dqPush_full {a : SReg} (hs : s.warp.isShadowed = false) (hlen : 512 ≤ (s.dequeOf s.warp.ident.crew).length) :
    exec (.dqPush c a) s = .next ((s.upd (·.cset c false)).adv 4) := by
  have hfull : Config.dequeEntries ≤ (s.dequeOf s.warp.ident.crew).length := hlen
  show execDqPush c a s = _
  rw [execDqPush, dequeGate_passes hf hd ht]
  simp only [s.item_plain _ _ hs, hfull, if_true]

theorem dqPop_empty (hq : s.dequeOf s.warp.ident.crew = []) : exec (.dqPop d c) s = .next (s.dequeDone d c 0 false) := by
  show execDqPop d c s = _
  rw [execDqPop, dequeGate_passes hf hd ht]
  simp only [hq]

theorem dqPop_next {x : W64} {r : List W64} (hq : s.dequeOf s.warp.ident.crew = x :: r) :
    exec (.dqPop d c) s = .next (((s.setDeque s.warp.ident.crew r).acquire .crew).dequeDone d c x true) := by
  show execDqPop d c s = _
  rw [execDqPop, dequeGate_passes hf hd ht]
  simp only [hq]

theorem dqTake_own {wt grid : Bool} {x : W64} {r : List W64} (hq : s.dequeOf s.warp.ident.crew = x :: r) :
    exec (.dqTake d c wt grid) s = .next (((s.setDeque s.warp.ident.crew r).acquire .crew).dequeDone d c x true) := by
  show execDqTake d c wt grid s = _
  rw [execDqTake, dequeGate_passes hf hd ht]
  simp only [hq]

theorem dqTake_far {wt grid : Bool} {k : Nat} {team : Bool} (hq : s.dequeOf s.warp.ident.crew = [])
    (hk : (s.searchOrder grid).find? (fun z => !(s.dequeOf z.1).isEmpty) = some (k, team)) : exec (.dqTake d c wt grid) s =
      .next (((s.setDeque k (s.dequeOf k).dropLast).acquire (if team then .team else .grid)).dequeDone d c ((s.dequeOf k).getLastD 0) true) := by
  show execDqTake d c wt grid s = _
  rw [execDqTake, dequeGate_passes hf hd ht]
  simp only [hq, hk]

theorem dqTake_none {wt grid : Bool} (hq : s.dequeOf s.warp.ident.crew = []) (hnone : ∀ z ∈ s.searchOrder grid, s.dequeOf z.1 = []) :
    exec (.dqTake d c wt grid) s =
      .next (if wt && !s.quiescent s.warp.ident (some s.warp.id) grid then s.waitOn (.take grid d c)
        else (if wt then s.releaseTakes s.warp.ident.grid (some s.warp.id) else s).dequeDone d c 0 false) := by
  have hfind : (s.searchOrder grid).find? (fun z => !(s.dequeOf z.1).isEmpty) = none :=
    List.find?_eq_none.2 fun z hz => by simp [hnone z hz]
  show execDqTake d c wt grid s = _
  rw [execDqTake, dequeGate_passes hf hd ht]
  simp only [hq, hfind]
end

/-- Takes of other warps that end empty change no crew and leave the warp that releases them as it is (R227). -/
theorem releaseTakes_spec (s : State) (g : Nat) :
    (s.releaseTakes g (some s.warp.id)).warp = s.warp ∧ (s.releaseTakes g (some s.warp.id)).crews = s.crews := by
  have hids : ∀ i ∈ s.emptyTakes g (some s.warp.id), s.warp.id ≠ i := by
    intro i hi he
    obtain ⟨x, hx, rfl⟩ := List.mem_map.1 hi
    simp [he] at hx
  rw [State.releaseTakes]
  generalize s.emptyTakes g (some s.warp.id) = ids at hids ⊢
  induction ids generalizing s with
  | nil => exact ⟨rfl, rfl⟩
  | cons i ids ih =>
    obtain ⟨hi, hids⟩ := List.forall_mem_cons.1 hids
    have hwarp : (s.modPair i Warp.takeEmpty).warp = s.warp := by rw [modPair_warp, if_neg hi]
    have hcrews : (s.modPair i Warp.takeEmpty).crews = s.crews := by unfold State.modPair State.modWarp; split <;> rfl
    obtain ⟨hw, hc⟩ := ih _ (hwarp.symm ▸ hids)
    exact ⟨hw.trans hwarp, hc.trans hcrews⟩

/-- Settles O30: each word by the branch that it takes, and the deques after a write of one. -/
theorem deque : Obligations.Deque := by
  unfold Obligations.Deque
  intro s d a c wt grid hf hd ht hs w own q delivers
  refine ⟨fun hlen hr hcrew => ?_, fun hlen => writesPred_intro (dqPush_full hf hd ht hs hlen), fun hq => ?_, fun x r hq => ?_,
    fun k team l x hq hfind hl => ?_, fun hq hnone => ⟨?_, fun hquiet => ?_, fun hbusy => ?_⟩⟩
  · refine ⟨_, dqPush_next hf hd ht hs hlen hr, ?_, ?_, fun p => ?_, ?_, rfl⟩
    · have hsame : (((s.setDeque own (s.sget a :: q)).upd (·.cset c true)).adv 4).dequeOf own = (s.setDeque own (s.sget a :: q)).dequeOf own := by
        rw [State.dequeOf]; simp; rfl
      exact hsame.trans ((dequeOf_setDeque hcrew _ own).trans (if_pos rfl))
    · simp
      rfl
    · exact cget_cset_true w c p
    · exact (congrArg (fun z : Warp => { z with pc := w.pc, c := w.c }) (cset_only w c true) :)
  · exact givesToken_none hs hq (dqPop_empty hf hd ht hq)
  · have hne : s.dequeOf own ≠ [] := fun h => by simp [q, h] at hq
    exact ⟨givesToken_some hs hne (dqPop_next hf hd ht hq), givesToken_some hs hne (dqTake_own hf hd ht hq)⟩
  · have hne : s.dequeOf k ≠ [] := by simp [hl]
    have hexec := dqTake_far (d := d) (c := c) (wt := wt) hf hd ht hq hfind
    rw [hl, List.dropLast_concat, List.getLastD_concat] at hexec
    exact givesToken_some hs hne hexec
  · exact givesToken_none hs hq (dqTake_none hf hd ht hq hnone)
  · obtain ⟨hwarp, hcrews⟩ := releaseTakes_spec s w.ident.grid
    have hexec := dqTake_none (d := d) (c := c) (wt := true) hf hd ht hq hnone
    rw [show s.quiescent s.warp.ident (some s.warp.id) grid = true from hquiet, Bool.not_true, Bool.and_false,
      if_neg Bool.false_ne_true, if_pos rfl, dequeDone_eq (hwarp.symm ▸ hs), hwarp] at hexec
    exact ⟨_, hexec, rfl, tokenWarp_regs _ d c 0 false, tokenWarp_cget _ d c 0 false, hcrews⟩
  · refine (dqTake_none hf hd ht hq hnone).trans ?_
    rw [show s.quiescent s.warp.ident (some s.warp.id) grid = false from hbusy]
    rfl

end Sys2Proof
end

section
/-! SUPPORT. Halts, kills, drains and evictions as they act on the crews of the module (R191, R197, R221, R383): what they leave, and that no crew is placed
by them. -/

namespace Sys2Proof

open Sys2Proof.Machine

/-! ## Crews that recede -/

/-- A crew as it may stand after a halt, a kill, a drain or an eviction: it has not been placed, nor taken a core, and stays KILLED where it was. -/
structure Receded (y x : Crew) : Prop where
  grid : y.grid = x.grid
  num : y.num = x.num
  team : y.team = x.team
  placed : y.state = .placed → x.state = .placed
  killed : x.state = .killed → y.state = .killed
  core : y.core = x.core ∨ y.core = none

/-- Every crew has receded, or is as it was. -/
def crewsRecede (t s : State) : Prop := ∃ f : Crew → Crew, (∀ x, Receded (f x) x) ∧ t.crews = s.crews.map f

theorem receded_refl (x : Crew) : Receded x x := ⟨rfl, rfl, rfl, id, id, .inl rfl⟩

theorem receded_trans {z y x : Crew} (h : Receded z y) (h' : Receded y x) : Receded z x where
  grid := h.grid.trans h'.grid
  num := h.num.trans h'.num
  team := h.team.trans h'.team
  placed := h'.placed ∘ h.placed
  killed := h.killed ∘ h'.killed
  core := h.core.elim (fun e => h'.core.imp e.trans e.trans) .inr

theorem crewsRecede_of_eq {t s : State} (h : t.crews = s.crews) : crewsRecede t s := ⟨id, receded_refl, by rw [h, List.map_id]⟩

theorem crewsRecede_trans {t u s : State} (h : crewsRecede t u) (h' : crewsRecede u s) : crewsRecede t s := by
  obtain ⟨f, hf, ht⟩ := h
  obtain ⟨g, hg, hu⟩ := h'
  exact ⟨f ∘ g, fun x => receded_trans (hf (g x)) (hg x), by rw [ht, hu, List.map_map]⟩

theorem crewsRecede_map {t s : State} {f : Crew → Crew} {p : Crew → Prop} [DecidablePred p] (hf : ∀ x, Receded (f x) x)
    (h : t.crews = s.crews.map fun x => if p x then f x else x) : crewsRecede t s := by
  refine ⟨_, fun x => ?_, h⟩
  split
  · exact hf x
  · exact receded_refl x

/-- A step that makes crews recede, taken for the elements of a list. -/
theorem crewsRecede_foldl {α : Type} (f : State → α → State) (h : ∀ s a, crewsRecede (f s a) s) (l : List α) (s : State) :
    crewsRecede (l.foldl f s) s :=
  List.foldlRecOn (motive := (crewsRecede · s)) l f (crewsRecede_of_eq rfl) fun t ht a _ => crewsRecede_trans (h t a) ht

/-- Each crew of the later state was one before. -/
theorem crewsRecede_mem {t s : State} (h : crewsRecede t s) {y : Crew} (hy : y ∈ t.crews) : ∃ x ∈ s.crews, Receded y x := by
  obtain ⟨f, hf, ht⟩ := h
  obtain ⟨x, hx, rfl⟩ := List.mem_map.1 (ht ▸ hy)
  exact ⟨x, hx, hf x⟩

/-- What a step gives to one element of a list, and every other step keeps, holds at the end. -/
theorem foldl_establishes {σ α : Type} {f : σ → α → σ} {I : σ → Prop} {P : α → σ → Prop} (hI : ∀ s a, I s → I (f s a))
    (hset : ∀ s a, I s → P a (f s a)) (hkeep : ∀ s a b, I s → P a s → P a (f s b)) (l : List α) :
    ∀ s, I s → ∀ a, a ∈ l ∨ P a s → P a (l.foldl f s) := by
  induction l with
  | nil => exact fun s _ a h => h.resolve_left List.not_mem_nil
  | cons b l ih =>
    intro s hs a h
    refine ih _ (hI s b hs) a ?_
    rcases h with h | h
    · rcases List.mem_cons.1 h with rfl | h
      · exact .inr (hset s a hs)
      · exact .inl h
    · exact .inr (hkeep s a b hs h)

/-! ## The operations on crews -/

theorem emptied_receded (x : Crew) (busy : Bool) : Receded (x.emptied busy) x := by
  rw [emptied_eq]
  split
  · split
    · next h => exact ⟨rfl, rfl, rfl, nofun, fun hk => by simp [hk] at h, by cases busy <;> simp⟩
    · exact receded_refl x
  · split
    · next h => exact ⟨rfl, rfl, rfl, nofun, fun hk => by simp [hk] at h, .inl rfl⟩
    · exact receded_refl x

theorem leave_receded (x : Crew) (d : Desc) : Receded (x.leave d) x := by
  unfold Crew.leave Crew.trim
  split
  case h_1 h => exact ⟨rfl, rfl, rfl, nofun, by simp [h], .inr rfl⟩
  case h_2 h => exact ⟨rfl, rfl, rfl, nofun, by simp [h], .inr rfl⟩
  case h_3 h => exact ⟨rfl, rfl, rfl, id, id, .inr rfl⟩
  case h_4 => exact receded_refl x

theorem crewsRecede_crewAfter (s : State) (g c : Nat) : crewsRecede (s.crewAfter g c) s := by
  unfold State.crewAfter
  split
  · exact crewsRecede_map (fun x => emptied_receded x _) rfl
  · exact crewsRecede_of_eq rfl

theorem crewsRecede_exitWarp (s : State) (w : Warp) : crewsRecede (s.exitWarp w) s := by
  obtain ⟨x, os, sh, ps, h⟩ := s.retire_frame w.id
  exact crewsRecede_trans (crewsRecede_crewAfter _ _ _) (crewsRecede_of_eq (by rw [h]))

/-! ## What drains and kills leave -/

/-- What may change besides the crews where warps halt and crews leave: the warps, the teams' places, the halted grids, the clock, and of each
partition its messages and barriers. -/
structure Recedes (t s : State) : Prop where
  frame : { t with warp := s.warp, others := s.others, shadows := s.shadows, pairs := s.pairs, crews := s.crews, teams := s.teams, grids := s.grids,
                   parts := s.parts, fresh := s.fresh } = s
  part : ∀ p, { t.part p with msgs := (s.part p).msgs, overflow := (s.part p).overflow, bars := (s.part p).bars } = s.part p
  crews : crewsRecede t s

theorem recedes_trans {t u s : State} (h : Recedes t u) (h' : Recedes u s) : Recedes t s where
  frame := (congrArg (fun z : State => { z with
    warp := s.warp, others := s.others, shadows := s.shadows, pairs := s.pairs, crews := s.crews, teams := s.teams, grids := s.grids,
    parts := s.parts, fresh := s.fresh }) h.frame :).trans h'.frame
  part p := (congrArg (fun z : Part => { z with msgs := (s.part p).msgs, overflow := (s.part p).overflow, bars := (s.part p).bars }) (h.part p) :).trans
    (h'.part p)
  crews := crewsRecede_trans h.crews h'.crews

theorem recedes_refl (s : State) : Recedes s s := ⟨rfl, fun _ => rfl, crewsRecede_of_eq rfl⟩

theorem recedes_foldl {α : Type} {f : State → α → State} (h : ∀ s a, Recedes (f s a) s) (l : List α) (s : State) : Recedes (l.foldl f s) s :=
  List.foldlRecOn (motive := (Recedes · s)) l f (recedes_refl s) fun t ht a _ => recedes_trans (h t a) ht

section
variable {t s : State} (h : Recedes t s)
include h

theorem Recedes.dies : t.dies = s.dies := (congrArg State.dies h.frame :)
theorem Recedes.die (d : Nat) : t.die d = s.die d := congrArg (fun l => Tab.get l d Die.blank) h.dies
theorem Recedes.laneMaps : t.laneMaps = s.laneMaps := (congrArg State.laneMaps h.frame :)
theorem Recedes.ops : t.ops = s.ops := (congrArg State.ops h.frame :)
theorem Recedes.stop (p : Nat) : (t.part p).stop = (s.part p).stop := (congrArg Part.stop (h.part p) :)
end

theorem modPair_frame (s : State) (id : Nat) (f : Warp → Warp) :
    { s.modPair id f with warp := s.warp, others := s.others, shadows := s.shadows } = s := by
  unfold State.modPair State.modWarp
  split <;> rfl

theorem modPair_recedes (s : State) (id : Nat) (f : Warp → Warp) : Recedes (s.modPair id f) s := by
  have hframe := modPair_frame s id f
  refine ⟨?_, fun p => ?_, crewsRecede_of_eq (congrArg State.crews hframe :)⟩
  · exact (congrArg (fun z : State => { z with
      pairs := s.pairs, crews := s.crews, teams := s.teams, grids := s.grids, parts := s.parts, fresh := s.fresh }) hframe :)
  · have hp : (s.modPair id f).part p = s.part p := congrArg (fun l => Tab.get l p Part.blank) (modPair_parts s id f)
    rw [hp]

theorem pushMsg_recedes (s : State) (p : Nat) (m : List Byte) : Recedes (s.pushMsg p m) s := by
  obtain ⟨x, f, h, hx⟩ := s.pushMsg_frame p m
  rw [h]
  refine ⟨rfl, fun q => ?_, crewsRecede_of_eq rfl⟩
  change { Tab.get (Tab.set s.parts p x) q .blank with msgs := (s.part q).msgs, overflow := (s.part q).overflow, bars := (s.part q).bars } = s.part q
  rw [Tab.get_set]
  split
  · next hq =>
    subst hq
    exact (congrArg (fun z : Part => { z with bars := (s.part q).bars }) hx :)
  · rfl

theorem abandon_recedes (s : State) (p id : Nat) : Recedes (s.modPart p (·.abandon id)) s := by
  refine ⟨rfl, fun q => ?_, crewsRecede_of_eq rfl⟩
  rw [part_modPart]
  split
  · next hq => subst hq; rfl
  · rfl

theorem modGrid_recedes (s : State) (g : Nat) (f : Grid → Grid) : Recedes (s.modGrid g f) s := ⟨rfl, fun _ => rfl, crewsRecede_of_eq rfl⟩

theorem exitWarp_recedes (s : State) (w : Warp) : Recedes (s.exitWarp w) s where
  frame := (congrArg (fun z : State => { z with teams := s.teams, grids := s.grids, parts := s.parts, fresh := s.fresh }) (s.exitWarp_frame w) :)
  part p := by rw [State.part, exitWarp_parts]; rfl
  crews := crewsRecede_exitWarp s w

theorem haltAt_recedes (s : State) (w : Warp) (code detail : Nat) (mask : Mask) (va : Nat) (t : Ticket) :
    Recedes (s.haltAt w code detail mask va t) s :=
  recedes_trans (exitWarp_recedes _ w) (recedes_trans (modGrid_recedes _ _ _)
    (recedes_trans (abandon_recedes _ _ _) (pushMsg_recedes s _ _)))

/-! ## Kills (R197, R383) -/

/-- A KILLED crew; it stays on its core while an operation writes a buffer of it (R347). -/
def killedCrew (busy : Bool) (x : Crew) : Crew := { x with state := .killed, core := if busy then x.core else none, deque := [] }

theorem killedCrew_receded (busy : Bool) (x : Crew) : Receded (killedCrew busy x) x :=
  ⟨rfl, rfl, rfl, nofun, fun _ => rfl, by cases busy <;> simp [killedCrew]⟩

/-- The live warps of a crew halt with `DRAIN`. -/
def haltCrew (s : State) (g c : Nat) : State := (s.crewWarps g c).foldl (fun s w => s.haltAt w cDrain 0 0 0 w.ticket) s

theorem haltCrew_recedes (s : State) (g c : Nat) : Recedes (haltCrew s g c) s := recedes_foldl (fun s w => haltAt_recedes s w _ _ _ _ _) _ s

theorem killCrew_eq (s : State) (g c : Nat) : s.killCrew g c = (haltCrew s g c).modCrew g c (killedCrew (s.ops.any fun o => o.holds g c)) := by
  rw [← (haltCrew_recedes s g c).ops]
  rfl

theorem modCrew_recedes {f : Crew → Crew} (hf : ∀ x, Receded (f x) x) (s : State) (g c : Nat) : Recedes (s.modCrew g c f) s :=
  ⟨rfl, fun _ => rfl, crewsRecede_map hf rfl⟩

theorem killCrew_recedes (s : State) (g c : Nat) : Recedes (s.killCrew g c) s := by
  rw [killCrew_eq]
  exact recedes_trans (modCrew_recedes (killedCrew_receded _) _ g c) (haltCrew_recedes s g c)

theorem killCrew_crew {s : State} {g c : Nat} {y : Crew} (hy : y ∈ (s.killCrew g c).crews) (hg : y.grid = g) (hc : y.num = c) :
    ∃ x, y = killedCrew (s.ops.any fun o => o.holds g c) x := by
  rw [killCrew_eq] at hy
  obtain ⟨x, -, rfl⟩ := List.mem_map.1 hy
  by_cases h : x.grid = g ∧ x.num = c
  · exact ⟨x, if_pos h⟩
  · rw [if_neg h] at hg hc
    exact absurd ⟨hg, hc⟩ h

/-- Every crew of a list has been killed. -/
theorem killAll_killed (l : List Crew) (s : State) {c y : Crew} (hc : c ∈ l)
    (hy : y ∈ (l.foldl (fun s c => s.killCrew c.grid c.num) s).crews) (hg : y.grid = c.grid) (hn : y.num = c.num) : y.state = .killed := by
  refine foldl_establishes (f := fun (s : State) (c : Crew) => s.killCrew c.grid c.num) (I := fun _ => True)
    (P := fun c s => ∀ y ∈ s.crews, y.grid = c.grid → y.num = c.num → y.state = .killed) (fun _ _ _ => trivial) (fun s c _ y hy hg hn => ?_)
    (fun s c d _ h y hy hg hn => ?_) l s trivial c (.inl hc) y hy hg hn
  · obtain ⟨x, rfl⟩ := killCrew_crew hy hg hn
    rfl
  · obtain ⟨x, hx, hr⟩ := crewsRecede_mem (killCrew_recedes s d.grid d.num).crews hy
    exact hr.killed (h x hx (hr.grid.symm.trans hg) (hr.num.symm.trans hn))

/-! ## Evictions and drains (R221, R362, R383) -/

theorem evictTeam_recedes (s : State) (t : Team) : Recedes (s.evictTeam t) s := by
  unfold State.evictTeam
  refine recedes_trans (recedes_foldl (fun s i => modPair_recedes s i _) _ _) ?_
  exact ⟨rfl, fun _ => rfl, crewsRecede_map (fun x => leave_receded x _) rfl⟩

/-- A crew whose drain begins. -/
theorem marked_receded {x : Crew} (h : x.state = .placed) : Receded { x with state := .marked } x :=
  ⟨rfl, rfl, rfl, nofun, by simp [h], .inl rfl⟩

theorem drainTeam_recedes (s : State) (t : Team) : Recedes (s.drainTeam t) s := by
  unfold State.drainTeam
  dsimp only
  split
  · split
    · exact recedes_foldl (fun s (c : Crew) => killCrew_recedes s c.grid c.num) _ s
    · refine ⟨rfl, fun _ => rfl, _, fun x => ?_, rfl⟩
      split
      · next h => exact marked_receded h.2.2
      · exact receded_refl x
  · split
    · exact evictTeam_recedes s t
    · exact recedes_refl s

theorem drainCrew_recedes (s : State) (c : Crew) : Recedes (s.drainCrew c) s := by
  unfold State.drainCrew
  split
  · exact drainTeam_recedes s _
  · exact recedes_refl s

theorem mem_teamCrews {s : State} {t : Team} {y : Crew} : y ∈ s.teamCrews t ↔ y ∈ s.crews ∧ y.grid = t.grid ∧ y.team = t.num := by
  simp [State.teamCrews]

/-- A drain leaves no crew of its team placed. -/
theorem drainTeam_unplaced (s : State) (t : Team) {y : Crew} (hy : y ∈ (s.drainTeam t).crews) (hg : y.grid = t.grid) (hn : y.team = t.num) :
    y.state ≠ .placed := by
  intro hplaced
  obtain ⟨x, hx, hr⟩ := crewsRecede_mem (drainTeam_recedes s t).crews hy
  have hxp := hr.placed hplaced
  have hxt : x ∈ s.teamCrews t := mem_teamCrews.2 ⟨hx, hr.grid.symm.trans hg, hr.team.symm.trans hn⟩
  have hany : ((s.teamCrews t).any fun c => c.state == .placed || c.state == .marked) = true := List.any_eq_true.2 ⟨x, hxt, by simp [hxp]⟩
  rw [State.drainTeam] at hy
  simp only [hany, if_true] at hy
  split at hy
  · have hkill := killAll_killed _ s (List.mem_filter.2 ⟨hxt, by simp [hxp]⟩) hy hr.grid hr.num
    simp [hplaced] at hkill
  · obtain ⟨z, -, rfl⟩ := List.mem_map.1 hy
    split at hplaced
    · simp at hplaced
    · next h => exact h (by rw [if_neg h] at hg hn; exact ⟨hg, hn, hplaced⟩)

end Sys2Proof
end

section
/-! SUPPORT. Cores and compute dies (R231, R233, R279, R280, R389, R397): lane maps, fences, lost dies and the test after a reset, and O54. -/

namespace Sys2Proof

open Sys2Proof.Machine

/-! ## Lane maps (R231) -/

theorem extract_withSkip_same (v : W64) {g phys : Nat} (hg : g < 4) : (withSkip v g phys).extractLsb' (5 * g) 5 = BitVec.ofNat 5 phys := by
  refine BitVec.eq_of_getLsbD_eq fun i hi => ?_
  have h31 : (31 : W64).getLsbD i = true := by interval_cases i <;> rfl
  have hpos : 5 * g + i < 64 := by omega
  simp only [withSkip, BitVec.getLsbD_extractLsb', BitVec.getLsbD_or, BitVec.getLsbD_and, BitVec.getLsbD_not, BitVec.getLsbD_shiftLeft,
    BitVec.getLsbD_ofNat, hi, hpos, Nat.add_sub_cancel_left, h31, decide_true, Bool.true_and, show i < 64 by omega]
  simp

theorem extract_withSkip_other (v : W64) {g j phys : Nat} (hj : j < 4) (hne : j ≠ g) (hp : phys < 32) :
    (withSkip v g phys).extractLsb' (5 * j) 5 = v.extractLsb' (5 * j) 5 := by
  refine BitVec.eq_of_getLsbD_eq fun i hi => ?_
  have hpos : 5 * j + i < 64 := by omega
  have hbit {x : Nat} (hx : x < 32) {k : Nat} (hk : 5 ≤ k) : x.testBit k = false :=
    Nat.testBit_lt_two_pow (lt_of_lt_of_le hx (Nat.pow_le_pow_right (n := 2) two_pos hk))
  have h31 {k : Nat} (hk : 5 ≤ k) : (31 : W64).getLsbD k = false :=
    (BitVec.getLsbD_ofNat 64 31 k).trans (by rw [hbit (by omega) hk, Bool.and_false])
  simp only [withSkip, BitVec.getLsbD_extractLsb', BitVec.getLsbD_or, BitVec.getLsbD_and, BitVec.getLsbD_not, BitVec.getLsbD_shiftLeft,
    BitVec.getLsbD_ofNat, hi, hpos, decide_true, Bool.true_and]
  rcases Nat.lt_or_gt_of_ne hne with h | h
  · simp [show 5 * j + i < 5 * g by omega]
  · have hk : 5 ≤ 5 * j + i - 5 * g := by omega
    simp only [h31 hk, hbit hp hk]
    simp

/-! ## Dies after an update -/

theorem die_modDie (s : State) (d : Nat) (f : Die → Die) (j : Nat) : (s.modDie d f).die j = if j = d then f (s.die d) else s.die j :=
  Tab.get_set s.dies d j (f (s.die d)) .blank

@[simp] theorem die_modDie_same (s : State) (d : Nat) (f : Die → Die) : (s.modDie d f).die d = f (s.die d) := by simp [die_modDie]

/-! ## Lane defects (R233) -/

theorem mem_defects {x : Die} {n g l : Nat} : l ∈ x.defects n g ↔ (n, g, l) ∈ x.lanes := by
  simp only [Die.defects, List.mem_map, List.mem_filter, Bool.and_eq_true, beq_iff_eq]
  exact ⟨fun ⟨y, ⟨hy, hn, hg⟩, hl⟩ => by subst hn hg hl; exact hy, fun h => ⟨_, ⟨h, rfl, rfl⟩, rfl⟩⟩

/-- A defect that a core has not shown before. -/
def withDefect (s : State) (k : CoreId) (g phys : Nat) : State :=
  s.modDie k.die fun x => { x with lanes := (coreNumber k, g, phys) :: x.lanes }

theorem withDefect_die (s : State) (k : CoreId) (g phys : Nat) :
    (withDefect s k g phys).die k.die = { s.die k.die with lanes := (coreNumber k, g, phys) :: (s.die k.die).lanes } :=
  die_modDie_same s k.die _

theorem withDefect_defects (s : State) (k : CoreId) (g phys : Nat) :
    ((withDefect s k g phys).die k.die).defects (coreNumber k) g = phys :: (s.die k.die).defects (coreNumber k) g := by
  rw [withDefect_die]
  simp [Die.defects]

theorem laneDefect_next {s : State} {k : CoreId} {g phys : Nat} (h : phys ∉ (s.die k.die).defects (coreNumber k) g) :
    exec (.laneDefect k g phys) s = .next (
      if (s.die k.die).defects (coreNumber k) g = [] then
        match s.holder k with
        | some c => (withDefect s k g phys).drainCrew c
        | none => (withDefect s k g phys).bypass k g
      else (withDefect s k g phys).fenceCore k) := by
  have hnew : (s.die k.die).lanes.contains (coreNumber k, g, phys) = false := by simpa [mem_defects] using h
  show execLaneDefect k g phys s = _
  simp only [execLaneDefect, hnew, Bool.false_eq_true, if_false]
  change (if 1 < (((withDefect s k g phys).die k.die).defects (coreNumber k) g).length then _ else _) = _
  rw [withDefect_defects]
  cases (s.die k.die).defects (coreNumber k) g with
  | cons l r =>
    rw [if_pos (by simp), if_neg (List.cons_ne_nil l r)]
    rfl
  | nil =>
    rw [if_neg (by simp), if_pos rfl]
    change (match s.holder k with
      | some c => Host.Outcome.next ((withDefect s k g phys).drainCrew c)
      | none => .next ((withDefect s k g phys).bypass k g)) = _
    cases s.holder k <;> rfl

/-- The one defect of a group of a core without a crew is bypassed (R231). -/
theorem bypass_maps {s : State} {k : CoreId} {g phys : Nat} (hd : (s.die k.die).defects (coreNumber k) g = [phys]) (hk : s.holder k = none)
    (hf : field (s.laneMap (68 * k.die + coreNumber k)) (5 * g) 5 ≠ phys) :
    (s.bypass k g).laneMaps = Tab.set s.laneMaps (68 * k.die + coreNumber k) (withSkip (s.laneMap (68 * k.die + coreNumber k)) g phys) ∧
      (s.bypass k g).dies = s.dies := by
  have hcond : (s.holder k).isNone = true ∧ field (s.laneMap (68 * k.die + coreNumber k)) (5 * g) 5 ≠ phys := ⟨by rw [hk]; rfl, hf⟩
  simp only [State.bypass, hd, hcond, if_true, ne_eq, not_false_eq_true, and_self]
  exact ⟨rfl, rfl⟩

/-! ## Fences (R233, R279) -/

theorem fenceDie_inactive {s : State} {d : Nat} (h : (s.die d).state ≠ .active) : s.fenceDie d = s := if_neg h

/-- An active die is fenced, and the teams on it are drained. -/
theorem fenceDie_active {s : State} {d : Nat} (h : (s.die d).state = .active) :
    (∀ j, (s.fenceDie d).die j = if j = d then { s.die d with state := .fenced } else s.die j) ∧
    (∀ p, ((s.fenceDie d).part p).stop = (s.part p).stop) ∧
    ∀ m ∈ s.teams, ∀ cl, m.cluster = some cl → cl / 17 = d →
      ∀ y ∈ (s.fenceDie d).crews, y.grid = m.grid → y.team = m.num → y.state ≠ .placed := by
  let u := s.modDie d fun x => { x with state := .fenced }
  let ts := s.teams.filter fun t => t.cluster.any fun c => c / 17 == d
  have hdrained := recedes_foldl drainTeam_recedes ts u
  have heq : s.fenceDie d = ((ts.foldl State.drainTeam u).dieEvent 0 d 6 0).repairEvent 2 3 (17 * d) 0 := if_pos h
  rw [heq]
  refine ⟨fun j => (hdrained.die j).trans (die_modDie s d _ j), hdrained.stop, fun m hm cl hcl hd y hy hg hn => ?_⟩
  have hmem : m ∈ ts := List.mem_filter.2 ⟨hm, by simp [hcl, hd]⟩
  refine foldl_establishes (f := State.drainTeam) (I := fun _ => True)
    (P := fun m t => ∀ y ∈ t.crews, y.grid = m.grid → y.team = m.num → y.state ≠ .placed) (fun _ _ _ => trivial)
    (fun s m _ y hy hg hn => drainTeam_unplaced s m hy hg hn) (fun s m b _ hm y hy hg hn hp => ?_) ts u trivial m (.inl hmem) y hy hg hn
  obtain ⟨x, hx, hr⟩ := crewsRecede_mem (drainTeam_recedes s b).crews hy
  exact hm x hx (hr.grid.symm.trans hg) (hr.team.symm.trans hn) (hr.placed hp)

theorem fenceCore_spec (s : State) (k : CoreId) : coreNumber k ∈ ((s.fenceCore k).die k.die).fencedCores ∧
    ((s.die k.die).state = .active → ((s.fenceCore k).die k.die).state = .fenced) ∧ ∀ p, ((s.fenceCore k).part p).stop = (s.part p).stop := by
  let add (l : List Nat) : List Nat := if l.contains (coreNumber k) then l else coreNumber k :: l
  have hadd (l : List Nat) : coreNumber k ∈ add l := by
    by_cases h : l.contains (coreNumber k) = true
    · rw [show add l = l from if_pos h]
      simpa using h
    · rw [show add l = _ :: l from if_neg h]
      exact List.mem_cons_self ..
  let u := s.modDie k.die fun x => { x with fencedCores := add x.fencedCores }
  have hu : u.die k.die = { s.die k.die with fencedCores := add (s.die k.die).fencedCores } := die_modDie_same s k.die _
  have heq : s.fenceCore k = u.fenceDie k.die := rfl
  rw [heq]
  by_cases h : (s.die k.die).state = .active
  · obtain ⟨hdie, hstop, -⟩ := fenceDie_active (s := u) (d := k.die) (by rw [hu]; exact h)
    rw [hdie, if_pos rfl, hu]
    exact ⟨hadd _, fun _ => rfl, hstop⟩
  · rw [fenceDie_inactive (by rw [hu]; exact h), hu]
    exact ⟨hadd _, fun ha => absurd ha h, fun _ => rfl⟩

/-! ## Parity errors (R233, R389) -/

theorem raise_one {s : State} {p : Nat} (h : (s.part p).stop = none) (reason code source srcPart : Nat) (brk : Option (W64 × Nat)) :
    ∃ y, ((s.raise [p] reason code source srcPart brk).part p).stop = some y ∧ y.reason = reason ∧ y.count = 1 := by
  let b : Stop := { Stop.begin reason code source srcPart (Config.nclkAt s.fresh) [] with brk := brk }
  let u : State := { s with fresh := s.fresh + 1 }
  let v : State := u.modPart p fun _ => haltedPart u b p
  have hu : (u.part p).stop = none := h
  have heq : s.raise [p] reason code source srcPart brk = evictAll v (u.warps.filter fun w => w.ident.part == p) := by
    show u.raiseOne b p = _
    rw [State.raiseOne, hu]
    rfl
  have hparts : (evictAll v (u.warps.filter fun w => w.ident.part == p)).parts = v.parts :=
    List.foldlRecOn (motive := fun t : State => t.parts = v.parts) _ _ rfl fun t ht w _ => (modPair_parts t w.id _).trans ht
  have hpart : (s.raise [p] reason code source srcPart brk).part p = haltedPart u b p := by
    rw [heq, State.part, hparts]
    exact part_modPart_same u p _
  rw [hpart]
  exact ⟨_, rfl, rfl, rfl⟩

/-- The partition of the crew stops, and the core is fenced; the crew may lose its tokens (log 122). -/
theorem parity_next {s : State} {k : CoreId} {c : Crew} {g : Grid} (hk : s.holder k = some c) (hg : s.grid? c.grid = some g) :
    ∃ (u : State) (source : Nat), u.parts = s.parts ∧
      exec (.coreParityError k) s = .next ((u.raise [g.part] 5 0 source g.part none).fenceCore k) := by
  let u : State := if (Config.freeWord s.fresh).getLsbD 0 then s.modCrew c.grid c.num fun x => { x with deque := [] } else s
  have hu : u.parts = s.parts := by
    change (if _ then _ else _ : State).parts = _
    split <;> rfl
  refine ⟨{ u with fresh := u.fresh + 1 }, 0xF000 + ((s.teamOfCrew c).bind (·.shelf)).getD 0, hu, ?_⟩
  show execCoreParityError k s = _
  simp only [execCoreParityError, hk, hg]
  rfl

/-! ## Lost dies (R279, R280) -/

theorem crewsRecede_finishOp (s : State) (p ctx n : Nat) : crewsRecede (s.finishOp p ctx n) s :=
  crewsRecede_map (f := fun c => { c with core := none }) (fun _ => ⟨rfl, rfl, rfl, id, id, .inr rfl⟩) rfl

theorem lateError_recedes (s : State) (t : Ticket) (code detail : Nat) (mask : Mask) (va : Nat) : Recedes (s.lateError t code detail mask va) s :=
  pushMsg_recedes s t.part _

theorem crewsRecede_loseOps (s : State) (g c : Nat) : crewsRecede (s.loseOps g c) s := by
  have hstep (s : State) (o : EngOp) : crewsRecede ((s.lateError o.ticket cPoison 1 0 0).finishOp o.part o.ctx o.n) s :=
    crewsRecede_trans (crewsRecede_finishOp _ _ _ _) (lateError_recedes s o.ticket cPoison 1 0 0).crews
  exact crewsRecede_foldl _ hstep (s.ops.filter fun o => o.holds g c) s

/-- A crew that stands on a lost die. -/
def lostCrew (x : Crew) : Crew := { x with state := .killed, core := none, deque := [], bufW := .empty, bufA := .empty, bufC := .empty }

/-- The warps of a crew on a lost die halt, and what engines write into its buffers is discarded. -/
def loseWarps (s : State) (c : Crew) : State :=
  ((s.crewWarps c.grid c.num).foldl (fun s w => s.haltAt w cDrain 0 0 0 { w.ticket with pc := 0, word := none }) s).loseOps c.grid c.num

theorem crewsRecede_loseWarps (s : State) (c : Crew) : crewsRecede (loseWarps s c) s :=
  crewsRecede_trans (crewsRecede_loseOps _ _ _) (recedes_foldl (fun s w => haltAt_recedes s w _ _ _ _ _) _ s).crews

theorem loseCrew_crews (s : State) (c : Crew) : (s.loseCrew c).crews = ((loseWarps s c).modCrew c.grid c.num lostCrew).crews := rfl

theorem crewsRecede_loseCrew (s : State) (c : Crew) : crewsRecede (s.loseCrew c) s :=
  crewsRecede_trans (crewsRecede_map (f := lostCrew) (fun _ => ⟨rfl, rfl, rfl, nofun, fun _ => rfl, .inr rfl⟩) (loseCrew_crews s c))
    (crewsRecede_loseWarps s c)

theorem loseCrew_core {s : State} {c y : Crew} (hy : y ∈ (s.loseCrew c).crews) (hg : y.grid = c.grid) (hn : y.num = c.num) : y.core = none := by
  rw [loseCrew_crews] at hy
  obtain ⟨x, -, rfl⟩ := List.mem_map.1 hy
  by_cases h : x.grid = c.grid ∧ x.num = c.num
  · rw [if_pos h]
    rfl
  · rw [if_neg h] at hg hn
    exact absurd ⟨hg, hn⟩ h

/-- Every crew on a die is lost, and none takes a core of it. -/
theorem loseAll_core (s : State) (d : Nat) : let cs := s.crews.filter fun c => c.core.any fun k => k.die == d
    ∀ y ∈ (cs.foldl State.loseCrew s).crews, ∀ k, y.core = some k → k.die ≠ d := by
  intro cs y hy k hk hd
  obtain ⟨x, hx, hr⟩ := crewsRecede_mem (crewsRecede_foldl State.loseCrew crewsRecede_loseCrew cs s) hy
  have hcore : x.core = some k := by
    rcases hr.core with h | h
    · exact h.symm.trans hk
    · simp [h] at hk
  have hmem : x ∈ cs := List.mem_filter.2 ⟨hx, by simp [hcore, hd]⟩
  have hnone : y.core = none := foldl_establishes (f := State.loseCrew) (I := fun _ => True)
    (P := fun c t => ∀ y ∈ t.crews, y.grid = c.grid → y.num = c.num → y.core = none) (fun _ _ _ => trivial)
    (fun s c _ y hy hg hn => loseCrew_core hy hg hn)
    (fun s c b _ hc y hy hg hn => by
      obtain ⟨z, hz, hrz⟩ := crewsRecede_mem (crewsRecede_loseCrew s b) hy
      rcases hrz.core with h | h
      · exact h.trans (hc z hz (hrz.grid.symm.trans hg) (hrz.num.symm.trans hn))
      · exact h) cs s trivial x (.inl hmem) y hy hr.grid hr.num
  simp [hnone] at hk

/-- What a table gives other than its default is one of its entries. -/
theorem mem_of_get_ne {α : Type} {d : α} {k : Nat} : ∀ {l : Tab α}, Tab.get l k d ≠ d → (k, Tab.get l k d) ∈ l := by
  intro l h
  induction l with
  | nil => exact absurd rfl h
  | cons e l ih =>
    obtain ⟨j, x⟩ := e
    rw [Tab.get] at h ⊢
    split at h
    · next hj => rw [if_pos hj, hj]; exact List.mem_cons_self ..
    · next hj => rw [if_neg hj]; exact List.mem_cons_of_mem _ (ih h)

/-- What holds of every entry of a table and of its default holds of what the table gives. -/
theorem get_of_forall {α : Type} {d : α} {l : Tab α} {P : α → Prop} (h : ∀ e ∈ l, P e.2) (hd : P d) (k : Nat) : P (Tab.get l k d) := by
  by_cases hk : Tab.get l k d = d
  · exact hk.symm ▸ hd
  · exact h _ (mem_of_get_ne hk)

/-- An entry of a catalogue's cluster table (R274). -/
def clusterEntry (s : State) (p i : Nat) : W64 := Tab.get (s.part p).clusters i 0

theorem clearDieEntries_entry (s : State) (d p i : Nat) (h : (clusterEntry (s.clearDieEntries d) p i).getLsbD 8 = true) :
    field (clusterEntry (s.clearDieEntries d) p i) 5 3 ≠ d := by
  refine get_of_forall (l := (s.clearDieEntries d).parts) (d := Part.blank)
    (P := fun x => ∀ i, (Tab.get x.clusters i 0).getLsbD 8 = true → field (Tab.get x.clusters i 0) 5 3 ≠ d) (fun q hq => ?_)
    (fun i h0 => absurd h0 (by simp [Part.blank, Tab.get])) p i h
  obtain ⟨q, -, rfl⟩ := List.mem_map.1 hq
  refine get_of_forall (P := fun e : W64 => e.getLsbD 8 = true → field e 5 3 ≠ d) (fun e he => ?_) (fun h0 => absurd h0 (by simp))
  obtain ⟨e, -, rfl⟩ := List.mem_map.1 he
  split
  · exact fun h0 => absurd h0 (by simp)
  · next h => exact fun hv hd => h ⟨hv, hd⟩

theorem dropDie_eq (s : State) (d : Nat) : ∃ w v u : State,
    s.dropDie d = ((w.modDie d fun x => { x with state := .dropped }).dieEvent 0 d 8 0).repairEvent 2 4 (17 * d) 0 ∧
    w.parts = (v.clearDieEntries d).parts ∧
    w.crews = ((u.crews.filter fun c => c.core.any fun k => k.die == d).foldl State.loseCrew u).crews :=
  ⟨_, _, _, rfl, rfl, rfl⟩

theorem dropDie_dropped (s : State) (d : Nat) : dropped (s.dropDie d) d := by
  obtain ⟨w, v, u, heq, hparts, hcrews⟩ := dropDie_eq s d
  rw [heq]
  refine ⟨congrArg Die.state (die_modDie_same w d fun x => { x with state := .dropped }), fun c hc => loseAll_core u d c (hcrews ▸ hc),
    fun p i e he h => ?_⟩
  have hentry : e = clusterEntry (v.clearDieEntries d) p i := he.trans (congrArg (fun l => Tab.get (Tab.get l p Part.blank).clusters i 0) hparts)
  subst hentry
  exact clearDieEntries_entry v d p i h

/-! ## The test after a reset (R279, R397) -/

/-- A catalogue entry that names no failed cluster of a die. -/
def passing (d : Nat) (failed : List Nat) (e : W64) : Prop := e.getLsbD 8 = true → field e 5 3 = d → field e 0 5 ∉ failed

theorem clusterEntry_modPart (s : State) (p i q j : Nat) (v : W64) :
    clusterEntry (s.modPart p fun x => { x with clusters := Tab.set x.clusters i v }) q j = if q = p ∧ j = i then v else clusterEntry s q j := by
  rw [clusterEntry, part_modPart]
  by_cases hq : q = p
  · subst hq
    rw [if_pos rfl]
    simp only [true_and]
    exact Tab.get_set _ i j v 0
  · rw [if_neg hq, if_neg fun h => hq h.1]
    rfl

/-- The spare cluster, where one is left, has not failed; an entry that is moved or cleared names no failed cluster. -/
theorem spareEntry_spec (s : State) (p i d k : Nat) : (s.spareEntry p i d k).dies = s.dies ∧ ∃ v, passing d (s.die d).bad v ∧
    ∀ q j, clusterEntry (s.spareEntry p i d k) q j = if q = p ∧ j = i then v else clusterEntry s q j := by
  unfold State.spareEntry
  dsimp only
  cases hs : s.spareCluster d with
  | none => exact ⟨rfl, 0, fun h0 => absurd h0 (by simp), fun q j => clusterEntry_modPart s p i q j 0⟩
  | some n =>
    have hn : n = 16 ∧ 16 ∉ (s.die d).bad := by
      unfold State.spareCluster at hs
      split at hs
      · cases hs
      · next h => exact ⟨(Option.some.inj hs).symm, by simpa using fun hb => h (.inl (by simpa using hb))⟩
    obtain ⟨rfl, hgood⟩ := hn
    refine ⟨rfl, BitVec.ofNat 64 (256 + 32 * d + 16), fun _ _ => ?_, fun q j => clusterEntry_modPart s p i q j _⟩
    have hfield : field (BitVec.ofNat 64 (256 + 32 * d + 16)) 0 5 = 16 := by
      rw [field, bitsOf, BitVec.toNat_ofNat]
      omega
    rw [hfield]
    exact hgood

theorem mem_failedEntries {s : State} {d p i : Nat} (h : ¬passing d (s.die d).bad (clusterEntry s p i)) :
    (p, i, field (clusterEntry s p i) 0 5) ∈ s.failedEntries d := by
  obtain ⟨hv, hd, hb⟩ : (clusterEntry s p i).getLsbD 8 = true ∧ field (clusterEntry s p i) 5 3 = d ∧
      field (clusterEntry s p i) 0 5 ∈ (s.die d).bad := by simpa [passing] using h
  have hentry : clusterEntry s p i ≠ 0 := by
    intro h0
    simp [h0] at hv
  have hpart : s.part p ≠ Part.blank := by
    intro h0
    rw [clusterEntry, h0] at hentry
    exact hentry rfl
  refine List.mem_flatMap.2 ⟨_, mem_of_get_ne hpart, List.mem_map.2 ⟨_, List.mem_filter.2 ⟨mem_of_get_ne hentry, ?_⟩, rfl⟩⟩
  change (entryValid (clusterEntry s p i) && field (clusterEntry s p i) 5 3 == d && (s.die d).bad.contains (field (clusterEntry s p i) 0 5)) = true
  simp [entryValid, hv, hd, hb]

/-- Once every entry that names a failed cluster has been moved or cleared, none does. -/
theorem spareAll_passing (s : State) (d : Nat) : let t := (s.failedEntries d).foldl (fun s e => s.spareEntry e.1 e.2.1 d e.2.2) s
    t.dies = s.dies ∧ ∀ p i, passing d (s.die d).bad (clusterEntry t p i) := by
  refine ⟨List.foldlRecOn (motive := fun t : State => t.dies = s.dies) _ _ rfl fun t ht e _ => (spareEntry_spec t _ _ _ _).1.trans ht,
    fun p i => ?_⟩
  have hbad {t : State} (ht : t.dies = s.dies) : (t.die d).bad = (s.die d).bad := congrArg (fun l => (Tab.get l d Die.blank).bad) ht
  refine foldl_establishes (f := fun (s : State) (e : Nat × Nat × Nat) => s.spareEntry e.1 e.2.1 d e.2.2) (I := fun t => t.dies = s.dies)
    (P := fun e t => passing d (s.die d).bad (clusterEntry t e.1 e.2.1)) (fun t e ht => (spareEntry_spec t _ _ _ _).1.trans ht)
    (fun t e ht => ?_) (fun t e b ht he => ?_) _ s rfl (p, i, field (clusterEntry s p i) 0 5) ((em _).symm.imp_left mem_failedEntries)
  · obtain ⟨-, v, hv, hentry⟩ := spareEntry_spec t e.1 e.2.1 d e.2.2
    rw [hentry, if_pos ⟨rfl, rfl⟩, ← hbad ht]
    exact hv
  · obtain ⟨-, v, hv, hentry⟩ := spareEntry_spec t b.1 b.2.1 d b.2.2
    rw [hentry]
    split
    · rw [← hbad ht]
      exact hv
    · exact he

/-! ## Resets (R279) -/

theorem dieReset_next {s : State} {d : Nat}
    (h : (s.die d).state = .dropped ∨ ((s.die d).state = .fenced ∧ ∀ c ∈ s.crews, ∀ j, c.core = some j → j.die ≠ d)) :
    exec (.dieReset d) s = .next ((s.cdcDrop fun y => y.cluster / 17 == d).modDie d fun y => { y with state := .reset }) := by
  refine if_pos (h.symm.imp_left fun ⟨hf, hc⟩ => ⟨hf, ?_⟩)
  simpa [Option.any_eq_true] using hc

theorem bistPass_next {s : State} {d : Nat} {failed : List Nat} (h : (s.die d).state = .reset) :
    let u := s.modDie d fun x => { x with state := .active, bad := failed, fencedCores := [] }
    exec (.dieBistComplete d true failed) s =
      .next ((((u.failedEntries d).foldl (fun s e => s.spareEntry e.1 e.2.1 d e.2.2) u).dieEvent 0 d 7 0).repairEvent 2 1 (17 * d) 0) := by
  show execDieBistComplete d true failed s = _
  rw [execDieBistComplete, if_neg (not_not.2 h), if_pos rfl]

/-- Settles O54: each event by the branch that it takes, and the crews by what halts, drains and losses leave of them. -/
theorem dies : Obligations.Dies := by
  unfold Obligations.Dies
  intro s d k group phys failed n
  have hn : n = coreNumber k := rfl
  refine ⟨fun hg hp hk hd hf => ?_, fun c hk hd => ?_, fun l hd hne => ?_, fun c g hk hg hstop => ?_, fun hk => ?_, fun h => ?_, fun h => ?_,
    fun h => ?_, fun h => ⟨?_, ?_⟩, fun h => ⟨_, if_pos h, dropDie_dropped s d⟩, fun h => if_neg h, fun h => ⟨_, if_pos h, dropDie_dropped s d⟩⟩
  · have hexec := laneDefect_next (s := s) (k := k) (g := group) (phys := phys) (by rw [← hn, hd]; exact List.not_mem_nil)
    rw [← hn, hd, if_pos rfl, hk] at hexec
    have hdef := withDefect_defects s k group phys
    rw [← hn, hd] at hdef
    obtain ⟨hmaps, hdies⟩ := bypass_maps (s := withDefect s k group phys) hdef hk hf
    have hmap (i : Nat) : ((withDefect s k group phys).bypass k group).laneMap i =
        if i = 68 * k.die + n then withSkip (s.laneMap (68 * k.die + n)) group phys else s.laneMap i := by
      rw [State.laneMap, hmaps]
      exact Tab.get_set s.laneMaps _ i _ _
    refine ⟨_, hexec, ?_, fun j hj hne => ?_, fun i hi => ?_, ?_⟩
    · rw [hmap, if_pos rfl, field_eq, extract_withSkip_same _ hg, BitVec.toNat_ofNat]
      omega
    · rw [hmap, if_pos rfl, field_eq, extract_withSkip_other _ hj hne (by omega), field_eq]
    · rw [hmap, if_neg hi]
    · exact (congrArg (fun l => (Tab.get l k.die Die.blank).state) hdies).trans (congrArg Die.state (withDefect_die s k group phys) :)
  · have hexec := laneDefect_next (s := s) (k := k) (g := group) (phys := phys) (by rw [← hn, hd]; exact List.not_mem_nil)
    rw [← hn, hd, if_pos rfl, hk] at hexec
    have hr := drainCrew_recedes (withDefect s k group phys) c
    refine ⟨_, hexec, ?_, hr.laneMaps⟩
    rw [hr.die, withDefect_die]
    exact List.mem_cons_self ..
  · have hexec := laneDefect_next (s := s) (k := k) (g := group) (phys := phys) (by rw [← hn, hd]; simpa using hne.symm)
    rw [← hn, hd, if_neg (List.cons_ne_nil l [])] at hexec
    obtain ⟨hmem, hfenced, -⟩ := fenceCore_spec (withDefect s k group phys) k
    exact ⟨_, hexec, hmem, fun h => hfenced ((congrArg Die.state (withDefect_die s k group phys)).trans h)⟩
  · obtain ⟨u, source, hparts, hexec⟩ := parity_next hk hg
    have hnone : (u.part g.part).stop = none := (congrArg (fun l => (Tab.get l g.part Part.blank).stop) hparts).trans hstop
    obtain ⟨y, hy, hreason, hcount⟩ := raise_one hnone 5 0 source g.part none
    obtain ⟨hmem, -, hkept⟩ := fenceCore_spec (u.raise [g.part] 5 0 source g.part none) k
    exact ⟨_, hexec, hmem, y, (hkept g.part).trans hy, hreason, hcount⟩
  · obtain ⟨hmem, -, hstop⟩ := fenceCore_spec s k
    refine ⟨s.fenceCore k, ?_, hmem, hstop⟩
    show execCoreParityError k s = _
    simp only [execCoreParityError, hk]
  · exact congrArg Host.Outcome.next (fenceDie_inactive h)
  · obtain ⟨hdie, -, hcrews⟩ := fenceDie_active h
    exact ⟨_, rfl, by rw [hdie, if_pos rfl], fun j hj => by rw [hdie, if_neg hj], hcrews⟩
  · refine ⟨_, dieReset_next h, congrArg Die.state (die_modDie_same _ d _), fun x hx => ?_, rfl⟩
    obtain ⟨hx, hd⟩ := List.mem_filter.1 hx
    exact ⟨hx, by simpa using hd⟩
  · let u := s.modDie d fun x => { x with state := .active, bad := failed, fencedCores := [] }
    have hu : u.die d = { s.die d with state := .active, bad := failed, fencedCores := [] } := die_modDie_same s d _
    obtain ⟨hdies, hpass⟩ := spareAll_passing u d
    have hdie := (congrArg (fun l => Tab.get l d Die.blank) hdies).trans hu
    refine ⟨_, bistPass_next h, congrArg Die.state hdie, congrArg Die.bad hdie, congrArg Die.fencedCores hdie, fun p i e he hv hd => ?_⟩
    subst he
    have hentry := hpass p i hv hd
    rw [hu] at hentry
    exact hentry
  · refine ⟨_, ?_, dropDie_dropped s d⟩
    show execDieBistComplete d false failed s = _
    simp only [execDieBistComplete, h]
    rfl

end Sys2Proof
end

section
/-! SUPPORT. What the distributor chooses (R381, R382, R384): the first of a list in an order, and the team, shelfmark, crew and function that it takes. -/

namespace Sys2Proof

open Sys2Proof.Machine

/-! ## The first of a list in an order -/

section
variable {α : Type} (lt : α → α → Prop) [DecidableRel lt]

/-- Of two elements the later one is taken where it comes before the one taken so far. -/
def pick (r : Option α) (x : α) : Option α :=
  match r with
  | none => some x
  | some y => if lt x y then some x else some y

/-- The element of a list that comes before every other one, the earliest in the list among equals. -/
def best (l : List α) : Option α := l.foldl (pick lt) none

variable {lt}

theorem pick_eq_or (r : Option α) (a : α) : pick lt r a = some a ∨ pick lt r a = r := by
  cases r with
  | none => exact .inl rfl
  | some z => exact (ite_eq_or_eq _ _ _)

theorem foldl_pick_mem {x : α} (l : List α) : ∀ r : Option α, l.foldl (pick lt) r = some x → x ∈ l ∨ r = some x := by
  induction l with
  | nil => exact fun r h => .inr h
  | cons a l ih =>
    intro r h
    rcases ih _ h with hx | hx
    · exact .inl (List.mem_cons_of_mem a hx)
    · rcases pick_eq_or (lt := lt) r a with hp | hp
      · exact .inl (Option.some.inj (hp.symm.trans hx) ▸ List.mem_cons_self ..)
      · exact .inr (hp.symm.trans hx)

theorem best_mem {x : α} {l : List α} (h : best lt l = some x) : x ∈ l := (foldl_pick_mem l none h).resolve_right nofun

theorem best_none {l : List α} (h : best lt l = none) : l = [] := by
  have hsome (l : List α) : ∀ x, l.foldl (pick lt) (some x) ≠ none := by
    induction l with
    | nil => exact fun x => Option.some_ne_none x
    | cons a l ih =>
      intro x
      rcases pick_eq_or (lt := lt) (some x) a with hp | hp
      · exact fun e => ih a ((congrArg (l.foldl _) hp).symm.trans e)
      · exact fun e => ih x ((congrArg (l.foldl _) hp).symm.trans e)
  cases l with
  | nil => rfl
  | cons a l => exact absurd h (hsome l a)

section
variable (hirr : ∀ a, ¬lt a a) (htrans : ∀ a b c, lt a b → lt b c → lt a c)
include hirr htrans

theorem foldl_pick_first {x : α} (l : List α) : ∀ r : Option α, l.foldl (pick lt) r = some x →
    (∀ y ∈ l, ¬lt y x) ∧ ∀ y, r = some y → x = y ∨ lt x y := by
  induction l with
  | nil =>
    intro r h
    exact ⟨nofun, fun y hy => .inl (Option.some.inj (h.symm.trans hy))⟩
  | cons a l ih =>
    intro r h
    obtain ⟨hall, hr⟩ := ih (pick lt r a) h
    have hafter {y : α} (hy : x = y ∨ lt x y) : ¬lt y x := by
      rcases hy with rfl | hy
      · exact hirr x
      · exact fun hlt => hirr x (htrans x y x hy hlt)
    cases r with
    | none => exact ⟨List.forall_mem_cons.2 ⟨hafter (hr a rfl), hall⟩, nofun⟩
    | some z =>
      by_cases hz : lt a z
      · have ha : x = a ∨ lt x a := hr a (if_pos hz)
        refine ⟨List.forall_mem_cons.2 ⟨hafter ha, hall⟩, fun y hy => .inr (Option.some.inj hy ▸ ?_)⟩
        rcases ha with rfl | ha
        · exact hz
        · exact htrans x a z ha hz
      · have hxz : x = z ∨ lt x z := hr z (if_neg hz)
        refine ⟨List.forall_mem_cons.2 ⟨fun hlt => hz ?_, hall⟩, fun y hy => Option.some.inj hy ▸ hxz⟩
        rcases hxz with rfl | hxz
        · exact hlt
        · exact htrans a x z hlt hxz

/-- No element comes before the one that is taken. -/
theorem best_first {x : α} {l : List α} (h : best lt l = some x) : ∀ y ∈ l, ¬lt y x := (foldl_pick_first hirr htrans l none h).1
end

/-- An element that comes before every other one, and none before it, is taken. -/
theorem best_eq {x : α} {l : List α} (hx : x ∈ l) (hlt : ∀ y ∈ l, y ≠ x → lt x y) (hnot : ∀ y ∈ l, ¬lt y x) : best lt l = some x := by
  have hfold : ∀ (l : List α) (r : Option α), (∀ y ∈ l, y ≠ x → lt x y) → (∀ y ∈ l, ¬lt y x) → (∀ y, r = some y → y = x ∨ lt x y) →
      x ∈ l ∨ r = some x → l.foldl (pick lt) r = some x := by
    intro l
    induction l with
    | nil => exact fun r _ _ _ h => h.resolve_left List.not_mem_nil
    | cons a l ih =>
      intro r hlt hnot hr hx
      obtain ⟨ha, hlt⟩ := List.forall_mem_cons.1 hlt
      obtain ⟨hax, hnot⟩ := List.forall_mem_cons.1 hnot
      refine ih _ hlt hnot (fun y hy => ?_) ?_
      · rcases pick_eq_or (lt := lt) r a with hp | hp
        · rw [← Option.some.inj (hp.symm.trans hy)]
          exact or_iff_not_imp_left.2 ha
        · exact hr y (hp.symm.trans hy)
      · by_cases hrx : r = some x
        · subst hrx
          exact .inr (if_neg hax)
        · refine (hx.resolve_right hrx |> List.mem_cons.1).symm.imp_right ?_
          rintro rfl
          cases r with
          | none => rfl
          | some z =>
            have hz : z ≠ x := fun e => hrx (congrArg some e)
            exact if_pos ((hr z rfl).resolve_left hz)
  exact hfold l none hlt hnot nofun (.inl hx)

end

/-! ## Teams and crews (R381, R382) -/

theorem keyLt_iff (a b : Nat × Nat × Nat) : keyLt a b = true ↔ a.1 < b.1 ∨ (a.1 = b.1 ∧ (a.2.1 < b.2.1 ∨ (a.2.1 = b.2.1 ∧ a.2.2 < b.2.2))) := by
  simp [keyLt]

theorem later_iff (s : State) (a b : Crew) : s.later a b = true ↔ b.grid < a.grid ∨ (a.grid = b.grid ∧ b.num < a.num) := by
  simp [State.later]

theorem firstTeam_eq (s : State) (p : Nat) :
    s.firstTeam p = best (fun a b => keyLt (s.teamKey a) (s.teamKey b) = true) (s.waitingTeams p) :=
  congrArg (fun f => List.foldl f none (s.waitingTeams p)) (funext fun r => funext fun _ => by cases r <;> rfl)

theorem latest_eq (s : State) (cs : List Crew) : s.latest cs = best (fun a b => s.later a b = true) cs :=
  congrArg (fun f => List.foldl f none cs) (funext fun r => funext fun _ => by cases r <;> rfl)

/-- The first waiting team of a partition waits, and none comes before it. -/
theorem firstTeam_spec {s : State} {p : Nat} {t : Team} (h : s.firstTeam p = some t) :
    t ∈ s.waitingTeams p ∧ ∀ y ∈ s.waitingTeams p, keyLt (s.teamKey y) (s.teamKey t) = false := by
  have hbest : best (fun a b => keyLt (s.teamKey a) (s.teamKey b) = true) (s.waitingTeams p) = some t := (firstTeam_eq s p).symm.trans h
  refine ⟨best_mem hbest, fun y hy => Bool.eq_false_iff.2 (best_first (fun a => ?_) (fun a b c hab hbc => ?_) hbest y hy)⟩
  · rw [keyLt_iff]
    omega
  · rw [keyLt_iff] at hab hbc ⊢
    omega

theorem waitingTeams_part {s : State} {p : Nat} {t : Team} (h : t ∈ s.waitingTeams p) : s.teamPart t = p :=
  eq_of_beq (Bool.and_eq_true_iff.1 (List.mem_filter.1 h).2).1

theorem firstTeam_nil {s : State} {p : Nat} (h : s.waitingTeams p = []) : s.firstTeam p = none := by
  rw [State.firstTeam, h]
  rfl

/-- The latest of some crews is one of them, and none is later. -/
theorem latest_spec {s : State} {cs : List Crew} {c : Crew} (h : s.latest cs = some c) : c ∈ cs ∧ ∀ y ∈ cs, s.later y c = false := by
  have hbest : best (fun a b => s.later a b = true) cs = some c := (latest_eq s cs).symm.trans h
  refine ⟨best_mem hbest, fun y hy => Bool.eq_false_iff.2 (best_first (fun a => ?_) (fun a b c hab hbc => ?_) hbest y hy)⟩
  · rw [later_iff]
    omega
  · rw [later_iff] at hab hbc ⊢
    omega

theorem latest_none {s : State} {cs : List Crew} (h : s.latest cs = none) : cs = [] := best_none ((latest_eq s cs).symm.trans h)

/-! ## Shelfmarks (R381) -/

/-- The first element of a rising list that passes a test: every lower one fails it. -/
theorem find?_lowest {l : List Nat} (hl : l.Pairwise (· < ·)) {q : Nat → Bool} {i : Nat} (h : l.find? q = some i) :
    i ∈ l ∧ q i = true ∧ ∀ j ∈ l, j < i → q j = false := by
  obtain ⟨hq, as, bs, rfl, has⟩ := List.find?_eq_some_iff_append.1 h
  refine ⟨by simp, hq, fun j hj hlt => ?_⟩
  rcases List.mem_append.1 hj with hj | hj
  · simpa using has j hj
  · obtain ⟨-, htail, -⟩ := List.pairwise_append.1 hl
    rcases List.mem_cons.1 hj with rfl | hj
    · exact absurd hlt (lt_irrefl _)
    · exact absurd ((List.pairwise_cons.1 htail).1 j hj) (lt_asymm hlt)

theorem shelves_rising (x : Part) : x.shelves.Pairwise (· < ·) := List.Pairwise.filter _ List.pairwise_lt_range

theorem unreserved_rising (x : Part) : x.unreserved.Pairwise (· < ·) := (shelves_rising x).sublist (List.take_sublist ..)

theorem reserved_rising (x : Part) : x.reserved.Pairwise (· < ·) := (shelves_rising x).sublist (List.drop_sublist ..)

theorem changing_none {x : Part} (h : x.newCluster = none) (i : Nat) : x.changing i = false := by
  rw [Part.changing, h]
  rfl

section
variable {s : State} {t : Team} {i : Nat} (hnew : (s.part (s.teamPart t)).newCluster = none) (h : s.shelfFor t = some i)
include hnew h

/-- A team that is not `TIMED` goes to the lowest unreserved shelfmark that it fits. -/
theorem shelfFor_untimed (ht : (s.descOf t.grid).timed = false) :
    i ∈ (s.part (s.teamPart t)).unreserved ∧ s.fits (s.teamPart t) (s.descOf t.grid).crews i = true ∧
      ∀ j ∈ (s.part (s.teamPart t)).unreserved, j < i → s.fits (s.teamPart t) (s.descOf t.grid).crews j = false := by
  rw [State.shelfFor, ht] at h
  simp only [changing_none hnew, Bool.not_false, Bool.true_and, Bool.false_eq_true, if_false] at h
  exact find?_lowest (unreserved_rising _) h

/-- A `TIMED` team goes to the lowest reserved shelfmark whose cluster is empty. -/
theorem shelfFor_timed (ht : (s.descOf t.grid).timed = true) :
    i ∈ (s.part (s.teamPart t)).reserved ∧ s.emptyShelf (s.teamPart t) i = true ∧ s.fits (s.teamPart t) (s.descOf t.grid).crews i = true ∧
      ∀ j ∈ (s.part (s.teamPart t)).reserved, j < i →
        (s.emptyShelf (s.teamPart t) j && s.fits (s.teamPart t) (s.descOf t.grid).crews j) = false := by
  rw [State.shelfFor, ht] at h
  simp only [changing_none hnew, Bool.not_false, Bool.true_and, if_true] at h
  obtain ⟨hi, hq, hlow⟩ := find?_lowest (reserved_rising _) h
  obtain ⟨hempty, hfits⟩ := Bool.and_eq_true_iff.1 hq
  exact ⟨hi, hempty, hfits, hlow⟩

theorem shelfFor_fits : s.fits (s.teamPart t) (s.descOf t.grid).crews i = true := by
  cases ht : (s.descOf t.grid).timed with
  | false => exact (shelfFor_untimed hnew h ht).2.1
  | true => exact (shelfFor_timed hnew h ht).2.2.1
end

/-! ## Functions (R384) -/

theorem neediest_best (s : State) (fs : List Nat) :
    s.neediest fs = best (fun f g => Tab.get s.coreTime f 0 * s.weight g < Tab.get s.coreTime g 0 * s.weight f) fs :=
  congrArg (fun f => List.foldl f none fs) (funext fun r => funext fun _ => by cases r <;> rfl)

theorem greediest_best (s : State) (fs : List Nat) :
    s.greediest fs = best (fun f g => Tab.get s.coreTime g 0 * s.weight f < Tab.get s.coreTime f 0 * s.weight g) fs :=
  congrArg (fun f => List.foldl f none fs) (funext fun r => funext fun _ => by cases r <;> rfl)

/-- The function that has the least core-time over its weight. -/
theorem neediest_eq {s : State} {fs : List Nat} {f : Nat} (hf : f ∈ fs)
    (h : ∀ g ∈ fs, g ≠ f → Tab.get s.coreTime f 0 * s.weight g < Tab.get s.coreTime g 0 * s.weight f) : s.neediest fs = some f := by
  rw [neediest_best]
  refine best_eq hf h fun g hg => ?_
  by_cases hne : g = f
  · exact hne ▸ lt_irrefl _
  · exact lt_asymm (h g hg hne)

/-- The function that has the most. -/
theorem greediest_eq {s : State} {fs : List Nat} {g : Nat} (hg : g ∈ fs)
    (h : ∀ f ∈ fs, f ≠ g → Tab.get s.coreTime f 0 * s.weight g < Tab.get s.coreTime g 0 * s.weight f) : s.greediest fs = some g := by
  rw [greediest_best]
  refine best_eq hg h fun f hf => ?_
  by_cases hne : f = g
  · exact hne ▸ lt_irrefl _
  · exact lt_asymm (h f hf hne)

end Sys2Proof
end

section
/-! SUPPORT. Placements and evictions of teams (R217, R221, R307, R381, R383): the crews on their cores or saved, and the warps that become ready or leave. -/

namespace Sys2Proof

open Sys2Proof.Machine

/-! ## Warps that leave or become ready -/

/-- The warps with some numbers, and their shadows, as evicted or not. -/
def setEvicted (b : Bool) (s : State) (ids : List Nat) : State := ids.foldl (fun s i => s.modPair i fun w => { w with evicted := b }) s

theorem setEvicted_frame (b : Bool) (s : State) (ids : List Nat) :
    { setEvicted b s ids with warp := s.warp, others := s.others, shadows := s.shadows } = s :=
  List.foldlRecOn (motive := fun t : State => { t with warp := s.warp, others := s.others, shadows := s.shadows } = s) ids _ rfl fun t ht i _ =>
    (congrArg (fun z : State => { z with warp := s.warp, others := s.others, shadows := s.shadows })
      (modPair_frame t i fun w => { w with evicted := b }) :).trans ht

section
variable {s : State} (h : ownNumber s)
include h

/-- A live warp after a change of those with a number. -/
theorem modPair_warps (i : Nat) (b : Bool) {z : Warp} (hz : z ∈ (s.modPair i fun w => { w with evicted := b }).warps) :
    ∃ x ∈ s.warps, z = if x.id = i then { x with evicted := b } else x := by
  have hlive (x : Warp) : (if x.id = i then { x with evicted := b } else x).alive = x.alive := by split <;> rfl
  obtain ⟨hz, ha⟩ := mem_warps.1 hz
  unfold State.modPair State.modWarp at hz
  by_cases hi : s.warp.id = i
  · rw [if_pos hi] at hz
    rcases hz with rfl | hz
    · exact ⟨s.warp, mem_warps.2 ⟨.inl rfl, ha⟩, (if_pos hi).symm⟩
    · exact ⟨z, mem_warps.2 ⟨.inr hz, ha⟩, (if_neg (hi ▸ h z hz)).symm⟩
  · rw [if_neg hi] at hz
    rcases hz with rfl | hz
    · exact ⟨s.warp, mem_warps.2 ⟨.inl rfl, ha⟩, (if_neg hi).symm⟩
    · obtain ⟨x, hx, rfl⟩ := List.mem_map.1 hz
      exact ⟨x, mem_warps.2 ⟨.inr hx, (hlive x).symm.trans ha⟩, rfl⟩

theorem modPair_ownNumber (i : Nat) (b : Bool) : ownNumber (s.modPair i fun w => { w with evicted := b }) := by
  have hid (x : Warp) : (if x.id = i then { x with evicted := b } else x).id = x.id := by split <;> rfl
  unfold State.modPair State.modWarp
  by_cases hi : s.warp.id = i
  · rw [if_pos hi]
    exact h
  · rw [if_neg hi]
    intro z hz
    obtain ⟨x, hx, rfl⟩ := List.mem_map.1 hz
    rw [hid]
    exact h x hx
end

/-- Each live warp was one before; it is evicted, or not, where its number is among those. -/
theorem setEvicted_warps (b : Bool) (ids : List Nat) : ∀ {s : State}, ownNumber s → ∀ z ∈ (setEvicted b s ids).warps,
    ∃ x ∈ s.warps, x.id = z.id ∧ x.ident = z.ident ∧ (z.id ∈ ids ∨ x.evicted = b → z.evicted = b) := by
  induction ids with
  | nil => exact fun _ z hz => ⟨z, hz, rfl, rfl, fun h => h.resolve_left List.not_mem_nil⟩
  | cons i ids ih =>
    intro s h z hz
    obtain ⟨y, hy, hid, hident, hev⟩ := ih (modPair_ownNumber h i b) z hz
    obtain ⟨x, hx, rfl⟩ := modPair_warps h i b hy
    by_cases hi : x.id = i
    · rw [if_pos hi] at hid hident hev
      exact ⟨x, hx, hid, hident, fun _ => hev (.inr rfl)⟩
    · rw [if_neg hi] at hid hident hev
      refine ⟨x, hx, hid, hident, fun hz => hev (hz.imp_left fun hz => (List.mem_cons.1 hz).resolve_left ?_)⟩
      exact fun e => hi (hid.trans e)

theorem mem_teamWarps {s : State} {t : Team} {w : Warp} : w ∈ s.teamWarps t ↔ w ∈ s.warps ∧ w.ident.grid = t.grid ∧ w.ident.team = t.num := by
  simp [State.teamWarps]

/-! ## Evictions (R221) -/

theorem evictTeam_eq (s : State) (t : Team) : s.evictTeam t = setEvicted true
    ({ s with crews := s.crews.map fun (c : Crew) => if c.grid = t.grid ∧ c.team = t.num then c.leave (s.descOf t.grid) else c }.modTeam t.grid t.num
      fun x => { x with shelf := none, cluster := none }) ((s.teamWarps t).map (·.id)) := rfl

theorem leave_marked {x : Crew} (h : x.state = .marked) (d : Desc) : x.leave d = { x.trim d with state := .saved, core := none } := by
  rw [Crew.leave, h]

theorem leave_held {x : Crew} (h : x.state = .held) (d : Desc) : x.leave d = { x.trim d with core := none } := by
  rw [Crew.leave, h]

section
variable (s : State) (t : Team)

theorem evictTeam_frame :
    { s.evictTeam t with warp := s.warp, others := s.others, shadows := s.shadows, crews := s.crews, teams := s.teams } = s := by
  rw [evictTeam_eq]
  exact (congrArg (fun z : State => { z with crews := s.crews, teams := s.teams }) (setEvicted_frame true
    ({ s with crews := s.crews.map fun (c : Crew) => if c.grid = t.grid ∧ c.team = t.num then c.leave (s.descOf t.grid) else c }.modTeam t.grid t.num
      fun x => { x with shelf := none, cluster := none }) _) :)

theorem evictTeam_crews : (s.evictTeam t).crews =
    s.crews.map fun (c : Crew) => if c.grid = t.grid ∧ c.team = t.num then c.leave (s.descOf t.grid) else c := by
  rw [evictTeam_eq]
  exact (congrArg State.crews (setEvicted_frame true _ _) :)

theorem evictTeam_teams : (s.evictTeam t).teams =
    s.teams.map fun (x : Team) => if x.grid = t.grid ∧ x.num = t.num then { x with shelf := none, cluster := none } else x := by
  rw [evictTeam_eq]
  exact (congrArg State.teams (setEvicted_frame true _ _) :)

/-- Every crew of the team has left, and every other crew is as it was. -/
theorem evictTeam_crew {y : Crew} (hy : y ∈ s.crews) :
    (if y.grid = t.grid ∧ y.team = t.num then y.leave (s.descOf t.grid) else y) ∈ (s.evictTeam t).crews := by
  rw [evictTeam_crews]
  exact List.mem_map_of_mem hy

theorem evictTeam_other {y : Crew} (hy : y ∈ s.crews) (h : ¬(y.grid = t.grid ∧ y.team = t.num)) : y ∈ (s.evictTeam t).crews := by
  have hkept := evictTeam_crew s t hy
  rwa [if_neg h] at hkept

theorem evictTeam_marked {y : Crew} (hy : y ∈ s.teamCrews t) (h : y.state = .marked) :
    { y.trim (s.descOf t.grid) with state := .saved, core := none } ∈ (s.evictTeam t).crews := by
  obtain ⟨hy, ht⟩ := mem_teamCrews.1 hy
  have hleft := evictTeam_crew s t hy
  rwa [if_pos ht, leave_marked h] at hleft

theorem evictTeam_held {y : Crew} (hy : y ∈ s.teamCrews t) (h : y.state = .held) :
    { y.trim (s.descOf t.grid) with core := none } ∈ (s.evictTeam t).crews := by
  obtain ⟨hy, ht⟩ := mem_teamCrews.1 hy
  have hleft := evictTeam_crew s t hy
  rwa [if_pos ht, leave_held h] at hleft

theorem evictTeam_unshelved {y : Team} (hy : y ∈ (s.evictTeam t).teams) (hg : y.grid = t.grid) (hn : y.num = t.num) :
    y.shelf = none ∧ y.cluster = none := by
  rw [evictTeam_teams] at hy
  obtain ⟨x, -, rfl⟩ := List.mem_map.1 hy
  by_cases h : x.grid = t.grid ∧ x.num = t.num
  · rw [if_pos h]
    exact ⟨rfl, rfl⟩
  · rw [if_neg h] at hg hn
    exact absurd ⟨hg, hn⟩ h

theorem evictTeam_evicted (h : ownNumber s) {w : Warp} (hw : w ∈ (s.evictTeam t).warps) (hg : w.ident.grid = t.grid) (hn : w.ident.team = t.num) :
    w.evicted = true := by
  rw [evictTeam_eq] at hw
  obtain ⟨x, hx, hid, hident, hev⟩ := setEvicted_warps true _ (by exact h) w hw
  exact hev (.inl (List.mem_map.2 ⟨x, mem_teamWarps.2 ⟨hx, by rw [hident]; exact hg, by rw [hident]; exact hn⟩, hid⟩))
end

/-! ## Partitions that await no crew (R370, R385) -/

theorem settle_id {s : State} {p : Nat} (hs : (s.part p).suspending = false) (hn : (s.part p).newCluster = none) : s.settle p = s := by
  simp only [State.settle, hs, hn, Option.isSome_none, Bool.or_self, Bool.false_eq_true, if_false, Bool.false_and]

/-- Crews that recede leave a partition awaiting none. -/
theorem Recedes.settle {t s : State} (h : Recedes t s) {p : Nat} (hs : settled s p) : t.settle p = t :=
  settle_id ((congrArg Part.suspending (h.part p) :).trans hs.1) ((congrArg Part.newCluster (h.part p) :).trans hs.2.1)

/-! ## Placements (R381) -/

theorem bypassAll_none {s : State} (h : ∀ d, (s.die d).lanes = []) : s.bypassAll = s := by
  refine List.foldlRecOn (motive := fun t : State => t = s) _ _ rfl fun t ht d _ => ?_
  subst ht
  rw [h d]
  rfl

theorem withdraw_none {s : State} (h : ∀ y ∈ s.crews, y.state ≠ .marked) (p : Nat) : s.withdraw p = s := by
  have hteams : (s.placedTeams p).filter (fun t => (s.teamCrews t).any (·.state == .marked) && !s.drainNeeded p t) = [] := by
    refine List.filter_eq_nil_iff.2 fun t _ => ?_
    have hnone : (s.teamCrews t).any (·.state == .marked) = false :=
      List.any_eq_false.2 fun y hy => by simpa using h y (mem_teamCrews.1 hy).1
    simp [hnone]
  rw [State.withdraw, hteams]
  rfl

/-- A crew of a team takes its core, with its number within the team. -/
def seatCrew (t : Team) (n : Nat) (s : State) (k : CoreId × Nat) : State :=
  (s.modCrew t.grid (n * t.num + k.2) (·.seat k.1)).crewAfter t.grid (n * t.num + k.2)

theorem seat_unmarked {x : Crew} (h : x.state ≠ .marked) (k : CoreId) : (x.seat k).state ≠ .marked := by
  unfold Crew.seat
  split
  · exact nofun
  · exact nofun
  · exact h
  · exact h

theorem emptied_unmarked {x : Crew} (h : x.state ≠ .marked) (busy : Bool) : (x.emptied busy).state ≠ .marked := by
  rw [emptied_eq]
  split
  · split
    · exact nofun
    · exact h
  · split
    · exact nofun
    · exact h

section
variable {s : State} {t : Team} {n : Nat}

theorem seatCrew_frame (s : State) (k : CoreId × Nat) : { seatCrew t n s k with crews := s.crews } = s := by
  obtain ⟨cs, h⟩ := (s.modCrew t.grid (n * t.num + k.2) (·.seat k.1)).crewAfter_frame t.grid (n * t.num + k.2)
  rw [seatCrew, h]
  rfl

theorem seatCrews_frame (l : List (CoreId × Nat)) (s : State) : { l.foldl (seatCrew t n) s with crews := s.crews } = s :=
  List.foldlRecOn (motive := fun u : State => { u with crews := s.crews } = s) l _ rfl fun u hu k _ =>
    (congrArg (fun z : State => { z with crews := s.crews }) (seatCrew_frame u k) :).trans hu

/-- A crew of another grid or number is as it was. -/
theorem seatCrew_other {k : CoreId × Nat} {y : Crew} (hy : y ∈ s.crews) (h : ¬(y.grid = t.grid ∧ y.num = n * t.num + k.2)) :
    y ∈ (seatCrew t n s k).crews := by
  have hmod : y ∈ (s.modCrew t.grid (n * t.num + k.2) (·.seat k.1)).crews := List.mem_map.2 ⟨y, hy, if_neg h⟩
  unfold seatCrew State.crewAfter
  split
  · exact List.mem_map.2 ⟨y, hmod, if_neg h⟩
  · exact hmod

theorem seatCrews_other {l : List (CoreId × Nat)} {y : Crew} (hy : y ∈ s.crews) (h : ∀ k ∈ l, ¬(y.grid = t.grid ∧ y.num = n * t.num + k.2)) :
    y ∈ (l.foldl (seatCrew t n) s).crews :=
  List.foldlRecOn (motive := fun u : State => y ∈ u.crews) l _ hy fun _ hu k hk => seatCrew_other hu (h k hk)

/-- A waiting crew that has warps is placed on its core. -/
theorem seatCrew_placed {k : CoreId × Nat} {y : Crew} (hy : y ∈ s.crews) (hg : y.grid = t.grid) (hn : y.num = n * t.num + k.2)
    (hs : y.state = .waiting) (hw : s.crewWarps y.grid y.num ≠ []) : { y with state := .placed, core := some k.1 } ∈ (seatCrew t n s k).crews := by
  have hseat : y.seat k.1 = { y with state := .placed, core := some k.1 } := by rw [Crew.seat, hs]
  rw [hg, hn] at hw
  have hkept : seatCrew t n s k = s.modCrew t.grid (n * t.num + k.2) (·.seat k.1) := if_neg (mt List.isEmpty_iff.1 hw)
  rw [hkept, ← hseat]
  exact List.mem_map.2 ⟨y, hy, if_pos ⟨hg, hn⟩⟩

/-- Of the crews of a team, each goes to the core at its place in the list. -/
theorem seatCrews_placed {cores : List CoreId} (hcores : cores.length = n) {j : Nat} {y : Crew} (hj : j < n) (hy : y ∈ s.crews)
    (hg : y.grid = t.grid) (hn : y.num = n * t.num + j) (hs : y.state = .waiting) (hw : s.crewWarps y.grid y.num ≠ []) :
    ∃ core, cores[j]? = some core ∧
      { y with state := .placed, core := some core } ∈ ((cores.zip (List.range n)).foldl (seatCrew t n) s).crews := by
  have hlen : j < cores.length := hcores.symm ▸ hj
  refine ⟨cores[j], List.getElem?_eq_getElem hlen, ?_⟩
  have hmem : (cores[j], j) ∈ cores.zip (List.range n) :=
    List.mem_iff_getElem.2 ⟨j, by simp [hcores, hj], by simp⟩
  have hnodup : ((cores.zip (List.range n)).map Prod.snd).Nodup := by
    rw [List.map_snd_zip (by simp [hcores])]
    exact List.nodup_range
  obtain ⟨l, l', hl⟩ := List.append_of_mem hmem
  rw [hl, List.map_append, List.map_cons, List.nodup_append] at hnodup
  obtain ⟨-, htail, hdis⟩ := hnodup
  have hbefore : ∀ k ∈ l, ¬(y.grid = t.grid ∧ y.num = n * t.num + k.2) := fun k hk ⟨_, e⟩ =>
    hdis k.2 (List.mem_map_of_mem hk) j (List.mem_cons_self ..) (by omega)
  have hafter : ∀ k ∈ l', ¬(y.grid = t.grid ∧ y.num = n * t.num + k.2) := fun k hk ⟨_, e⟩ =>
    (List.nodup_cons.1 htail).1 (List.mem_map.2 ⟨k, hk, by omega⟩)
  have hwarps : (l.foldl (seatCrew t n) s).crewWarps y.grid y.num = s.crewWarps y.grid y.num :=
    (congrArg (fun z : State => z.crewWarps y.grid y.num) (seatCrews_frame l s) :)
  rw [hl, List.foldl_append, List.foldl_cons]
  exact seatCrews_other (seatCrew_placed (seatCrews_other hy hbefore) hg hn hs (hwarps.symm ▸ hw)) hafter

theorem seatCrews_unmarked (l : List (CoreId × Nat)) (h : ∀ y ∈ s.crews, y.state ≠ .marked) :
    ∀ y ∈ (l.foldl (seatCrew t n) s).crews, y.state ≠ .marked := by
  refine List.foldlRecOn (motive := fun u : State => ∀ y ∈ u.crews, y.state ≠ .marked) l _ h fun u hu k _ => ?_
  have hmod : ∀ y ∈ (u.modCrew t.grid (n * t.num + k.2) (·.seat k.1)).crews, y.state ≠ .marked := by
    intro y hy
    obtain ⟨x, hx, rfl⟩ := List.mem_map.1 hy
    dsimp only
    split
    · exact seat_unmarked (hu x hx) k.1
    · exact hu x hx
  unfold seatCrew State.crewAfter
  split
  · intro y hy
    obtain ⟨x, hx, rfl⟩ := List.mem_map.1 hy
    dsimp only
    split
    · exact emptied_unmarked (hmod x hx) _
    · exact hmod x hx
  · exact hmod
end

theorem mem_acquireCluster {s : State} {c : Nat} {x : CdcLine} (h : x ∈ (s.acquireCluster c).cdc) :
    x ∈ s.cdc ∧ (x.cluster = c → x.isSealed = true) := by
  obtain ⟨hx, hc⟩ := List.mem_filter.1 h
  exact ⟨hx, by simpa [imp_iff_not_or] using hc⟩

section
variable {s : State} {t : Team} {i : Nat}

/-- The crews of a team on the cores of a cluster. -/
def seated (s : State) (t : Team) (cl : Nat) : State :=
  (((s.freeCores cl).take (s.descOf t.grid).crews).zip (List.range (s.descOf t.grid).crews)).foldl (seatCrew t (s.descOf t.grid).crews)
    (s.acquireCluster cl)

/-- The team at its shelfmark, with its slips, before its warps become ready. -/
def shelved (s : State) (t : Team) (i cl : Nat) : State :=
  { (seated s t cl).modTeam t.grid t.num fun (x : Team) => { x with shelf := some i, cluster := some cl } with
    slips := (seated s t cl).slips.map fun (x : Slip) => if x.grid = t.grid ∧ x.team = t.num then { x with held := false, cluster := cl } else x }

theorem seated_frame (s : State) (t : Team) (cl : Nat) : { seated s t cl with crews := s.crews, cdc := s.cdc, fills := s.fills } = s :=
  (congrArg (fun z : State => { z with cdc := s.cdc, fills := s.fills })
    (seatCrews_frame (t := t) (n := (s.descOf t.grid).crews) _ (s.acquireCluster cl)) :)

theorem shelved_warps (s : State) (t : Team) (i cl : Nat) : (shelved s t i cl).warps = s.warps := (congrArg State.warps (seated_frame s t cl) :)

theorem shelved_ownNumber (i cl : Nat) (h : ownNumber s) : ownNumber (shelved s t i cl) := by
  have hown : ownNumber (shelved s t i cl) = ownNumber s := (congrArg ownNumber (seated_frame s t cl) :)
  rw [hown]
  exact h

section
variable (hfirst : (s.teamCrews t).any (·.state == .waiting) = true)
include hfirst

/-- A team that has never been placed: all of its warps become ready. -/
theorem placeTeam_eq : s.placeTeam t i =
    setEvicted false (shelved s t i (entryCluster (Tab.get (s.part (s.teamPart t)).clusters i 0))) ((s.teamWarps t).map (·.id)) := by
  have hready : (s.teamWarps t).filter (fun w => (s.teamCrews t).any (·.state == .waiting) || s.wakeMet w || w.parked) = s.teamWarps t :=
    List.filter_eq_self.2 fun w _ => by rw [hfirst, Bool.true_or, Bool.true_or]
  rw [setEvicted, List.foldl_map]
  exact congrArg (List.foldl _ _) hready

theorem placeTeam_frame : { s.placeTeam t i with
    warp := s.warp, others := s.others, shadows := s.shadows, crews := s.crews, teams := s.teams, slips := s.slips, cdc := s.cdc,
    fills := s.fills } = s := by
  rw [placeTeam_eq hfirst]
  generalize entryCluster _ = cl
  exact (congrArg (fun z : State => { z with
      warp := s.warp, others := s.others, shadows := s.shadows, crews := s.crews, teams := s.teams, slips := s.slips, cdc := s.cdc,
      fills := s.fills }) (setEvicted_frame false (shelved s t i cl) _) :).trans
    (congrArg (fun z : State => { z with warp := s.warp, others := s.others, shadows := s.shadows, teams := s.teams, slips := s.slips })
      (seated_frame s t cl) :)

theorem placeTeam_crews : (s.placeTeam t i).crews = (seated s t (entryCluster (Tab.get (s.part (s.teamPart t)).clusters i 0))).crews := by
  rw [placeTeam_eq hfirst]
  exact (congrArg State.crews (setEvicted_frame false _ _) :)

/-- A crew that waits goes to the free core of the cluster at its place within the team. -/
theorem placeTeam_placed (hfits : s.fits (s.teamPart t) (s.descOf t.grid).crews i = true) {j : Nat} {y : Crew} (hj : j < (s.descOf t.grid).crews)
    (hy : y ∈ s.crews) (hg : y.grid = t.grid) (hn : y.num = (s.descOf t.grid).crews * t.num + j) (hs : y.state = .waiting)
    (hw : s.crewWarps y.grid y.num ≠ []) : ∃ core, (s.freeCores (entryCluster (Tab.get (s.part (s.teamPart t)).clusters i 0)))[j]? = some core ∧
      { y with state := .placed, core := some core } ∈ (s.placeTeam t i).crews := by
  have hroom := of_decide_eq_true (Bool.and_eq_true_iff.1 hfits).2
  rw [placeTeam_crews hfirst]
  generalize entryCluster _ = cl at hroom ⊢
  obtain ⟨core, hcore, hmem⟩ := seatCrews_placed (s := s.acquireCluster cl) (t := t) (cores := (s.freeCores cl).take (s.descOf t.grid).crews)
    (List.length_take_of_le hroom) hj hy hg hn hs hw
  rw [List.getElem?_take_of_lt hj] at hcore
  exact ⟨core, hcore, hmem⟩

theorem placeTeam_otherGrid {y : Crew} (hy : y ∈ s.crews) (hg : y.grid ≠ t.grid) : y ∈ (s.placeTeam t i).crews := by
  rw [placeTeam_crews hfirst]
  exact seatCrews_other hy fun _ _ h => hg h.1

theorem placeTeam_shelved {y : Team} (hy : y ∈ (s.placeTeam t i).teams) (hg : y.grid = t.grid) (hn : y.num = t.num) :
    y.shelf = some i ∧ y.cluster = some (entryCluster (Tab.get (s.part (s.teamPart t)).clusters i 0)) := by
  rw [placeTeam_eq hfirst] at hy
  generalize entryCluster _ = cl at hy ⊢
  have hteams : (setEvicted false (shelved s t i cl) ((s.teamWarps t).map (·.id))).teams = (shelved s t i cl).teams :=
    (congrArg State.teams (setEvicted_frame false _ _) :)
  rw [hteams] at hy
  obtain ⟨x, -, rfl⟩ := List.mem_map.1 hy
  by_cases h : x.grid = t.grid ∧ x.num = t.num
  · rw [if_pos h]
    exact ⟨rfl, rfl⟩
  · rw [if_neg h] at hg hn
    exact absurd ⟨hg, hn⟩ h

theorem placeTeam_ready (h : ownNumber s) {w : Warp} (hw : w ∈ (s.placeTeam t i).warps) (hg : w.ident.grid = t.grid) (hn : w.ident.team = t.num) :
    w.evicted = false := by
  rw [placeTeam_eq hfirst] at hw
  obtain ⟨x, hx, hid, hident, hev⟩ := setEvicted_warps false _ (shelved_ownNumber _ _ h) w hw
  rw [shelved_warps] at hx
  exact hev (.inl (List.mem_map.2 ⟨x, mem_teamWarps.2 ⟨hx, by rw [hident]; exact hg, by rw [hident]; exact hn⟩, hid⟩))

/-- The cluster's cache has made the acquire of a launch's start (R307). -/
theorem placeTeam_cdc {y : CdcLine} (hy : y ∈ (s.placeTeam t i).cdc) :
    y ∈ s.cdc ∧ (y.cluster = entryCluster (Tab.get (s.part (s.teamPart t)).clusters i 0) → y.isSealed = true) := by
  rw [placeTeam_eq hfirst] at hy
  generalize entryCluster _ = cl at hy ⊢
  have hcdc : (setEvicted false (shelved s t i cl) ((s.teamWarps t).map (·.id))).cdc = (seated s t cl).cdc :=
    (congrArg State.cdc (setEvicted_frame false _ _) :)
  have hseated : (seated s t cl).cdc = (s.acquireCluster cl).cdc :=
    (congrArg State.cdc (seatCrews_frame (t := t) (n := (s.descOf t.grid).crews) _ (s.acquireCluster cl)) :)
  rw [hcdc, hseated] at hy
  exact mem_acquireCluster hy
end
end

/-- A partition that does not run, or has no waiting team, places none. -/
theorem teamPlacement_idle {s : State} {p : Nat} (hset : settled s p) (hl : ∀ d, (s.die d).lanes = []) (hm : ∀ y ∈ s.crews, y.state ≠ .marked)
    (h : s.runs p = false ∨ s.waitingTeams p = []) : exec (.teamPlacement p) s = .next s := by
  show execTeamPlacement p s = _
  simp only [execTeamPlacement, settle_id hset.1 hset.2.1, bypassAll_none hl]
  rcases h with h | h
  · rw [h, if_neg Bool.false_ne_true, withdraw_none hm]
  · rw [firstTeam_nil h, ite_self, withdraw_none hm]

theorem teamPlacement_places {s : State} {p i : Nat} {t : Team} (hset : settled s p) (hl : ∀ d, (s.die d).lanes = [])
    (hm : ∀ y ∈ s.crews, y.state ≠ .marked) (hr : s.runs p = true) (ht : s.firstTeam p = some t) (hi : s.shelfFor t = some i)
    (hfit : s.areasFit t = true) (hfirst : (s.teamCrews t).any (·.state == .waiting) = true) :
    exec (.teamPlacement p) s = .next (s.placeTeam t i) := by
  have hmarked : ∀ y ∈ (s.placeTeam t i).crews, y.state ≠ .marked := by
    rw [placeTeam_crews hfirst]
    exact seatCrews_unmarked _ hm
  show execTeamPlacement p s = _
  simp only [execTeamPlacement, settle_id hset.1 hset.2.1, bypassAll_none hl, hr, if_true, ht, State.tryPlace, hi, hfit, withdraw_none hmarked]

end Sys2Proof
end

section
/-! SUPPORT. Drains of blocked crews and at the end of a slice, and kills at the drain limit (R362, R382 to R384), and O53. -/

namespace Sys2Proof

open Sys2Proof.Machine

/-! ## Drains (R383) -/

/-- A drain of the partition kills at once (R362). -/
def killsAtOnce (s : State) (p : Nat) : Prop := (s.part p).cfg.drain = 0 ∧ (s.part p).cfg.flags = 1

theorem teamOfCrew_spec {s : State} {c : Crew} {t : Team} (h : s.teamOfCrew c = some t) : t.grid = c.grid ∧ t.num = c.team := by
  simpa using List.find?_some h

theorem mem_untimed {s : State} {p : Nat} {c : Crew} :
    c ∈ s.untimed p ↔ c ∈ s.crews ∧ ∃ g, s.grid? c.grid = some g ∧ g.part = p ∧ g.desc.timed = false := by
  simp [State.untimed, Option.any_eq_true]

theorem teamPart_untimed {s : State} {p : Nat} {c : Crew} {t : Team} (hc : c ∈ s.untimed p) (ht : s.teamOfCrew c = some t) : s.teamPart t = p := by
  obtain ⟨-, g, hg, hp, -⟩ := mem_untimed.1 hc
  rw [State.teamPart, (teamOfCrew_spec ht).1, hg]
  exact hp

theorem drainCrew_eq {s : State} {c : Crew} {t : Team} (ht : s.teamOfCrew c = some t) : s.drainCrew c = s.drainTeam t := by
  rw [State.drainCrew, ht]

section
variable {s : State} {t : Team} {c : Crew} (hc : c ∈ s.crews) (hs : c.state = .placed) (ht : s.teamOfCrew c = some t)
include hc hs ht

theorem teamCrews_placed : c ∈ (s.teamCrews t).filter fun c => c.state == .placed || c.state == .marked := by
  obtain ⟨hg, hn⟩ := teamOfCrew_spec ht
  exact List.mem_filter.2 ⟨mem_teamCrews.2 ⟨hc, hg.symm, hn.symm⟩, by simp [hs]⟩

theorem teamCrews_any_placed : ((s.teamCrews t).any fun c => c.state == .placed || c.state == .marked) = true := by
  obtain ⟨hmem, hp⟩ := List.mem_filter.1 (teamCrews_placed hc hs ht)
  exact List.any_eq_true.2 ⟨c, hmem, hp⟩

theorem drainTeam_marks (hk : ¬killsAtOnce s (s.teamPart t)) : s.drainTeam t = { s with crews := s.crews.map fun y : Crew =>
    if y.grid = c.grid ∧ y.team = c.team ∧ y.state = .placed then { y with state := .marked } else y } := by
  obtain ⟨hg, hn⟩ := teamOfCrew_spec ht
  rw [State.drainTeam]
  simp only [teamCrews_any_placed hc hs ht, if_true, if_neg (show ¬(_ ∧ _) from hk), hg, hn]

theorem drainTeam_kills (hk : killsAtOnce s (s.teamPart t)) {y : Crew} (hy : y ∈ (s.drainTeam t).crews) (hg : y.grid = c.grid) (hn : y.num = c.num) :
    y.state = .killed := by
  rw [State.drainTeam] at hy
  simp only [teamCrews_any_placed hc hs ht, if_true, if_pos (show _ ∧ _ from hk)] at hy
  exact killAll_killed _ s (teamCrews_placed hc hs ht) hy hg hn
end

/-! ## Blocked crews (R382) -/

section
variable {s : State} {p : Nat} {c : Crew}

theorem blockedDrain_idle (h : s.waitingTeams p = []) : exec (.blockedCrewDrain p) s = .next s := by
  show execBlockedCrewDrain p s = _
  rw [execBlockedCrewDrain, h]
  rfl

theorem blockedDrain_next (hw : s.waitingTeams p ≠ []) (hc : s.latest ((s.untimed p).filter s.crewBlocked) = some c) :
    exec (.blockedCrewDrain p) s = .next (s.drainCrew c) := by
  show execBlockedCrewDrain p s = _
  rw [execBlockedCrewDrain, if_neg (mt List.isEmpty_iff.1 hw)]
  simp only [hc]

theorem crewBlocked_placed (h : s.crewBlocked c = true) : c.state = .placed := by
  simp only [State.crewBlocked, Bool.and_eq_true, beq_iff_eq] at h
  exact h.1.1
end

/-! ## Drains of some teams -/

/-- A crew as the drains of some teams leave it, each given by its grid and number. -/
def drained (s : State) (ts : List (Nat × Nat)) (y : Crew) : Crew :=
  if (y.grid, y.team) ∈ ts ∧ y.state = .placed ∧ (s.teamOfCrew y).isSome then { y with state := .marked } else y

/-- The state that those drains leave. -/
def drains (s : State) (ts : List (Nat × Nat)) : State := { s with crews := s.crews.map (drained s ts) }

theorem drains_nil (s : State) : drains s [] = s := by
  have hsame : s.crews.map (drained s []) = s.crews := (List.map_congr_left fun y _ => if_neg fun h => List.not_mem_nil h.1).trans (List.map_id' _)
  rw [drains, hsame]

/-- A further drain, of the team of a crew that is still placed. -/
theorem drains_drainCrew {s : State} {p : Nat} (hk : ¬killsAtOnce s p) {ts : List (Nat × Nat)} {c : Crew} (hc : c ∈ s.untimed p)
    (hs : c.state = .placed) (hts : (c.grid, c.team) ∉ ts) : (drains s ts).drainCrew c = drains s (ts ++ [(c.grid, c.team)]) := by
  have hmem : c ∈ (drains s ts).crews := List.mem_map.2 ⟨c, (mem_untimed.1 hc).1, if_neg fun h => hts h.1⟩
  have happend (y : Crew) (h : (y.grid, y.team) ≠ (c.grid, c.team)) : drained s (ts ++ [(c.grid, c.team)]) y = drained s ts y := by
    simp only [drained, List.mem_append, List.mem_singleton, h, or_false]
  cases ht : s.teamOfCrew c with
  | none =>
    have hkept : (drains s ts).drainCrew c = drains s ts := by
      rw [State.drainCrew, show (drains s ts).teamOfCrew c = none from ht]
    have hsame : s.crews.map (drained s (ts ++ [(c.grid, c.team)])) = s.crews.map (drained s ts) := by
      refine List.map_congr_left fun y _ => ?_
      by_cases hy : (y.grid, y.team) = (c.grid, c.team)
      · obtain ⟨hg, hn⟩ := Prod.mk.inj hy
        have hnone : s.teamOfCrew y = none := by rw [State.teamOfCrew, hg, hn]; exact ht
        simp [drained, hnone]
      · exact happend y hy
    rw [hkept, drains, drains, hsame]
  | some t =>
    have ht' : (drains s ts).teamOfCrew c = some t := ht
    have hpart : (drains s ts).teamPart t = p := (teamPart_untimed hc ht :)
    rw [drainCrew_eq ht', drainTeam_marks hmem hs ht' (hpart.symm ▸ hk)]
    unfold drains
    refine congrArg (fun cs : List Crew => { s with crews := cs }) ?_
    rw [List.map_map]
    refine List.map_congr_left fun y _ => ?_
    dsimp only [Function.comp]
    have hid : (drained s ts y).grid = y.grid ∧ (drained s ts y).team = y.team := by unfold drained; split <;> exact ⟨rfl, rfl⟩
    rw [hid.1, hid.2]
    by_cases hy : (y.grid, y.team) = (c.grid, c.team)
    · obtain ⟨hg, hn⟩ := Prod.mk.inj hy
      have hsome : (s.teamOfCrew y).isSome = true := by rw [State.teamOfCrew, hg, hn]; exact Option.isSome_iff_exists.2 ⟨t, ht⟩
      have hold : drained s ts y = y := if_neg fun h => hts (hy ▸ h.1)
      rw [hold]
      simp only [drained, hg, hn, List.mem_append, List.mem_singleton, or_true, true_and, hsome, and_true]
    · rw [happend y hy, if_neg fun h => hy (Prod.ext h.1 h.2.1)]

/-- Where every crew has its team, each placed crew of those teams is marked. -/
theorem drains_crews {s : State} (hteams : ∀ y ∈ s.crews, (s.teamOfCrew y).isSome = true) (ts : List (Nat × Nat)) : (drains s ts).crews =
    s.crews.map fun y : Crew => if (y.grid, y.team) ∈ ts ∧ y.state = .placed then { y with state := .marked } else y := by
  refine List.map_congr_left fun y hy => ?_
  rw [drained, hteams y hy]
  simp only [and_true]

/-- The crews of some teams. -/
def freedCrews (s : State) (l : List (Nat × Nat)) : Nat := (l.map fun x => (s.descOf x.1).crews).sum

/-- The drains of `drainSome`: the team of the latest crew that is left, one after another, until enough crews are freed or none is left. -/
theorem drainSome_spec {s : State} {p : Nat} (hk : ¬killsAtOnce s p) {mine : List Crew} (hmine : ∀ y ∈ mine, y ∈ s.untimed p ∧ y.state = .placed) :
    ∀ (k : Nat) (ts : List (Nat × Nat)) (n : Nat), ts.Nodup → (mine.filter fun y => decide ((y.grid, y.team) ∉ ts)).length ≤ k →
    ∃ r, (ts ++ r).Nodup ∧ (drains s ts).drainSome k (mine.filter fun y => decide ((y.grid, y.team) ∉ ts)) n = drains s (ts ++ r) ∧
      (∀ i x, r[i]? = some x → (∃ y ∈ mine, (y.grid, y.team) = x ∧ ∀ z ∈ mine, (z.grid, z.team) ∉ ts ++ r.take i → s.later z y = false) ∧
        freedCrews s (r.take i) < n) ∧
      (n ≤ freedCrews s r ∨ ∀ y ∈ mine, (y.grid, y.team) ∈ ts ++ r) := by
  intro k
  induction k with
  | zero =>
    intro ts n hnodup hlen
    have hempty := List.filter_eq_nil_iff.1 (List.length_eq_zero_iff.1 (Nat.le_zero.1 hlen))
    refine ⟨[], by rwa [List.append_nil], by rw [List.append_nil]; rfl, nofun, .inr fun y hy => ?_⟩
    rw [List.append_nil]
    simpa using hempty y hy
  | succ k ih =>
    intro ts n hnodup hlen
    generalize hcs : (mine.filter fun y => decide ((y.grid, y.team) ∉ ts)) = cs at hlen ⊢
    have hmem {y : Crew} : y ∈ cs ↔ y ∈ mine ∧ (y.grid, y.team) ∉ ts := by rw [← hcs, List.mem_filter, decide_eq_true_eq]
    by_cases hn : n = 0
    · subst hn
      refine ⟨[], by rwa [List.append_nil], ?_, nofun, .inl (Nat.zero_le _)⟩
      rw [State.drainSome, if_pos rfl, List.append_nil]
    · rw [State.drainSome, if_neg hn]
      cases hl : (drains s ts).latest cs with
      | none =>
        refine ⟨[], by rwa [List.append_nil], by rw [List.append_nil], nofun, .inr fun y hy => ?_⟩
        rw [List.append_nil]
        by_contra hy'
        have hin := hmem.2 ⟨hy, hy'⟩
        rw [latest_none hl] at hin
        exact List.not_mem_nil hin
      | some c =>
        obtain ⟨hc, hlatest⟩ := latest_spec hl
        obtain ⟨hcm, hct⟩ := hmem.1 hc
        obtain ⟨hcu, hcp⟩ := hmine c hcm
        have hrest : (cs.filter fun x => !(x.grid == c.grid && x.team == c.team)) =
            mine.filter fun y => decide ((y.grid, y.team) ∉ ts ++ [(c.grid, c.team)]) := by
          rw [← hcs, List.filter_filter]
          refine List.filter_congr fun y _ => ?_
          rw [Bool.eq_iff_iff]
          simp [not_or, and_comm]
        have hshorter : (mine.filter fun y => decide ((y.grid, y.team) ∉ ts ++ [(c.grid, c.team)])).length ≤ k := by
          rw [← hrest]
          have hlt : (cs.filter fun x => !(x.grid == c.grid && x.team == c.team)).length < cs.length :=
            List.length_filter_lt_length_iff_exists.2 ⟨c, hc, by simp⟩
          omega
        have hnodup' : (ts ++ [(c.grid, c.team)]).Nodup := by
          rw [List.nodup_append]
          exact ⟨hnodup, List.nodup_singleton _, fun a ha b hb e => hct (by rw [← List.mem_singleton.1 hb, ← e]; exact ha)⟩
        obtain ⟨r, hr, hdrain, hchoice, hend⟩ := ih (ts ++ [(c.grid, c.team)]) (n - (s.descOf c.grid).crews) hnodup' hshorter
        rw [List.append_assoc, List.singleton_append] at hr hdrain hend
        refine ⟨(c.grid, c.team) :: r, hr, ?_, fun i x hi => ?_, hend.imp_left fun h => ?_⟩
        · dsimp only
          rw [drains_drainCrew hk hcu hcp hct, hrest]
          exact hdrain
        · cases i with
          | zero =>
            obtain rfl := Option.some.inj hi
            refine ⟨⟨c, hcm, rfl, fun z hz hzt => hlatest z (hmem.2 ⟨hz, ?_⟩)⟩, Nat.pos_of_ne_zero hn⟩
            simpa using hzt
          | succ i =>
            obtain ⟨⟨y, hy, hx, hlater⟩, hfreed⟩ := hchoice i x hi
            refine ⟨⟨y, hy, hx, fun z hz hzt => hlater z hz ?_⟩, ?_⟩
            · rw [List.append_assoc, List.singleton_append]
              exact hzt
            · simp only [freedCrews, List.take_succ_cons, List.map_cons, List.sum_cons] at hfreed ⊢
              omega
        · simp only [freedCrews, List.map_cons, List.sum_cons] at h ⊢
          omega

/-! ## The end of a slice (R384) -/

/-- The function of a grid, by the grid's number. -/
def sliceFn (s : State) (g : Nat) : Nat := ((s.grid? g).map s.funcOf).getD 0

/-- The state with the core-times of a slice, which are free values (log 62). -/
def sliced (s : State) (p : Nat) : State :=
  { s with
    fresh := s.fresh + (s.funcs p).length
    coreTime := ((s.funcs p).zip (List.range (s.funcs p).length)).foldl
      (fun (c : Tab Nat) (f : Nat × Nat) => Tab.set c f.1 (Config.coreTimeOf (s.fresh + f.2))) s.coreTime }

/-- The waiting teams of virtual functions, and the placed crews that may be drained. -/
def sliceWaits (s : State) (p : Nat) : List Team := (s.waitingTeams p).filter fun x => decide (sliceFn s x.grid < 1024)
def slicePlaced (s : State) (p : Nat) : List Crew := (s.untimed p).filter fun y => y.state == .placed

/-- The crews that the teams of a function wait for, and the placed crews of a function. -/
def sliceNeed (s : State) (p f : Nat) : Nat :=
  (((sliceWaits s p).filter fun x => sliceFn s x.grid == f).map fun x => (s.descOf x.grid).crews).sum
def sliceMine (s : State) (p g : Nat) : List Crew := (slicePlaced s p).filter fun y => sliceFn s y.grid == g

theorem sliceEnd_none {s : State} {p : Nat} (h : (s.part p).cfg.slice = 0) : exec (.sliceEnd p) s = .next s := if_pos h

theorem sliceEnd_match {s : State} {p : Nat} (h : (s.part p).cfg.slice ≠ 0) : exec (.sliceEnd p) s =
    match (sliced s p).neediest ((sliceWaits s p).map fun x => sliceFn s x.grid),
      (sliced s p).greediest ((slicePlaced s p).map fun c => sliceFn s c.grid) with
    | some f, some g => if f = g then .next (sliced s p) else .next ((sliced s p).drainSome (sliceMine s p g).length (sliceMine s p g)
        (((sliceWaits s p).filter fun x => sliceFn s x.grid == f).foldl (fun n x => n + (s.descOf x.grid).crews) 0))
    | _, _ => .next (sliced s p) := if_neg h

theorem sliceNeed_eq (s : State) (p f : Nat) :
    ((sliceWaits s p).filter fun x => sliceFn s x.grid == f).foldl (fun n x => n + (s.descOf x.grid).crews) 0 = sliceNeed s p f := by
  rw [sliceNeed, List.sum_eq_foldl, List.foldl_map]

/-- Without a waiting team of a virtual function, or a placed crew, nothing is drained. -/
theorem sliceEnd_idle {s : State} {p : Nat} (h : (s.part p).cfg.slice ≠ 0) (hnone : sliceWaits s p = [] ∨ slicePlaced s p = []) :
    exec (.sliceEnd p) s = .next (sliced s p) := by
  rw [sliceEnd_match h]
  rcases hnone with hnone | hnone
  · rw [hnone]
    rfl
  · rw [hnone]
    cases (sliced s p).neediest ((sliceWaits s p).map fun x => sliceFn s x.grid) <;> rfl

theorem sliceEnd_next {s : State} {p : Nat} (h : (s.part p).cfg.slice ≠ 0) {f g : Nat}
    (hf : (sliced s p).neediest ((sliceWaits s p).map fun x => sliceFn s x.grid) = some f)
    (hg : (sliced s p).greediest ((slicePlaced s p).map fun c => sliceFn s c.grid) = some g) :
    exec (.sliceEnd p) s = .next (if f = g then sliced s p else
      (sliced s p).drainSome (sliceMine s p g).length (sliceMine s p g) (sliceNeed s p f)) := by
  rw [sliceEnd_match h, hf, hg]
  dsimp only
  rw [sliceNeed_eq, apply_ite Host.Outcome.next]

theorem drainSome_all {s : State} {p : Nat} (hk : ¬killsAtOnce s p) {mine : List Crew} (hmine : ∀ y ∈ mine, y ∈ s.untimed p ∧ y.state = .placed)
    (n : Nat) : ∃ r, r.Nodup ∧ s.drainSome mine.length mine n = drains s r ∧
      (∀ i x, r[i]? = some x → (∃ y ∈ mine, (y.grid, y.team) = x ∧ ∀ z ∈ mine, (z.grid, z.team) ∉ r.take i → s.later z y = false) ∧
        freedCrews s (r.take i) < n) ∧
      (n ≤ freedCrews s r ∨ ∀ y ∈ mine, (y.grid, y.team) ∈ r) := by
  have hall : (mine.filter fun y => decide ((y.grid, y.team) ∉ ([] : List (Nat × Nat)))) = mine := by simp
  have hspec := drainSome_spec hk hmine mine.length [] n List.nodup_nil (by rw [hall])
  rw [hall, drains_nil] at hspec
  exact hspec

theorem mem_slicePlaced {s : State} {p : Nat} {y : Crew} : y ∈ slicePlaced s p ↔ y ∈ s.untimed p ∧ y.state = .placed := by
  simp [slicePlaced]

theorem mem_sliceMine {s : State} {p g : Nat} {y : Crew} : y ∈ sliceMine s p g ↔ y ∈ slicePlaced s p ∧ sliceFn s y.grid = g := by
  simp [sliceMine]

/-- The end of a slice drains teams of placed crews. -/
theorem sliceEnd_drains {s : State} {p : Nat} (h : (s.part p).cfg.slice ≠ 0) (hk : ¬killsAtOnce s p) :
    ∃ ts, exec (.sliceEnd p) s = .next (drains (sliced s p) ts) ∧ ∀ x ∈ ts, ∃ y ∈ slicePlaced s p, (y.grid, y.team) = x := by
  have hnone : exec (.sliceEnd p) s = .next (sliced s p) →
      ∃ ts, exec (.sliceEnd p) s = .next (drains (sliced s p) ts) ∧ ∀ x ∈ ts, ∃ y ∈ slicePlaced s p, (y.grid, y.team) = x :=
    fun hexec => ⟨[], by rw [drains_nil, hexec], nofun⟩
  cases hf : (sliced s p).neediest ((sliceWaits s p).map fun x => sliceFn s x.grid) with
  | none => exact hnone (by rw [sliceEnd_match h, hf])
  | some f =>
    cases hg : (sliced s p).greediest ((slicePlaced s p).map fun c => sliceFn s c.grid) with
    | none => exact hnone (by rw [sliceEnd_match h, hf, hg])
    | some g =>
      have hexec := sliceEnd_next h hf hg
      by_cases hfg : f = g
      · rw [if_pos hfg] at hexec
        exact hnone hexec
      · obtain ⟨r, -, hdrain, hchoice, -⟩ := drainSome_all (s := sliced s p) (p := p) hk (mine := sliceMine s p g)
          (fun y hy => mem_slicePlaced.1 (mem_sliceMine.1 hy).1) (sliceNeed s p f)
        rw [if_neg hfg, hdrain] at hexec
        refine ⟨r, hexec, fun x hx => ?_⟩
        obtain ⟨i, hi⟩ := List.mem_iff_getElem?.1 hx
        obtain ⟨⟨y, hy, hyx, -⟩, -⟩ := hchoice i x hi
        exact ⟨y, (mem_sliceMine.1 hy).1, hyx⟩

/-- A crew that the end of a slice marks was placed, and not `TIMED`. -/
theorem drains_marked {s : State} {p : Nat} {ts : List (Nat × Nat)} (hts : ∀ x ∈ ts, ∃ y ∈ slicePlaced s p, (y.grid, y.team) = x) {y : Crew}
    (hy : y ∈ (drains (sliced s p) ts).crews) : y ∈ s.crews ∨ ∃ z ∈ s.crews, z.state = .placed ∧ y = { z with state := .marked } ∧
      (s.grid? z.grid).any (fun g => g.part == p && !g.desc.timed) = true := by
  obtain ⟨z, hz, rfl⟩ := List.mem_map.1 hy
  by_cases hd : (z.grid, z.team) ∈ ts ∧ z.state = .placed ∧ (s.teamOfCrew z).isSome
  · obtain ⟨x, hx, hkey⟩ := hts _ hd.1
    obtain ⟨-, g, hg, hgp, hgt⟩ := mem_untimed.1 (mem_slicePlaced.1 hx).1
    refine .inr ⟨z, hz, hd.2.1, if_pos hd, ?_⟩
    rw [← (Prod.mk.inj hkey).1, hg]
    simp [hgp, hgt]
  · refine .inl ?_
    rwa [show drained (sliced s p) ts z = z from if_neg hd]

theorem sliced_neediest {s : State} {p f : Nat} (hf : ∃ x ∈ sliceWaits s p, sliceFn s x.grid = f)
    (h : ∀ x ∈ sliceWaits s p, sliceFn s x.grid ≠ f → Tab.get (sliced s p).coreTime f 0 * s.weight (sliceFn s x.grid) <
      Tab.get (sliced s p).coreTime (sliceFn s x.grid) 0 * s.weight f) :
    (sliced s p).neediest ((sliceWaits s p).map fun x => sliceFn s x.grid) = some f := by
  refine neediest_eq (List.mem_map.2 hf) fun g hg hne => ?_
  obtain ⟨x, hx, rfl⟩ := List.mem_map.1 hg
  exact h x hx hne

theorem sliced_greediest {s : State} {p g : Nat} (hg : ∃ y ∈ slicePlaced s p, sliceFn s y.grid = g)
    (h : ∀ y ∈ slicePlaced s p, sliceFn s y.grid ≠ g → Tab.get (sliced s p).coreTime (sliceFn s y.grid) 0 * s.weight g <
      Tab.get (sliced s p).coreTime g 0 * s.weight (sliceFn s y.grid)) :
    (sliced s p).greediest ((slicePlaced s p).map fun c => sliceFn s c.grid) = some g := by
  refine greediest_eq (List.mem_map.2 hg) fun f hf hne => ?_
  obtain ⟨y, hy, rfl⟩ := List.mem_map.1 hf
  exact h y hy hne

/-- The core-time of a function without a grid of the partition stays. -/
theorem sliced_coreTime {s : State} {p f : Nat} (h : f ∉ s.funcs p) : Tab.get (sliced s p).coreTime f 0 = Tab.get s.coreTime f 0 := by
  refine List.foldlRecOn (motive := fun c : Tab Nat => Tab.get c f 0 = Tab.get s.coreTime f 0) _ _ rfl fun c hc k hk => ?_
  have hne : f ≠ k.1 := fun e => h (e ▸ (List.of_mem_zip hk).1)
  exact (Tab.get_set_other c _ 0 hne).trans hc

/-! ## Kills at the drain limit (R197, R383) -/

theorem retire_warps (s : State) (id : Nat) : (s.retire id).warps = s.warps.filter fun w => w.id != id := by
  rw [State.warps, s.retire_others, s.retire_warp, State.warps, List.filter_filter]
  by_cases h : s.warp.id = id
  · rw [if_pos h, List.filter_cons_of_neg (by simp), List.filter_cons_of_neg (by simp [h]), List.filter_filter]
    exact List.filter_congr fun w _ => Bool.and_comm ..
  · rw [if_neg h, List.filter_cons, List.filter_cons, List.filter_filter]
    simp [h, Bool.and_comm]

/-- A halt ends the warps with its number, and no other. -/
theorem haltAt_warps (s : State) (w : Warp) (code detail : Nat) (mask : Mask) (va : Nat) (t : Ticket) :
    (s.haltAt w code detail mask va t).warps = s.warps.filter (fun x => x.id != w.id) ∧
      (s.haltAt w code detail mask va t).others = s.others.filter fun x => x.id != w.id := by
  obtain ⟨x, f, hx, -⟩ := s.pushMsg_frame w.ident.part (ticketMsg 1 code t w.level.val detail mask va)
  rw [State.haltAt, hx]
  unfold State.exitWarp
  generalize hu : State.modGrid _ _ _ = u
  have hwarps : u.warps = s.warps := by rw [← hu]; rfl
  have hothers : u.others = s.others := by rw [← hu]; rfl
  obtain ⟨cs, hcs⟩ := (u.retire w.id).crewAfter_frame w.ident.grid w.ident.crew
  rw [hcs]
  exact ⟨(retire_warps u w.id).trans (by rw [hwarps]), (u.retire_others w.id).trans (by rw [hothers])⟩

theorem haltCrew_warps (s : State) (g c : Nat) (w : Warp) :
    (w ∈ (haltCrew s g c).warps ↔ w ∈ s.warps ∧ ∀ z ∈ s.crewWarps g c, z.id ≠ w.id) ∧
      (w ∈ (haltCrew s g c).others ↔ w ∈ s.others ∧ ∀ z ∈ s.crewWarps g c, z.id ≠ w.id) := by
  rw [haltCrew]
  generalize s.crewWarps g c = l
  induction l generalizing s with
  | nil => simp
  | cons z l ih =>
    obtain ⟨hwarps, hothers⟩ := haltAt_warps s z cDrain 0 0 0 z.ticket
    rw [List.foldl_cons, (ih _).1, (ih _).2, hwarps, hothers]
    simp only [List.mem_filter, bne_iff_ne, List.forall_mem_cons, and_assoc, ne_comm (a := w.id), and_self]

theorem killCrew_warps (s : State) (g c : Nat) (w : Warp) :
    (w ∈ (s.killCrew g c).warps ↔ w ∈ s.warps ∧ ∀ z ∈ s.crewWarps g c, z.id ≠ w.id) ∧
      (w ∈ (s.killCrew g c).others ↔ w ∈ s.others ∧ ∀ z ∈ s.crewWarps g c, z.id ≠ w.id) := by
  rw [killCrew_eq]
  exact haltCrew_warps s g c w

section
variable {s : State} {k : Nat} {c : Crew} {g : Grid} (hc : s.crewAt k = some c) (hg : s.grid? c.grid = some g)
include hc hg

theorem drainLimit_idle (h : (s.part g.part).cfg.flags ≠ 1 ∨ c.state ≠ .marked) : exec (.drainLimitExpiry k) s = .next s := by
  have hcond : ¬(c.state = .marked ∧ (s.part g.part).cfg.flags = 1) := fun ⟨hm, hf⟩ => h.elim (· hf) (· hm)
  show execDrainLimitExpiry k s = _
  simp only [execDrainLimitExpiry, hc, hg, Option.map_some, Option.getD_some, if_neg hcond]

theorem drainLimit_kills (hset : settled s g.part) (hf : (s.part g.part).cfg.flags = 1) (hm : c.state = .marked) :
    exec (.drainLimitExpiry k) s = .next (s.killCrew c.grid c.num) := by
  show execDrainLimitExpiry k s = _
  simp only [execDrainLimitExpiry, hc, hg, Option.map_some, Option.getD_some, hf, hm, and_self, if_true,
    (killCrew_recedes s c.grid c.num).settle hset]
end

/-! ## Crews that leave (R221, R383) -/

section
variable {s : State} {k : Nat} {c : Crew} {t : Team} (hc : s.crewAt k = some c) (ht : s.teamOfCrew c = some t) (hset : settled s (s.teamPart t))
include hc ht hset

theorem crewEviction_next (h : (c.state = .marked ∧ s.teamIdle t = true ∧ ∀ y ∈ s.teamCrews t, y.state ≠ .placed) ∨
    (c.state = .held ∧ s.teamLeft t = true ∧ s.waitingTeams (s.teamPart t) ≠ [])) : exec (.crewEviction k) s = .next (s.evictTeam t) := by
  have hcond : (c.state = .marked ∧ s.teamIdle t ∧ ¬((s.teamCrews t).any fun y => y.state == .placed)) ∨
      (c.state = .held ∧ s.teamLeft t ∧ s.drainNeeded (s.teamPart t) t) := by
    refine h.imp (fun ⟨hm, hi, hp⟩ => ⟨hm, hi, by simpa using hp⟩) fun ⟨hh, hl, hw⟩ => ⟨hh, hl, ?_⟩
    have hsome : (!(s.waitingTeams (s.teamPart t)).isEmpty) = true := by simpa using hw
    rw [State.drainNeeded, hsome]
    simp only [Bool.true_or]
  show execCrewEviction k s = _
  simp only [execCrewEviction, hc, ht, if_pos hcond, (evictTeam_recedes s t).settle hset]

end

/-- What a kill leaves of the crew: no token, and no core unless an operation writes a buffer of it (R347). -/
theorem killCrew_spec {s : State} {g c : Nat} {y : Crew} (hy : y ∈ (s.killCrew g c).crews) (hg : y.grid = g) (hc : y.num = c) :
    y.state = .killed ∧ y.deque = [] ∧ ((∀ o ∈ s.ops, o.holds g c = false) → y.core = none) := by
  obtain ⟨x, rfl⟩ := killCrew_crew hy hg hc
  refine ⟨rfl, rfl, fun hops => ?_⟩
  have hbusy : (s.ops.any fun o => o.holds g c) = false := List.any_eq_false.2 fun o ho => by simp [hops o ho]
  rw [hbusy]
  rfl

/-- Settles O53: each event by what it chooses and by the state that it answers. -/
theorem distribution : Obligations.Distribution := by
  unfold Obligations.Distribution
  intro s p k c t kills
  refine ⟨rfl, fun hset hl hm => ⟨teamPlacement_idle hset hl hm, fun i hr ht hi hfit hfirst => ?_⟩, fun hc ht hset hm hidle hp => ?_,
    fun hc ht hset hh hleft hw => ?_, fun hw hc ht => ⟨fun y hy hb => ?_, fun hk => ?_, fun hk => ?_⟩, blockedDrain_idle, sliceEnd_none,
    fun hk => ?_, fun hk h hteams => ?_, fun g hc hg hset => ⟨drainLimit_idle hc hg, fun hf hm => ?_⟩⟩
  · obtain ⟨hmem, hkey⟩ := firstTeam_spec ht
    obtain rfl := waitingTeams_part hmem
    refine ⟨hmem, hkey, shelfFor_untimed hset.2.1 hi, shelfFor_timed hset.2.1 hi, _,
      teamPlacement_places hset hl hm hr ht hi hfit hfirst, fun y => placeTeam_shelved hfirst,
      fun j hj y hy hg hn hs => placeTeam_placed hfirst (shelfFor_fits hset.2.1 hi) hj hy hg hn hs,
      fun y => placeTeam_otherGrid hfirst, fun w => placeTeam_ready hfirst hset.2.2, fun y => placeTeam_cdc hfirst, placeTeam_frame hfirst⟩
  · exact ⟨_, crewEviction_next hc ht hset (.inl ⟨hm, hidle, hp⟩), fun y => evictTeam_marked s t, fun y => evictTeam_other s t,
      fun y => evictTeam_unshelved s t, fun w => evictTeam_evicted s t hset.2.2, evictTeam_frame s t⟩
  · exact ⟨_, crewEviction_next hc ht hset (.inr ⟨hh, hleft, hw⟩), fun y => evictTeam_held s t, fun y => evictTeam_other s t,
      fun y => evictTeam_unshelved s t, evictTeam_frame s t⟩
  · exact (latest_spec hc).2 y (List.mem_filter.2 ⟨hy, hb⟩)
  · obtain ⟨hcu, hcb⟩ := List.mem_filter.1 (latest_spec hc).1
    have hpart := teamPart_untimed hcu ht
    rw [blockedDrain_next hw hc, drainCrew_eq ht,
      drainTeam_marks (mem_untimed.1 hcu).1 (crewBlocked_placed hcb) ht (hpart.symm ▸ hk)]
  · obtain ⟨hcu, hcb⟩ := List.mem_filter.1 (latest_spec hc).1
    have hpart := teamPart_untimed hcu ht
    refine ⟨_, blockedDrain_next hw hc, fun y hy hg hn => ?_⟩
    rw [drainCrew_eq ht] at hy
    exact drainTeam_kills (mem_untimed.1 hcu).1 (crewBlocked_placed hcb) ht (hpart.symm ▸ hk) hy hg hn
  · by_cases h : (s.part p).cfg.slice = 0
    · exact ⟨s, sliceEnd_none h, rfl, fun y hy => .inl hy⟩
    · obtain ⟨ts, hexec, hts⟩ := sliceEnd_drains h hk
      exact ⟨_, hexec, rfl, fun y => drains_marked hts⟩
  · obtain ⟨ts, hexec, -⟩ := sliceEnd_drains h hk
    have hresult {u : State} (hu : exec (.sliceEnd p) s = .next u) : drains (sliced s p) ts = u := Host.Outcome.next.inj (hexec.symm.trans hu)
    refine ⟨_, hexec, fun f hf => sliced_coreTime hf, fun hnone => ?_, fun f g hfw hfmin hgp hgmax => ?_⟩
    · rw [hresult (sliceEnd_idle h hnone)]
      rfl
    have hnext := sliceEnd_next h (sliced_neediest hfw hfmin) (sliced_greediest hgp hgmax)
    refine ⟨fun hfg => ?_, fun hfg => ?_⟩
    · rw [hresult (hnext.trans (by rw [if_pos hfg]))]
      rfl
    · obtain ⟨r, hr, hdrain, hchoice, hend⟩ := drainSome_all (s := sliced s p) (p := p) hk (mine := sliceMine s p g)
        (fun y hy => mem_slicePlaced.1 (mem_sliceMine.1 hy).1) (sliceNeed s p f)
      rw [hresult (hnext.trans (by rw [if_neg hfg, hdrain]))]
      exact ⟨r, hr, drains_crews (s := sliced s p) hteams r, hchoice, hend⟩
  · refine ⟨_, drainLimit_kills hc hg hset hf hm, fun y => killCrew_spec, fun w hw => ?_,
      fun w hw _ _ hne => (killCrew_warps s c.grid c.num w).2.2 ⟨hw, hne⟩⟩
    obtain ⟨hlive, hne⟩ := (killCrew_warps s c.grid c.num w).1.1 hw
    exact ⟨hlive, fun hcrew => hne w (List.mem_filter.2 ⟨hlive, by simpa using hcrew⟩) rfl⟩

end Sys2Proof
end
